-- ==== Sys2Proof/Word.lean ====
section
/-!
DEFINITION. Words, byte strings and sparse tables: the plain data every other file is written over.
-/

namespace Sys2Proof

abbrev Byte := BitVec 8
abbrev W16 := BitVec 16
abbrev W32 := BitVec 32
abbrev W64 := BitVec 64
abbrev Bytes := List Byte

/-- A sparse table: keys strictly rising, no entry equal to the table's default. Equal tables are equal lists. -/
abbrev Tab (α : Type) := List (Nat × α)

/-- The entry of key `i`, or the default `d`. -/
def Tab.get {α : Type} (d : α) : Tab α → Nat → α
  | [], _ => d
  | (k, v) :: r, i => if i = k then v else Tab.get d r i

/-- The table without key `i`. -/
def Tab.erase {α : Type} : Tab α → Nat → Tab α
  | [], _ => []
  | (k, v) :: r, i => if i = k then Tab.erase r i else (k, v) :: Tab.erase r i

/-- The table with an entry at the place of its key. -/
def Tab.insert {α : Type} : Tab α → Nat → α → Tab α
  | [], i, v => [(i, v)]
  | (k, w) :: r, i, v => if i < k then (i, v) :: (k, w) :: r else (k, w) :: Tab.insert r i v

/-- Write key `i`; writing the default removes the entry, so the canonical form is kept. -/
def Tab.put {α : Type} [DecidableEq α] (d : α) (t : Tab α) (i : Nat) (v : α) : Tab α :=
  if v = d then t.erase i else (t.erase i).insert i v

/-- Change the entry of key `i` by `f`. -/
def Tab.upd {α : Type} [DecidableEq α] (d : α) (t : Tab α) (i : Nat) (f : α → α) : Tab α :=
  Tab.put d t i (f (Tab.get d t i))

/-- Every key of the table is at least `n`, keys rise strictly, and no entry is the default. -/
def Tab.wfFrom {α : Type} [DecidableEq α] (d : α) : Nat → Tab α → Bool
  | _, [] => true
  | n, (k, v) :: r => decide (n ≤ k) && decide (v ≠ d) && Tab.wfFrom d (k + 1) r

/-- The canonical form. -/
abbrev Tab.wf {α : Type} [DecidableEq α] (d : α) (t : Tab α) : Bool := Tab.wfFrom d 0 t

/-- Bits `[hi:lo]` of a number. -/
def bits (w : Nat) (hi lo : Nat) : Nat := (w >>> lo) % 2 ^ (hi + 1 - lo)

/-- Bit `i` of a number. -/
def bitOf (w i : Nat) : Bool := (w >>> i) % 2 == 1

/-- A list of the numbers `0` to `n - 1`. -/
abbrev upTo (n : Nat) : List Nat := List.range n

/-- Little-endian bytes of a number. -/
def leBytes : Nat → Nat → Bytes
  | 0, _ => []
  | n + 1, w => BitVec.ofNat 8 w :: leBytes n (w / 256)

/-- The number that little-endian bytes hold. -/
def leNat : Bytes → Nat
  | [] => 0
  | b :: r => b.toNat + 256 * leNat r

/-- Big-endian bytes of a number. -/
def beBytes (n w : Nat) : Bytes := (leBytes n w).reverse

/-- The number that big-endian bytes hold. -/
def beNat (b : Bytes) : Nat := leNat b.reverse

/-- `n` bytes of `b` from `off`, padded with zero bytes beyond its end. -/
def slice (b : Bytes) (off n : Nat) : Bytes :=
  let r := (b.drop off).take n
  r ++ List.replicate (n - r.length) 0

/-- A little-endian field of a byte string. -/
def leAt (b : Bytes) (off n : Nat) : Nat := leNat (slice b off n)

/-- A big-endian field of a byte string. -/
def beAt (b : Bytes) (off n : Nat) : Nat := beNat (slice b off n)

/-- Every byte of the field is zero. -/
def zeroAt (b : Bytes) (off n : Nat) : Bool := (slice b off n).all (· == 0)

/-- Write the bytes `v` at `off` of `b`, the length of `b` unchanged. -/
def putAt (b : Bytes) (off : Nat) (v : Bytes) : Bytes :=
  ((b.take off) ++ v ++ b.drop (off + v.length)).take b.length

/-- ASCII text as bytes. -/
def ascii (s : String) : Bytes := s.toList.map (fun c => BitVec.ofNat 8 c.toNat)

/-- Saturating sum. -/
def satAdd (max a b : Nat) : Nat := min max (a + b)

/-- The integer square root, by one bit of the result at a time from bit `k - 1`. -/
def isqrtFrom : Nat → Nat → Nat → Nat
  | 0, r, _ => r
  | k + 1, r, n =>
    let c := r + 2 ^ k
    isqrtFrom k (if c * c ≤ n then c else r) n

/-- The integer square root. -/
def isqrt (n : Nat) : Nat := isqrtFrom (Nat.log2 n / 2 + 1) 0 n

/-- Ceiling of a quotient. -/
def cdiv (a b : Nat) : Nat := if b = 0 then 0 else (a + b - 1) / b

/-- Insert a number into a rising list of numbers without repeats. -/
def insertSet (n : Nat) : List Nat → List Nat
  | [] => [n]
  | k :: r => if n < k then n :: k :: r else if n = k then k :: r else k :: insertSet n r

/-- Remove a number from a list of numbers. -/
def eraseSet (n : Nat) (l : List Nat) : List Nat := l.filter (fun k => k != n)

/-- Fold over the numbers below `n`. -/
def foldUpTo {σ : Type} (n : Nat) (f : σ → Nat → σ) (s : σ) : σ := (List.range n).foldl f s

end Sys2Proof
end

