-- ==== Sys2Proof/Syntax.lean ====
section
/-!
DEFINITION. The commands of the block: one constructor of `Instr` for every row of opcode_table.json, and the records
their operands are made of. `t` names a tile by its index (R451), `g` a region, `e` a copy engine, `s` a stack.
-/

namespace Sys2Proof

/-- What the SECDED check of R157 finds at the `nth` row the command reads (from 0): a corrected or an uncorrectable
row, and the mask of its words in error (R161 word 1). Rows not listed read clean. -/
structure Ecc where
  nth : Nat
  uncorr : Bool
  mask : Nat
deriving DecidableEq, Repr

/-- A V-core operand of 2,048 bytes: a register, or four consecutive scratchpad rows (R111, R146). -/
inductive VLoc where
  | reg (v : Nat)
  | rows (r : Nat)
deriving DecidableEq, Repr

/-- One lane of a V-core register. -/
structure VLane where
  reg : Nat
  lane : Nat
deriving DecidableEq, Repr

/-- Where a V-core store goes: scratchpad rows, or the mesh by a data route register (R169). -/
inductive VDst where
  | rows (r : Nat)
  | mesh (rr : Nat)
deriving DecidableEq, Repr

/-- Elementwise operations (R113). `reserved` is a reserved operation (0x21). -/
inductive VOp where
  | add | sub | mul | fma | min | max | abs | neg | cmpLt | cmpLe | cmpEq | select | split | reserved
deriving DecidableEq, Repr

/-- Transcendental functions (R113, R114). -/
inductive TFn where
  | exp2 | log2 | recip | rsqrt | sqrt | sigmoid | silu | sincos | reserved
deriving DecidableEq, Repr

/-- Lane reductions (R115). -/
inductive RFn where
  | sum | max | argmax | reserved
deriving DecidableEq, Repr

/-- Destination format of a V-core conversion (R113): those of OFMT, or a microscaling format. -/
inductive VFmt where
  | plain (ofmt : Nat)
  | mxE4M3 | mxE5M2 | mxE3M2 | mxE2M3 | mxE2M1
deriving DecidableEq, Repr

/-- Rounding of a V-core conversion (R45): RS names a stream by its index in the stream table (R125). -/
inductive VRound where
  | rne | rz
  | rs (stream : Nat)
deriving DecidableEq, Repr

/-- The parts of a row reduction (R116, R117): a whole row, the partial results of one part, the combination of two
parts, or the outputs of a part from the combined results. -/
inductive Part where
  | whole | piece | combine | finish
deriving DecidableEq, Repr

/-- The parts of a normalisation (R117): as `Part`, with `spread` for the squared deviations of a part of a LayerNorm. -/
inductive NormPart where
  | whole | piece | spread | combine | finish
deriving DecidableEq, Repr

/-- The optimiser's update rule (R122). -/
inductive OptRule where
  | adamw | sgd
deriving DecidableEq, Repr

/-- The operand of LEAVE (R132, R134). -/
inductive LeaveArg where
  | planned (entry : Nat)
  | unplanned (amps us bound : Nat)
deriving DecidableEq, Repr

/-- A fault report as it reaches a region supervisor (R92, R130, R161, R191): the reporting tile, the code, and four
words in the layout of the rule that defines the code. -/
structure Report where
  tile : Nat
  code : Nat
  w0 : Nat
  w1 : Nat
  w2 : Nat
  w3 : Nat
deriving DecidableEq, Repr

/-- A request for the vertical port (R152). -/
inductive VpReq where
  /-- class 1: M-core ring fill from deep-store row `d` -/
  | ringFill (d : Nat)
  /-- class 1: deep-store row `d` to scratchpad row `r`: V-core and S-core transfers, staging into a stationary block -/
  | load (d r : Nat)
  /-- class 1: scratchpad row `r` to deep-store row `d` -/
  | save (r d : Nat)
  /-- class 2: a row arriving over the mesh for deep-store row `d`, its digest checked, of endpoint descriptor `ep` -/
  | relayWrite (d : Nat) (row : Bytes) (ep : Nat)
  /-- class 2: a row of a relay command, to be injected under data route register `rr`; `tag` and `engine` of R200 -/
  | relayRead (d rr tag engine : Nat)
  /-- class 1: a row of M-core results for deep-store row `d` (OUT 2) -/
  | result (d : Nat) (row : Bytes)
  /-- class 1: deep-store row `d` to accumulator row `a` (ACCLD from source 2) -/
  | accld (d a : Nat)
  /-- class 2: the transposed tile from deep-store row `d`, all of its rows arrived through endpoint descriptor `ep` (R155) -/
  | tile (d ep : Nat)
deriving DecidableEq, Repr

/-- Which writer fills the stream ring (R63): the vertical port from deep-store row `d`, or the fabric port. -/
inductive RingSrc where
  | vertical (d : Nat)
  | fabric
deriving DecidableEq, Repr

/-- The image's parameters of a normalisation (R117): the length of the whole row, and FP32 bits. -/
structure NormPar where
  len : Nat
  eps : Nat
  gamma : List VLoc
  beta : List VLoc
deriving DecidableEq, Repr

/-- The image's parameters of expert routing (R119): score function, experts, top-k, renormalisation, the rows an
expert block holds, and the data route register of each expert's block. -/
structure RoutePar where
  sigmoid : Bool
  n : Nat
  k : Nat
  renorm : Bool
  blockRows : Nat
  routes : List Nat
deriving DecidableEq, Repr

/-- One sequence of a routing command: its scores, the scratchpad row it sends, and the lane from which its `k` expert
indices and then its `k` weights are written. -/
structure RouteSeq where
  scores : VLoc
  row : Nat
  out : VLane
deriving DecidableEq, Repr

/-- R118: the head vectors of a rotary command: `n` lanes of them, each of dimension `dim`. -/
structure HeadShape where
  n : Nat
  dim : Nat
deriving DecidableEq, Repr

/-- R120: a slice of a sequence's logits: the V-core that holds it, where, and how many logits. -/
structure LogitSlice where
  tile : Nat
  locs : List VLoc
  n : Nat
deriving DecidableEq, Repr

/-- The sampling settings of a request (R120), FP32 bits. -/
structure SamplePar where
  temp : Nat
  topK : Nat
  topP : Nat
  logprob : Bool
deriving DecidableEq, Repr

/-- The operands of an optimiser command (R122): the locations of weight, gradient and the two moments, and how weight and moments are
stored: in FP32, or in BF16 under RS with a stream. -/
structure OptPar where
  w : VLoc
  g : VLoc
  m : VLoc
  v : VLoc
  store : Option Nat
deriving DecidableEq, Repr

/-- What LEAVE_END names (R132): a leave-table entry or a grant number. -/
inductive LeaveRef where
  | entry (n : Nat)
  | grant (n : Nat)
deriving DecidableEq, Repr

/-- Why a channel is retrained (R212). -/
inductive RetrainCause where
  | errors | drift
deriving DecidableEq, Repr

/-- R223: what every PTP message carries: domain, logarithmic interval, transport (as 0x2802.02 numbers it), and its sender. -/
structure PtpHead where
  domain : Nat
  logInt : Int
  transport : Nat
  src : Bytes
deriving DecidableEq, Repr

/-- A PTP message at the management MAC (R217, R219, R223): a Sync, one-step or two-step, with the master's time as it was sent and the
ns since the microsecond of device time in which it arrived; an Announce, with what the best master clock algorithm compares and the UTC
offset; a delay measurement by either mechanism, with the mean path delay in ns. -/
inductive PtpMsg where
  | sync (h : PtpHead) (origin : Nat) (sub : Nat)
  | announce (h : PtpHead) (data : Bytes) (utc : Int)
  | delay (h : PtpHead) (p2p : Bool) (mean : Int)
deriving DecidableEq, Repr

/-- A TIME_PPS rising edge (R217): whether it falls within 1 s ± 1 µs of the edge before it, whether within 1 µs of its
expected time, and the ns since the microsecond of device time in which it falls. -/
structure PpsEdge where
  spaced : Bool
  expected : Bool
  sub : Nat
deriving DecidableEq, Repr

/-- R365: the producer of a failed packet or capture, as the region supervisors' maps name it: an M-core, another unit
of a tile without a second core, or a copy engine. -/
inductive Producer where
  | mcore (t : Nat)
  | other (t : Nat)
  | engine (e : Nat)
deriving DecidableEq, Repr

/-- A UDP datagram on a front port (R274, R276): the port's first lane, the VLAN, the device's address and port, the
peer's address and port, the payload, and whether it is a fragment. -/
structure Datagram where
  lane : Nat
  vlan : Nat
  dev : Bytes
  devPort : Nat
  peer : Bytes
  peerPort : Nat
  data : Bytes
  frag : Bool
deriving DecidableEq, Repr

/-- One microsecond's samples (R308): voltage in mV and current in mA at the points 0 (module input), 1 to 32 (logic
rails), 33 to 64 (store-tier supplies), 65 to 88 (stacks), 89 (ring); the points whose sample is missing or out of range;
and the window means that the stewards form at this sample (R329, R331): rails in 0.1 A, stacks, ring and input in W. -/
structure Sample where
  v : List Nat
  i : List Nat
  missing : List Nat
  outOfRange : List Nat
  logic10 : List Nat
  logic1m : List Nat
  store10 : List Nat
  store1m : List Nat
  plane10 : List Nat
  plane1m : List Nat
  stack1m : List Nat
  ring1m : Nat
  in1m : Nat
deriving DecidableEq, Repr

/-- Where a short circuit beyond the logic rail lies (R348). -/
inductive StoreShort where
  | store (g : Nat)
  | plane (f : Nat)
deriving DecidableEq, Repr

/-- One reading of every sensor (R349), 0.01 °C: five for each region (the fifth of the store tier), four of the ring,
one for each stack. -/
structure Sensors where
  regions : List (List Int)
  ring : List Int
  stks : List Int
deriving DecidableEq, Repr

/-- What the runs of a dispute gave (R366): the repeat's digest, whether the replay's check passed, the second and the
third core's digests where they ran. -/
structure Verdict where
  r : W64
  replayOk : Bool
  s : Option W64
  t : Option W64
deriving DecidableEq, Repr

/-- The result of a moult phase (R373, R374): tiles and logic phases that failed, tiles whose weak row found no spare
(R159), a short circuit that persists. -/
structure PhaseRes where
  tiles : List Nat
  phases : List Nat
  noSpare : List Nat
  short : Bool
deriving DecidableEq, Repr

/-- What a bring-up step met (R389 to R407): self-test, PUF and certificate results; the channels (stack, channel) that
failed training; whether Wenwyn started; the management lanes that trained; the front lanes that trained at 200 and at
100 Gbit/s. -/
inductive StepRes where
  | cocoon (selfTest puf met att : Bool)
  | records
  | boot
  | hbm (failed : List (Nat × Nat))
  | supervisor (started : Bool)
  | mgmt (a b : Bool)
  | front (at200 at100 : List Nat)
  | time
  | floor
deriving DecidableEq, Repr

/-- A DTLS handshake (R412, R413): whether it offers only what the device supports, the client certificate (empty:
none), and the peer's address. -/
structure Handshake where
  supported : Bool
  cert : Bytes
  peer : Bytes
deriving DecidableEq, Repr

/-- SEG_START (R415): object, direction (0 write, 1 read), LENGTH and BASE. -/
structure SegStart where
  ix : Nat
  sub : Nat
  dir : Nat
  len : Nat
  base : Nat
deriving DecidableEq, Repr

/-- An access of a control-core hart, in machine mode or not (R431). -/
structure Hart where
  hart : Nat
  machine : Bool
deriving DecidableEq, Repr

/-- The ends of a mailbox channel (R430): a control-core hart, or the unit at the other side. -/
inductive Agent where
  | core (h : Hart)
  | unit
deriving DecidableEq, Repr

/-- Who clears alert bits (R424, R429): a hart by writing PWR_ALERT_SRC, or a session by ALERT_CLEAR (with its transaction). -/
inductive AlertClear where
  | csr (h : Hart)
  | object (k x : Nat)
deriving DecidableEq, Repr

/-- The commands of opcode_table.json, one constructor per row, in its order. -/
inductive Instr where
  | nop (t : Nat)
  | mma (t : Nat) (es : List Ecc)
  | drain (t : Nat) (es : List Ecc)
  | accld (t : Nat) (es : List Ecc)
  | mode (t : Nat)
  | modeTakesEffect (t : Nat)
  | wait (t : Nat)
  | post (t : Nat)
  | jump (t : Nat)
  | arrayStall (t : Nat)
  | tileSetEnter (t : Nat) (es : List Ecc)
  | streamRingFill (t : Nat) (src : RingSrc) (es : List Ecc)
  | vecElementwise (t : Nat) (tag : Nat) (op : VOp) (bf : Bool) (a : VLoc) (b : VLoc) (c : VLoc) (d : VLoc) (es : List Ecc)
  | transcendental (t : Nat) (tag : Nat) (fn : TFn) (a : VLoc) (d : VLoc) (d2 : VLoc) (es : List Ecc)
  | laneReduction (t : Nat) (tag : Nat) (fn : RFn) (src : List VLoc) (d : VLane) (es : List Ecc)
  | conversionAndStore (t : Nat) (tag : Nat) (src : List VLoc) (fmt : VFmt) (rm : VRound) (nsat : Bool) (dst : VDst) (scales : Nat) (es : List Ecc)
  | softmax (t : Nat) (tag : Nat) (form : Part) (src : List VLoc) (n : Nat) (ms : VLane) (ms2 : VLane) (dst : List VLoc) (es : List Ecc)
  | normalisation (t : Nat) (tag : Nat) (layer : Bool) (form : NormPart) (src : List VLoc) (n : Nat) (par : NormPar) (sums : VLane) (sums2 : VLane) (dst : List VLoc) (es : List Ecc)
  | rotary (t : Nat) (tag : Nat) (src : List VLoc) (heads : HeadShape) (pos : Nat) (thetas : List Nat) (halves : Bool) (dst : List VLoc) (es : List Ecc)
  | routing (t : Nat) (tag : Nat) (par : RoutePar) (seqs : List RouteSeq) (es : List Ecc)
  | sampling (t : Nat) (tag : Nat) (slices : List LogitSlice) (stream : Nat) (par : SamplePar) (d : VLane) (es : List Ecc)
  | optimiser (t : Nat) (tag : Nat) (rule : OptRule) (par : OptPar) (es : List Ecc)
  | vcoreStatusReport (t : Nat) (tag : Nat)
  | bwait (t : Nat) (n : Nat)
  | leave (t : Nat) (arg : LeaveArg)
  | leaveEnd (t : Nat) (arg : LeaveRef)
  | send (t : Nat) (rr : Nat) (words : List W64) (bound : Nat)
  | recv (t : Nat) (ep : Nat) (bound : Nat)
  | recvBoundExpiry (t : Nat)
  | fence (t : Nat) (target : Nat)
  | rbOpen (t : Nat) (slot : Nat) (row : Nat) (es : List Ecc)
  | rbLoad (t : Nat) (size : Nat) (slot : Nat) (off : Nat)
  | rbStore (t : Nat) (size : Nat) (slot : Nat) (off : Nat) (v : W64)
  | rbFlush (t : Nat) (slot : Nat)
  | rbClose (t : Nat) (slot : Nat)
  | rbDrop (t : Nat) (slot : Nat)
  | faultReport (g : Nat) (prod : Producer)
  | beatReport (g : Nat)
  | supervisorSilence (g : Nat)
  | coreRestart (t : Nat) (ix : Nat)
  | verticalPortGrant (t : Nat) (reqs : List VpReq) (es : List Ecc)
  | transposedWrite (t : Nat)
  | scrubRead (t : Nat) (es : List Ecc)
  | packetForward (t : Nat) (port : Nat)
  | forkBranchSend (t : Nat) (k : Nat) (port : Nat)
  | reductionAdd (t : Nat) (u : Nat)
  | tilePortDeliver (t : Nat)
  | messageDeliver (k : Nat)
  | sendReplyTimeout (t : Nat) (rr : Nat)
  | retryWaitExpiry (t : Nat) (rr : Nat)
  | fabricStall (t : Nat) (port : Nat) (msgNet : Bool) (label : Nat) (unit : Nat) (cycles : Nat)
  | relayCommand (t : Nat)
  | planQueueStart (e : Nat)
  | descriptorStart (e : Nat)
  | copyRead (e : Nat) (es : List Ecc)
  | copyWrite (e : Nat)
  | copyMove (e : Nat) (es : List Ecc)
  | copyPread (e : Nat) (es : List Ecc)
  | copyPappend (e : Nat) (es : List Ecc)
  | copyRelay (e : Nat)
  | wenwynDescriptor (e : Nat) (d : Nat) (es : List Ecc)
  | hbmPatrol (s : Nat) (es : List Ecc)
  | channelRetrain (s : Nat) (ch : Nat) (cause : RetrainCause)
  | channelRetrainDone (s : Nat) (ok : Bool)
  | ptpMessage (m : PtpMsg)
  | timePpsEdge (m : PpsEdge)
  | ppsTimeout
  | announceTimeout
  | ref25Qualify (q : Bool)
  | holdoverLimit
  | timeStepTo (k : Nat) (x : Nat) (v : Nat)
  | freerunSet (k : Nat) (x : Nat) (v : Nat)
  | ppsNextSecond (k : Nat) (x : Nat) (v : Nat)
  | nominalMark
  | regionMark (g : Nat) (lateCycles : Nat) (lateNs : Nat)
  | timeWordLoss (f : Nat) (noClk : Bool)
  | clockInputLost (t : Nat) (live : List Nat)
  | frequencyChangeRequest (gs : List Nat) (pt : Nat) (n : Nat) (late : Bool)
  | frequencyChange (g : Nat) (ns : Nat)
  | droopStretch (g : Nat) (k : Nat)
  | imageLoad (k : Nat) (x : Nat)
  | loadSectionsHeld
  | loadComplete
  | unload (k : Nat) (x : Nat)
  | unitFenceRepair (t : Nat)
  | detourInstall
  | cleanRestart
  | submit (d : Datagram)
  | prompt (d : Datagram)
  | cancel (d : Datagram)
  | query (d : Datagram)
  | receiveRingTake
  | promptIncomplete (r : Nat)
  | tokenSend (r : Nat) (tok : Nat) (lp : Nat)
  | completeSend (r : Nat)
  | heldMessageSend (r : Nat)
  | sequenceRebuild (r : Nat)
  | rateBucketRefill (p : Nat)
  | retentionExpiry (r : Nat)
  | partitionStateWrite (k : Nat) (x : Nat) (p : Nat) (v : Nat)
  | bindingWrite (k : Nat) (x : Nat) (p : Nat) (sub : Nat) (v : Nat)
  | keySlotWrite (k : Nat) (x : Nat) (p : Nat) (slot : Nat) (key : Bytes)
  | quotaWrite (k : Nat) (x : Nat) (p : Nat) (sub : Nat) (v : Nat)
  | monitorSample (m : Sample)
  | signingRoundClose
  | epochRecord
  | meterExport (k : Nat) (x : Nat)
  | ackSeq (k : Nat) (x : Nat) (v : Nat)
  | gapRecord
  | leaveGrantEnd (g : Nat) (n : Nat)
  | leaveQueueServe (f : Nat)
  | leaveTimeout (f : Nat) (n : Nat)
  | sixteenthBoundary
  | pcapAssert
  | pcapRelease
  | moduleInMaxWrite (k : Nat) (x : Nat) (v : Nat)
  | pcapLimitWrite (k : Nat) (x : Nat) (v : Nat)
  | marginModeWrite (k : Nat) (x : Nat) (v : Nat)
  | wakeStage (g : Nat)
  | regionWake (g : Nat)
  | phaseFailure (g : Nat) (i : Nat) (cause : Nat) (cur : Nat)
  | logicShortCircuit (g : Nat) (cur : Nat)
  | storeShortCircuit (w : StoreShort)
  | packageBusFault
  | sensorRead (m : Sensors)
  | heatSwitchOff (g : Nat)
  | heatRewake (g : Nat)
  | coolantLoss
  | haltEnd
  | faultStop
  | checkerRecompute (g : Nat) (dig : W64)
  | recomputeDrop (g : Nat)
  | disputeVerdict (d : Verdict)
  | disputeTimeout
  | instarCommit
  | moult (k : Nat) (x : Nat) (g : Nat)
  | moultPhaseDone (g : Nat) (res : PhaseRes)
  | moultComplete (g : Nat)
  | wholeDeviceFault (c : Nat)
  | mirrorCopy (tid : Nat)
  | mirrorLate (tid : Nat)
  | checkpoint (k : Nat) (x : Nat)
  | chrysalisCommit (loss : Nat)
  | restore (k : Nat) (x : Nat)
  | verificationReplay (loss : Nat)
  | chrysalisExport (k : Nat) (x : Nat)
  | batch (k : Nat) (x : Nat) (st : Nat) (ix : Nat) (data : Bytes)
  | pwrEnHigh
  | powerGood
  | pwrEnLow
  | inputStop (above : Bool)
  | powerDownEnd
  | mrstN (low : Bool)
  | releaseEdge
  | bringupStepEnd (res : StepRes)
  | bringupStepTimeout (n : Nat)
  | watchdogExpiry
  | mgmtLaneLoss
  | frontPortRetrain (k : Nat) (x : Nat) (l : Nat)
  | hbmRetrain (k : Nat) (x : Nat)
  | fwUpdate (k : Nat) (x : Nat)
  | fwMinSvnWrite (k : Nat) (x : Nat) (v : Nat)
  | licInstall (k : Nat) (x : Nat)
  | licRemove (k : Nat) (x : Nat) (v : Nat)
  | attReport (k : Nat) (x : Nat)
  | resetReq (k : Nat) (x : Nat) (v : Nat)
  | fordanHandshake (h : Handshake)
  | sessionIdleTimeout (k : Nat)
  | mgmtAddressChange
  | fordanRead (k : Nat) (x : Nat) (ix : Nat) (sub : Nat)
  | fordanWrite (k : Nat) (x : Nat) (ix : Nat) (sub : Nat) (v : Bytes)
  | segStart (k : Nat) (x : Nat) (m : SegStart)
  | segData (k : Nat) (x : Nat) (off : Nat) (data : Bytes)
  | segAck (k : Nat) (x : Nat) (nxt : Nat)
  | segmentResendTimeout (k : Nat) (x : Nat)
  | transferAbandon (k : Nat) (x : Nat)
  | action (k : Nat) (x : Nat) (ix : Nat) (sub : Nat) (v : Bytes)
  | subscribe (k : Nat) (x : Nat) (ix : Nat) (sub : Nat) (minMs : Nat)
  | unsubscribe (k : Nat) (x : Nat) (ix : Nat) (sub : Nat)
  | notify (k : Nat) (ix : Nat) (sub : Nat)
  | csrWrite (h : Hart) (addr : Nat) (v : W32)
  | aliasSet (h : Hart) (addr : Nat) (v : W32)
  | aliasClear (h : Hart) (addr : Nat) (v : W32)
  | aliasFlip (h : Hart) (addr : Nat) (v : W32)
  | aliasView (h : Hart) (addr : Nat)
  | pwrAlertSrcClear (who : AlertClear) (v : W32)
  | wrmSel (h : Hart) (sel : W32)
  | wrmCopyDone (hart : Nat)
  | mbxCtlPost (who : Agent) (ch : Nat) (v : W32) (data : Bytes)
  | mbxTake (who : Agent) (ch : Nat)
  | mbxTimeout (ch : Nat)
  | sign (tag : Nat)
  | heartbeat (tag : Nat)
  | seal (tag : Nat)
  | unseal (tag : Nat)
  | cocoonReset (tag : Nat)
  | i2cPointerWrite (b : Byte)
  | i2cRead (n : Nat)
  | bypass (tdi : Bool)
  | samplePreload (cells : Nat)
  | extest
  | idcode
  | frontPortDown (l : Nat)
  | portRetrainComplete (l : Nat) (lanes : Nat) (rate : Nat)
  | wakeComplete (g : Nat)
  | startThresholdMet
  | vsb3v3Loss
  | vsb3v3Return
  | jtagReset
  | fwUpdateComplete (ok : Bool)
deriving DecidableEq, Repr

end Sys2Proof
end

