-- ==== Sys2Proof/Decode.lean ====
section
/-!
DEFINITION. The words of opcode_table.json. The table gives none of its rows a bit, so no word spells a command.
-/

namespace Sys2Proof

/-- The command that a word of `nbits` bits spells: none, since the table gives no row any bits. -/
def decodeTableWord (nbits w : Nat) : Option Instr :=
  match nbits, w with
  | _, _ => none

end Sys2Proof
end

