-- ==== Sys2Proof/Config.lean ====
section
/-!
DEFINITION. What an implementation fixes and the manual leaves open: OPAQUE constants without a body. Nothing in
Lean can evaluate one or prove a value of it, so a claim holds whatever it is.
-/

namespace Sys2Proof.Config

/-- The n-th free value a step draws (log entry 2). The step truncates it to the width it needs. -/
opaque freeValue : Nat → Nat

/-- Where in its error bound a transcendental result lies (R114; log entry 11): function code and operand bits to an
offset that Transc.lean reduces to the bound. -/
opaque transcOffset : Nat → Nat → Nat

/-- The lane that a comparison writes, for FP32 (`false`) and packed BF16 (`true`) lanes: true, false (R113 gives no
encoding; log entry 25). -/
opaque compareTrue : Bool → Nat
opaque compareFalse : Bool → Nat

/-- The rank of expert `i` among scores that hold a NaN, where R119 states no order (log entry 25). -/
opaque nanRank : List Nat → Nat → Nat

/-- The result of one parameter of the adapter optimiser (R122 gives no order of operations; log entry 12): the
rule, the field of the result and the operand bits to FP32 bits. -/
opaque optimiser : Nat → Nat → List Nat → Nat

/-- The learning rate, betas, ε and weight decay of a step, FP32 bits, from the TRAIN section and the step counter (R122; the section's
layout is not given, log entry 16). -/
opaque trainHyper : Bytes → Nat → List Nat

/-- The V-tile and the stream-table index of the stream of a resident slot, from the image's content, the mask of the detour set in force
and the slot (R127; log entry 101). -/
opaque slotStream : Bytes → Nat → Nat → Nat × Nat

/-- The 256-bit device secret reconstructed from the SRAM PUF (R395; log entry 13). -/
opaque deviceSecret : Nat

/-- The salt of the HKDF of R395, which the manual does not name (log entry 13). -/
opaque hkdfSalt : Bytes

/-- The Korhoed public keys: 0 root, 1 test, 2 licence, 3 firmware, 4 vendor (R396; log entry 13). -/
opaque korhoedKey : Nat → Bytes

/-- Whether a client certificate (DER) verifies under an anchor, and whether one is a self-signed P-521 certificate
(R412, R413; log entry 14). -/
opaque certVerifies : Bytes → Bytes → Bool
opaque certSelfSigned : Bytes → Bool

/-- The header of a firmware image, whose layout the manual does not give (R397; log entry 15). -/
opaque fwVerifies : Bytes → Bool
opaque fwSvn : Bytes → Nat
opaque fwVersion : Bytes → Bytes

/-- The endpoint of the cluster's S-core to which a POST or a V-core status report goes (R91, R129 name no endpoint; log entry 20). -/
opaque statusEndpoint : Nat → Nat

/-- R164: which of a corner router's two ring ports the ring bit drives for a label: `true` the one on the east or west edge. The
image names it, and the manual gives no section that does (log entry 95). -/
opaque cornerPort : Nat → Nat → Bool

/-- R30, R181: the row of the ring port from which the control cores send to the tiles, the endpoint of a region's supervisor that takes
Wenwyn's directions, and their word (the manual gives none of them; log entry 100). -/
opaque controlRow : Nat
opaque directEndpoint : Nat → Nat
opaque directWord : Nat → Nat

/-- R223: the best master clock algorithm of IEEE 1588-2019 clause 9.3, which the manual names and does not state: the place of the master
it selects among the foreign masters heard, each an address and what its Announce carries (log entry 36). -/
opaque bestMaster : List (Bytes × Bytes) → Option Nat

/-- R229: the branch delay to a field's clock origin, ns, that a loopback at a second of device time measures (log entry 104). -/
opaque branchDelay : Nat → Nat → Nat

/-- R210: the post-package repair spares of a stack, whose number the manual does not give (log entry 53). -/
opaque hbmSpares : Nat → Nat

/-- Sealing under a key derived from the device secret (R421, R433; log entry 14). -/
opaque sealValue : Nat → Bytes → Bytes
opaque unsealValue : Bytes → Option Bytes

/-- The device certificates, DER (R396; log entry 13): 0 identity, 1 metering, 2 attestation. -/
opaque deviceCert : Nat → Bytes

/-- The MAC address of the management port (16) and of front port l (0 to 15): six bytes, and as the string of an object, whose form the
manual does not give (R424, R440; log entry 13). -/
opaque macAddr : Nat → Bytes
opaque macText : Nat → Bytes

/-- The parts of a TRAIN section, whose layout the manual does not give (R272; log entry 16): N, and for each adapter
tensor its TID, whether it is mirrored, its mirror region and its rows. -/
opaque trainSnapN : Bytes → Nat
opaque trainTensors : Bytes → List (Nat × Bool × Nat × Nat)

/-- The rows, by number, that hold a tensor's weights and then its optimiser state in half 0 or 1, from a TRAIN section (R376; log
entry 16). -/
opaque trainRows : Bytes → Nat → Nat → List Nat

/-- The stream and index that a batch's bytes are tagged with (R376 gives no layout; log entry 16). -/
opaque batchStream : Bytes → Nat
opaque batchIndex : Bytes → Nat

/-- The data route registers of an ENDPOINTS section, and of the value of a write record: 0, or 256 plus the label of a VALID
one (R169 gives no layout; log entry 27). -/
opaque dataRoutes : Bytes → Nat → Nat
opaque dataRouteWord : Nat → Nat

/-- The parity groups of the image with a CONTENT: each parity row and its data rows, as row numbers of the stacks (R209
gives no placement; log entry 28). -/
opaque parityGroups : Bytes → List (Nat × List Nat)

/-- The stream table's first row and the streams assigned to a V-core, from a VCODE section (R125, R126; log entry 4). -/
opaque vcodeStreamBase : Bytes → Nat
opaque vcodeStreams : Bytes → List Nat

/-- W_CTX of a model in an image that plans no HBM weight bytes, where the quotient of R314 has no value (log entry 38). -/
opaque wctxNoBytes : Nat → Nat

/-- SESSION_LIST as bytes, from the role (0 operator, 1 vendor, 2 partition), partition, peer address and start time of each session
(R424 gives no layout; log entry 44). -/
opaque sessionList : List (Nat × Nat × Bytes × Nat) → Bytes

/-- CYCLE of an event record of no region, from the ns since the nominal mark: R230 counts beat cycles in regions only (log entry 47). -/
opaque unitCycle : Nat → Nat

/-- The boundary-scan chain (R441 gives no order of its cells; log entry 10): what it captures of the sideband pins' levels, and the level
that its cells drive on an output pin (0 PG, 1 ALERT_N, 2 THERMTRIP_N). -/
opaque boundaryCapture : List Bool → Nat
opaque boundaryDrive : Nat → Nat → Bool

end Sys2Proof.Config
end

