-- ==== Sys2Proof/Machine/Crypto.lean ====
section
/-!
DEFINITION. The published algorithms the manual names: AES-128 (FIPS 197) of the random streams (R123), SHA-512
(FIPS 180-4), HMAC-SHA-512 of Gyper tags (R277), HKDF (RFC 5869) and ECDSA on P-521 with the nonces of RFC 6979
(R321, R395).
-/

namespace Sys2Proof.Machine

/-! ### AES-128 -/

/-- Multiplication by x in GF(2^8). -/
def gfDouble (a : Nat) : Nat := if a ≥ 128 then ((2 * a) % 256) ^^^ 0x1B else 2 * a

/-- Multiplication in GF(2^8), by the lowest `n` bits of `b`. -/
def gfMulN : Nat → Nat → Nat → Nat
  | 0, _, _ => 0
  | n + 1, a, b => (if b % 2 = 1 then a else 0) ^^^ gfMulN n (gfDouble a) (b / 2)

def gfMul (a b : Nat) : Nat := gfMulN 8 a b

/-- The inverse in GF(2^8) as the 254th power; 0 for 0. -/
def gfInv (a : Nat) : Nat :=
  let a2 := gfMul a a
  let a4 := gfMul a2 a2
  let a8 := gfMul a4 a4
  let a16 := gfMul a8 a8
  let a32 := gfMul a16 a16
  let a64 := gfMul a32 a32
  let a128 := gfMul a64 a64
  gfMul a128 (gfMul a64 (gfMul a32 (gfMul a16 (gfMul a8 (gfMul a4 a2)))))

def rotl8 (a k : Nat) : Nat := ((a <<< k) ||| (a >>> (8 - k))) % 256

/-- The S-box of FIPS 197. -/
def sbox (a : Nat) : Nat :=
  let b := gfInv a
  b ^^^ rotl8 b 1 ^^^ rotl8 b 2 ^^^ rotl8 b 3 ^^^ rotl8 b 4 ^^^ 0x63

def xorList (a b : List Nat) : List Nat := List.zipWith (· ^^^ ·) a b

/-- The next round key from the round key `k` with round constant `rc`. -/
def nextKey (k : List Nat) (rc : Nat) : List Nat :=
  let w (i : Nat) : List Nat := (k.drop (4 * i)).take 4
  let g := match w 3 with
    | [a, b, c, d] => [sbox b ^^^ rc, sbox c, sbox d, sbox a]
    | l => l
  let w0 := xorList (w 0) g
  let w1 := xorList (w 1) w0
  let w2 := xorList (w 2) w1
  let w3 := xorList (w 3) w2
  w0 ++ w1 ++ w2 ++ w3

/-- ShiftRows on a column-major state. -/
def shiftRows (s : List Nat) : List Nat :=
  (upTo 16).map fun i => (s.drop ((i + 4 * (i % 4)) % 16)).headD 0

def mixColumn (c : List Nat) : List Nat :=
  match c with
  | [a, b, d, e] =>
    [gfMul 2 a ^^^ gfMul 3 b ^^^ d ^^^ e, a ^^^ gfMul 2 b ^^^ gfMul 3 d ^^^ e,
     a ^^^ b ^^^ gfMul 2 d ^^^ gfMul 3 e, gfMul 3 a ^^^ b ^^^ d ^^^ gfMul 2 e]
  | l => l

def mixColumns (s : List Nat) : List Nat :=
  (upTo 4).flatMap fun i => mixColumn ((s.drop (4 * i)).take 4)

/-- The nine full rounds and the last one. -/
def aesRounds : Nat → List Nat → List Nat → Nat → List Nat
  | 0, s, _, _ => s
  | n + 1, s, k, rc =>
    let k' := nextKey k rc
    let t := shiftRows (s.map sbox)
    let t := if n = 0 then t else mixColumns t
    aesRounds n (xorList t k') k' (gfDouble rc)

/-- AES-128 of one block. -/
def aes128 (key block : Bytes) : Bytes :=
  let k := key.map (·.toNat)
  (aesRounds 10 (xorList (block.map (·.toNat)) k) k 1).map (BitVec.ofNat 8)

/-- R123: unit `c` of the stream of `key`. -/
def streamUnit (key : Bytes) (c : Nat) : Nat :=
  let out := aes128 key (leBytes 8 (c / 8) ++ List.replicate 8 0)
  leAt out (2 * (c % 8)) 2

/-- R124: a 32-bit draw at counter `c`. -/
def draw32 (key : Bytes) (c : Nat) : Nat := streamUnit key c + 65536 * streamUnit key (c + 1)

/-! ### SHA-512

FIPS 180-4 writes the compression with eight registers that shift by one place a round. Four of them only ever repeat an
earlier value of the first, four of the fifth, so the rounds are held here as two sequences, newest first. -/

/-- Bits of the rotations of `x`, added without carry. -/
def rotSum (ks : List Nat) (x : W64) : W64 := (ks.map x.rotateRight).foldl (· ^^^ ·) 0

/-- The largest `r` below `2^k` with `r ^ d ≤ n`, from the highest bit down. -/
def rootBelow (d n k : Nat) : Nat := (upTo k).foldr (fun i r => if (r + 2 ^ i) ^ d ≤ n then r + 2 ^ i else r) 0

/-- The first `n` primes, by trial division from 2. -/
def primesTo (n : Nat) : List Nat := (((upTo 410).drop 2).filter fun p => (upTo 21).all fun d => d < 2 || p ≤ d || p % d != 0).take n

/-- The 64 leading bits of the fraction of the `d`-th root of `p` (FIPS 180-4 4.2.3, 5.3.5). -/
def rootFraction (d p : Nat) : W64 := BitVec.ofNat 64 (rootBelow d (p * 2 ^ (64 * d)) 69)

/-- The round constants: cube roots of the first eighty primes. -/
def shaK : List W64 := (primesTo 80).map (rootFraction 3)

/-- The initial hash value: square roots of the first eight. -/
def shaH : List W64 := (primesTo 8).map (rootFraction 2)

/-- `n` further words of the message schedule, newest first. -/
def shaSchedule : Nat → List W64 → List W64
  | 0, w => w
  | n + 1, w =>
    let back (i : Nat) : W64 := w.getD (i - 1) 0
    let near := rotSum [19, 61] (back 2) ^^^ back 2 >>> 6
    let far := rotSum [1, 8] (back 15) ^^^ back 15 >>> 7
    shaSchedule n ((near + back 7 + far + back 16) :: w)

/-- One round: the sequences `a` and `e` of the first and the fifth register, each with its newest value in front. -/
def shaRound (ae : List W64 × List W64) (kw : W64) : List W64 × List W64 :=
  match ae with
  | (a0 :: a1 :: a2 :: a3 :: _, e0 :: e1 :: e2 :: e3 :: _) =>
    let mix := kw + e3 + rotSum [14, 18, 41] e0 + (e2 ^^^ (e0 &&& (e1 ^^^ e2)))
    let top := rotSum [28, 34, 39] a0 + ((a0 &&& (a1 ||| a2)) ||| (a1 &&& a2))
    ([mix + top, a0, a1, a2], [a3 + mix, e0, e1, e2])
  | l => l

/-- One 128-byte block. -/
def shaBlock (h : List W64) (b : Bytes) : List W64 :=
  let w := (shaSchedule 64 ((upTo 16).reverse.map fun i => BitVec.ofNat 64 (beAt b (8 * i) 8))).reverse
  let ae := (List.zipWith (· + ·) shaK w).foldl shaRound (h.take 4, h.drop 4)
  List.zipWith (· + ·) h (ae.1 ++ ae.2)

/-- `n` blocks in order. -/
def shaBlocks : Nat → List W64 → Bytes → List W64
  | 0, h, _ => h
  | n + 1, h, b => shaBlocks n (shaBlock h (b.take 128)) (b.drop 128)

/-- SHA-512 of a byte string: 64 bytes. -/
def sha512 (m : Bytes) : Bytes :=
  let n := m.length
  let pad := m ++ [0x80] ++ List.replicate ((239 - n % 128) % 128) 0 ++ beBytes 16 (8 * n)
  (shaBlocks (pad.length / 128) shaH pad).flatMap fun w => beBytes 8 w.toNat

/-- HMAC-SHA-512 (RFC 2104). -/
def hmac512 (key m : Bytes) : Bytes :=
  let k0 := if key.length > 128 then sha512 key else key
  let k := k0 ++ List.replicate (128 - k0.length) 0
  sha512 (k.map (· ^^^ 0x5C) ++ sha512 (k.map (· ^^^ 0x36) ++ m))

/-- HKDF-SHA-512 (RFC 5869): 74 bytes. -/
def hkdf74 (salt ikm info : Bytes) : Bytes :=
  let prk := hmac512 salt ikm
  let t1 := hmac512 prk (info ++ [1])
  (t1 ++ hmac512 prk (t1 ++ info ++ [2])).take 74

/-! ### ECDSA on P-521 -/

def p521 : Nat := 2 ^ 521 - 1
def p521n : Nat :=
  0x1FFFFFFFFFFFFFFFFFFFFFFFFFFFFFFFFFFFFFFFFFFFFFFFFFFFFFFFFFFFFFFFFFA51868783BF2F966B7FCC0148F709A5D03BB5C9B8899C47AEBB6FB71E91386409
def p521b : Nat :=
  0x0051953EB9618E1C9A1F929A21A0B68540EEA2DA725B99B315F3B8B489918EF109E156193951EC7E937B1652C0BD3BB1BF073573DF883D2C34F1EF451FD46B503F00
def p521x : Nat :=
  0x00C6858E06B70404E9CD9E3ECB662395B4429C648139053FB521F828AF606B4D3DBAA14B5E77EFE75928FE1DC127A2FFA8DE3348B3C1856A429BF97E7E31C2E5BD66
def p521y : Nat :=
  0x011839296A789A3BC0045C8A5FB42C7D1BD998F54449579B446817AFBD17273E662C97EE72995EF42640C550B9013FAD0761353C7086A272C24088BE94769FD16650

/-- `b^e mod m` over the `k` lowest bits of `e`. -/
def powModN (m : Nat) : Nat → Nat → Nat → Nat → Nat
  | 0, acc, _, _ => acc
  | k + 1, acc, b, e => powModN m k (if e % 2 = 1 then acc * b % m else acc) (b * b % m) (e / 2)

/-- The inverse modulo the primes of P-521. -/
def invMod (m a : Nat) : Nat := powModN m 521 1 (a % m) (m - 2)

/-- A point in Jacobian coordinates; `z = 0` is the point at infinity. -/
structure Pt where
  x : Nat
  y : Nat
  z : Nat
deriving DecidableEq, Repr

def subMod (m a b : Nat) : Nat := (a + m - b % m) % m

def Pt.double (a : Pt) : Pt :=
  let p := p521
  if a.z = 0 then a
  else
    let d := a.z * a.z % p
    let g := a.y * a.y % p
    let b := a.x * g % p
    let al := 3 * (subMod p a.x d * ((a.x + d) % p)) % p
    let x := subMod p (al * al) (8 * b)
    let z := 2 * a.y * a.z % p
    ⟨x, subMod p (al * subMod p (4 * b) x) (8 * (g * g % p)), z⟩

def Pt.plus (a b : Pt) : Pt :=
  let p := p521
  if a.z = 0 then b
  else if b.z = 0 then a
  else
    let z1 := a.z * a.z % p
    let z2 := b.z * b.z % p
    let u1 := a.x * z2 % p
    let u2 := b.x * z1 % p
    let s1 := a.y * b.z * z2 % p
    let s2 := b.y * a.z * z1 % p
    if u1 = u2 then (if s1 = s2 then a.double else ⟨1, 1, 0⟩)
    else
      let h := subMod p u2 u1
      let r := subMod p s2 s1
      let h2 := h * h % p
      let h3 := h * h2 % p
      let v := u1 * h2 % p
      let x := subMod p (subMod p (r * r) h3) (2 * v)
      ⟨x, subMod p (r * subMod p v x) (s1 * h3), h * a.z * b.z % p⟩

/-- `k · a` over the `n` lowest bits of `k`. -/
def Pt.mulN : Nat → Nat → Pt → Pt
  | 0, _, _ => ⟨1, 1, 0⟩
  | n + 1, k, a =>
    let r := Pt.mulN n (k / 2) a.double
    if k % 2 = 1 then r.plus a else r

def Pt.mul (k : Nat) (a : Pt) : Pt := Pt.mulN 521 k a

def Pt.base : Pt := ⟨p521x, p521y, 1⟩

/-- The affine x coordinate; 0 at infinity. -/
def Pt.affX (a : Pt) : Nat := let i := invMod p521 a.z; a.x * (i * i % p521) % p521
def Pt.affY (a : Pt) : Nat := let i := invMod p521 a.z; a.y * (i * i % p521 * i % p521) % p521

/-- A public key as 133 bytes uncompressed (0x8000.06). -/
def encodePub (a : Pt) : Bytes := [4] ++ beBytes 66 a.affX ++ beBytes 66 a.affY

/-- The point of an uncompressed public key, on the curve. -/
def decodePub (b : Bytes) : Option Pt :=
  let x := beAt b 1 66
  let y := beAt b 67 66
  if b.length = 133 ∧ b.headD 0 = 4 ∧ x < p521 ∧ y < p521 ∧
      y * y % p521 = (x * x % p521 * x + subMod p521 p521b (3 * x)) % p521 then some ⟨x, y, 1⟩ else none

/-- ECDSA verification of a 132-byte r‖s over a 64-byte SHA-512 digest. -/
def ecdsaVerify (pub digest sig : Bytes) : Bool :=
  let r := beAt sig 0 66
  let s := beAt sig 66 66
  match decodePub pub with
  | none => false
  | some q =>
    if sig.length ≠ 132 ∨ r = 0 ∨ r ≥ p521n ∨ s = 0 ∨ s ≥ p521n then false
    else
      let w := invMod p521n s
      let u1 := beNat digest * w % p521n
      let u2 := r * w % p521n
      let x := (Pt.mul u1 Pt.base).plus (Pt.mul u2 q)
      x.z ≠ 0 && x.affX % p521n == r

/-- One candidate nonce of RFC 6979: 521 leading bits of the DRBG output. -/
def nonceStep (k v : Bytes) : Nat × Bytes × Bytes :=
  let v1 := hmac512 k v
  let v2 := hmac512 k v1
  (beNat ((v1 ++ v2).take 66) / 2 ^ 7, k, v2)

/-- RFC 6979: the first candidate in range, within `fuel` tries. -/
def nonceFrom : Nat → Bytes → Bytes → Nat
  | 0, _, _ => 1
  | n + 1, k, v =>
    let (c, k, v) := nonceStep k v
    if 0 < c ∧ c < p521n then c
    else
      let k' := hmac512 k (v ++ [0])
      nonceFrom n k' (hmac512 k' v)

/-- RFC 6979 with SHA-512: the nonce of private key `d` and digest `h`. -/
def nonce6979 (d : Nat) (h : Bytes) : Nat :=
  let x := beBytes 66 d ++ beBytes 66 (beNat h % p521n)
  let v0 : Bytes := List.replicate 64 1
  let k1 := hmac512 (List.replicate 64 0) (v0 ++ [0] ++ x)
  let v1 := hmac512 k1 v0
  let k2 := hmac512 k1 (v1 ++ [1] ++ x)
  nonceFrom 64 k2 (hmac512 k2 v1)

/-- R321: ECDSA P-521 signature r‖s of a SHA-512 digest. -/
def ecdsaSign (d : Nat) (digest : Bytes) : Bytes :=
  let k := nonce6979 d digest
  let r := (Pt.mul k Pt.base).affX % p521n
  let s := invMod p521n k * ((beNat digest + r * d) % p521n) % p521n
  beBytes 66 r ++ beBytes 66 s

/-- R395: the private key of an info string, with extra random bits (FIPS 186-5). -/
def deviceKey (info : String) : Nat :=
  beNat (hkdf74 Config.hkdfSalt (beBytes 32 Config.deviceSecret) (ascii info)) % (p521n - 1) + 1

def identityKey : Nat := deviceKey "HLD identity"
def meteringKey : Nat := deviceKey "HLD metering"
def attestationKey : Nat := deviceKey "HLD attestation"

/-- The public key of a private key. -/
def publicOf (d : Nat) : Bytes := encodePub (Pt.mul d Pt.base)

/-- R395: DEV_ID, the SHA-512 of the identity public key. -/
def devId : Bytes := sha512 (publicOf identityKey)

end Sys2Proof.Machine
end

