-- ==== Sys2Proof/Machine/Operands.lean ====
section
/-!
DEFINITION. Operand forms: the element formats of R33 as exact numbers, and the stored forms of a weight tile
(dense R36, 2:4 R95 to R100, exponent-compressed R104 to R107).
-/

namespace Sys2Proof.Machine

/-- A number read from an element: an exact dyadic value `(-1)^neg · m · 2^e`, an infinity or a NaN. -/
inductive Num where
  | fin (neg : Bool) (m : Nat) (e : Int)
  | inf (neg : Bool)
  | nan
deriving DecidableEq, Repr

/-- Which encodings a format reserves (R33). -/
inductive Special where
  | ieee   -- all-ones exponent: infinity and NaN
  | e4m3   -- 0x7F and 0xFF only: NaN
  | none   -- nothing reserved
deriving DecidableEq, Repr

/-- A floating-point element format of R33. -/
structure Fmt where
  eb : Nat
  mb : Nat
  bias : Nat
  sp : Special
deriving DecidableEq, Repr

def fE4M3 : Fmt := ⟨4, 3, 7, .e4m3⟩
def fE5M2 : Fmt := ⟨5, 2, 15, .ieee⟩
def fE3M2 : Fmt := ⟨3, 2, 3, .none⟩
def fE2M3 : Fmt := ⟨2, 3, 1, .none⟩
def fE2M1 : Fmt := ⟨2, 1, 1, .none⟩
def fBF16 : Fmt := ⟨8, 7, 127, .ieee⟩
def fFP32 : Fmt := ⟨8, 23, 127, .ieee⟩

/-- Bits of one element of a format. -/
def Fmt.width (f : Fmt) : Nat := 1 + f.eb + f.mb

/-- R33: the value of an element. -/
def Fmt.decode (f : Fmt) (w : Nat) : Num :=
  let m := w % 2 ^ f.mb
  let e := (w >>> f.mb) % 2 ^ f.eb
  let s := bitOf w (f.eb + f.mb)
  let ones := 2 ^ f.eb - 1
  let fin : Num :=
    if e = 0 then .fin s m (1 - (f.bias : Int) - f.mb)
    else .fin s (2 ^ f.mb + m) ((e : Int) - f.bias - f.mb)
  match f.sp with
  | .none => fin
  | .ieee => if e = ones then (if m = 0 then .inf s else .nan) else fin
  | .e4m3 => if e = ones ∧ m = 2 ^ f.mb - 1 then .nan else fin

/-- R34: an INT8 operand, signed or unsigned. -/
def int8Num (uns : Bool) (w : Nat) : Num :=
  let v := w % 256
  if uns || v < 128 then .fin false v 0 else .fin true (256 - v) 0

/-- R33: the E8M0 scale; 0xFF is NaN. -/
def e8m0Num (w : Nat) : Num := if w % 256 = 255 then .nan else .fin false 1 ((w % 256 : Int) - 127)

def Num.isNaN : Num → Bool
  | .nan => true
  | _ => false

/-- R40: +0 and −0. -/
def Num.isZero : Num → Bool
  | .fin _ 0 _ => true
  | _ => false

def Num.negate : Num → Num
  | .fin s m e => .fin (!s) m e
  | .inf s => .inf (!s)
  | .nan => .nan

def Num.absolute : Num → Num
  | .fin _ m e => .fin false m e
  | .inf _ => .inf false
  | .nan => .nan

/-- A finite number as an integer multiple of `2^q`, for `q` at most its exponent. -/
def Num.atExp (q : Int) : Num → Int
  | .fin s m e =>
    let v : Int := (m * 2 ^ (e - q).toNat : Nat)
    if s then -v else v
  | _ => 0

/-- An integer multiple of `2^q` as a number; zero is +0. -/
def numOf (v q : Int) : Num := .fin (decide (v < 0)) v.natAbs q

/-- The exact product under IEEE 754 rules (R40's second paragraph; infinity times zero is NaN). -/
def Num.mul : Num → Num → Num
  | .nan, _ => .nan
  | _, .nan => .nan
  | .inf a, .inf b => .inf (a != b)
  | .inf a, .fin b m _ => if m = 0 then .nan else .inf (a != b)
  | .fin a m _, .inf b => if m = 0 then .nan else .inf (a != b)
  | .fin a m e, .fin b n f => .fin (a != b) (m * n) (e + f)

/-- R40: a product in the array: a zero element makes it +0, whatever the other element is. -/
def Num.mulArr (a b : Num) : Num :=
  if a.isZero || b.isZero then .fin false 0 0 else a.mul b

/-- The exact sum under IEEE 754 rules, to nearest-even zero signs. -/
def Num.add : Num → Num → Num
  | .nan, _ => .nan
  | _, .nan => .nan
  | .inf a, .inf b => if a = b then .inf a else .nan
  | .inf a, .fin _ _ _ => .inf a
  | .fin _ _ _, .inf b => .inf b
  | .fin a m e, .fin b n f =>
    let q := min e f
    let v := (Num.fin a m e).atExp q + (Num.fin b n f).atExp q
    if v = 0 then .fin (m = 0 && n = 0 && a && b) 0 0 else numOf v q

/-- Scale by a power of two. -/
def Num.scale2 (k : Int) : Num → Num
  | .fin s m e => .fin s m (e + k)
  | x => x

/-- R41 steps 1, 7, 8: the exact sum of the products of one accumulation group. -/
def sumExact (l : List Num) : Num := l.foldl Num.add (.fin false 0 0)

/-- The order of two numbers: `a < b` (false with a NaN; the zeros are equal). -/
def Num.lt : Num → Num → Bool
  | .nan, _ => false
  | _, .nan => false
  | .inf a, .inf b => a && !b
  | .inf a, .fin _ _ _ => a
  | .fin _ _ _, .inf b => !b
  | .fin a m e, .fin b n f =>
    let q := min e f
    decide ((Num.fin a m e).atExp q < (Num.fin b n f).atExp q)

def Num.le (a b : Num) : Bool := !a.isNaN && !b.isNaN && !b.lt a

/-- Equal values (the zeros are equal, a NaN equals nothing). -/
def Num.eqv (a b : Num) : Bool := a.le b && b.le a

/-! ### Tile forms -/

/-- Product types of R69. -/
structure Product where
  code : Nat
  /-- both array modes, or square only -/
  wide : Bool
  passes : Nat
  /-- set rows, dense, square (R69) -/
  rowsSq : Nat
deriving DecidableEq, Repr

/-- R69: the product-type table. -/
def productOf : Nat → Option Product
  | 0x0 => some ⟨0, true, 1, 32⟩
  | 0x1 => some ⟨1, true, 1, 33⟩
  | 0x2 => some ⟨2, true, 1, 25⟩
  | 0x3 => some ⟨3, true, 1, 17⟩
  | 0x4 => some ⟨4, true, 1, 32⟩
  | 0x5 => some ⟨5, false, 1, 64⟩
  | 0x6 => some ⟨6, false, 3, 128⟩
  | 0x7 => some ⟨7, false, 4, 64⟩
  | 0x8 => some ⟨8, false, 2, 32⟩
  | 0x9 => some ⟨9, false, 4, 64⟩
  | 0xA => some ⟨10, false, 4, 128⟩
  | 0xB => some ⟨11, false, 12, 256⟩
  | _ => none

/-- R97: rows of one 128 × 128 tile in 2:4 form. -/
def rows24 : Nat → Nat
  | 0x1 => 21
  | 0x2 => 17
  | 0x3 => 13
  | _ => 20

/-- Element width in bits of the streamed operand of product types 0x0 to 0x5 (R36). -/
def weightBits : Nat → Nat
  | 0x2 => 6
  | 0x3 => 4
  | 0x5 => 16
  | _ => 8

/-- Microscaled product types carry a scale row (R36). -/
def isMx (pt : Nat) : Bool := pt == 1 || pt == 2 || pt == 3

/-- The format of one weight element of product types 0x0 to 0x3 and 0x5 (R85, WFMT). -/
def weightFmt (pt wfmt : Nat) : Fmt :=
  match pt with
  | 0x2 => if wfmt = 0 then fE3M2 else fE2M3
  | 0x3 => fE2M1
  | 0x5 => fBF16
  | _ => if wfmt = 0 then fE4M3 else fE5M2

/-- The bits `[w·q + w − 1 : w·q]` of a little-endian bit string (R36). -/
def bitField (b : Bytes) (start w : Nat) : Nat :=
  (leAt b (start / 8) ((w + start % 8 + 7) / 8) >>> (start % 8)) % 2 ^ w

/-- A little-endian bit string as one number: fields are then taken by shift and mask. -/
def packed (b : Bytes) : Nat := leNat b

/-- The element of flat index `q` (R36): raw bits of a tile's element rows. -/
def elemAt (s w q : Nat) : Nat := (s >>> (w * q)) % 2 ^ w

/-- R96: the six valid nibbles. -/
def nibbleValid (n : Nat) : Bool :=
  n == 0x4 || n == 0x8 || n == 0xC || n == 0x9 || n == 0xD || n == 0xE

/-- R95: an element that is zero: +0 or −0; for INT8 (`int`) 0x00 only. -/
def elemZero (int : Bool) (width w : Nat) : Bool :=
  if int then w == 0 else w % 2 ^ (width - 1) == 0

/-- A 128 × 128 weight tile taken to its dense form: scale bytes (R36 step 1, empty without a scale row) and the
element bits by flat index `k·128 + n` as one packed number. -/
structure Dense where
  scales : Bytes
  elems : Nat
  width : Nat
deriving DecidableEq, Repr

/-- The raw element at reduction index `k`, column `n`. -/
def Dense.at (d : Dense) (k n : Nat) : Nat := elemAt d.elems d.width (k * 128 + n)

/-- The scale byte of block `j` of column `n` (R36). -/
def Dense.scale (d : Dense) (j n : Nat) : Nat := ((d.scales.drop (j * 128 + n)).headD 0).toNat

/-- R36: a dense tile from its rows. -/
def denseOf (pt : Nat) (rows : Bytes) : Dense :=
  if isMx pt then ⟨rows.take 512, packed (rows.drop 512), weightBits pt⟩
  else ⟨[], packed rows, weightBits pt⟩

/-- Pack elements given in flat order into one number. -/
def packList (w : Nat) : List Nat → Nat
  | [] => 0
  | x :: r => x % 2 ^ w + 2 ^ w * packList w r

/-- R97, R100: the dense tile of a 2:4 tile. -/
def dense24 (pt : Nat) (rows : Bytes) : Dense :=
  let sc := if isMx pt then 512 else 0
  let w := weightBits pt
  let md := packed ((rows.drop sc).take 2048)
  let el := packed (rows.drop (sc + 2048))
  let elem (k n : Nat) : Nat :=
    let g := k / 4
    let nib := elemAt md 4 (g * 128 + n)
    if nib % 4 = k % 4 then elemAt el w ((2 * g) * 128 + n)
    else if nib / 4 = k % 4 then elemAt el w ((2 * g + 1) * 128 + n)
    else 0
  ⟨rows.take sc, packList w ((upTo (128 * 128)).map fun q => elem (q / 128) (q % 128)), w⟩

/-- R102: the first failing nibble in bit-string order of a 2:4 tile: its row in the tile and its byte offset. -/
def bad24 (pt : Nat) (rows : Bytes) : Option (Nat × Nat) :=
  let sc := if isMx pt then 512 else 0
  let md := packed ((rows.drop sc).take 2048)
  match (upTo 4096).find? (fun q => !nibbleValid (elemAt md 4 q)) with
  | none => none
  | some q => some (sc / 512 + q / 1024, (q % 1024) / 2)

/-- R104, R105: format of an XCMP tile: exponent and mantissa widths. -/
def xcmpFmt (f : Nat) : Fmt := if f = 0 then fE4M3 else if f = 1 then fE5M2 else fBF16

/-- The first failing check of a list in bit-string order: the bit it fails at. -/
def firstBit (l : List (Bool × Nat)) : Option Nat := (l.find? (·.1)).map (·.2)

/-- The lowest bit set of bits `[hi:lo]`. -/
def lowBit (w hi lo : Nat) : Nat := (((upTo (hi + 1)).drop lo).find? (bitOf w)).getD lo

/-- R105, R107: one coded block at bit `p` of a tile of `rows` rows: the raw elements of 32 indices and the bit after the block, or the
bit at which a check fails. -/
def xcmpBlock (f : Fmt) (s rows p : Nat) : Except Nat (List Nat × Nat) :=
  let hd := (s >>> p) % 2 ^ 16
  let base := hd % 256
  let w := (hd >>> 8) % 16
  let cw := 1 + w + f.mb
  match firstBit [(decide (p + 16 > rows * 4096), p), (decide (base > 2 ^ f.eb - 1), p), (decide (w > f.eb), p + 8),
      (decide (hd >>> 12 ≠ 0), p + lowBit hd 15 12), (decide (p + 16 + 32 * cw > rows * 4096), p)] with
  | some b => .error b
  | none =>
    let el (i : Nat) : Nat × Bool :=
      let c := (s >>> (p + 16 + i * cw)) % 2 ^ cw
      let d := (c >>> 1) % 2 ^ w
      let m := (c >>> (w + 1)) % 2 ^ f.mb
      let e := if w ≥ 1 ∧ d = 2 ^ w - 1 then 0 else base + d
      ((c % 2) * 2 ^ (f.eb + f.mb) + e * 2 ^ f.mb + m, decide (e ≤ 2 ^ f.eb - 1))
    let l := (upTo 32).map el
    match l.findIdx? (fun e => !e.2) with
    | some i => .error (p + 16 + i * cw)
    | none => .ok (l.map (·.1), p + 16 + 32 * cw)

/-- R105: `n` coded blocks in order. -/
def xcmpBlocks (f : Fmt) (s rows : Nat) : Nat → Nat → Except Nat (List (List Nat) × Nat)
  | 0, p => .ok ([], p)
  | n + 1, p =>
    match xcmpBlock f s rows p with
    | .error b => .error b
    | .ok (b, q) =>
      match xcmpBlocks f s rows n q with
      | .error b => .error b
      | .ok (r, z) => .ok (b :: r, z)

/-- R104, R107: the FMT that a command asks for, and the rows of a tile that DENSE flags. -/
def xcmpWant (pt wfmt : Nat) : Nat := if pt = 5 then 2 else wfmt
def xcmpFull (fm : Nat) : Nat := if fm = 2 then 65 else 33

/-- R107: the first bit of a tile word that fails a check; the command gives `pt` and `wfmt`. -/
def xcmpWordBad (pt wfmt : Nat) (row : Bytes) : Option Nat :=
  let tw := leAt row 0 4
  let fm := bits tw 2 1
  let nr := bits tw 22 16
  firstBit [(decide (fm = 3 ∨ fm ≠ xcmpWant pt wfmt), 1), (decide (bits tw 15 3 ≠ 0), lowBit tw 15 3),
    (decide (nr = 0 ∨ nr > xcmpFull fm ∨ (bitOf tw 0 = true ∧ nr ≠ xcmpFull fm)), 16), (decide (bits tw 31 23 ≠ 0), lowBit tw 31 23)]

/-- R104, R107: an XCMP tile from its rows: the dense tile, NROWS and DENSE; or the first bit at which a check of R107 fails. `pt` and
`wfmt` are the command's. The padding checked is that of coded blocks (log entry 98). -/
def denseXcmp (pt wfmt : Nat) (rows : Bytes) : Except Nat (Dense × Nat × Bool) :=
  let s := packed rows
  let tw := s % 2 ^ 32
  let fm := bits tw 2 1
  let nr := bits tw 22 16
  let width := if fm = 2 then 16 else 8
  match xcmpWordBad pt wfmt rows with
  | some b => .error b
  | none =>
    if bitOf tw 0 then .ok (⟨[], (s >>> 32) % 2 ^ ((nr - 1) * 4096), width⟩, nr, true)
    else
      match xcmpBlocks (xcmpFmt fm) s nr 512 32 with
      | .error b => .error b
      | .ok (bl, p) =>
        let pad := (s >>> p) % 2 ^ (nr * 4096 - p)
        if pad ≠ 0 then .error (p + lowBit pad (nr * 4096 - p) 0)
        else
          -- block j of column n is bl[4n + j]; element k of column n is at flat index k·128 + n
          let el (q : Nat) : Nat :=
            let k := q / 128
            let n := q % 128
            (((bl.drop (4 * n + k / 32)).headD []).drop (k % 32)).headD 0
          .ok (⟨[], packList width ((upTo (128 * 128)).map el), width⟩, nr, false)

/-- R104: NROWS of an XCMP tile, from its first row. -/
def xcmpRows (row : Bytes) : Nat := bits (leAt row 0 4) 22 16

/-! ### Tiles and identifiers -/

/-- R10: the tile index c + 48r. -/
def tileIx (c r : Nat) : Nat := c + 48 * r
def tileCol (t : Nat) : Nat := t % 48
def tileRow (t : Nat) : Nat := t / 48

/-- R20: position within the cluster, south to north M, M, V, S, V, M, M. -/
def tilePos (t : Nat) : Nat := tileRow t % 7

inductive Kind where
  | m
  | v
  | s
deriving DecidableEq, Repr

/-- R20: the kind of a tile. -/
def tileKind (t : Nat) : Kind :=
  match tilePos t with
  | 2 => .v
  | 4 => .v
  | 3 => .s
  | _ => .m

/-- R10: field index, region id and cluster id. -/
def tileField (t : Nat) : Nat := tileRow t / 14 * 4 + tileCol t / 12
def tileHalf (t : Nat) : Nat := (tileRow t % 14) / 7
def tileRegion (t : Nat) : Nat := tileField t * 2 + tileHalf t
def tileCluster (t : Nat) : Nat := tileField t * 24 + (tileCol t % 12) * 2 + tileHalf t

/-- R19: the 84 tiles of a region. -/
def regionTiles (g : Nat) : List Nat :=
  let f := g / 2
  let c0 := 12 * (f % 4)
  let r0 := 14 * (f / 4) + 7 * (g % 2)
  (upTo 84).map fun i => tileIx (c0 + i % 12) (r0 + i / 12)

/-- The S-tile of the cluster that holds a tile (R20). -/
def clusterS (t : Nat) : Nat := tileIx (tileCol t) (tileRow t - tileRow t % 7 + 3)

/-- The seven tiles of the cluster of a tile, south to north. -/
def clusterTiles (t : Nat) : List Nat :=
  (upTo 7).map fun i => tileIx (tileCol t) (tileRow t - tileRow t % 7 + i)

/-- The tile encoding of images (chapter 10): bits [11:6] r, bits [5:0] c; 0xFFFF is no tile. -/
def tileCode (t : Nat) : Nat := tileRow t * 64 + tileCol t
def noTile : Nat := 0xFFFF
/-- The tile a 16-bit image encoding names. -/
def tileOfCode (w : Nat) : Option Nat :=
  if w % 64 < 48 ∧ w / 64 < 56 then some (tileIx (w % 64) (w / 64)) else none

/-- R164: the tile on the far side of port 0 north, 1 east, 2 south, 3 west. -/
def neighbour (t port : Nat) : Option Nat :=
  let c := tileCol t
  let r := tileRow t
  match port with
  | 0 => if r < 55 then some (tileIx c (r + 1)) else none
  | 1 => if c < 47 then some (tileIx (c + 1) r) else none
  | 2 => if 0 < r then some (tileIx c (r - 1)) else none
  | 3 => if 0 < c then some (tileIx (c - 1) r) else none
  | _ => none

/-- The port on which a neighbour receives what leaves by `port`. -/
def opposite (port : Nat) : Nat := match port with | 0 => 2 | 1 => 3 | 2 => 0 | 3 => 1 | p => p

/-- R26: a router on an outer edge has a ring port. -/
def onEdge (t : Nat) : Bool :=
  tileRow t == 0 || tileRow t == 55 || tileCol t == 0 || tileCol t == 47

/-- R26: the corners of the grid. -/
def isCorner (t : Nat) : Bool := (tileRow t == 0 || tileRow t == 55) && (tileCol t == 0 || tileCol t == 47)

/-- R27: the field of stack s. -/
def stackField (s : Nat) : Nat :=
  if s < 8 then s / 2
  else if s < 12 then (s - 8) * 4 + 3
  else if s < 20 then 12 + (s - 12) / 2
  else (s - 20) * 4

/-- R27: the edge of stack s, coded as EDGE of R199: 0 north, 1 east, 2 south, 3 west. -/
def stackEdge (s : Nat) : Nat := if s < 8 then 2 else if s < 12 then 1 else if s < 20 then 0 else 3

/-- R26: the 16 segments in their order along the ring: west (south to north), north (west to east), east (north to
south), south (east to west). -/
def segmentIx (edge field : Nat) : Nat :=
  match edge with
  | 3 => field / 4
  | 0 => 4 + field % 4
  | 1 => 8 + (3 - field / 4)
  | _ => 12 + (3 - field % 4)

/-- R28: a segment is the engine's own or adjacent to it along the ring. -/
def segmentNear (a b : Nat) : Bool := a == b || (a + 1) % 16 == b || (b + 1) % 16 == a

end Sys2Proof.Machine
end

