-- ==== Sys2Proof/Machine/Flags.lean ====
section
/-!
DEFINITION. Rounding, conversion and their counts (R37, R42, R45 to R48, R53), FP32 and packed BF16 arithmetic (R111),
the digest of a row (R177) and the saturating counters.
-/

namespace Sys2Proof.Machine

/-- R45: the rounding modes; RS carries the 16-bit draw of the element (R48). -/
inductive Rm where
  | rne
  | rz
  | rs (u : Nat)
deriving DecidableEq, Repr

/-- The result of rounding: bits, or an overflow with its sign. -/
inductive Rounded where
  | ok (w : Nat)
  | above (neg : Bool)
deriving DecidableEq, Repr

/-- R45, R48: whether the magnitude rounds up: kept part `q`, the `s` discarded bits `r`. -/
def roundsUp (rm : Rm) (q r s : Nat) : Bool :=
  match rm with
  | .rne => decide (2 * r > 2 ^ s) || (decide (2 * r = 2 ^ s) && q % 2 == 1)
  | .rz => false
  | .rs u => decide ((if s ≥ 16 then r >>> (s - 16) else r <<< (16 - s)) + u ≥ 2 ^ 16)

/-- Round `(-1)^neg · m · 2^e` to a format: one rounding, subnormals kept. -/
def Fmt.round (f : Fmt) (rm : Rm) (neg : Bool) (m : Nat) (e : Int) : Rounded :=
  let sgn := if neg then 2 ^ (f.eb + f.mb) else 0
  if m = 0 then .ok sgn
  else
    let emin : Int := 1 - (f.bias : Int)
    let top : Int := (Nat.log2 m : Int) + e
    let q : Int := max top emin - f.mb
    let k : Nat :=
      if q ≤ e then m * 2 ^ (e - q).toNat
      else
        let s := (q - e).toNat
        let k := m >>> s
        if roundsUp rm k (m % 2 ^ s) s then k + 1 else k
    let (k, q) := if k = 2 ^ (f.mb + 1) then (2 ^ f.mb, q + 1) else (k, q)
    let fld : Int := if k < 2 ^ f.mb then 0 else q + f.mb + f.bias
    let ones : Int := (2 ^ f.eb - 1 : Nat)
    let above : Bool :=
      match f.sp with
      | .ieee => decide (fld ≥ ones)
      | .none => decide (fld > ones)
      | .e4m3 => decide (fld > ones) || (decide (fld = ones) && k % 2 ^ f.mb == 2 ^ f.mb - 1)
    if above then .above neg else .ok (sgn + fld.toNat * 2 ^ f.mb + k % 2 ^ f.mb)

/-- The largest finite encoding of a format, without its sign. -/
def Fmt.maxFin (f : Fmt) : Nat :=
  match f.sp with
  | .ieee => (2 ^ f.eb - 2) * 2 ^ f.mb + (2 ^ f.mb - 1)
  | .none => 2 ^ (f.eb + f.mb) - 1
  | .e4m3 => 2 ^ (f.eb + f.mb) - 2

/-- R42, R53: the canonical NaN of FP32 and of BF16. -/
def nan32 : Nat := 0x7FC00000
def nan16 : Nat := 0x7FC0

/-- R42, R53, R111: an exact number to FP32, or BF16, under RNE with overflow to infinity. -/
def ieeeOf (f : Fmt) (nanBits : Nat) : Num → Nat
  | .nan => nanBits
  | .inf s => (if s then 2 ^ (f.eb + f.mb) else 0) + (2 ^ f.eb - 1) * 2 ^ f.mb
  | .fin s m e =>
    match f.round .rne s m e with
    | .ok w => w
    | .above s => (if s then 2 ^ (f.eb + f.mb) else 0) + (2 ^ f.eb - 1) * 2 ^ f.mb

def f32 (x : Num) : Nat := ieeeOf fFP32 nan32 x
def b16 (x : Num) : Nat := ieeeOf fBF16 nan16 x
def ofF32 (w : Nat) : Num := fFP32.decode w
def ofB16 (w : Nat) : Num := fBF16.decode w

def f32Add (a b : Nat) : Nat := f32 ((ofF32 a).add (ofF32 b))
def f32Sub (a b : Nat) : Nat := f32 ((ofF32 a).add (ofF32 b).negate)
def f32Mul (a b : Nat) : Nat := f32 ((ofF32 a).mul (ofF32 b))
/-- R111: a fused multiply-add rounds once. -/
def f32Fma (a b c : Nat) : Nat := f32 (((ofF32 a).mul (ofF32 b)).add (ofF32 c))

/-- R53: one addition of a reduction tree, in FP32 (`false`) or BF16 (`true`). -/
def treeAdd (bf : Bool) (a b : Nat) : Nat :=
  if bf then b16 ((ofB16 a).add (ofB16 b)) else f32Add a b

/-- R41 step 3: add one group's scaled sum to an FP32 accumulator, one rounding. -/
def accAdd (acc : Nat) (x : Num) : Nat := f32 ((ofF32 acc).add x)

/-- Destination formats of a conversion (R46, R85 OFMT, R113). -/
inductive Cvt where
  | fp32
  | bf16
  | e4m3
  | e5m2
  | int8 (uns : Bool)
deriving DecidableEq, Repr

/-- Bytes of one converted element. -/
def Cvt.size : Cvt → Nat
  | .fp32 => 4
  | .bf16 => 2
  | _ => 1

/-- OFMT of R85. -/
def cvtOf : Nat → Option Cvt
  | 0 => some .fp32
  | 1 => some .bf16
  | 2 => some .e4m3
  | 3 => some .e5m2
  | 4 => some (.int8 false)
  | 5 => some (.int8 true)
  | _ => none

/-- A converted element with the two counts of R47: saturated, NaN written. -/
structure Conv where
  w : Nat
  sat : Bool
  nan : Bool
deriving DecidableEq, Repr

/-- R46: conversion to INT8 of a number, rounded to an integer in the mode in force. -/
def toInt8 (rm : Rm) (uns : Bool) (x : Num) : Conv :=
  let lo : Int := if uns then 0 else -128
  let hi : Int := if uns then 255 else 127
  let enc (v : Int) : Nat := (v % 256).toNat
  match x with
  | .nan => ⟨0, false, false⟩
  | .inf s => ⟨enc (if s then lo else hi), true, false⟩
  | .fin s m e =>
    let k : Nat :=
      if 0 ≤ e then m * 2 ^ e.toNat
      else
        let n := (-e).toNat
        let q := m >>> n
        if roundsUp rm q (m % 2 ^ n) n then q + 1 else q
    let v : Int := if s then -(k : Int) else k
    if v < lo then ⟨enc lo, true, false⟩ else if v > hi then ⟨enc hi, true, false⟩ else ⟨enc v, false, false⟩

/-- R46: conversion to a floating-point target. -/
def toFmt (f : Fmt) (nanBits : Nat) (rm : Rm) (nsat : Bool) (x : Num) : Conv :=
  let sb (s : Bool) : Nat := if s then 2 ^ (f.eb + f.mb) else 0
  let infBits (s : Bool) : Conv :=
    match f.sp with
    | .ieee => ⟨sb s + (2 ^ f.eb - 1) * 2 ^ f.mb, false, false⟩
    | _ => ⟨nanBits, false, true⟩
  match x with
  | .nan => ⟨nanBits, false, true⟩
  | .inf s => infBits s
  | .fin s m e =>
    match f.round rm s m e with
    | .ok w => ⟨w, false, false⟩
    | .above s => if nsat then infBits s else ⟨sb s + f.maxFin, true, false⟩

/-- R46: convert an FP32 element. -/
def convert (c : Cvt) (rm : Rm) (nsat : Bool) (w : Nat) : Conv :=
  match c with
  | .fp32 => ⟨w, false, (ofF32 w).isNaN⟩
  | .bf16 => toFmt fBF16 nan16 rm nsat (ofF32 w)
  | .e4m3 => toFmt fE4M3 0x7F rm nsat (ofF32 w)
  | .e5m2 => toFmt fE5M2 0x7F rm nsat (ofF32 w)
  | .int8 u => toInt8 rm u (ofF32 w)

/-- R37: the exponent of the largest magnitude's format, emax. -/
def emaxOf (f : Fmt) : Int :=
  if f = fE4M3 then 8 else if f = fE5M2 then 15 else if f = fE3M2 then 4 else 2

/-- ⌊log2⌋ of a finite non-zero magnitude. -/
def floorLog2 : Num → Int
  | .fin _ m e => (Nat.log2 m : Int) + e
  | _ => 0

/-- The larger magnitude of two finite numbers. -/
def maxMag (a b : Num) : Num := if a.absolute.lt b.absolute then b.absolute else a.absolute

/-- R37: encode a block of values into a microscaling format: the scale byte and the elements. `rms` gives the
rounding mode of each element. -/
def mxEncode (f : Fmt) (vals : List (Num × Rm)) : Nat × List Conv :=
  if vals.any (fun v => match v.1 with | .fin _ _ _ => false | _ => true) then
    (0xFF, vals.map fun _ => ⟨0, false, false⟩)
  else
    let a := vals.foldl (fun acc v => maxMag acc v.1) (.fin false 0 0)
    if a.isZero then (0, vals.map fun _ => ⟨0, false, false⟩)
    else
      let x := max (-127) (min 127 (floorLog2 a - emaxOf f))
      ((x + 127).toNat, vals.map fun v =>
        match v.1.scale2 (-x) with
        | .fin s m e =>
          match f.round v.2 s m e with
          | .ok w => ⟨w, false, false⟩
          | .above s => ⟨(if s then 2 ^ (f.eb + f.mb) else 0) + f.maxFin, true, false⟩
        | _ => ⟨0, false, false⟩)

/-- Counts of R47 over converted elements. -/
def satCount (l : List Conv) : Nat := (l.filter (·.sat)).length
def nanCount (l : List Conv) : Nat := (l.filter (·.nan)).length

/-- R49: the two BF16 parts of an FP32 operand, (hi, lo). -/
def splitBf16 (w : Nat) : Nat × Nat :=
  let hi := (toFmt fBF16 nan16 .rne false (ofF32 w)).w
  let lo := (toFmt fBF16 nan16 .rne true ((ofF32 w).add (ofB16 hi).negate)).w
  (hi, lo)

/-! ### Digest -/

/-- R177: the polynomial 0x42F0_E1EB_A9EA_3693 reflected. -/
def crcPoly : Nat := 0xC96C5795D7870F42

/-- One bit of the CRC, least significant bit first. -/
def crcBit : Nat → Nat → Nat
  | 0, c => c
  | n + 1, c => crcBit n (if c % 2 = 1 then (c / 2) ^^^ crcPoly else c / 2)

/-- One byte of the CRC. -/
def crcByte (c : Nat) (b : Byte) : Nat := crcBit 8 (c ^^^ b.toNat)

/-- R177: CRC-64 of a byte string in ascending byte order. -/
def crc64 (b : Bytes) : W64 :=
  BitVec.ofNat 64 (b.foldl crcByte 0xFFFFFFFFFFFFFFFF ^^^ 0xFFFFFFFFFFFFFFFF)

/-! ### Counters -/

/-- R110, R162, R190, R215: a 48-bit saturating counter. -/
def count48 (a b : Nat) : Nat := satAdd (2 ^ 48 - 1) a b

/-- R91: an 8-bit saturating count. -/
def count8 (a b : Nat) : Nat := satAdd 255 a b

/-- R161: a 64-bit saturating count. -/
def count64 (a b : Nat) : Nat := satAdd (2 ^ 64 - 1) a b

end Sys2Proof.Machine
end

