-- ==== Sys2Proof/Machine/State.lean ====
section
/-!
DEFINITION. The state of the block: plain data, holding every piece of state the manual gives the machine. INVENTORY.md
lists each field with the rule that names it and its reset value.
-/

namespace Sys2Proof.Machine

/-- The model's own stops: a command that names a unit the device does not have. Safe: the hardware has no such unit, so
no claim about it is lost. The hardware's own faults are state, not these. -/
inductive Fault where
  /-- raised by every command whose operand names a tile, region, stack, engine, field or partition outside the device,
  or a tile of another kind than the command's core -/
  | noSuchUnit
deriving DecidableEq, Repr

/-- Commands without a meaning. -/
inductive Refusal where
  /-- raised by an arm of `exec` whose command has no meaning yet; safe -/
  | notModelled (mnemonic : String)
deriving DecidableEq, Repr

/-! ### Tiles -/

/-- R64: a tile set in the turn buffer: its weight tiles in dense form, the tiles it still lacks, and the rows the whole of it
takes there. `half` is set when a set of a complex product has served the first of its two steps (R83). -/
structure TileSet where
  tiles : List Dense
  need : Nat
  rows : Nat
  half : Bool
deriving DecidableEq, Repr

/-- R57, R61, R108: a sub-block in the array's registers: its first scratchpad row, its contents, and the zero mask recorded as it
was loaded under ZOBS. -/
structure SubBlock where
  row : Nat
  data : Bytes
  mask : Nat
deriving DecidableEq, Repr

/-- R84, R89: a DRAIN or an ACCLD in progress: its word and index, the results of its row checks, the accumulator rows begun and
finished, converted bytes that do not yet fill a row, and whether it was issued after the MMA in progress. -/
structure SideRun where
  word : Nat
  ix : Nat
  es : List Ecc
  begun : Nat
  done : Nat
  buf : Bytes
  later : Bool
deriving DecidableEq, Repr

/-- R86: an MMA in progress: its word and index, step `p`, 128-column group `j`, the finished columns of the output tile not yet
sent (each a list of FP32 values by logical row), the destination rows written, and of a sampled pass the columns so far
(R363). -/
structure MmaRun where
  word : Nat
  ix : Nat
  p : Nat
  j : Nat
  out : List (List Nat)
  outIm : List (List Nat)
  rowsOut : Nat
  sampled : Option (List (List Nat))
deriving DecidableEq, Repr

/-- R363: a capture held in rows 16,128 to 16,383 of the deep store. -/
structure Capture where
  tile : Nat
  word : Nat
  ix : Nat
  loop : Nat
  step : Nat
  beat : Nat
  cyc : Nat
  dig : Nat
deriving DecidableEq, Repr

/-- R148: an open row-buffer slot. -/
structure RowSlot where
  row : Nat
  data : Bytes
  mask : Nat
deriving DecidableEq, Repr

/-- R180, R182: where a message goes: a tile's endpoint, a tile's relay endpoint (R200), a control core's endpoint, the endpoint
at which a region's supervisor takes fault reports (R137). -/
inductive Dest where
  | ep (t e : Nat)
  | relay (t : Nat)
  | control (c : Nat)
  | sup (g : Nat)
deriving DecidableEq, Repr

/-- Whose send is unresolved on a channel (R183). -/
inductive SndKind where
  | core | post | vstat | notice | report
deriving DecidableEq, Repr

/-- R183: an unresolved send on a channel: `n` attempts made, `waiting` while in the backoff wait, `stalled` once its bound is
passed. -/
structure Snd where
  kind : SndKind
  dst : Option Dest
  words : List W64
  n : Nat
  bound : Nat
  waiting : Bool
  stalled : Bool
deriving DecidableEq, Repr

/-- R183: a notice or a report behind an unresolved send on its channel. -/
structure Queued where
  ch : Nat
  kind : SndKind
  words : List W64
deriving DecidableEq, Repr

/-- R180, R182: a message in flight from the channel `ch` of `src` (a tile, 2,688 plus a copy engine, or 2,784 plus a control core);
or its reply on the way back, ACCEPTED or NAK. -/
structure Msg where
  src : Nat
  ch : Nat
  dst : Dest
  words : List W64
  reply : Option Bool
deriving DecidableEq, Repr

/-- R163: a packet: one row with its digest, transpose flag and the label on the link it travels. -/
structure Packet where
  label : Nat
  xp : Nat
  dig : W64
  row : Bytes
deriving DecidableEq, Repr

/-- R175: a reduction operand, with the port it came through and the label there (R187). -/
structure Operand where
  port : Nat
  pkt : Packet
deriving DecidableEq, Repr

/-- R173: a skew buffer in use: the route's input port and label, and for each branch the packets it has sent of those
held. -/
structure Skew where
  port : Nat
  label : Nat
  held : List Packet
  sent : List (Nat × Nat)
deriving DecidableEq, Repr

/-- R155: a transposing tile buffer: transpose flag, first deep-store row, the endpoint descriptor its rows come through, the rows
that have arrived. -/
structure TileBuf where
  xp : Nat
  d : Nat
  ep : Nat
  rows : List Bytes
deriving DecidableEq, Repr

/-- R200: a command held at the relay endpoint. -/
structure RelayCmd where
  d : Nat
  rows : Nat
  rr : Nat
  tag : Nat
  engine : Nat
deriving DecidableEq, Repr

/-- One tile: its core, its memories' side state, its routers and its ports. -/
structure Tile where
  stopped : Bool
  store : Tab Nat
  seqIx : Nat
  loop : Nat
  wide : Bool
  modeReq : Option Bool
  mma : Option MmaRun
  side : List SideRun
  stat : Option SubBlock
  shadow : Option SubBlock
  chain : Bool
  outQ : List Packet
  pendingUe : Bool
  ringFill : Nat
  ringUse : Nat
  ringCnt : Nat
  turn : List TileSet
  starts : List W64
  nDone : Nat
  nSat : Nat
  nNan : Nat
  nDrawn : Nat
  posted : Bool
  passes : Nat
  capture : Option Capture
  streamBase : Nat
  streamOwn : List Nat
  slots : Tab (Option RowSlot)
  eps : Tab (List (List W64))
  waitB : Option Nat
  bres : Nat
  late : Nat
  result : Nat
  value : W64
  rcvd : List W64
  recvWait : Option Nat
  leaveWait : Bool
  sends : Tab (Option Snd)
  sendQ : List Queued
  routes : Tab W32
  droutes : Tab Nat
  epd : Tab W64
  epPtr : Tab Nat
  epCnt : Tab Nat
  epNote : Tab Nat
  mroutes : Tab W64
  red : Tab W32
  opBuf : Tab (List Operand)
  inBuf : Tab (List Packet)
  tileIn : List (Nat × Packet)
  skew : Tab (Option Skew)
  blocked : List Nat
  unitFence : List Nat
  selfFenced : Bool
  breachSeen : List Nat
  labelSeen : List Nat
  ctr : Tab Nat
  occ : Tab Nat
  ceSeen : Bool
  ceCount : Nat
  stalls : List (Nat × Nat)
  relayQ : List RelayCmd
  vpQ : List VpReq
  vpWrite : Bool
  tbufs : List TileBuf
  scrubRow : Nat
  scrubHit : List Nat
  scrubOld : List Nat
  weak : Bool
  clk : Option Nat
  clkIn : Nat
  noClk : Bool
deriving DecidableEq, Repr

/-- A tile right after reset. -/
def Tile.init : Tile :=
  { stopped := false, store := [], seqIx := 0, loop := 0, wide := false, modeReq := none, mma := none, side := [],
    stat := none, shadow := none, chain := false, outQ := [], pendingUe := false, ringFill := 0, ringUse := 0, ringCnt := 0, turn := [], starts := [], nDone := 0,
    nSat := 0, nNan := 0, nDrawn := 0, posted := false, passes := 0, capture := none, streamBase := 0,
    streamOwn := [], slots := [], eps := [], waitB := none, bres := 0, late := 0, result := 0, value := 0, rcvd := [],
    recvWait := none, leaveWait := false, sends := [], sendQ := [], routes := [], droutes := [], epd := [], epPtr := [],
    epCnt := [], epNote := [], mroutes := [], red := [], opBuf := [], inBuf := [], tileIn := [], skew := [],
    blocked := [], unitFence := [], selfFenced := false, breachSeen := [], labelSeen := [], ctr := [], occ := [],
    ceSeen := false, ceCount := 0, stalls := [], relayQ := [], vpQ := [], vpWrite := false, tbufs := [],
    scrubRow := 0, scrubHit := [], scrubOld := [], weak := false, clk := none, clkIn := 0, noClk := false }

/-! ### Regions -/

/-- R24: the region states, from highest to lowest. -/
inductive RegSt where
  | active | stopped | dark | moulting | untested | unusable
deriving DecidableEq, Repr

/-- 0x3020.01: the coding of a region state. -/
def RegSt.code : RegSt → Nat
  | .active => 0
  | .stopped => 1
  | .dark => 2
  | .moulting => 3
  | .untested => 4
  | .unusable => 5

/-- R254: the region record of the loaded image. -/
structure RegRec where
  id : Nat
  work : Bool
  reserve : Bool
  crit : Nat
  w : Nat
  iPlan : Nat
  leaveFirst : Nat
  leaveCount : Nat
  spareM : Nat
  spareV : Nat
  spares : List Nat
  sup : Nat
  standby : Nat
deriving DecidableEq, Repr

def RegRec.none : RegRec :=
  { id := 0, work := false, reserve := false, crit := 0, w := 0, iPlan := 0, leaveFirst := 0, leaveCount := 0, spareM := 0, spareV := 0,
    spares := [], sup := 0xFFFF, standby := 0xFFFF }

/-- R338: a leave grant: its number, the tile that holds it (2,688 for a wake's stage), its increment in 0.1 A, the
leave-table entry of a planned one and the beat cycle at which it begins. -/
structure Grant where
  n : Nat
  tile : Nat
  inc : Nat
  entry : Option Nat
  start : Nat
deriving DecidableEq, Repr

/-- R340: an S-core's request waiting at its field's steward: increment in 0.1 A, duration and bound, the µs it has waited,
and whether it is inrush leave (a planned entry of KIND 2, R336), which has no bound. -/
structure LeaveReq where
  n : Nat
  region : Nat
  tile : Nat
  inc : Nat
  us : Nat
  bound : Nat
  waited : Nat
  inrush : Bool
deriving DecidableEq, Repr

/-- R373: a moult: its phase 1 to 7, its handle and kind, and the failures found so far. -/
structure MoultRun where
  phase : Nat
  handle : Nat
  badTiles : List Nat
  badPhases : Nat
  noSpare : List Nat
deriving DecidableEq, Repr

/-- R243: the figures of a beat that ran to its region mark: work end, stretch counter, stretched periods, cycles, stop time, slack. -/
structure BeatFigs where
  work : Nat
  str : Nat
  strP : Nat
  cyc : Nat
  stop : Nat
  slack : Int
deriving DecidableEq, Repr

def BeatFigs.none : BeatFigs := { work := 0, str := 0, strP := 0, cyc := 0, stop := 0, slack := 0 }

structure Region where
  st : RegSt
  sup : Nat
  standby : Nat
  rg : RegRec
  op : Nat
  railOp : Nat
  opPend : Nat
  opPendBeat : Nat
  opNext : List (Nat × Nat)
  markOf : Nat
  marked : Bool
  cyc : Nat
  strE : Nat
  strP : Nat
  stopNs : Nat
  lateCyc : Nat
  workEnd : Nat
  workNs : Nat
  markNs : Nat
  figs : BeatFigs
  rep : BeatFigs
  lateLast : Nat
  lag : Nat
  changing : Bool
  gathered : Tab Nat
  causes : Nat
  inputSeen : Bool
  clkSw : Nat
  reports : List Report
  tele : Tab Nat
  sums : Tab Nat
  silent : Nat
  repDue : Bool
  sentRep : Bool
  phases : Nat
  j : Nat
  i10 : Nat
  i1m : Nat
  iPrev : Nat
  hot10 : Bool
  hot1m : Bool
  slope : Bool
  slopeSeen : Bool
  railSeen : List Nat
  trim : Nat
  iStore10 : Nat
  iStore1m : Nat
  pcapStr : Nat
  droop : Bool
  thrDur : Tab Nat
  temps : List Int
  hotSince : Nat
  hotRun : Nat
  cool : Bool
  hotThr : Bool
  thStr : Nat
  thPt : Nat
  heatOff : Bool
  waking : Bool
  wakeK : Nat
  wakeMoult : Bool
  wakeTurn : Bool
  wakePt : Nat
  wakeAt : Nat
  grants : List Grant
  crit : Bool
  lost : Bool
  moult : Option MoultRun
  moultLast : Nat
  moultRes : Nat
  dropSeen : Nat
deriving DecidableEq, Repr

/-- A region right after reset, before bring-up (R24, 0x3020.01 default 2 Dark). -/
def Region.init : Region :=
  { st := .dark, sup := 0xFFFF, standby := 0xFFFF, rg := .none, op := 0, railOp := 0, opPend := 0xFF, opPendBeat := 0, opNext := [],
    markOf := 0, marked := false, cyc := 0, strE := 0, strP := 0, stopNs := 0,
    lateCyc := 0, workEnd := 0, workNs := 0, markNs := 0, figs := .none, rep := .none, lateLast := 0, lag := 0, changing := false, gathered := [], causes := 0, inputSeen := false,
    clkSw := 0, reports := [], tele := [], sums := [], silent := 0, repDue := false, sentRep := false, phases := 0,
    j := 4000, i10 := 0, i1m := 0, iPrev := 0, hot10 := false, hot1m := false, slope := false, slopeSeen := false,
    railSeen := [], trim := 0, iStore10 := 0, iStore1m := 0, pcapStr := 0, droop := false, thrDur := [],
    temps := [0, 0, 0, 0, 0], hotSince := 0, hotRun := 0, cool := false, hotThr := false, thStr := 0, thPt := 0, heatOff := false,
    waking := false, wakeK := 0, wakeMoult := false, wakeTurn := false, wakePt := 0, wakeAt := 0, grants := [], crit := false,
    lost := false, moult := none, moultLast := 0, moultRes := 0,
    dropSeen := 0 }

/-! ### Fields, stacks, engines, ports -/

/-- R255: an entry of a field's leave table. -/
structure LeaveEntry where
  entry : Nat
  region : Nat
  kind : Nat
  start : Nat
  dur : Nat
  inc : Nat
deriving DecidableEq, Repr

structure Field where
  leave : List LeaveEntry
  queue : List LeaveReq
  nextN : Nat
  i18 : Nat
  i18m : Nat
  wakeWait : Nat
  planeOff : Bool
  noClk : Bool
  wordLost : Bool
  tcOff : Int
  delay : Nat
deriving DecidableEq, Repr

def Field.init : Field :=
  { leave := [], queue := [], nextN := 1, i18 := 0, i18m := 0, wakeWait := 0, planeOff := false,
    noClk := false, wordLost := false, tcOff := 0, delay := 0 }

/-- R197 to R215: one HBM stack and its controller. -/
structure Stack where
  st : Nat
  live : Nat
  temp : Int
  trainT : Int
  ctr : Tab Nat
  tele : Tab Nat
  patrol : Nat
  patrolHit : List Nat
  patrolOld : List Nat
  weakRows : List Nat
  spares : Nat
  ceSeen : Bool
  ceN : Nat
  retr : Option Nat
  tries : Nat
  drift : List Nat
  handle : Nat
  p1m : Nat
  withhold : Bool
  railSeen : List Nat
  hot85 : Bool
  selfRef : Bool
deriving DecidableEq, Repr

def Stack.init : Stack :=
  { st := 0, live := 0, temp := 0, trainT := 0, ctr := [], tele := [], patrol := 0, patrolHit := [], patrolOld := [],
    weakRows := [], spares := 0, ceSeen := false, ceN := 0, retr := none, tries := 0, drift := [], handle := 0,
    p1m := 0, withhold := false, railSeen := [], hot85 := false, selfRef := false }

/-- A copy in progress: the descriptor, its plan index (8,192 for a Wenwyn descriptor), the rows or packets done (RELAY: one more
when its command goes out and when it is turned away), and of PAPPEND the packets of the present slot. -/
structure CopyRun where
  d : Nat
  ix : Nat
  done : Nat
  buf : Bytes
deriving DecidableEq, Repr

structure Engine where
  plan : Tab Nat
  planN : Nat
  ix : Nat
  passBeat : Nat
  busy : Option CopyRun
  wq : List Nat
  wBusy : Option CopyRun
  repl : Tab (Option Nat)
  ctr : Tab Nat
  tele : Tab Nat
deriving DecidableEq, Repr

def Engine.init : Engine :=
  { plan := [], planN := 0, ix := 0, passBeat := 0, busy := none, wq := [],
    wBusy := none, repl := [], ctr := [], tele := [] }

/-- R405, 0x5010: a front port, kept at its first lane. -/
structure Port where
  up : Bool
  width : Nat
  lanes : Nat
  rate : Nat
  retr : Option Nat
deriving DecidableEq, Repr

def Port.init : Port := { up := false, width := 0, lanes := 0, rate := 0, retr := none }

/-! ### Time and beats -/

/-- R218: the time states. -/
inductive TimeSt where
  | unset | acquiring | locked | holdover | freerun
deriving DecidableEq, Repr

def TimeSt.code : TimeSt → Nat
  | .unset => 0
  | .acquiring => 1
  | .locked => 2
  | .holdover => 3
  | .freerun => 4

structure TimeUnit where
  now : Nat
  valid : Bool
  st : TimeSt
  src : Nat
  offs : List Int
  good : Nat
  far : Nat
  errIn : Nat
  errAge : Nat
  untaken : Bool
  byHand : Bool
  track : Int
  slew : Int
  pathDelay : Int
  masters : List (Bytes × Bytes × Int)
  master : Option Bytes
  ptpQ : Bool
  ppsQ : Bool
  refQ : Bool
  ppsGood : Nat
  ppsBad : Nat
  newLane : Nat
  ppsNext : Option Nat
  dropped : Nat
  utc : Int
deriving DecidableEq, Repr

def TimeUnit.init : TimeUnit :=
  { now := 0, valid := false, st := .unset, src := 0, offs := [], good := 0, far := 0, errIn := 0xFFFFFFFF, errAge := 0,
    untaken := true, byHand := false, track := 0, slew := 0, pathDelay := 0, masters := [], master := none, ptpQ := false, ppsQ := false,
    refQ := false, ppsGood := 0, ppsBad := 0, newLane := 0, ppsNext := none, dropped := 0, utc := 0 }

structure Beat where
  len : Nat
  count : Nat
  nextMark : Nat
  mark : Nat
  overruns : Nat
  losses : Nat
  abandoned : Bool
  replay : Bool
  replays : Nat
  work : Bool
  sixteenth : Nat
deriving DecidableEq, Repr

def Beat.init : Beat :=
  { len := 20000, count := 0, nextMark := 0, mark := 0, overruns := 0, losses := 0, abandoned := false, replay := false,
    replays := 0, work := false, sixteenth := 0 }

/-! ### Power and heat -/

structure Pwr where
  pIn : Nat
  vIn : Nat
  pcap : Bool
  pcapLim : Nat
  inCut : Bool
  inLow : Nat
  inNeed : Nat
  legacy : Bool
  legacyReq : Option Bool
  pRing : Nat
  railSeen : List Nat
  releaseDue : Bool
deriving DecidableEq, Repr

def Pwr.init : Pwr :=
  { pIn := 0, vIn := 0, pcap := false, pcapLim := 9000, inCut := false, inLow := 0, inNeed := 0, legacy := false,
    legacyReq := none, pRing := 0, railSeen := [], releaseDue := false }

structure Therm where
  ring : List Int
  coolant : Bool
  halted : Bool
  hbmHalt : Bool
  tripped : Bool
  halts : Nat
deriving DecidableEq, Repr

def Therm.init : Therm :=
  { ring := [0, 0, 0, 0], coolant := true, halted := false, hbmHalt := false, tripped := false,
    halts := 0 }

/-! ### Faults -/

/-- R384: an event record. -/
structure Event where
  seq : Nat
  time : Nat
  beat : Nat
  cyc : Nat
  code : Nat
  cls : Nat
  region : Nat
  source : Nat
  tile : Nat
  unit : Nat
  instar : Nat
  handle : Nat
  d0 : Nat
  d1 : Nat
  d2 : Nat
  d3 : Nat
  action : Nat
  flags : Nat
  count : Nat
deriving DecidableEq, Repr

/-- R365: a dispute: whether at a digest check, the unit that produced (a tile, or 2,688 plus a copy engine), whether it has
no second core (R369), the disputed pass, the tile of the checking place, O and C, the beat of detection and the beats
since. -/
structure Dispute where
  digest : Bool
  producer : Nat
  noSecond : Bool
  pass : Nat
  checker : Nat
  orig : Nat
  chk : Nat
  beat : Nat
  age : Nat
deriving DecidableEq, Repr

/-- What a fault's path calls for (R358, R359), kept with the class of the fault: a row rewritten (0 where its source is
the replay), the weight rows of a tile's deep store rewritten, a strike against a unit (`chan` for a channel stall), a tile declared faulty or fenced, its patch, a standby supervisor promoted, a detour
set, a dispute's replay, a beat replay, a stack restored. -/
inductive Repair where
  | rewrite (id : Nat) | restage (t : Nat) | strike (u : Nat) | chan (u : Nat) | declare (t : Nat) | fence (t : Nat) | patch (t : Nat) | promote (g : Nat) | detour (g : Nat) | dispute | replay
  | stack (s : Nat)
deriving DecidableEq, Repr

structure Flt where
  log : List Event
  evNext : Nat
  evOldest : Nat
  evLost : Nat
  samples : Nat
  skipped : Nat
  transients : Nat
  strikes : Nat
  fenced : Nat
  suspect : Nat
  unresolved : Nat
  stops : Nat
  whole : Bool
  todo : List (Nat × Repair)
  restart : Bool
  disputes : List Dispute
  progSeen : Option (Nat × Nat × Nat)
  queueM : Nat
  hwFenced : List Nat
  stallHold : List (Nat × Nat)
  unresSeen : List (Nat × Nat)
  retest : Nat
deriving DecidableEq, Repr

def Flt.init : Flt :=
  { log := [], evNext := 1, evOldest := 1, evLost := 0, samples := 0, skipped := 0, transients := 0, strikes := 0,
    fenced := 0, suspect := 0, unresolved := 0, stops := 0, whole := false, todo := [], restart := false,
    disputes := [], progSeen := none, queueM := 0, hwFenced := [], stallHold := [],
    unresSeen := [], retest := 0 }

/-- R378: a committed chrysalis slot: the fields of its record, the data positions and the state rows. -/
structure Chry where
  flags : Nat
  step : Nat
  loss : Nat
  ntensor : Nat
  nstream : Nat
  ninput : Nat
  rows : Nat
  time : Nat
  handle : Nat
  image : Bytes
  hash : Bytes
  data : Tab Nat
  state : Bytes
deriving DecidableEq, Repr

structure Train where
  st : Nat
  step : Nat
  losses : List (Nat × Nat)
  lastLoss : Nat
  slotA : Option Chry
  slotB : Option Chry
  writing : Option (Nat × Nat)
  snapReq : Option Nat
  verifyLeft : Nat
  batches : List (Nat × Nat × Bytes)
  data : Tab Nat
  mirrors : Tab Nat
  mirrorRows : Tab Bytes
  late : List Nat
  restoring : Option (Nat × Nat × Nat)
  replayed : Bool
  tried : List Nat
  restores : Nat
  fallbacks : Nat
  exportData : Bytes
deriving DecidableEq, Repr

def Train.init : Train :=
  { st := 0, step := 0, losses := [], lastLoss := 0, slotA := none, slotB := none, writing := none, snapReq := none,
    verifyLeft := 0, batches := [], data := [], mirrors := [], mirrorRows := [], late := [], restoring := none, replayed := false,
    tried := [], restores := 0, fallbacks := 0, exportData := [] }

/-! ### Meter -/

/-- R317: a meter record by fields; `body` holds bytes 24 to 207. `key` orders a round's records: the beat, and the
handle of a request record. -/
structure MRec where
  kind : Nat
  chain : Nat
  seq : Nat
  epoch : Nat
  flags : Nat
  body : Bytes
  cover : Nat
  tSeal : Nat
  prev : Bytes
  hash : Bytes
  sig : Bytes
  beat : Nat
  handle : Nat
  sent : Bool
deriving DecidableEq, Repr

/-- R310 to R316: what the meter remembers of a failed or a missed beat. -/
structure Gap where
  first : Nat
  last : Nat
  eIn : Nat
  eReq : Nat
  eFault : Nat
  eUn : Nat
deriving DecidableEq, Repr

/-- Points of R308: 0 the module input, 1 to 32 the logic rails, 33 to 64 the store-tier supplies, 65 to 88 the stacks,
89 the ring. -/
structure Meter where
  st : Nat
  pBase : Nat
  qualN : Nat
  qualE : Nat
  residLast : Int
  failLast : List Nat
  residOver : Nat
  eIn : Nat
  eUn : Nat
  eFault : Nat
  over16 : Nat
  ok256 : Nat
  acc : Tab Nat
  miss : Tab Nat
  range : List Nat
  lastGood : Tab Nat
  ring : List MRec
  pend : List MRec
  missed : Option Gap
  low : Bool
  seqs : Tab Nat
  hashes : Tab Bytes
  epochHash : Bytes
  round : Nat
  wctx : Tab Nat
  initial : Bool
  begun : Bool
  eBefore : Nat
  ackd : Tab Nat
deriving DecidableEq, Repr

def Meter.init : Meter :=
  { st := 0, pBase := 0, qualN := 0, qualE := 0, residLast := 0, failLast := [], residOver := 0, eIn := 0, eUn := 0, eFault := 0,
    over16 := 0, ok256 := 0, acc := [], miss := [], range := [], lastGood := [],
    ring := [], pend := [], missed := none, low := false, seqs := [], hashes := [],
    epochHash := [], round := 0, wctx := [], initial := false, begun := false, eBefore := 0, ackd := [] }

/-! ### Image -/

/-- R265: a write record. -/
structure WriteRec where
  kind : Nat
  target : Nat
  index : Nat
  len : Nat
  val : Nat
deriving DecidableEq, Repr

/-- R265: a substitution patch of a region's SPARES section. -/
structure Patch where
  region : Nat
  failed : Nat
  spare : Nat
  writes : List WriteRec
deriving DecidableEq, Repr

/-- R269: a detour set. -/
structure Detour where
  mask : Nat
  left : Nat
  workMax : Nat
  writes : List WriteRec
deriving DecidableEq, Repr

/-- R253: a bucket. -/
structure Bucket where
  model : Nat
  num : Nat
  first : Nat
  n : Nat
  ctx : Nat
  chunk : Nat
  live : Nat
deriving DecidableEq, Repr

/-- R258: a key-value pool. -/
structure Pool where
  num : Nat
  model : Nat
  frames : Nat
  stks : List Nat
  bases : List Nat
deriving DecidableEq, Repr

/-- R257: a tensor: directory fields and slice records (home, stack, tile, first row, rows, first tile index). -/
structure Slice where
  home : Nat
  stack : Nat
  tile : Nat
  row : Nat
  rows : Nat
  first : Nat
deriving DecidableEq, Repr

structure Tensor where
  tid : Nat
  model : Nat
  layer : Nat
  kind : Nat
  form : Nat
  expert : Nat
  k : Nat
  n : Nat
  pg : Nat
  slices : List Slice
deriving DecidableEq, Repr

/-- R251: a section: type, scope and content. -/
structure Sec where
  type : Nat
  scope : Nat
  data : Bytes
deriving DecidableEq, Repr

/-- A loaded image: its header and the parts of its sections that Wenwyn keeps. -/
structure Image where
  hdr : Bytes
  secs : List Sec
  models : List Bytes
  buckets : List Bucket
  pools : List Pool
  patches : List Patch
  detours : List Detour
  tensors : List Tensor
  snapN : Nat
  train : List (Nat × Bool × Nat × Nat)
deriving DecidableEq, Repr

/-- R260: a load in progress: the step, the header, the bytes that transfers delivered, the ranges they covered. -/
structure Load where
  handle : Nat
  step : Nat
  hdr : Bytes
  bytes : Tab Byte
  got : List (Nat × Nat)
  image : Option Image
deriving DecidableEq, Repr

structure Img where
  loaded : Option Image
  hdr : Bytes
  load : Option Load
  content : Bytes
  runsAt : Nat
  detour : Option Nat
  left : Nat
  patched : List (Nat × Nat)
  lost : Nat
  restart : Bool
  placementLost : Bool
  firstMark : Bool
deriving DecidableEq, Repr

def Img.init : Img :=
  { loaded := none, hdr := [], load := none, content := List.replicate 64 0, runsAt := 0, detour := none, left := 0,
    patched := [], lost := 0, restart := false, placementLost := false, firstMark := false }

/-! ### Token service -/

/-- R283, R299: a token of a request as sent. -/
structure TokRec where
  id : Nat
  promised : Nat
  sent : Nat
  late : Nat
  retimes : Nat
  flags : Nat
  lp : Nat
deriving DecidableEq, Repr

/-- Where a request stands (R281, R284, R289). -/
inductive ReqPh where
  | assembling | prefill | decoding | rebuilding | cancelling | complete | refused
deriving DecidableEq, Repr

/-- R281 to R299: a request from its first verified SUBMIT to the end of its retention. -/
structure Req where
  part : Nat
  bind : Nat
  src : Bytes
  srcPort : Nat
  cref : Nat
  sub : Bytes
  bad : Bool
  toks : Tab Nat
  segs : Nat
  t0 : Nat
  phase : ReqPh
  susp : Bool
  handle : Nat
  bucket : Nat
  slot : Nat
  frames : List Nat
  bf : Nat
  ba : Nat
  guard : Nat
  key : Bytes
  shift : Nat
  retimes : Nat
  why : Nat
  tAdmit : Nat
  out : List TokRec
  wait : List (Nat × Nat)
  held : List Nat
  cut : Nat
  endR : Nat
  endBeat : Nat
  doneAt : Nat
  recB : Bytes
  compDone : Bool
  lateN : Nat
  refuse : Nat
  detail : Nat
  eBase : Nat
  eDec : Nat
  eCtx : Nat
  ePre : Nat
  eDev : Nat
  residN : Nat
  estN : Nat
  suspN : Nat
  residMax : Nat
  flags : Nat
  beats : Nat
  firstOcc : Nat
  cached : Nat
  fed : Nat
  due : Bool
  yielded : Bool
  owes : Nat
  owed : Option (Nat × Nat)
  rebuildT : Nat
  admB : Bytes
deriving DecidableEq, Repr

/-- R288: a record of a receive ring: its place, its size with the record header, the message and where it came from. -/
structure RingRec where
  off : Nat
  size : Nat
  data : Bytes
  src : Bytes
  srcPort : Nat
  bind : Nat
  time : Nat
deriving DecidableEq, Repr

/-- R280: the SEQ window of a key slot: one more than the highest SEQ verified (0 for none), bit i set when highest − 1 − i has
been seen. -/
structure Win where
  hi : Nat
  seen : Nat
deriving DecidableEq, Repr

structure Partn where
  win : Tab Win
  lastKey : Nat
  txSeq : Nat
  ring : List RingRec
  tail : Nat
  dropped : Nat
  bucket : Nat
deriving DecidableEq, Repr

def Partn.init : Partn :=
  { win := [], lastKey := 0, txSeq := 1, ring := [], tail := 0, dropped := 0, bucket := 64 }

def winInit : Win := { hi := 0, seen := 0 }

/-- R299: what a journal record holds: an admission record (the SUBMIT, the prompt, the partition, the handle, the bucket, the slot,
b_f, T0, g and the stream key), a beat record (beat, brood, the mask of its slots, and the token ids in ascending slot order), or an end
record (the handle, the END reason and the beat). -/
inductive JBody where
  | admission (sub : Bytes) (prompt : List Nat) (part handle bucket slot bf t0 guard : Nat) (key : Bytes)
  | beat (n brood mask : Nat) (ids handles : List Nat)
  | fin (handle reason n : Nat)
deriving DecidableEq, Repr

/-- R288, R299: a record of the journal ring: its place, its size with the record header, and what it holds. -/
structure JRec where
  off : Nat
  size : Nat
  body : JBody
deriving DecidableEq, Repr

structure Adm where
  isOpen : Bool
  why : Nat
  admitted : Nat
  refused : Nat
  late : Nat
  rebuilds : Nat
  book : Tab Nat
  jFree : Nat
  journal : List JRec
  jTail : Nat
  pages : Tab W32
  lens : Tab (Option Nat)
  pps : Nat
  turn : Nat
  tx : List Datagram
  reqN : Nat
deriving DecidableEq, Repr

def Adm.init : Adm :=
  { isOpen := false, why := 0x11, admitted := 0, refused := 0, late := 0, rebuilds := 0, book := [],
    jFree := 6000000000, journal := [], jTail := 0, pages := [], lens := [], pps := 0, turn := 0, tx := [], reqN := 0 }

/-! ### Configuration flash -/

/-- R393: the capability record's body, with the record's validity and its digest as stored. -/
structure CapRec where
  valid : Bool
  variant : Nat
  partMax : Nat
  mMin : Nat
  mMinRegion : Nat
  feat : Nat
  stackMask : Nat
  inCap : Nat
  regionEnv : Nat
  hbmEnv : Nat
  serial : Bytes
  tTest : Nat
  sig : Bytes
deriving DecidableEq, Repr

/-- R393: the voltage-table record: V_SET and V_DROOP in mV by `region * 6 + point`. -/
structure VoltRec where
  valid : Bool
  vset : List Nat
  vdroop : List Nat
  lossPpm : Nat
  pFix : Nat
  sig : Bytes
deriving DecidableEq, Repr

/-- R451: an item of a change-log entry. -/
structure LogItem where
  kind : Nat
  val : Nat
  id : Nat
deriving DecidableEq, Repr

structure LogEntry where
  instar : Nat
  digest : Bytes
  items : List LogItem
deriving DecidableEq, Repr

/-- R451: a floor-plan record. Regions, stacks and ports not listed hold 0; `stks` holds state + 256 · live mask,
`ports` width + 65536 · lanes + 2^32 · rate. -/
structure FpRec where
  valid : Bool
  marker : Bool
  instar : Nat
  region : Tab Nat
  unusable : List Nat
  fenced : List Nat
  stks : Tab Nat
  ports : Tab Nat
  phases : Tab Nat
  log : List LogEntry
  sig : Bytes
deriving DecidableEq, Repr

/-- R361: a strike table entry. -/
structure Strike where
  faulty : Bool
  strikes : Nat
  transients : Nat
  ues : Nat
deriving DecidableEq, Repr

def Strike.none : Strike := { faulty := false, strikes := 0, transients := 0, ues := 0 }

/-- R400: an installed licence. -/
structure Lic where
  feature : Nat
  serial : Nat
  limit : Nat
  valid : Bool
  data : Bytes
deriving DecidableEq, Repr

/-- R397: a firmware bank. -/
structure Bank where
  st : Nat
  gen : Nat
  tried : Bool
  good : Bool
  svn : Nat
  version : Bytes
  digest : Bytes
deriving DecidableEq, Repr

structure Flash where
  cap : CapRec
  volt : VoltRec
  fp0 : FpRec
  fp1 : FpRec
  strikes : Tab Strike
  lics : List Lic
  epoch : Nat
  moultMk : Nat
  retestMk : Nat
  fwMk : Bool
  objs : Tab (Option Nat)
  blobs : Tab Bytes
  bankA : Bank
  bankB : Bank
deriving DecidableEq, Repr

/-! ### Bring-up, power and reset -/

/-- R387, R437: where the supplies stand. -/
inductive Supply where
  | off | rising | on | falling
deriving DecidableEq, Repr

/-- R408: a handle known to the device: kind, status 1 running, 2 complete, 3 failed, step and code, the partition it
belongs to (16 none) and the session that invoked it (32 none). -/
structure Hnd where
  st : Nat
  step : Nat
  code : Nat
  part : Nat
  sess : Nat
deriving DecidableEq, Repr

structure Boot where
  supply : Supply
  latched : Bool
  vinOk : Bool
  pg : Bool
  rst : Bool
  step : Nat
  s7 : Bool
  halted : Option Nat
  lastCode : Nat
  done : Bool
  cause : Nat
  abandoned : Nat
  causeHeld : Bool
  supplyFault : Bool
  retention : Nat
  hctr : Nat
  handles : Tab Hnd
  lastDone : Nat
  partDone : Tab Nat
  wd : Bool
  bank : Nat
  lane : Nat
  meterStop : Bool
  attOff : Bool
  barred : Bool
  commitDue : List LogItem
  commitCls : Nat
  fwRun : Option Nat
deriving DecidableEq, Repr

def hndNone : Hnd := { st := 0, step := 0, code := 0, part := 16, sess := 32 }

/-! ### Fordan -/

inductive Role where
  | operator | vendor
  | partition (p : Nat)
deriving DecidableEq, Repr

/-- R418: a subscription: its object, MIN_MS, whether a change waits, and the device time of the last NOTIFY. -/
structure Sub where
  ix : Nat
  sub : Nat
  minMs : Nat
  last : Bytes
  sentAt : Nat
  ever : Bool
deriving DecidableEq, Repr

/-- R414, R421: a session and its copies of the session objects. -/
structure Sess where
  role : Role
  anchor : Nat
  peer : Bytes
  start : Nat
  subs : List Sub
  nseq : Nat
  hq : Nat
  chain : Nat
  frm : Nat
  exportH : Nat
  exportData : Bytes
  evFrom : Nat
  nonce : Bytes
  att : Bytes
deriving DecidableEq, Repr

/-- R417: a transfer: its session, the TXN that opened it, its object and direction, and for a write the bytes and ranges held, for a read the
snapshot and the first offset not yet acknowledged. -/
structure Xfer where
  sess : Nat
  txn : Nat
  ix : Nat
  sub : Nat
  read : Bool
  len : Nat
  base : Nat
  got : List (Nat × Nat)
  bytes : Tab Byte
  snap : Bytes
  nxt : Nat
  sent : Nat
deriving DecidableEq, Repr

/-- What the Fordan server sends: session, service with bit 7 in a response, status, transaction, object and payload. -/
structure FMsg where
  sess : Nat
  svc : Nat
  status : Nat
  txn : Nat
  ix : Nat
  sub : Nat
  data : Bytes
deriving DecidableEq, Repr

structure Fordan where
  sess : Tab (Option Sess)
  xfers : List Xfer
  vol : Tab (Option Nat)
  volB : Tab Bytes
  out : List FMsg
  addrNew : Bool
  alerts : Nat
deriving DecidableEq, Repr

def Fordan.init : Fordan := { sess := [], xfers := [], vol := [], volB := [], out := [], addrNew := false, alerts := 0 }

/-! ### CSR window -/

/-- R432: a mailbox channel: the send buffer, the taken buffer, and the control fields. -/
structure Mbx where
  send : Bytes
  taken : Bytes
  full : Bool
  len : Nat
  timeout : Bool
  tmo : Nat
  takenLen : Nat
  waiting : Bool
deriving DecidableEq, Repr

def Mbx.init : Mbx :=
  { send := List.replicate 64 0, taken := List.replicate 64 0, full := false, len := 0, timeout := false, tmo := 1000,
    takenLen := 0, waiting := false }

/-- R428: a hart's wide-read mailbox. -/
structure Wrm where
  sel : Nat
  valid : Bool
  err : Bool
  pending : Bool
  data : Nat
deriving DecidableEq, Repr

def Wrm.init : Wrm := { sel := 0, valid := false, err := false, pending := false, data := 0 }

/-- R433: a request to the cocoon whose parts it takes: the fields of its header, the parts held and their data, and whether it is a bad
request. -/
structure CocoReq where
  svc : Nat
  tag : Nat
  parts : Nat
  got : Nat
  data : Bytes
  bad : Bool
deriving DecidableEq, Repr

/-- R425 to R433: the registers that hold values of their own, the word that the last read returned, the hart at which the last access
raised an access fault, the cocoon's count of R431, its requests in order, and the messages of its replies. -/
structure Csr where
  alertSrc : Nat
  alertMask : Nat
  mbx : Tab Mbx
  wrm : Tab Wrm
  rdata : Nat
  faultHart : Option Nat
  secFaults : Nat
  coco : List CocoReq
  cocoOut : List Bytes
deriving DecidableEq, Repr

def Csr.init : Csr :=
  { alertSrc := 0, alertMask := 0x3FF, mbx := [], wrm := [], rdata := 0, faultHart := none, secFaults := 0,
    coco := [], cocoOut := [] }

/-! ### Pins, I2C, JTAG -/

structure Pins where
  vsb : Bool
  pwrEn : Bool
  mrstN : Bool
  pcapN : Bool
  coolantOk : Bool
  thermtrip : Bool
deriving DecidableEq, Repr

structure Jtag where
  ir : Nat
  bsr : Nat
  dr : Nat
  drive : Bool
deriving DecidableEq, Repr

structure I2c where
  ptr : Nat
  out : Bytes
deriving DecidableEq, Repr

/-! ### The whole -/

structure State where
  pending : List Instr
  mem : List (Nat × Byte)
  bad : Tab Nat
  free : Nat
  tiles : Tab Tile
  regions : Tab Region
  fields : Tab Field
  stks : Tab Stack
  engines : Tab Engine
  ports : Tab Port
  parts : Tab Partn
  net : List Msg
  ctl : Tab (List (List W64))
  ringOut : Tab (List Packet)
  time : TimeUnit
  beat : Beat
  img : Img
  reqs : Tab (Option Req)
  adm : Adm
  meter : Meter
  pwr : Pwr
  therm : Therm
  flt : Flt
  train : Train
  boot : Boot
  flash : Flash
  fordan : Fordan
  csr : Csr
  pins : Pins
  i2c : I2c
  jtag : Jtag
deriving DecidableEq, Repr

/-! ### Reset -/

/-- V_SET typical of R332 for one region, P0 to P5 (log entry 8). -/
def vsetTypical : List Nat := [860, 810, 770, 730, 700, 650]

/-- The capability record of an HLD-1648-F (R393, R5; log entry 8). -/
def capF : CapRec :=
  { valid := true, variant := 0, partMax := 16, mMin := 1440, mMinRegion := 45, feat := 7, stackMask := 0xFFFFFF,
    inCap := 13000, regionEnv := 300, hbmEnv := 32, serial := List.replicate 16 0, tTest := 0,
    sig := List.replicate 132 0 }

/-- The voltage-table record of log entry 8. -/
def voltF : VoltRec :=
  { valid := true, vset := (List.replicate 32 vsetTypical).flatten, vdroop := List.replicate 192 0, lossPpm := 0,
    pFix := 0, sig := List.replicate 132 0 }

/-- The floor-plan record of instar 1: every unit fit (log entry 8). -/
def fpF : FpRec :=
  { valid := true, marker := true, instar := 1, region := [], unusable := [], fenced := [],
    stks := (List.range 24).map fun s => (s, 1 + 256 * 0xFFFF),
    ports := [(0, 800 + 65536 * 0xF + 2 ^ 32 * 200), (4, 800 + 65536 * 0xF0 + 2 ^ 32 * 200),
      (8, 800 + 65536 * 0xF00 + 2 ^ 32 * 200), (12, 800 + 65536 * 0xF000 + 2 ^ 32 * 200)],
    phases := [], log := [{ instar := 1, digest := List.replicate 64 0, items := [] }], sig := List.replicate 132 0 }

/-- A floor-plan area that holds no record. -/
def FpRec.blank : FpRec :=
  { valid := false, marker := false, instar := 0, region := [], unusable := [], fenced := [], stks := [], ports := [],
    phases := [], log := [], sig := [] }

/-- R397: an empty bank. -/
def Bank.blank : Bank :=
  { st := 0, gen := 0, tried := false, good := false, svn := 0, version := [], digest := List.replicate 64 0 }

/-- The configuration flash as delivered (log entry 8). -/
def Flash.delivered : Flash :=
  { cap := capF, volt := voltF, fp0 := fpF, fp1 := .blank, strikes := [], lics := [], epoch := 0, moultMk := 0,
    retestMk := 0, fwMk := false, objs := [], blobs := [],
    bankA := { st := 3, gen := 1, tried := false, good := true, svn := 0, version := [], digest := List.replicate 64 0 },
    bankB := Bank.blank }

/-- The block just after power-on with the supplies up and MRST_N high, at the instant of the release edge (R387, R388):
RESET_CAUSE is power-on, and RELEASE_EDGE is what happens next. -/
def Boot.init : Boot :=
  { supply := .on, latched := false, vinOk := true, pg := true, rst := true, step := 0,
    s7 := false, halted := none, lastCode := 0, done := false, cause := 1, abandoned := 2 ^ 31, causeHeld := true,
    supplyFault := false, retention := 0, hctr := 1, handles := [], lastDone := 0, partDone := [],
    wd := false, bank := 0, lane := 0xFF, meterStop := false, attOff := false, barred := false,
    commitDue := [], commitCls := 0, fwRun := none }

/-- The levels of the pins at reset (log entry 9). -/
def Pins.init : Pins :=
  { vsb := true, pwrEn := true, mrstN := true, pcapN := true, coolantOk := true, thermtrip := false }

/-- The machine right after reset. -/
def State.reset : State :=
  { pending := [], mem := [], bad := [], free := 0, tiles := [], regions := [], fields := [], stks := [],
    engines := [], ports := [], parts := [], net := [], ctl := [], ringOut := [], time := .init, beat := .init, img := .init,
    reqs := [], adm := .init, meter := .init, pwr := .init, therm := .init, flt := .init, train := .init,
    boot := .init, flash := .delivered, fordan := .init, csr := .init,
    pins := Pins.init,
    i2c := { ptr := 0, out := [] }, jtag := { ir := 3, bsr := 0, dr := 0, drive := false } }

end Sys2Proof.Machine
end

