-- ==== Sys2Proof/Machine/Ops.lean ====
section
/-!
DEFINITION. The named operations that every meaning is written over: memory rows, units, free values, handles, event
records, fault reports, and the SECDED check of a row.
-/

namespace Sys2Proof.Machine

/-! ### Memory -/

/-- The cells of `bytes` from address `a`, without the zero bytes (log entry 1). -/
def cellsFrom : Nat → Bytes → List (Nat × Byte)
  | _, [] => []
  | a, b :: r => if b = 0 then cellsFrom (a + 1) r else (a, b) :: cellsFrom (a + 1) r

/-- The `n` bytes from address `a`; an unlisted byte reads 0 (log entry 1). -/
def memReadFrom : List (Nat × Byte) → Nat → Nat → Bytes
  | _, _, 0 => []
  | [], a, n + 1 => 0 :: memReadFrom [] (a + 1) n
  | (k, v) :: r, a, n + 1 =>
    if k = a then v :: memReadFrom r (a + 1) n else 0 :: memReadFrom ((k, v) :: r) (a + 1) n

def memRead (m : List (Nat × Byte)) (a n : Nat) : Bytes := memReadFrom (m.dropWhile (fun c => c.1 < a)) a n

/-- Write `bytes` from address `a`. -/
def memWrite (m : List (Nat × Byte)) (a : Nat) (bytes : Bytes) : List (Nat × Byte) :=
  m.takeWhile (fun c => c.1 < a) ++ cellsFrom a bytes ++
    (m.dropWhile (fun c => c.1 < a)).dropWhile (fun c => c.1 < a + bytes.length)

/-- The canonical form: addresses strictly rising from `a`, no zero byte. -/
def Memory.wfFrom : Nat → List (Nat × Byte) → Bool
  | _, [] => true
  | a, (k, v) :: r => decide (a ≤ k) && decide (v ≠ 0) && Memory.wfFrom (k + 1) r

/-- The memory's canonical form. -/
abbrev Memory.wf (m : List (Nat × Byte)) : Bool := Memory.wfFrom 0 m

/-- Row numbers of the four stores, each row 512 bytes (R60, R111, R141, R193). -/
def spadRow (t r : Nat) : Nat := t * 768 + r
def vregRow (t v i : Nat) : Nat := 2 ^ 23 + (t * 32 + v) * 4 + i
def deepRow (t d : Nat) : Nat := 2 ^ 27 + t * 16384 + d
def hbmRow (st a : Nat) : Nat := 2 ^ 32 + st * 2 ^ 27 + a

/-- A row's 512 bytes, whatever the check of R157 says. -/
def State.row (s : State) (id : Nat) : Bytes := memRead s.mem (id * 512) 512

/-- One byte of memory. -/
def State.byteAt (s : State) (a : Nat) : Byte := (memRead s.mem a 1).headD 0

/-- R142: a whole-row write; it clears an uncorrectable row. -/
def State.setRow (s : State) (id : Nat) (b : Bytes) : State :=
  { s with mem := memWrite s.mem (id * 512) (slice b 0 512), bad := Tab.put 0 s.bad id 0 }

/-- Rows written one after another. -/
def State.setRows (s : State) : List (Nat × Bytes) → State
  | [] => s
  | (id, b) :: r => (s.setRow id b).setRows r

/-- Scratchpad rows by tile kind (R142). -/
def spadRows (t : Nat) : Nat := match tileKind t with | .m => 768 | .v => 512 | .s => 256

/-! ### Units -/

def nTiles : Nat := 2688

def State.tile (s : State) (t : Nat) : Tile := Tab.get Tile.init s.tiles t
def State.updTile (s : State) (t : Nat) (f : Tile → Tile) : State :=
  { s with tiles := Tab.upd Tile.init s.tiles t f }
def State.region (s : State) (g : Nat) : Region := Tab.get Region.init s.regions g
def State.updRegion (s : State) (g : Nat) (f : Region → Region) : State :=
  { s with regions := Tab.upd Region.init s.regions g f }
def State.field (s : State) (f : Nat) : Field := Tab.get Field.init s.fields f
def State.updField (s : State) (f : Nat) (h : Field → Field) : State :=
  { s with fields := Tab.upd Field.init s.fields f h }
def State.stack (s : State) (k : Nat) : Stack := Tab.get Stack.init s.stks k
def State.updStack (s : State) (k : Nat) (f : Stack → Stack) : State :=
  { s with stks := Tab.upd Stack.init s.stks k f }
def State.engine (s : State) (e : Nat) : Engine := Tab.get Engine.init s.engines e
def State.updEngine (s : State) (e : Nat) (f : Engine → Engine) : State :=
  { s with engines := Tab.upd Engine.init s.engines e f }
def State.port (s : State) (l : Nat) : Port := Tab.get Port.init s.ports l
def State.updPort (s : State) (l : Nat) (f : Port → Port) : State :=
  { s with ports := Tab.upd Port.init s.ports l f }
def State.part (s : State) (p : Nat) : Partn := Tab.get Partn.init s.parts p
def State.updPart (s : State) (p : Nat) (f : Partn → Partn) : State :=
  { s with parts := Tab.upd Partn.init s.parts p f }
def State.req (s : State) (r : Nat) : Option Req := Tab.get none s.reqs r
def State.updReq (s : State) (r : Nat) (f : Req → Req) : State :=
  match s.req r with
  | none => s
  | some q => { s with reqs := Tab.put none s.reqs r (some (f q)) }

/-- Fold over lists of units. -/
def State.each (s : State) (l : List Nat) (f : State → Nat → State) : State := l.foldl f s

/-- The answer of a meaning that names a unit the device does not have. -/
def onUnit (ok : Bool) (s : State) (f : State → State) : Host.Outcome State Fault Refusal :=
  if ok then .next (f s) else .fault .noSuchUnit

def isTile (k : Kind) (t : Nat) : Bool := t < nTiles && tileKind t == k
/-- Commands of an M-core, a V-core, an S-core, any tile, a region, a stack, an engine, a field, a partition, a lane. -/
def onM (t : Nat) (s : State) (f : State → State) : Host.Outcome State Fault Refusal := onUnit (isTile .m t) s f
def onV (t : Nat) (s : State) (f : State → State) : Host.Outcome State Fault Refusal := onUnit (isTile .v t) s f
def onS (t : Nat) (s : State) (f : State → State) : Host.Outcome State Fault Refusal := onUnit (isTile .s t) s f
def onTile (t : Nat) (s : State) (f : State → State) : Host.Outcome State Fault Refusal := onUnit (t < nTiles) s f
def onRegion (g : Nat) (s : State) (f : State → State) : Host.Outcome State Fault Refusal := onUnit (g < 32) s f
def onStack (k : Nat) (s : State) (f : State → State) : Host.Outcome State Fault Refusal := onUnit (k < 24) s f
def onEngine (e : Nat) (s : State) (f : State → State) : Host.Outcome State Fault Refusal := onUnit (e < 96) s f
def onField (f : Nat) (s : State) (h : State → State) : Host.Outcome State Fault Refusal := onUnit (f < 16) s h
def onPart (p : Nat) (s : State) (f : State → State) : Host.Outcome State Fault Refusal := onUnit (p < 16) s f
def onLane (l : Nat) (s : State) (f : State → State) : Host.Outcome State Fault Refusal := onUnit (l < 16) s f

/-- A step whose condition does not hold changes nothing (log entry 17). -/
def State.whenB (s : State) (c : Bool) (f : State → State) : State := if c then f s else s

/-- A free value of `w` bits (log entry 2): the counter advances. -/
def State.fresh (s : State) (w : Nat) : Nat × State :=
  (Config.freeValue s.free % 2 ^ w, { s with free := s.free + 1 })

/-! ### Device-wide readings -/

/-- R234: the frequency of an operating point in MHz: cycles in a microsecond of device time. -/
def mhz (op : Nat) : Nat := [1800, 1650, 1500, 1350, 1200, 900].getD op 900

/-- R394: the floor-plan area in force, 0 or 1. -/
def Flash.area (f : Flash) : Nat :=
  if !f.fp1.marker then 0 else if !f.fp0.marker then 1
  else
    let (n, hi, lo) := if f.fp0.instar < f.fp1.instar then (1, f.fp1, f.fp0) else (0, f.fp0, f.fp1)
    if hi.valid then n else if lo.valid && lo.instar + 1 == hi.instar then 1 - n else n

/-- The floor-plan record in force. -/
def Flash.fp (f : Flash) : FpRec := if f.area = 0 then f.fp0 else f.fp1
def State.fp (s : State) : FpRec := s.flash.fp
def State.instar (s : State) : Nat := s.fp.instar

/-- V_SET of a region at a point, mV (R332). -/
def State.vset (s : State) (g p : Nat) : Nat := s.flash.volt.vset.getD (g * 6 + p) 0
def State.vdroop (s : State) (g p : Nat) : Nat := s.flash.volt.vdroop.getD (g * 6 + p) 0

/-- A tile fit for use at the instar in force (R247, R451), and not fenced in hardware since. -/
def State.usable (s : State) (t : Nat) : Bool :=
  !s.fp.unusable.contains t && !s.fp.fenced.contains t && !s.flt.hwFenced.contains t

def State.active (s : State) (g : Nat) : Bool := (s.region g).st == .active

/-- The code of R10 for a tile, 0xFFFF for none. -/
def codeOf (t : Option Nat) : Nat := match t with | some t => tileCode t | none => noTile

/-! ### Event records -/

/-- R358: the class of a listed code. -/
def classOf (c : Nat) : Option Nat :=
  if [0x51, 0x52, 0x91].contains c then some 1
  else if [0x08, 0x0A, 0x0B, 0x23, 0x32, 0x42, 0x44, 0x62, 0x66].contains c then some 2
  else if [0x09, 0x27, 0x53, 0x54].contains c then some 3
  else if (0x01 ≤ c && c ≤ 0x07) || [0x0C, 0x21, 0x22, 0x24, 0x25, 0x26, 0x31, 0x57].contains c then some 4
  else if c = 0x74 then some 5
  else if c = 0x72 then some 6
  else if [0xB8, 0xB9, 0xBA, 0xBC].contains c then some 7
  else if c = 0x68 then some 8
  else if c = 0x9E then some 9
  else none

/-- What a caller says of an event; the rest is stamped by `State.event`. -/
structure Ev where
  code : Nat
  region : Nat := 0xFF
  source : Nat := 7
  tile : Option Nat := none
  unit : Nat := 0xFFFF
  handle : Nat := 0
  d0 : Nat := 0
  d1 : Nat := 0
  d2 : Nat := 0
  d3 : Nat := 0
  action : Nat := 0
  conseq : Bool := false
  count : Nat := 1
  /-- the class of the fault on whose path the record lies (R449) -/
  path : Option Nat := none
  /-- derived from what the strike table held before a reset (R385) -/
  after : Bool := false

/-- R449: the CLASS of a record. -/
def Ev.cls (e : Ev) : Nat :=
  match classOf e.code with
  | some c => c
  | none =>
    if 0xC1 ≤ e.code ∧ e.code ≤ 0xC8 then 10
    else if [0x92, 0x93, 0x95, 0x96].contains e.code then 1
    else e.path.getD 0

/-- R384: the bytes of an event record. -/
def Event.bytes (e : Event) : Bytes :=
  leBytes 8 e.seq ++ leBytes 8 e.time ++ leBytes 8 e.beat ++ leBytes 4 e.cyc ++ leBytes 1 e.code ++ leBytes 1 e.cls ++
  leBytes 1 e.region ++ leBytes 1 e.source ++ leBytes 2 e.tile ++ leBytes 2 e.unit ++ leBytes 4 e.instar ++
  leBytes 8 e.handle ++ leBytes 8 e.d0 ++ leBytes 8 e.d1 ++ leBytes 8 e.d2 ++ leBytes 8 e.d3 ++ leBytes 1 e.action ++
  leBytes 1 e.flags ++ leBytes 2 0 ++ leBytes 4 e.count ++ leBytes 8 0

/-- R233: the device time of a region's present beat cycle. -/
def State.stamp (s : State) (g : Nat) : Nat :=
  let r := s.region g
  let m := mhz r.op
  if !r.marked then s.time.now
  else r.markNs + (r.lateCyc * 1000 + r.cyc * 1000 + r.strE * 125) / m + r.stopNs

/-- PWR_ALERT_SRC bits that a code sets (R429). -/
def alertOf (c : Nat) : Nat :=
  if c = 0xE1 ∨ c = 0xE2 then 2 ^ 9
  else if c = 0x8F then 2 ^ 7
  else if c = 0xA3 ∨ c = 0xA4 ∨ c = 0xA5 then 2 ^ 6
  else if c = 0xD7 then 2 ^ 2
  else 0

def State.alert (s : State) (m : Nat) : State :=
  { s with csr := { s.csr with alertSrc := s.csr.alertSrc ||| m } }

/-- R418: send a NOTIFY of a session: NSEQ and then the value. -/
def State.notifyTo (s : State) (k ix sub : Nat) (v : Bytes) : State :=
  match Tab.get none s.fordan.sess k with
  | none => s
  | some q =>
    let n := q.nseq + 1
    let m : FMsg := { sess := k, svc := 9, status := 0, txn := 0, ix := ix, sub := sub, data := leBytes 4 n ++ v }
    { s with fordan := { s.fordan with
      sess := Tab.put none s.fordan.sess k (some { q with nseq := n }), out := s.fordan.out ++ [m] } }

/-- R385, R418: sessions subscribed to an object. -/
def State.subscribers (s : State) (ix sub : Nat) : List Nat :=
  s.fordan.sess.filterMap fun c =>
    match c.2 with
    | some q => if q.subs.any (fun u => u.ix == ix && u.sub == sub) then some c.1 else none
    | none => none

/-- R384, R385: write an event record; the oldest is overwritten when 65,536 are held. -/
def State.event (s : State) (e : Ev) : State :=
  let r := s.region e.region
  let inReg : Bool := decide (e.region < 32)
  let ev : Event :=
    { seq := s.flt.evNext, time := if inReg then s.stamp e.region else s.time.now,
      beat := if inReg && r.marked then r.markOf else s.beat.count,
      cyc := (if inReg then r.cyc else Config.unitCycle (s.time.now - s.beat.mark)) % 2 ^ 32, code := e.code, cls := e.cls, region := e.region, source := e.source,
      tile := codeOf e.tile, unit := e.unit, instar := s.instar, handle := e.handle, d0 := e.d0, d1 := e.d1,
      d2 := e.d2, d3 := e.d3, action := e.action,
      flags := (if e.conseq then 1 else 0) + (if e.count > 1 then 2 else 0) + (if e.after then 4 else 0), count := e.count }
  let full := s.flt.log.length ≥ 65536
  let f := s.flt
  let f := { f with
    log := (if full then f.log.drop 1 else f.log) ++ [ev], evNext := f.evNext + 1,
    evOldest := if full then f.evOldest + 1 else f.evOldest, evLost := if full then f.evLost + 1 else f.evLost }
  let s := ({ s with flt := f }).alert (alertOf e.code)
  s.each (s.subscribers 0x7000 1) fun s k => s.notifyTo k 0x7000 1 ev.bytes

/-! ### Handles (R14, R15) -/

def kindOf (h : Nat) : Nat := h / 2 ^ 56

/-- Issue a handle of a kind, for a partition (16 none) and a session (32 none). -/
def State.issue (s : State) (kind part sess : Nat) : Nat × State :=
  let h := kind * 2 ^ 56 + s.boot.hctr
  (h, { s with boot := { s.boot with
    hctr := s.boot.hctr + 1, handles := Tab.put hndNone s.boot.handles h
      { st := 1, step := 0, code := 0, part := part, sess := sess },
    retention := s.boot.retention ||| 2 ^ kind } })

def State.hnd (s : State) (h : Nat) : Hnd := Tab.get hndNone s.boot.handles h
def State.updHnd (s : State) (h : Nat) (f : Hnd → Hnd) : State :=
  { s with boot := { s.boot with handles := Tab.upd hndNone s.boot.handles h f } }

/-- The status word of 0x1800.08. -/
def Hnd.word (h : Hnd) : Nat := h.st + h.step * 2 ^ 8 + h.code * 2 ^ 16

/-- R388: the kinds of operation still running, as the retention word records them. -/
def State.runningKinds (s : State) : Nat :=
  s.boot.handles.foldl (fun m c => if c.2.st = 1 then m ||| 2 ^ kindOf c.1 else m) 0

/-- R422: the partition whose session may see a completion notification of a handle. -/
def mayHear (q : Sess) (h : Hnd) : Bool :=
  match q.role with
  | .operator => true
  | .partition p => h.part == p
  | .vendor => false

/-- R418: a handle completes (2) or fails (3) with a code: HANDLE_DONE and its notifications. -/
def State.finish (s : State) (h st code : Nat) : State :=
  let s := s.updHnd h fun x => { x with st := st, code := code }
  let x := s.hnd h
  let s := { s with boot := { s.boot with
    retention := s.runningKinds, lastDone := h,
    partDone := if x.part < 16 then Tab.put 0 s.boot.partDone x.part h else s.boot.partDone } }
  s.each (s.subscribers 0x1800 9) fun s k =>
    match Tab.get none s.fordan.sess k with
    | some q =>
      if k = x.sess ∨ mayHear q x then s.notifyTo k 0x1800 9 (leBytes 8 h ++ leBytes 4 x.word) else s
    | none => s

/-! ### Sends (R181 to R183) -/

/-- The channels that are not message route registers: 64 a POST or status tuple to the cluster's S-core, 65 the reports of a tile to
its region supervisor. -/
def statusChannel : Nat := 64
def reportChannel : Nat := 65

/-- R181: the destination of a channel; none where the register is not VALID, or the region has no supervisor. -/
def State.destOf (s : State) (t rr : Nat) : Option Dest :=
  if rr = statusChannel then some (.ep (clusterS t) (Config.statusEndpoint t % 16))
  else if rr = reportChannel then (tileOfCode (s.region (tileRegion t)).sup).map fun _ => .sup (tileRegion t)
  else
    let w := (Tab.get 0 (s.tile t).mroutes rr).toNat
    if !bitOf w 63 then none
    else if bitOf w 59 then some (.control (bits w 34 31))
    else some (.ep (tileIx (bits w 46 41) (bits w 40 35)) (bits w 34 31))

/-- A message enters the message network. -/
def State.putMsg (s : State) (m : Msg) : State := { s with net := s.net ++ [m] }

/-- Put a send on its channel: the message goes out; one through a channel that leads nowhere is lost (R182; log entry 21). -/
def State.launch (s : State) (t rr : Nat) (x : Snd) : State :=
  let s := s.updTile t fun y => { y with sends := Tab.put none y.sends rr (some { x with waiting := false }) }
  match x.dst with
  | none => s
  | some d => s.putMsg { src := t, ch := rr, dst := d, words := x.words, reply := none }

/-- A send begins on a channel; none while an earlier one is unresolved (R183). -/
def State.sendOn (s : State) (t rr : Nat) (kind : SndKind) (words : List W64) (bound : Nat) : State :=
  match Tab.get none (s.tile t).sends rr with
  | some _ => s
  | none => s.launch t rr { kind := kind, dst := s.destOf t rr, words := words, n := 1, bound := bound, waiting := false, stalled := false }

/-- R183: a notice or a report, under the default bound of 64: it waits while an earlier send on its channel is unresolved. -/
def State.sendLater (s : State) (t rr : Nat) (kind : SndKind) (words : List W64) : State :=
  match Tab.get none (s.tile t).sends rr with
  | some _ => s.updTile t fun x => { x with sendQ := x.sendQ ++ [{ ch := rr, kind := kind, words := words }] }
  | none => s.sendOn t rr kind words 64

/-- The oldest waiting send of a channel that is free again goes out. -/
def State.sendNext (s : State) (t rr : Nat) : State :=
  match (s.tile t).sendQ.find? fun q => q.ch == rr with
  | none => s
  | some q => (s.updTile t fun x => { x with sendQ := x.sendQ.erase q }).sendOn t rr q.kind q.words 64

/-! ### Fault reports and rows under check -/

/-- R92, R161, R191: a tile sends a report of four words to its region supervisor, the code in bits 7 to 0 of word 0. Reports of a
unit that is fenced are discarded and counted as fence breaches (R140, counter 14). -/
def State.report (s : State) (t w0 w1 w2 w3 : Nat) : State :=
  if (s.tile t).selfFenced then
    s.updTile t fun x => { x with ctr := Tab.upd 0 x.ctr 14 (count48 1) }
  else s.sendLater t reportChannel .report [BitVec.ofNat 64 w0, BitVec.ofNat 64 w1, BitVec.ofNat 64 w2, BitVec.ofNat 64 w3]

/-- Count an event in one of a tile's counters: 1–6 R110, 7–13 R162, 14–21 R190. -/
def State.count (s : State) (t k n : Nat) : State :=
  s.updTile t fun x => { x with ctr := Tab.upd 0 x.ctr k (count48 n) }

/-- What the check of R157 says of the `nth` row a command reads. -/
inductive Check where
  | clean
  | corrected (mask : Nat)
  | bad (mask : Nat)
deriving DecidableEq, Repr

def checkOf (s : State) (id : Nat) (es : List Ecc) (nth : Nat) : Check :=
  let m := Tab.get 0 s.bad id
  if m ≠ 0 then .bad m
  else
    match es.find? (fun e => e.nth == nth) with
    | none => .clean
    | some e => if e.mask % 2 ^ 64 = 0 then .clean else if e.uncorr then .bad (e.mask % 2 ^ 64) else .corrected (e.mask % 2 ^ 64)

/-- R161: report a memory error of a tile. `deep` names the store, `r` the row, `req` the requester of word 2. -/
def State.memReport (s : State) (t code : Nat) (deep : Bool) (r mask req : Nat) : State :=
  let bank := if deep then 0 else match tileKind t with | .s => r / 128 % 2 | _ => r / 256 % 2
  let n := (s.tile t).ceCount
  let s := s.updTile t fun x => { x with ceCount := 0 }
  s.report t (code + (if deep then 2 ^ 8 else 0) + bank * 2 ^ 9 + r * 2 ^ 16) mask req n

/-- R157, R161, R162: a row read under check by a tile: the counters, the reports (a correctable error at most once per
tile per beat), and the row's data, none when it is uncorrectable. `nth` numbers the row within the command. -/
def State.readChk (s : State) (t : Nat) (deep : Bool) (r req : Nat) (es : List Ecc) (nth : Nat) :
    State × Option Bytes :=
  let id := if deep then deepRow t r else spadRow t r
  match checkOf s id es nth with
  | .clean => (s, some (s.row id))
  | .corrected m =>
    let s := s.count t (if deep then 9 else 7) 1
    let s := s.updTile t fun x => { x with ceCount := count64 1 x.ceCount }
    let s :=
      if (s.tile t).ceSeen then s
      else (s.memReport t (if deep then 0x43 else 0x41) deep r m req).updTile t fun x => { x with ceSeen := true }
    (s, some (s.row id))
  | .bad m =>
    let s := s.count t (if deep then 10 else 8) 1
    let s := { s with bad := Tab.put 0 s.bad id m }
    (s.memReport t (if deep then 0x44 else 0x42) deep r m req, none)

/-- Rows read in order; none when any of them is uncorrectable (the read stops there). -/
def State.readRows (s : State) (t : Nat) (deep : Bool) (req : Nat) (es : List Ecc) : Nat → List Nat →
    State × Option Bytes
  | _, [] => (s, some [])
  | nth, r :: rs =>
    match s.readChk t deep r req es nth with
    | (s, none) => (s, none)
    | (s, some b) =>
      match State.readRows s t deep req es (nth + 1) rs with
      | (s, none) => (s, none)
      | (s, some c) => (s, some (b ++ c))

/-- R149: a wide write to a scratchpad row also updates an open slot's copy where its mask is clear. -/
def mergeSlot (r : Nat) (b : Bytes) (x : RowSlot) : RowSlot :=
  if x.row ≠ r then x
  else { x with data := (upTo 512).map fun i => if bitOf x.mask i then x.data.getD i 0 else b.getD i 0 }

/-- A wide write of a scratchpad row (R142, R149). -/
def State.setSpad (s : State) (t r : Nat) (b : Bytes) : State :=
  let s := s.setRow (spadRow t r) b
  s.updTile t fun x => { x with slots := x.slots.map fun c => (c.1, c.2.map (mergeSlot r (slice b 0 512))) }

/-! ### Faults of a core -/

/-- Fields of a command word that faults and ownership turn on (R85). -/
def fPt (w : Nat) : Nat := bits w 123 120
def fNstep (w : Nat) : Nat := bits w 100 92
def fNcolRaw (w : Nat) : Nat := bits w 91 83
/-- R85: NCOL of 0 means 512. -/
def fNcol (w : Nat) : Nat := if fNcolRaw w = 0 then 512 else fNcolRaw w
def isComplex (pt : Nat) : Bool := pt == 9 || pt == 10 || pt == 11

/-- R69, R83: the tile sets that an MMA has still to consume, the one in use included. -/
def MmaRun.setsLeft (r : MmaRun) : Nat :=
  if isComplex (fPt r.word) then cdiv (fNstep r.word) 2 - r.p / 2
  else (fNstep r.word - r.p) * cdiv (fNcol r.word) 128 - r.j

/-- The DRAINs and ACCLDs issued before the MMA in progress. -/
def Tile.early (x : Tile) : Nat := (x.side.filter fun d => !d.later).length

/-- Requests of an ACCLD that are with the vertical port. -/
def SideRun.asked (d : SideRun) : Nat := d.begun - d.done

/-- The first `n` rows that ACCLDs have asked the vertical port for, with every other request. -/
def keepAccld : Nat → List VpReq → List VpReq
  | _, [] => []
  | n, .accld d a :: l => if n = 0 then keepAccld 0 l else .accld d a :: keepAccld (n - 1) l
  | n, q :: l => q :: keepAccld n l

/-- R92, R130: what a fault leaves of its core: the sequencer stops, the commands issued before the faulting one go on (the MMA where
`mma` holds, and the first `side` of the DRAINs and ACCLDs), and every later one is abandoned. -/
def Tile.faulted (x : Tile) (mma : Bool) (side : Nat) : Tile :=
  let kept := x.side.take side
  { x with
    stopped := true, mma := if mma then x.mma else none, pendingUe := mma && x.pendingUe, side := kept, chain := false,
    vpQ := keepAccld (kept.foldl (fun n d => n + d.asked) 0) x.vpQ,
    turn := (match x.mma with | some r => if mma then x.turn.take r.setsLeft else [] | none => []),
    waitB := none, recvWait := none, leaveWait := false,
    sends := x.sends.filter fun c => match c.2 with | some d => d.kind != .core | none => false }

/-- The waiting requests for leave of a core that stops are dropped (R130). -/
def State.dropLeave (s : State) (t : Nat) : State :=
  if (s.field (tileField t)).queue.isEmpty then s
  else s.updField (tileField t) fun x => { x with queue := x.queue.filter (fun q => q.tile != t) }

/-- A core with a fault (R92, R130, R150): the code, the TAG and the command index are reported, the code in bits [7:0], TAG in bits
[15:8] and the index in bits [25:16] of word 0 (log entry 18). -/
def State.coreFault (s : State) (t code tag ix : Nat) (w1 w2 : Nat := 0) (mma : Bool := false) (side : Nat := 0) : State :=
  ((s.dropLeave t).updTile t fun x => x.faulted mma side).report t (code % 256 + tag % 256 * 2 ^ 8 + ix % 1024 * 2 ^ 16) w1 w2 0

/-- A fault of the command that the sequencer issues next: all that was issued before it goes on. -/
def State.issueFault (s : State) (t code tag : Nat) : State :=
  s.coreFault t code tag (s.tile t).seqIx 0 0 true (s.tile t).side.length

/-- A tile works while its region is Active (R24) and it has a clock (R237). -/
def State.tileOn (s : State) (t : Nat) : Bool := s.active (tileRegion t) && !(s.tile t).noClk

/-- A core runs when its tile works and it is not stopped. -/
def State.runs (s : State) (t : Nat) : Bool :=
  !(s.tile t).stopped && s.tileOn t && s.usable t

/-- An array runs also after a fault, for the commands issued before the faulting one (R92 step 1). -/
def State.arrayRuns (s : State) (t : Nat) : Bool :=
  (!(s.tile t).stopped || (s.tile t).mma.isSome || !(s.tile t).side.isEmpty) && s.tileOn t && s.usable t

end Sys2Proof.Machine
end

