-- ==== Sys2Proof/Machine/Objects.lean ====
section
/-!
DEFINITION. The object dictionary as data (R420, R421, R424): types, access codes, defaults and persistence classes of
every object that the chapters list, and the reading and writing of stored settings.
-/

namespace Sys2Proof.Machine

/-- R12: object types. -/
inductive ObjTy where
  | u8 | u16 | u32 | u64 | i32 | i64 | f32 | bool | str | time | handle | blob
deriving DecidableEq, Repr

/-- R12: access codes. -/
inductive ObjAcc where
  | ro | rw | wo | rws | const
deriving DecidableEq, Repr

/-- Objects `lo.sub` to `hi.subHi`. -/
structure ObjRow where
  lo : Nat
  hi : Nat
  sub : Nat
  subHi : Nat
  ty : ObjTy
  acc : ObjAcc
  dflt : Nat
deriving DecidableEq, Repr

/-- Index ranges of the object tables, transcribed row by row: first and last index, first and last sub-index. -/
def objTable0 : List ObjRow := [
  ⟨0x2000, 0x2000, 0x01, 0x01, .u32, .rw, 13000⟩,
  ⟨0x2000, 0x2000, 0x02, 0x02, .u32, .rw, 9000⟩,
  ⟨0x2000, 0x2000, 0x03, 0x03, .bool, .ro, 0⟩,
  ⟨0x2000, 0x2000, 0x04, 0x04, .u32, .ro, 0⟩,
  ⟨0x2000, 0x2000, 0x05, 0x05, .u32, .ro, 0⟩,
  ⟨0x2000, 0x2000, 0x06, 0x06, .u32, .ro, 0⟩,
  ⟨0x2000, 0x2000, 0x07, 0x07, .u8, .rw, 0⟩,
  ⟨0x2010, 0x201F, 0x01, 0x01, .u32, .ro, 0⟩,
  ⟨0x2010, 0x201F, 0x02, 0x02, .u8, .ro, 0⟩,
  ⟨0x2010, 0x201F, 0x03, 0x03, .u64, .ro, 0⟩,
  ⟨0x2020, 0x203F, 0x01, 0x01, .u32, .ro, 0⟩,
  ⟨0x2020, 0x203F, 0x02, 0x02, .u32, .ro, 4400⟩,
  ⟨0x2020, 0x203F, 0x03, 0x03, .u32, .ro, 4000⟩,
  ⟨0x2020, 0x203F, 0x04, 0x04, .u32, .ro, 300⟩,
  ⟨0x2020, 0x203F, 0x05, 0x05, .u8, .ro, 0⟩,
  ⟨0x2020, 0x203F, 0x06, 0x06, .blob, .ro, 0⟩,
  ⟨0x2020, 0x203F, 0x07, 0x07, .u32, .ro, 0⟩,
  ⟨0x2020, 0x203F, 0x08, 0x08, .u32, .ro, 4000⟩,
  ⟨0x2020, 0x203F, 0x09, 0x09, .u16, .ro, 0⟩,
  ⟨0x2020, 0x203F, 0x0A, 0x0A, .bool, .ro, 0⟩]

def objTable1 : List ObjRow := [
  ⟨0x2400, 0x2400, 0x01, 0x01, .bool, .ro, 0⟩,
  ⟨0x2400, 0x2400, 0x02, 0x02, .bool, .ro, 0⟩,
  ⟨0x2400, 0x2400, 0x03, 0x03, .bool, .ro, 0⟩,
  ⟨0x2400, 0x2400, 0x04, 0x04, .i32, .ro, 0⟩,
  ⟨0x2400, 0x2400, 0x05, 0x05, .u64, .ro, 0⟩,
  ⟨0x2400, 0x2400, 0x06, 0x06, .i32, .ro, 0⟩,
  ⟨0x2420, 0x243F, 0x01, 0x01, .i32, .ro, 0⟩,
  ⟨0x2420, 0x243F, 0x02, 0x02, .i32, .ro, 0⟩,
  ⟨0x2420, 0x243F, 0x03, 0x03, .time, .ro, 0⟩,
  ⟨0x2440, 0x245F, 0x01, 0x0B, .u64, .ro, 0⟩]

def objTable2 : List ObjRow := [
  ⟨0x2800, 0x2800, 0x01, 0x01, .time, .ro, 0⟩,
  ⟨0x2800, 0x2800, 0x02, 0x02, .u8, .ro, 0⟩,
  ⟨0x2800, 0x2800, 0x03, 0x03, .bool, .ro, 0⟩,
  ⟨0x2800, 0x2800, 0x04, 0x04, .u8, .ro, 0⟩,
  ⟨0x2800, 0x2800, 0x05, 0x05, .u32, .ro, 0⟩,
  ⟨0x2800, 0x2800, 0x06, 0x06, .time, .wo, 0⟩,
  ⟨0x2801, 0x2801, 0x01, 0x04, .u8, .rw, 0⟩,
  ⟨0x2801, 0x2801, 0x05, 0x05, .bool, .rw, 0⟩,
  ⟨0x2801, 0x2801, 0x06, 0x06, .time, .wo, 0⟩,
  ⟨0x2802, 0x2802, 0x01, 0x01, .u8, .rw, 0⟩,
  ⟨0x2802, 0x2802, 0x02, 0x02, .u8, .rw, 0⟩,
  ⟨0x2802, 0x2802, 0x03, 0x03, .u8, .rw, 0⟩,
  ⟨0x2802, 0x2802, 0x04, 0x04, .i32, .rw, 0⟩,
  ⟨0x2802, 0x2802, 0x05, 0x08, .str, .rw, 0⟩,
  ⟨0x2803, 0x2803, 0x01, 0x01, .u64, .wo, 0⟩,
  ⟨0x2803, 0x2803, 0x02, 0x02, .i32, .rw, 0⟩,
  ⟨0x2803, 0x2803, 0x03, 0x03, .i32, .rw, 0⟩,
  ⟨0x2808, 0x2808, 0x01, 0x01, .u32, .ro, 20000⟩,
  ⟨0x2808, 0x2808, 0x02, 0x02, .u64, .ro, 0⟩,
  ⟨0x2808, 0x2808, 0x03, 0x03, .time, .ro, 0⟩,
  ⟨0x2808, 0x2808, 0x04, 0x04, .u64, .ro, 0⟩,
  ⟨0x2808, 0x2808, 0x05, 0x05, .u64, .ro, 0⟩,
  ⟨0x2820, 0x283F, 0x01, 0x01, .u8, .ro, 0⟩,
  ⟨0x2820, 0x283F, 0x02, 0x02, .u8, .rw, 0⟩,
  ⟨0x2820, 0x283F, 0x03, 0x03, .u8, .ro, 0xFF⟩,
  ⟨0x2820, 0x283F, 0x04, 0x04, .u64, .ro, 0⟩,
  ⟨0x2820, 0x283F, 0x05, 0x05, .u64, .ro, 0⟩,
  ⟨0x2820, 0x283F, 0x06, 0x06, .u64, .ro, 0⟩,
  ⟨0x2820, 0x283F, 0x07, 0x07, .i64, .ro, 0⟩,
  ⟨0x2820, 0x283F, 0x08, 0x08, .u64, .ro, 0⟩]

def objTable3 : List ObjRow := [
  ⟨0x3000, 0x3000, 0x01, 0x01, .u32, .ro, 0⟩,
  ⟨0x3000, 0x3000, 0x02, 0x02, .blob, .ro, 0⟩,
  ⟨0x3000, 0x3000, 0x03, 0x03, .u32, .ro, 0⟩,
  ⟨0x3000, 0x3000, 0x04, 0x04, .blob, .ro, 0⟩,
  ⟨0x3020, 0x303F, 0x01, 0x01, .u8, .ro, 2⟩,
  ⟨0x3020, 0x303F, 0x02, 0x02, .u8, .ro, 0⟩,
  ⟨0x3020, 0x303F, 0x03, 0x03, .u16, .ro, 0xFFFF⟩]

def objTable4 : List ObjRow := [
  ⟨0x3400, 0x3400, 0x01, 0x01, .handle, .wo, 0⟩,
  ⟨0x3400, 0x3400, 0x02, 0x02, .u8, .rw, 0⟩,
  ⟨0x3400, 0x3400, 0x03, 0x03, .bool, .rw, 0⟩,
  ⟨0x3400, 0x3400, 0x04, 0x04, .u32, .ro, 0⟩,
  ⟨0x3400, 0x3400, 0x05, 0x05, .u32, .ro, 0⟩,
  ⟨0x3420, 0x343F, 0x01, 0x01, .time, .ro, 0⟩,
  ⟨0x3420, 0x343F, 0x02, 0x02, .u8, .ro, 0⟩,
  ⟨0x3420, 0x343F, 0x03, 0x03, .u32, .ro, 0⟩]

def objTable5 : List ObjRow := [
  ⟨0x1000, 0x1000, 0x01, 0x01, .blob, .const, 0⟩,
  ⟨0x1000, 0x1000, 0x02, 0x02, .str, .const, 0⟩,
  ⟨0x1000, 0x1000, 0x03, 0x03, .u8, .const, 0⟩,
  ⟨0x1000, 0x1000, 0x04, 0x04, .u16, .ro, 0⟩,
  ⟨0x1000, 0x1000, 0x05, 0x05, .str, .ro, 0⟩,
  ⟨0x1000, 0x1000, 0x06, 0x06, .u32, .ro, 0⟩,
  ⟨0x1000, 0x1000, 0x07, 0x07, .u8, .ro, 0⟩,
  ⟨0x1000, 0x1000, 0x08, 0x08, .blob, .ro, 0⟩,
  ⟨0x1000, 0x1000, 0x09, 0x09, .blob, .ro, 0⟩,
  ⟨0x4000, 0x400F, 0x01, 0x01, .u8, .rw, 0⟩,
  ⟨0x4000, 0x400F, 0x02, 0x02, .str, .rw, 0⟩,
  ⟨0x4000, 0x400F, 0x03, 0x03, .u8, .rw, 0x0F⟩,
  ⟨0x4000, 0x400F, 0x04, 0x04, .blob, .wo, 0⟩,
  ⟨0x4000, 0x400F, 0x05, 0x05, .blob, .wo, 0⟩,
  ⟨0x4000, 0x400F, 0x06, 0x09, .u64, .rw, 0⟩,
  ⟨0x4000, 0x400F, 0x0A, 0x0D, .str, .rw, 0⟩,
  ⟨0x4000, 0x400F, 0x0E, 0x0E, .bool, .ro, 0⟩,
  ⟨0x4000, 0x400F, 0x0F, 0x0F, .u32, .ro, 0⟩,
  ⟨0x4000, 0x400F, 0x10, 0x10, .u32, .ro, 0⟩,
  ⟨0x4000, 0x400F, 0x11, 0x11, .u32, .ro, 0⟩,
  ⟨0x4000, 0x400F, 0x12, 0x12, .u64, .ro, 0⟩,
  ⟨0x4000, 0x400F, 0x13, 0x13, .u16, .rw, 1400⟩]

def objTable6 : List ObjRow := [
  ⟨0x1100, 0x1100, 0x01, 0x01, .u8, .ro, 0xFF⟩,
  ⟨0x1100, 0x1100, 0x02, 0x02, .str, .rw, 0⟩,
  ⟨0x1100, 0x1100, 0x03, 0x03, .str, .rw, 0⟩,
  ⟨0x1100, 0x1100, 0x04, 0x04, .str, .rw, 0⟩,
  ⟨0x1100, 0x1100, 0x05, 0x05, .u16, .rw, 0⟩,
  ⟨0x1100, 0x1100, 0x06, 0x06, .u16, .rw, 1500⟩,
  ⟨0x1100, 0x1100, 0x07, 0x07, .u16, .const, 5914⟩,
  ⟨0x1100, 0x1100, 0x08, 0x08, .u8, .ro, 0⟩,
  ⟨0x1100, 0x1100, 0x09, 0x09, .blob, .ro, 0⟩,
  ⟨0x1100, 0x1100, 0x0A, 0x0A, .u16, .rw, 60⟩,
  ⟨0x1100, 0x1100, 0x0B, 0x0B, .bool, .rw, 0⟩,
  ⟨0x1100, 0x1100, 0x0C, 0x0C, .bool, .ro, 0⟩,
  ⟨0x1100, 0x1100, 0x0D, 0x0D, .str, .const, 0⟩,
  ⟨0x1100, 0x1100, 0x11, 0x14, .blob, .rw, 0⟩,
  ⟨0x1101, 0x1101, 0x01, 0x10, .blob, .rw, 0⟩,
  ⟨0x4400, 0x440F, 0x01, 0x01, .u32, .rw, 6144⟩,
  ⟨0x4400, 0x440F, 0x02, 0x02, .u32, .rw, 0xFFFFFFFF⟩,
  ⟨0x4400, 0x440F, 0x03, 0x03, .u32, .rw, 0⟩,
  ⟨0x4400, 0x440F, 0x04, 0x04, .u32, .rw, 64⟩,
  ⟨0x4400, 0x440F, 0x05, 0x05, .u32, .rw, 13000⟩,
  ⟨0x4400, 0x440F, 0x06, 0x06, .u32, .ro, 13000⟩]

def objTable7 : List ObjRow := [
  ⟨0x4800, 0x4800, 0x01, 0x01, .bool, .ro, 0⟩,
  ⟨0x4800, 0x4800, 0x02, 0x02, .u8, .rw, 1⟩,
  ⟨0x4800, 0x4800, 0x03, 0x03, .u8, .rw, 1⟩,
  ⟨0x4800, 0x4800, 0x04, 0x04, .u16, .rw, 64⟩,
  ⟨0x4800, 0x4800, 0x05, 0x05, .u32, .ro, 0⟩,
  ⟨0x4800, 0x4800, 0x06, 0x06, .u32, .ro, 0⟩,
  ⟨0x4800, 0x4800, 0x07, 0x07, .u32, .rw, 600⟩,
  ⟨0x4800, 0x4800, 0x08, 0x08, .u64, .ro, 0⟩,
  ⟨0x4800, 0x4800, 0x09, 0x09, .u64, .ro, 0⟩,
  ⟨0x4800, 0x4800, 0x0A, 0x0A, .u64, .ro, 0⟩,
  ⟨0x4800, 0x4800, 0x0B, 0x0B, .u64, .ro, 0⟩,
  ⟨0x4800, 0x4800, 0x0C, 0x0C, .u64, .ro, 0⟩]

def objTable8 : List ObjRow := [
  ⟨0x5010, 0x501F, 0x01, 0x01, .u16, .rw, 0⟩,
  ⟨0x5010, 0x501F, 0x02, 0x02, .bool, .ro, 0⟩,
  ⟨0x5010, 0x501F, 0x03, 0x03, .u16, .ro, 0⟩,
  ⟨0x5010, 0x501F, 0x04, 0x04, .u16, .ro, 0⟩,
  ⟨0x5010, 0x501F, 0x05, 0x05, .u8, .ro, 0⟩,
  ⟨0x5010, 0x501F, 0x06, 0x06, .handle, .wo, 0⟩,
  ⟨0x5010, 0x501F, 0x07, 0x07, .u64, .ro, 0⟩,
  ⟨0x5010, 0x501F, 0x08, 0x08, .u64, .ro, 0⟩,
  ⟨0x5010, 0x501F, 0x09, 0x09, .str, .const, 0⟩]

def objTable9 : List ObjRow := [
  ⟨0x5400, 0x5400, 0x01, 0x01, .handle, .wo, 0⟩,
  ⟨0x5400, 0x5400, 0x02, 0x02, .u8, .rw, 0⟩,
  ⟨0x5400, 0x5400, 0x03, 0x03, .u8, .rw, 0⟩,
  ⟨0x5410, 0x5427, 0x01, 0x01, .u8, .ro, 0⟩,
  ⟨0x5410, 0x5427, 0x02, 0x02, .u16, .ro, 0⟩,
  ⟨0x5410, 0x5427, 0x03, 0x03, .i32, .ro, 0⟩,
  ⟨0x5410, 0x5427, 0x04, 0x08, .u64, .ro, 0⟩,
  ⟨0x5410, 0x5427, 0x09, 0x09, .u32, .ro, 0⟩,
  ⟨0x5440, 0x549F, 0x01, 0x04, .u64, .ro, 0⟩]

def objTable10 : List ObjRow := [
  ⟨0x1800, 0x1800, 0x01, 0x01, .u8, .ro, 0⟩,
  ⟨0x1800, 0x1800, 0x02, 0x02, .u32, .ro, 0⟩,
  ⟨0x1800, 0x1800, 0x03, 0x03, .u8, .ro, 0⟩,
  ⟨0x1800, 0x1800, 0x04, 0x04, .bool, .ro, 0⟩,
  ⟨0x1800, 0x1800, 0x05, 0x05, .u32, .wo, 0⟩,
  ⟨0x1800, 0x1800, 0x06, 0x06, .u32, .ro, 0⟩,
  ⟨0x1800, 0x1800, 0x07, 0x07, .handle, .rw, 0⟩,
  ⟨0x1800, 0x1800, 0x08, 0x08, .u32, .ro, 0⟩,
  ⟨0x1800, 0x1800, 0x09, 0x09, .handle, .ro, 0⟩,
  ⟨0x6000, 0x6000, 0x01, 0x01, .u32, .ro, 0⟩,
  ⟨0x6000, 0x6000, 0x02, 0x02, .u8, .ro, 0⟩,
  ⟨0x6000, 0x6000, 0x03, 0x03, .u32, .ro, 0⟩,
  ⟨0x6000, 0x6000, 0x04, 0x04, .i32, .ro, 0⟩,
  ⟨0x6000, 0x6000, 0x05, 0x05, .u64, .ro, 0⟩,
  ⟨0x6000, 0x6000, 0x06, 0x06, .u64, .ro, 0⟩,
  ⟨0x6000, 0x6000, 0x07, 0x07, .u64, .ro, 0⟩,
  ⟨0x6000, 0x6000, 0x08, 0x08, .u64, .ro, 0⟩,
  ⟨0x6000, 0x6000, 0x09, 0x09, .u32, .ro, 0⟩,
  ⟨0x6000, 0x6000, 0x0A, 0x0A, .u32, .ro, 0⟩,
  ⟨0x6000, 0x6000, 0x0C, 0x0C, .blob, .ro, 0⟩,
  ⟨0x6000, 0x6000, 0x0D, 0x0D, .u32, .ro, 0⟩,
  ⟨0x6000, 0x6000, 0x0E, 0x0E, .u32, .ro, 0⟩,
  ⟨0x6001, 0x6001, 0x01, 0x04, .u32, .ro, 0⟩,
  ⟨0x6002, 0x6002, 0x01, 0x01, .u8, .rw, 0xFF⟩,
  ⟨0x6002, 0x6002, 0x02, 0x02, .u64, .rw, 1⟩,
  ⟨0x6002, 0x6002, 0x03, 0x03, .handle, .wo, 0⟩,
  ⟨0x6002, 0x6002, 0x04, 0x04, .blob, .ro, 0⟩,
  ⟨0x6002, 0x6002, 0x05, 0x05, .u64, .wo, 0⟩]

def objTable11 : List ObjRow := [
  ⟨0x7000, 0x7000, 0x01, 0x01, .u64, .ro, 1⟩,
  ⟨0x7000, 0x7000, 0x02, 0x02, .u64, .ro, 1⟩,
  ⟨0x7000, 0x7000, 0x03, 0x03, .u64, .ro, 0⟩,
  ⟨0x7000, 0x7000, 0x04, 0x04, .u64, .rw, 1⟩,
  ⟨0x7000, 0x7000, 0x05, 0x05, .blob, .ro, 0⟩,
  ⟨0x7000, 0x7000, 0x06, 0x06, .u32, .rw, 4096⟩,
  ⟨0x7000, 0x7000, 0x07, 0x07, .u64, .ro, 0⟩,
  ⟨0x7000, 0x7000, 0x08, 0x08, .u64, .ro, 0⟩,
  ⟨0x7000, 0x7000, 0x09, 0x09, .u64, .ro, 0⟩,
  ⟨0x7000, 0x7000, 0x0A, 0x0A, .u64, .ro, 0⟩,
  ⟨0x7000, 0x7000, 0x0B, 0x0B, .u64, .ro, 0⟩,
  ⟨0x7000, 0x7000, 0x0C, 0x0C, .u64, .ro, 0⟩,
  ⟨0x7000, 0x7000, 0x0D, 0x0D, .u64, .ro, 0⟩,
  ⟨0x7000, 0x7000, 0x0E, 0x0E, .u64, .ro, 0⟩,
  ⟨0x7000, 0x7000, 0x0F, 0x0F, .bool, .ro, 0⟩,
  ⟨0x7001, 0x7001, 0x01, 0x01, .blob, .ro, 0⟩,
  ⟨0x7002, 0x7002, 0x01, 0x01, .u32, .ro, 0⟩,
  ⟨0x7002, 0x7002, 0x02, 0x02, .u32, .wo, 0⟩,
  ⟨0x7002, 0x7002, 0x03, 0x03, .u32, .rw, 0x000003FF⟩,
  ⟨0x7040, 0x705F, 0x01, 0x06, .u64, .ro, 0⟩,
  ⟨0x7040, 0x705F, 0x07, 0x0D, .u64, .ro, 0⟩,
  ⟨0x7040, 0x705F, 0x0E, 0x15, .u64, .ro, 0⟩]

def objTable12 : List ObjRow := [
  ⟨0x7800, 0x7800, 0x01, 0x01, .u8, .ro, 0⟩,
  ⟨0x7800, 0x7800, 0x02, 0x02, .u64, .ro, 0⟩,
  ⟨0x7800, 0x7800, 0x03, 0x03, .u32, .ro, 0⟩,
  ⟨0x7800, 0x7800, 0x04, 0x04, .u16, .rw, 16⟩,
  ⟨0x7800, 0x7800, 0x05, 0x05, .u64, .ro, 0xFFFFFFFFFFFFFFFF⟩,
  ⟨0x7800, 0x7800, 0x06, 0x06, .u64, .ro, 0xFFFFFFFFFFFFFFFF⟩,
  ⟨0x7800, 0x7800, 0x07, 0x07, .f32, .ro, 0⟩,
  ⟨0x7800, 0x7800, 0x08, 0x08, .handle, .wo, 0⟩,
  ⟨0x7800, 0x7800, 0x09, 0x09, .handle, .wo, 0⟩,
  ⟨0x7800, 0x7800, 0x0A, 0x0A, .u8, .rw, 2⟩,
  ⟨0x7800, 0x7800, 0x0B, 0x0B, .handle, .wo, 0⟩,
  ⟨0x7800, 0x7800, 0x0C, 0x0C, .blob, .ro, 0⟩,
  ⟨0x7800, 0x7800, 0x0D, 0x0D, .blob, .wo, 0⟩,
  ⟨0x7800, 0x7800, 0x0E, 0x0E, .u64, .ro, 0⟩,
  ⟨0x7800, 0x7800, 0x0F, 0x0F, .u64, .ro, 0⟩,
  ⟨0x7800, 0x7800, 0x10, 0x10, .blob, .wo, 0⟩]

def objTable13 : List ObjRow := [
  ⟨0x8000, 0x8000, 0x01, 0x01, .handle, .wo, 0⟩,
  ⟨0x8000, 0x8000, 0x02, 0x02, .blob, .wo, 0⟩,
  ⟨0x8000, 0x8000, 0x03, 0x03, .blob, .wo, 0⟩,
  ⟨0x8000, 0x8000, 0x04, 0x04, .u32, .rw, 20000⟩,
  ⟨0x8000, 0x8000, 0x05, 0x05, .bool, .rw, 0⟩,
  ⟨0x8000, 0x8000, 0x06, 0x09, .blob, .rw, 0⟩,
  ⟨0x8000, 0x8000, 0x0A, 0x0A, .bool, .ro, 0⟩,
  ⟨0x8000, 0x8000, 0x0B, 0x0B, .blob, .ro, 0⟩,
  ⟨0x8000, 0x8000, 0x0C, 0x0C, .u32, .ro, 0⟩,
  ⟨0x8000, 0x8000, 0x0D, 0x0D, .u32, .ro, 0⟩,
  ⟨0x8000, 0x8000, 0x0E, 0x0E, .handle, .wo, 0⟩,
  ⟨0x8000, 0x8000, 0x0F, 0x0F, .u8, .ro, 0⟩]

def objTable14 : List ObjRow := [
  ⟨0x9000, 0x9000, 0x01, 0x01, .blob, .wo, 0⟩,
  ⟨0x9000, 0x9000, 0x02, 0x02, .handle, .wo, 0⟩,
  ⟨0x9000, 0x9000, 0x03, 0x03, .u8, .ro, 0⟩,
  ⟨0x9000, 0x9000, 0x04, 0x04, .u8, .ro, 0⟩,
  ⟨0x9000, 0x9000, 0x05, 0x05, .u32, .rw, 0⟩,
  ⟨0x9010, 0x9010, 0x01, 0x01, .blob, .wo, 0⟩,
  ⟨0x9010, 0x9010, 0x02, 0x02, .handle, .wo, 0⟩,
  ⟨0x9010, 0x9010, 0x03, 0x03, .u32, .ro, 0⟩,
  ⟨0x9010, 0x9010, 0x04, 0x04, .u8, .ro, 4⟩,
  ⟨0x9010, 0x9010, 0x05, 0x05, .blob, .ro, 0⟩,
  ⟨0x9010, 0x9010, 0x06, 0x06, .u64, .wo, 0⟩,
  ⟨0x9020, 0x9020, 0x01, 0x01, .handle, .wo, 0⟩,
  ⟨0x9020, 0x9020, 0x02, 0x02, .blob, .wo, 0⟩,
  ⟨0x9020, 0x9020, 0x03, 0x03, .blob, .ro, 0⟩]

/-- The object tables of the chapters (R424), in index order. -/
def objTable : List ObjRow :=
  objTable0 ++ objTable1 ++ objTable2 ++ objTable3 ++ objTable4 ++ objTable5 ++ objTable6 ++ objTable7 ++ objTable8 ++ objTable9 ++ objTable10 ++ objTable11 ++ objTable12 ++ objTable13 ++ objTable14

/-- The row of an object. -/
def objRow (ix sub : Nat) : Option ObjRow :=
  objTable.find? fun r => decide (r.lo ≤ ix ∧ ix ≤ r.hi ∧ r.sub ≤ sub ∧ sub ≤ r.subHi)

/-- R420: the highest sub-index present at an index; none where the index has no object. -/
def objTop (ix : Nat) : Option Nat :=
  let l := objTable.filter fun r => decide (r.lo ≤ ix ∧ ix ≤ r.hi)
  if l.isEmpty then none else some (l.foldl (fun m r => max m r.subHi) 0)

/-- The default of an object. -/
def objDefault (ix sub : Nat) : Nat :=
  if ix = 0x2801 ∧ 1 ≤ sub ∧ sub ≤ 4 then sub
  else if 0x5010 ≤ ix ∧ ix ≤ 0x501F ∧ sub = 1 then (if ix % 4 = 0 then 800 else 0)
  else match objRow ix sub with | some r => r.dflt | none => 0

/-- R421: persistent objects. -/
def persistentObj (ix sub : Nat) : Bool :=
  let within (a b : Nat) : Bool := decide (a ≤ sub ∧ sub ≤ b)
  if ix = 0x1100 then within 2 6 || sub == 0x0A || sub == 0x0B || within 0x11 0x14
  else if ix = 0x1101 then within 1 0x10
  else if ix = 0x2000 then within 1 2
  else if ix = 0x2801 then within 1 5
  else if ix = 0x2802 then within 1 8
  else if ix = 0x2803 then within 2 3
  else if ix = 0x3400 then sub == 3
  else if (0x4000 ≤ ix ∧ ix ≤ 0x400F) ∨ (0x4400 ≤ ix ∧ ix ≤ 0x440F) then
    match objRow ix sub with | some r => r.acc == .rw || r.acc == .wo | none => false
  else if ix = 0x4800 then within 2 4 || sub == 7
  else if 0x5010 ≤ ix ∧ ix ≤ 0x501F then sub == 1
  else if ix = 0x7000 then sub == 6
  else if ix = 0x7002 then sub == 3
  else if ix = 0x7800 then sub == 4
  else if ix = 0x8000 then within 4 9
  else ix == 0x9000 && sub == 5

/-- R421: session objects. -/
def sessionObj (ix sub : Nat) : Bool :=
  (ix == 0x1800 && (sub == 7 || sub == 8)) || (ix == 0x6002 && decide (1 ≤ sub ∧ sub ≤ 4)) ||
  (ix == 0x7000 && (sub == 4 || sub == 5)) || (ix == 0x9020 && (sub == 2 || sub == 3))

/-- The table key of an object. -/
def objKey (ix sub : Nat) : Nat := ix * 256 + sub

/-- The stored value of a writable scalar object, or its default. -/
def State.setting (s : State) (ix sub : Nat) : Nat :=
  match Tab.get none (if persistentObj ix sub then s.flash.objs else s.fordan.vol) (objKey ix sub) with
  | some v => v
  | none => objDefault ix sub

/-- Write a stored scalar object. -/
def State.putSetting (s : State) (ix sub v : Nat) : State :=
  if persistentObj ix sub then
    { s with flash := { s.flash with objs := Tab.put none s.flash.objs (objKey ix sub) (some v) } }
  else { s with fordan := { s.fordan with vol := Tab.put none s.fordan.vol (objKey ix sub) (some v) } }

/-- A stored string or BLOB object; empty by default. -/
def State.blob (s : State) (ix sub : Nat) : Bytes :=
  Tab.get [] (if persistentObj ix sub then s.flash.blobs else s.fordan.volB) (objKey ix sub)

/-- Write a stored string or BLOB object. -/
def State.putBlob (s : State) (ix sub : Nat) (v : Bytes) : State :=
  if persistentObj ix sub then
    { s with flash := { s.flash with blobs := Tab.put [] s.flash.blobs (objKey ix sub) v } }
  else { s with fordan := { s.fordan with volB := Tab.put [] s.fordan.volB (objKey ix sub) v } }

/-- R400, R402: a licence for the feature is installed. -/
def State.licensed (s : State) (feature : Nat) : Bool := s.flash.lics.any fun l => l.feature == feature && l.valid

/-- R249: FLAGS of an image, and three of its bits. -/
def imgFlags (hdr : Bytes) : Nat := leAt hdr 0x00C 4
def State.imgFlags (s : State) : Nat := match s.img.loaded with | some i => Machine.imgFlags i.hdr | none => 0
/-- R3, R56, R249: the loaded image is an adapter-training image. -/
def State.training (s : State) : Bool := bitOf s.imgFlags 1
/-- R54: the loaded image is in deterministic mode. -/
def State.determ (s : State) : Bool := bitOf s.imgFlags 0

/-- R342: the module limit, W. -/
def State.moduleLimit (s : State) : Nat :=
  if s.pwr.pcap then min s.pwr.pcapLim (s.setting 0x2000 1) else s.setting 0x2000 1

end Sys2Proof.Machine
end

