-- ==== Sys2Proof/Machine/Net.lean ====
section
/-!
DEFINITION. Shared operations of the two networks: fences (R185 to R187), fabric reports (R191), packets entering the data
mesh (R169), and messages with their replies and retries (R180 to R183).
-/

namespace Sys2Proof.Machine

/-! ### Fences -/

/-- R185: the state of a port. `held` is a port fenced by region toward a Stopped region, whose outbound traffic waits
(R187). -/
inductive Fence where
  | normal | unit | region | held
deriving DecidableEq, Repr

/-- R185: the state of a router's port, from the fences by unit and the state of the far side's region. -/
def State.fence (s : State) (t port : Nat) : Fence :=
  match neighbour t port with
  | none => if decide (port ≥ 5) && (s.tile t).selfFenced then .unit else .normal
  | some u =>
    if (s.tile t).unitFence.contains port then .unit
    else
      match (s.region (tileRegion u)).st with
      | .active => .normal
      | .stopped => .held
      | _ => .region

/-- R187: whether a port discards what passes outward through it. -/
def Fence.closed : Fence → Bool
  | .unit => true
  | .region => true
  | _ => false

/-! ### Reports of routers (R191) -/

/-- R191 word 0. `unit` is the reduction unit or skew buffer, 15 for none; port 7 is none. -/
def fabWord (t code port : Nat) (msg : Bool) (label unit : Nat) : Nat :=
  code + port * 2 ^ 8 + (if msg then 2 ^ 11 else 0) + label * 2 ^ 12 + tileCol t * 2 ^ 20 + tileRow t * 2 ^ 26 +
    unit * 2 ^ 32

/-- R191 word 1: an occurrence of a code at a router. -/
def State.occur (s : State) (t code : Nat) : State :=
  s.updTile t fun x => { x with occ := Tab.upd 0 x.occ code (count64 1) }

/-- R191: a report with the occurrences since the previous report of its code. -/
def State.fabReport (s : State) (t code port : Nat) (msg : Bool) (label unit w2 w3 : Nat) : State :=
  let n := Tab.get 0 (s.tile t).occ code
  (s.report t (fabWord t code port msg label unit) n w2 w3).updTile t fun x =>
    { x with occ := Tab.put 0 x.occ code 0 }

/-- R172, R190: a packet without a valid entry, unit or endpoint is discarded: counted, `n` flits at the router and one packet at
the tile port, and reported once per label per beat. -/
def State.labelDiscard (s : State) (t port label n : Nat) : State :=
  let s := (s.count t 18 n).occur t 0x57
  let key := port * 256 + label
  if (s.tile t).labelSeen.contains key then s
  else (s.fabReport t 0x57 port false label 15 0 0).updTile t fun x => { x with labelSeen := insertSet key x.labelSeen }

/-- R187: `n` flits or words discarded inbound at a fenced port: counted, the first at each port in each beat reported. -/
def State.breach (s : State) (t port : Nat) (msg : Bool) (label n : Nat) : State :=
  if n = 0 then s
  else
    let s := (s.count t 14 n).occur t 0x55
    let key := port + (if msg then 8 else 0)
    if (s.tile t).breachSeen.contains key then s
    else (s.fabReport t 0x55 port msg label 15 0 0).updTile t fun x => { x with breachSeen := insertSet key x.breachSeen }

/-- R179: a route, or a reduction unit, is blocked until the next beat mark. Keys: 256 · port + label of a route at its input
port, 1,536 + u of unit u, 2,048 + 256 · descriptor + label at the tile port. -/
def unitKey (u : Nat) : Nat := 1536 + u
def tilePortKey (ep label : Nat) : Nat := 2048 + 256 * ep + label
def State.block (s : State) (t key : Nat) : State := s.updTile t fun x => { x with blocked := insertSet key x.blocked }

/-- R187: blocked by a fence, code 0x56. -/
def State.fenceBlock (s : State) (t key port label unit : Nat) : State :=
  ((s.block t key).occur t 0x56).fabReport t 0x56 port false label unit 0 0

/-- R187: what a port discards when it becomes fenced: its receive buffer, and operands that came through it, whose unit is
blocked. -/
def State.flushPort (s : State) (t port : Nat) : State :=
  let x := s.tile t
  let inb := Tab.get [] x.inBuf port
  let gone (l : List Operand) : Nat := (l.filter (fun o => o.port == port)).length
  let ops := x.opBuf.foldl (fun n c => n + gone c.2) 0
  let n := 4 * (inb.length + ops)
  if n = 0 then s
  else
    let label := match inb with | p :: _ => p.label | [] => 0
    let units := [0, 1].filter fun u => x.opBuf.any fun c => c.1 / 2 == u && decide (gone c.2 > 0)
    let s := (s.updTile t fun x => { x with
      inBuf := Tab.put [] x.inBuf port [],
      opBuf := (x.opBuf.map fun c => (c.1, c.2.filter fun o => o.port != port)).filter fun c => !c.2.isEmpty }).breach
        t port false label n
    s.each units fun s u => s.fenceBlock t (unitKey u) port 0 u

/-- R26, R164: the ring ports of a tile: a corner router has two, port 5 on its north or south edge and port 6 on its west or
east edge. -/
def ringPorts (t : Nat) : List Nat := if isCorner t then [5, 6] else if onEdge t then [5] else []

/-- The key of the packets that have left by a ring port and wait at the ring. -/
def ringKey (t port : Nat) : Nat := t + 4096 * (port - 5)

/-- R187: what waits at a ring port, on either side of it, is discarded as the port becomes fenced. -/
def State.flushRing (s : State) (t port : Nat) : State :=
  let n := 4 * ((Tab.get [] (s.tile t).inBuf port).length + (Tab.get [] s.ringOut (ringKey t port)).length)
  if n = 0 then s
  else
    let s : State := { s with ringOut := Tab.put [] s.ringOut (ringKey t port) [] }
    ((s.updTile t fun x => { x with inBuf := Tab.put [] x.inBuf port [] }).count t 14 n).occur t 0x55

/-- R185: fence every port that faces a tile, on both networks, and its ring ports; its own ports are cut off with it. -/
def State.fenceTile (s : State) (u : Nat) : State :=
  let s := s.each (ringPorts u) fun s p => s.flushRing u p
  let s := s.updTile u fun x => { x with selfFenced := true }
  s.each [0, 1, 2, 3] fun s p =>
    match neighbour u p with
    | none => s
    | some t =>
      let q := opposite p
      if (s.tile t).unitFence.contains q then s
      else (s.flushPort t q).updTile t fun x => { x with unitFence := insertSet q x.unitFence }

/-- R185, R186: the ports of other regions, and of the ring, toward a region that leaves Active. -/
def State.fenceRegion (s : State) (g : Nat) : State :=
  s.each (regionTiles g) fun s u =>
    let s := s.each (ringPorts u) fun s p => s.flushRing u p
    s.each [0, 1, 2, 3] fun s p =>
      match neighbour u p with
      | none => s
      | some t => if tileRegion t = g then s else s.flushPort t (opposite p)

/-! ### Packets entering the mesh -/

/-- Packets that one input buffer of 16 flits holds (R165), one operand buffer (R175) and one skew buffer of 32 flits (R173). -/
def inPackets : Nat := 4
def opPackets : Nat := 4
def skewPackets : Nat := 8

/-- R165: what the tile sends enters port 4 as its buffer has places; the rest waits in the tile. -/
def Tile.pumpOut (x : Tile) : Tile :=
  let room := inPackets - (Tab.get [] x.inBuf 4).length
  { x with inBuf := Tab.upd [] x.inBuf 4 (· ++ x.outQ.take room), outQ := x.outQ.drop room }

/-- R169: a packet is sent toward port 4 of its tile's router under a data route register. A register that is not VALID names no
label: the packet is discarded as under R172 (log entry 21). -/
def State.inject (s : State) (t rr xp : Nat) (row : Bytes) : State :=
  let e := Tab.get 0 (s.tile t).droutes rr
  if e < 256 then s.labelDiscard t 4 0 4
  else
    let row := slice row 0 512
    let p : Packet := { label := e % 256, xp := xp, dig := crc64 row, row := row }
    s.updTile t fun x => ({ x with outQ := x.outQ ++ [p] } : Tile).pumpOut

/-- Rows sent one after another. -/
def State.injectAll (s : State) (t rr : Nat) : List Bytes → State
  | [] => s
  | b :: r => (s.inject t rr 0 b).injectAll t rr r

/-! ### Messages -/

/-- The hops of one leg from `(c, r)` to `(c', r')`, along one axis and then the other: router and port. -/
def axisHops (n : Nat) (f : Nat → Nat × Nat) : List (Nat × Nat) := (upTo n).map f
def eastWest (c c' r : Nat) : List (Nat × Nat) :=
  if c < c' then axisHops (c' - c) fun i => (tileIx (c + i) r, 1) else axisHops (c - c') fun i => (tileIx (c - i) r, 3)
def northSouth (r r' c : Nat) : List (Nat × Nat) :=
  if r < r' then axisHops (r' - r) fun i => (tileIx c (r + i), 0) else axisHops (r - r') fun i => (tileIx c (r - i), 2)
def leg (nsFirst : Bool) (c r c' r' : Nat) : List (Nat × Nat) :=
  if nsFirst then northSouth r r' c ++ eastWest c c' r' else eastWest c c' r ++ northSouth r r' c'

/-- The hops from one tile to another, along one axis and then the other. -/
def hops (nsFirst : Bool) (t u : Nat) : List (Nat × Nat) := leg nsFirst (tileCol t) (tileRow t) (tileCol u) (tileRow u)

/-- R181: the hops of a channel of a tile, the ring port of a ring destination included. Reports go to the region's supervisor
north–south first (log entry 21). -/
def State.pathOf (s : State) (t rr : Nat) : List (Nat × Nat) :=
  let c := tileCol t
  let r := tileRow t
  if rr = statusChannel then leg true c r c (tileRow (clusterS t))
  else if rr = reportChannel then (tileOfCode (s.region (tileRegion t)).sup).elim [] (hops true t)
  else
    let w := (Tab.get 0 (s.tile t).mroutes rr).toNat
    let dc := bits w 46 41
    let dr := bits w 40 35
    let main :=
      if bitOf w 62 then
        leg (bitOf w 61) c r (bits w 58 53) (bits w 52 47) ++ leg (bitOf w 60) (bits w 58 53) (bits w 52 47) dc dr
      else leg (bitOf w 61) c r dc dr
    if bitOf w 59 then main ++ [(tileIx 0 dr, 5)] else main

/-- The way back along a path (R182). -/
def backOf (l : List (Nat × Nat)) : List (Nat × Nat) :=
  l.reverse.map fun h => match neighbour h.1 h.2 with | some u => (u, opposite h.2) | none => h

/-- What a message meets on its path (R187): a port where it waits, a fenced port that returns it, one that it breaches. -/
inductive Way where
  | open_
  | waits (t port : Nat)
  | refused (t port : Nat)
  | breached (t port : Nat)
deriving DecidableEq, Repr

/-- R187: the first fenced port on a path. -/
def State.wayOf (s : State) : List (Nat × Nat) → Way
  | [] => .open_
  | (t, p) :: r =>
    match s.fence t p with
    | .held => .waits t p
    | .unit => .refused t p
    | .region => .refused t p
    | .normal =>
      match neighbour t p with
      | none => State.wayOf s r
      | some u =>
        match s.fence u (opposite p) with
        | .unit => .breached u (opposite p)
        | .region => .breached u (opposite p)
        | _ => State.wayOf s r

/-- Results of the S-core's primitives (R132), as State holds them: 1 GRANTED, 2 REFUSED, 3 TIMED_OUT, 4 ACCEPTED, 5 NAK,
6 a message, 7 EMPTY, 8 DONE. -/
def rGranted : Nat := 1
def rRefused : Nat := 2
def rTimedOut : Nat := 3
def rAccepted : Nat := 4
def rNak : Nat := 5
def rMessage : Nat := 6
def rEmpty : Nat := 7
def rDone : Nat := 8

/-- R91, R129: the counts restart at zero once a tuple is accepted. -/
def Tile.clearCounts (x : Tile) : Tile := { x with nDone := 0, nSat := 0, nNan := 0, nDrawn := 0 }

/-- An ACCEPTED reply reaches a sender (R182): what it ends depends on what was sent, and what waits for the channel goes out. -/
def State.accepted (s : State) (t rr : Nat) : State :=
  match Tab.get none (s.tile t).sends rr with
  | none => s.sendNext t rr
  | some x =>
    (s.updTile t fun y =>
      let y := { y with sends := Tab.put none y.sends rr none }
      match x.kind with
      | .core => { y with result := rAccepted }
      | .post => if y.posted then { y.clearCounts with posted := false, seqIx := (y.seqIx + 1) % 1024 } else y
      | .vstat => y.clearCounts
      | .notice => y
      | .report => y).sendNext t rr

/-- R183: the bound is passed: a channel stall, and the sender stops and keeps the message. A report that cannot be sent has no other
way out. -/
def State.channelStall (s : State) (t : Nat) (x : Snd) : State :=
  match x.kind with
  | .report => s.occur t 0x54
  | .notice => (s.occur t 0x54).fabReport t 0x54 4 true 0 15 0 0
  | .vstat => s.coreFault t 0x27 ((x.words.headD 0).toNat % 256) (s.tile t).seqIx
  | _ => ((s.updTile t fun y => { y with stopped := true }).occur t 0x54).fabReport t 0x54 7 true 0 15 0 0

/-- R183: a send returned NAK: the sender waits and retries, or past its bound raises a channel stall, once. -/
def State.naked (s : State) (t rr : Nat) : State :=
  match Tab.get none (s.tile t).sends rr with
  | none => s.sendNext t rr
  | some x =>
    if x.waiting || x.stalled then s
    else
      let past := decide (x.n > x.bound)
      let s := s.updTile t fun y => { y with
        sends := Tab.put none y.sends rr (some (if past then { x with stalled := true } else { x with n := x.n + 1, waiting := true })),
        result := if x.kind == .core then rNak else y.result }
      if past then s.channelStall t x else s

/-- Words held in a queue of messages. -/
def wordsHeld (q : List (List W64)) : Nat := q.foldl (fun n m => n + m.length) 0

/-- R200: the words of a relay command. -/
def relayOf (w : List W64) : RelayCmd :=
  let a := (w.getD 0 0).toNat
  let b := (w.getD 1 0).toNat
  { d := bits a 13 0, rows := if bits a 29 16 = 0 then 16384 else bits a 29 16, rr := bits a 37 32, tag := bits a 47 40,
    engine := bits b 6 0 }

/-- R92, R161, R191: a report of four words as the supervisor holds it, from the tile `t`. -/
def reportOf (t : Nat) (w : List W64) : Report :=
  { tile := t, code := (w.getD 0 0).toNat % 256, w0 := (w.getD 0 0).toNat, w1 := (w.getD 1 0).toNat, w2 := (w.getD 2 0).toNat,
    w3 := (w.getD 3 0).toNat }

/-- R182: an endpoint takes a message whole when it fits in its words; none where it does not. -/
def State.takeMsg (s : State) (m : Msg) : Option State :=
  match m.dst with
  | .control c =>
    let q := Tab.get [] s.ctl c
    if wordsHeld q + m.words.length ≤ 64 then some { s with ctl := Tab.put [] s.ctl c (q ++ [m.words]) } else none
  | .relay t =>
    if (s.tile t).relayQ.length < 4 then
      some (s.updTile t fun x => { x with relayQ := x.relayQ ++ [relayOf m.words] })
    else none
  | .sup g =>
    if 4 * (s.region g).reports.length + 4 ≤ 16 then
      some (s.updRegion g fun r => { r with reports := r.reports ++ [reportOf m.src m.words] })
    else none
  | .ep t e =>
    let x := s.tile t
    if tileKind t == .s then
      let q := Tab.get [] x.eps e
      if wordsHeld q + m.words.length ≤ 16 then
        some (s.updTile t fun x => { x with eps := Tab.put [] x.eps e (q ++ [m.words]) })
      else none
    else if e = 0 ∧ x.starts.length + m.words.length ≤ 15 then
      some (s.updTile t fun x => { x with starts := x.starts ++ m.words })
    else none

end Sys2Proof.Machine
end

