-- ==== Sys2Proof/Machine/Steward.lean ====
section
/-!
DEFINITION. The power stewards' leave (R337 to R340): committed current, the test of an unplanned grant, and the answers to
an S-core.
-/

namespace Sys2Proof.Machine

/-- R338: a grant is in force from its first cycle. -/
def Region.inForce (r : Region) (x : Grant) : Bool := decide (x.start ≤ r.cyc)

/-- The committed current of a region, 0.1 A. -/
def Region.committed (r : Region) : Nat :=
  r.rg.iPlan + (r.grants.filter (fun x => r.inForce x && decide (x.tile < nTiles))).foldl (fun n x => n + x.inc) 0

/-- R339: increments granted in a field, 0.1 A. -/
def State.grantedIn (s : State) (f : Nat) : Nat :=
  [2 * f, 2 * f + 1].foldl (fun n g => n + ((s.region g).grants.foldl (fun m x => m + x.inc) 0)) 0

/-- The rail set point in force, mV (0x2020.07, R333, R334). -/
def State.vNow (s : State) (g : Nat) : Nat := s.vset g (s.region g).railOp - (s.region g).trim


/-- R339: whether an unplanned request of `inc` (0.1 A) fits. -/
def State.fitsUnplanned (s : State) (g inc : Nat) : Bool :=
  let f := g / 2
  let v := s.vset g (s.region g).op
  let loss := 1000000 + s.flash.volt.lossPpm
  decide ((s.region g).committed + inc ≤ (s.region g).j) &&
  decide (((s.field f).i18 + s.grantedIn f) * 1620 + inc * v ≤ 5200 * 1620) &&
  decide (s.pwr.pIn * 10000 * 1000000 + inc * v * loss ≤ s.moduleLimit * 10000 * 1000000)

/-- R336, R339: whether a stage of inrush leave (25 A) fits. -/
def State.fitsInrush (s : State) (g inc : Nat) : Bool :=
  let f := g / 2
  decide ((s.region g).committed + inc ≤ (s.region g).j) &&
  decide ((s.field f).i18 + s.grantedIn f + inc ≤ 5200)

def State.fits (s : State) (q : LeaveReq) : Bool :=
  if q.inrush then s.fitsInrush q.region q.inc else s.fitsUnplanned q.region q.inc

/-- A new grant of a field; its number. -/
def State.grant (s : State) (g tile inc : Nat) (entry : Option Nat) (start : Nat) : Nat × State :=
  let f := g / 2
  let n := (s.field f).nextN
  let s := s.updField f fun x => { x with nextN := n + 1 }
  (n, s.updRegion g fun r => { r with grants := r.grants ++ [{ n := n, tile := tile, inc := inc, entry := entry, start := start }] })

/-- The answer of a LEAVE reaches its S-core; a GRANTED names the grant. -/
def State.answerLeave (s : State) (t result n : Nat) : State :=
  s.updTile t fun x => { x with result := result, value := BitVec.ofNat 64 n, leaveWait := false }

/-- R340: code 0xB4 of a refused or timed-out request. -/
def State.leaveEvent (s : State) (t inc us : Nat) : State :=
  s.event { code := 0xB4, region := tileRegion t, source := 2, tile := some t, d0 := inc, d1 := us }

/-- The class of a request (R340): 0 critical, 1 other, 2 inrush. -/
def State.leaveClass (s : State) (q : LeaveReq) : Nat :=
  if q.inrush then 2 else if (s.region q.region).crit then 0 else 1

/-- R340: the place in the queue of the request served next: by class and age, passing over what does not fit, but never
past a request of its own or a higher class that has waited 100 µs. -/
def State.nextServed (s : State) (l : List LeaveReq) : Option LeaveReq :=
  let ordered := [0, 1, 2].flatMap fun c => l.filter fun q => s.leaveClass q == c
  let stop (q : LeaveReq) : Bool := !s.fits q && decide (q.waited ≥ 100) && !q.inrush
  match ordered.find? (fun q => s.fits q || stop q) with
  | none => none
  | some q => if s.fits q then some q else none

/-- LEAVE_QUEUE_SERVE (R340): the steward grants the waiting request whose turn it is. -/
def State.serveLeave (s : State) (f : Nat) : State :=
  match s.nextServed (s.field f).queue with
  | none => s
  | some q =>
    let s := s.updField f fun x => { x with queue := x.queue.filter fun p => p != q }
    let (n, s) := s.grant q.region q.tile q.inc none 0
    s.answerLeave q.tile rGranted n

/-- R337: an S-core's request enters the queue, or is refused when it is full. -/
def State.queueLeave (s : State) (t inc us bound : Nat) (inrush : Bool) : State :=
  let f := tileField t
  let x := s.field f
  if x.queue.length ≥ 64 then
    (s.answerLeave t rRefused 0).leaveEvent t inc us
  else
    (s.updField f fun x => { x with
      queue := x.queue ++ [{ n := x.nextN, region := tileRegion t, tile := t, inc := inc, us := us, bound := bound, waited := 0, inrush := inrush }],
      nextN := x.nextN + 1 }).updTile t fun x => { x with leaveWait := true }

/-- A grant ends (R338). -/
def State.endGrant (s : State) (g : Nat) (p : Grant → Bool) : State :=
  s.updRegion g fun r => { r with grants := r.grants.filter fun x => !p x }

end Sys2Proof.Machine
end

