-- ==== Sys2Proof/Machine/Regions.lean ====
section
/-!
DEFINITION. Regions leaving Active, losing their logic and being lost (R24, R25, R186, R241, R269, R361), and the stop of
every Active region.
-/

namespace Sys2Proof.Machine

/-! ### What a region loses -/

/-- Row `id` lies in the logic tier of region `g`: a scratchpad or a V register. -/
def logicRowOf (g id : Nat) : Bool :=
  (decide (id < nTiles * 768) && tileRegion (id / 768) == g) ||
  (decide (2 ^ 23 ≤ id ∧ id < 2 ^ 23 + nTiles * 128) && tileRegion ((id - 2 ^ 23) / 128) == g)

/-- Row `id` lies in the deep store of region `g`. -/
def deepRowOf (g id : Nat) : Bool :=
  decide (2 ^ 27 ≤ id ∧ id < 2 ^ 27 + nTiles * 16384) && tileRegion ((id - 2 ^ 27) / 16384) == g

/-- Rows whose stores have lost their supply read as if nothing had written them (log entry 1). -/
def State.dropRows (s : State) (p : Nat → Bool) : State :=
  { s with mem := s.mem.filter (fun c => !p (c.1 / 512)), bad := s.bad.filter (fun c => !p c.1) }

/-- A tile whose logic has lost its supply: what remains is the fences of its ports, which only a moult lifts (R185), and its
place in the list of a moult (R159). -/
def Tile.unpowered (x : Tile) : Tile :=
  { Tile.init with noClk := x.noClk, unitFence := x.unitFence, selfFenced := x.selfFenced, weak := x.weak }

/-- R24: the logic of a region is lost; with `deep` its deep store too (R348). -/
def State.powerOff (s : State) (g : Nat) (deep : Bool) : State :=
  let s := s.dropRows fun id => logicRowOf g id || (deep && deepRowOf g id)
  let ts := s.tiles.map fun c => if tileRegion c.1 = g then (c.1, c.2.unpowered) else c
  let s := { s with tiles := ts.filter fun c => decide (c.2 ≠ Tile.init) }
  let s := s.updField (g / 2) fun f => { f with queue := f.queue.filter (fun q => q.region != g) }
  s.updRegion g fun r => { r with
    grants := [], waking := false, wakeK := 0, wakeMoult := false, wakeTurn := false, wakeAt := 0, marked := false, cyc := 0, strE := 0,
    strP := 0, stopNs := 0, reports := [] }

/-! ### State changes -/

/-- R238: the changes written for a region, first to last: beat and point. -/
def Region.changes (r : Region) : List (Nat × Nat) := if r.opPend = 0xFF then [] else (r.opPendBeat, r.opPend) :: r.opNext
def Region.setChanges (r : Region) : List (Nat × Nat) → Region
  | [] => { r with opPend := 0xFF, opPendBeat := 0, opNext := [] }
  | c :: l => { r with opPend := c.2, opPendBeat := c.1, opNext := l }

/-- The point that a region's last written change leads to. -/
def Region.lastPoint (r : Region) : Nat := ((r.changes.getLast?).map (·.2)).getD r.op

/-- R450: a change that is dropped, code 0x77. -/
def State.changeDropped (s : State) (g cause : Nat) (c : Nat × Nat) : State :=
  s.event { code := 0x77, region := g, source := 7, d0 := g + c.2 * 2 ^ 8 + 2 ^ 16 + cause * 2 ^ 24, d1 := c.1 }

/-- R241: the pending changes of a region are dropped; `cause` of R450 word 0. -/
def State.dropFreq (s : State) (g cause : Nat) : State :=
  if (s.region g).opPend = 0xFF then s
  else ((s.region g).changes.foldl (fun s c => s.changeDropped g cause c) s).updRegion g fun r => r.setChanges []

def setBit (m g : Nat) : Nat := if bitOf m g then m else m + 2 ^ g
def clearBit (m g : Nat) : Nat := if bitOf m g then m - 2 ^ g else m

/-- R374, R408: the flash marker of a moult, or of a re-test, is removed. -/
def State.clearMarker (s : State) (g : Nat) : State :=
  { s with flash := { s.flash with moultMk := clearBit s.flash.moultMk g, retestMk := clearBit s.flash.retestMk g } }

/-- R374: a moult that ends before its result: code 0x9C, its handle failed. An Untested region has a re-test queued (R24), an
Unusable one no longer carries the marker. -/
def State.endMoult (s : State) (g : Nat) (result : Nat) : State :=
  match (s.region g).moult with
  | none => s
  | some m =>
    let s := s.updRegion g fun r => { r with moult := none, moultRes := result }
    let s := if (s.region g).st == .untested then
        { s with flt := { s.flt with retest := setBit s.flt.retest g, queueM := setBit s.flt.queueM g } }
      else s.clearMarker g
    let s := s.event { code := 0x9C, region := g, handle := m.handle }
    if m.handle = 0 then s else s.finish m.handle 3 0x9C

/-- R25: a cause for state `st` arises in region `g`: the lower state of the table wins. A region that leaves Active is
fenced first (R186) and drops its pending change (R241); below Stopped its logic is lost. -/
def State.regionDown (s : State) (g : Nat) (st : RegSt) (deep : Bool := false) : State :=
  let old := (s.region g).st
  let new := if old.code < st.code then st else old
  let s := if (old == .active || (s.region g).changing) && new != .active then (s.dropFreq g 2).updRegion g fun r => { r with changing := false } else s
  let s := if decide (old.code < 2 ∧ new.code ≥ 2) then s.fenceRegion g else s
  let s := if new == old then s else s.updRegion g fun r => { r with st := new }
  let s := if old == .moulting && new != .moulting then s.endMoult g (if new == .unusable then 3 else 4) else s
  if decide (new.code ≥ 2 ∧ old.code < 2) || old == .moulting || deep || (s.region g).waking then s.powerOff g deep else s

/-- R359, R267: every Active region stops at once, and the beat in progress is abandoned. -/
def State.stopAll (s : State) : State :=
  let s := s.each (upTo 32) fun s g => if s.active g || (s.region g).changing then s.regionDown g .stopped else s
  { s with beat := { s.beat with abandoned := true } }

/-- Admission closes with a reason (R307). -/
def State.closeAdm (s : State) (why : Nat) : State :=
  { s with adm := { s.adm with isOpen := false, why := if s.adm.why = 0x10 then 0x10 else why } }

/-! ### Moult queue, faults to act on -/

/-- R361, R372: a region is queued for moult, code 0x99 with the class of the fault on whose path it lies. -/
def State.queueMoult (s : State) (g cls : Nat) : State :=
  if g ≥ 32 ∨ bitOf s.flt.queueM g then s
  else
    ({ s with flt := { s.flt with queueM := s.flt.queueM + 2 ^ g } } : State).event
      { code := 0x99, region := g, action := 7, path := some cls }

/-- R140: what stops more work comes first: an uncorrectable error, a stall, a command fault (its replay, or its tile declared faulty), a
channel stall. -/
def Repair.rank : Repair → Nat
  | .rewrite id => if id = 0 then 2 else 0
  | .restage _ => 0
  | .strike _ => 1
  | .chan _ => 3
  | _ => 2

/-- Put an act of a fault's path on the list, once. -/
def State.addTodo (s : State) (cls : Nat) (a : Repair) : State :=
  if s.flt.todo.contains (cls, a) then s
  else
    let (p, q) := s.flt.todo.partition fun x => decide (x.2.rank ≤ a.rank)
    { s with flt := { s.flt with todo := p ++ [(cls, a)] ++ q } }

/-- R269: the region holds work of the loaded image, or is held idle for its detour sets. -/
def State.inUse (s : State) (g : Nat) : Bool := s.img.loaded.isSome && ((s.region g).rg.work || (s.region g).rg.reserve)

/-- R383: the mirrors that a lost region held are lost. -/
def State.loseMirrors (s : State) (g : Nat) : State :=
  let l : List Nat :=
    match s.img.loaded with
    | some i => (i.train.filter fun (t : Nat × Bool × Nat × Nat) => t.2.2.1 == g).map (·.1)
    | none => []
  if l.isEmpty then s else { s with train := { s.train with mirrors := l.foldl (fun m t => Tab.put 0 m t 0) s.train.mirrors } }

/-- R358: a region loss: the detour set is due where the image uses the region, and the region is queued for moult. -/
def State.regionLoss (s : State) (g cls : Nat) : State :=
  let s := s.loseMirrors g
  let s :=
    if s.inUse g then
      ((s.updRegion g fun r => { r with lost := true }).addTodo cls (.detour g)).closeAdm 0x11 |>.alert 256
    else s
  s.queueMoult g cls

end Sys2Proof.Machine
end

