-- ==== Sys2Proof/Machine/Records.lean ====
section
/-!
DEFINITION. The signed records of the configuration flash as bytes (R246, R392, R393, R451), their digests, the clock lists
(R236), and the instar commit (R371).
-/

namespace Sys2Proof.Machine

/-- R392: the header of a signed record. -/
def recHeader (kind signer len instar : Nat) : Bytes :=
  ascii "HREC" ++ leBytes 2 1 ++ leBytes 1 kind ++ leBytes 1 signer ++ leBytes 4 len ++ leBytes 4 instar ++ devId ++
    List.replicate 48 0

/-- R393: the capability record, header, body and signature. -/
def CapRec.bytes (c : CapRec) : Bytes :=
  let body := leBytes 1 c.variant ++ leBytes 1 c.partMax ++ leBytes 2 c.mMin ++ leBytes 1 c.mMinRegion ++ leBytes 1 c.feat ++
    leBytes 2 0 ++ leBytes 4 c.stackMask ++ leBytes 2 c.inCap ++ leBytes 2 c.regionEnv ++ leBytes 1 c.hbmEnv ++
    List.replicate 15 0 ++ slice c.serial 0 16 ++ leBytes 8 c.tTest
  recHeader 1 0 body.length 0 ++ body ++ slice c.sig 0 132

def CapRec.digest (c : CapRec) : Bytes := sha512 c.bytes

/-- R357, R393: the 24 bytes of a region in the voltage-table body. -/
def VoltRec.region (v : VoltRec) (g : Nat) : Bytes :=
  ((upTo 6).flatMap fun p => leBytes 2 (v.vset.getD (g * 6 + p) 0)) ++ (upTo 6).flatMap fun p => leBytes 2 (v.vdroop.getD (g * 6 + p) 0)

/-- R393: the voltage-table record. -/
def VoltRec.bytes (v : VoltRec) : Bytes :=
  let body := ((upTo 32).flatMap v.region) ++ leBytes 4 v.lossPpm ++ leBytes 4 v.pFix
  recHeader 2 0 body.length 0 ++ body ++ slice v.sig 0 132

/-- R451: a tile map. -/
def tileMap (l : List Nat) : Bytes :=
  (upTo 336).map fun b => BitVec.ofNat 8 ((upTo 8).foldl (fun n i => if l.contains (8 * b + i) then n + 2 ^ i else n) 0)

def LogItem.bytes (x : LogItem) : Bytes := leBytes 1 x.kind ++ leBytes 1 x.val ++ leBytes 2 x.id
def LogEntry.bytes (x : LogEntry) : Bytes :=
  leBytes 4 x.instar ++ leBytes 4 x.items.length ++ slice x.digest 0 64 ++ x.items.flatMap LogItem.bytes

/-- R451: usable M-cores of a record. -/
def FpRec.mUsable (f : FpRec) : Nat :=
  ((upTo nTiles).filter fun t => tileKind t == .m && !f.unusable.contains t && !f.fenced.contains t).length

/-- R451: the body of a floor-plan record. -/
def FpRec.body (f : FpRec) (c : CapRec) : Bytes :=
  leBytes 1 c.variant ++ leBytes 3 0 ++ leBytes 2 f.mUsable ++ leBytes 2 f.log.length ++ c.digest ++
  ((upTo 32).flatMap fun g => leBytes 1 (Tab.get 0 f.region g)) ++ tileMap f.unusable ++ tileMap f.fenced ++
  ((upTo 24).flatMap fun s => leBytes 1 (Tab.get 0 f.stks s % 256) ++ leBytes 1 0 ++ leBytes 2 (Tab.get 0 f.stks s / 256)) ++
  ((upTo 16).flatMap fun l => leBytes 8 (Tab.get 0 f.ports l)) ++ ((upTo 32).flatMap fun g => leBytes 4 (Tab.get 0 f.phases g)) ++
  List.replicate 24 0 ++ f.log.flatMap LogEntry.bytes

/-- R392: bytes 0 to 127 + LENGTH of a floor-plan record, over which it is signed. -/
def FpRec.signed (f : FpRec) (c : CapRec) : Bytes :=
  let b := f.body c
  recHeader 3 (if f.instar = 1 then 0 else 1) b.length f.instar ++ b

/-- R246: the record as stored, and its digest. -/
def FpRec.bytes (f : FpRec) (c : CapRec) : Bytes := f.signed c ++ slice f.sig 0 132
def FpRec.digest (f : FpRec) (c : CapRec) : Bytes := sha512 (f.bytes c)

/-! ### Instar commit -/

/-- R451: what an item of the change log changes in the record. -/
def FpRec.apply (f : FpRec) (x : LogItem) : FpRec :=
  match x.kind with
  | 1 => { f with fenced := insertSet x.id f.fenced }
  | 2 => { f with fenced := eraseSet x.id f.fenced, unusable := eraseSet x.id f.unusable }
  | 3 => { f with unusable := insertSet x.id f.unusable, fenced := eraseSet x.id f.fenced }
  | 4 =>
    let w := Tab.get 0 f.stks x.id
    { f with stks := Tab.put 0 f.stks x.id (if bitOf w (8 + x.val) then w - 2 ^ (8 + x.val) else w) }
  | 5 => { f with stks := Tab.put 0 f.stks x.id 3 }
  | 6 => { f with phases := Tab.put 0 f.phases x.id (Tab.get 0 f.phases x.id ||| 2 ^ x.val) }
  | 7 =>
    let w := Tab.get 0 f.phases x.id
    { f with phases := Tab.put 0 f.phases x.id (if bitOf w x.val then w - 2 ^ x.val else w) }
  | 8 => { f with region := Tab.put 0 f.region x.id x.val }
  | _ => f

/-- R451: as many entries as fit the record's 16 KiB, at most 64. -/
def fitLog (fixed : Nat) : List LogEntry → List LogEntry
  | [] => []
  | e :: r =>
    let n := 72 + 4 * e.items.length
    if n > fixed then [] else e :: fitLog (fixed - n) r

/-- R405, R451: a port's entry as the device runs it. -/
def State.portEntry (s : State) (l : Nat) : Nat :=
  let p := s.port l
  if p.up then p.width + 65536 * p.lanes + 2 ^ 32 * p.rate else 0

/-- R371, R451: the record of the next instar. -/
def State.nextFp (s : State) (items : List LogItem) : FpRec :=
  let f := s.fp
  let g := items.foldl FpRec.apply f
  let ports := items.foldl (fun (p : Tab Nat) x => if x.kind = 9 then Tab.put 0 p x.id (s.portEntry x.id) else p) g.ports
  let old := match f.log with
    | [] => []
    | e :: r => { e with digest := f.digest s.flash.cap } :: r
  let head : LogEntry := { instar := f.instar + 1, digest := List.replicate 64 0, items := items }
  let h := { g with valid := true, marker := true, instar := f.instar + 1, ports := ports,
                    log := (fitLog (16384 - 128 - 1152 - 132) (head :: old)).take 64 }
  { h with sig := ecdsaSign attestationKey (sha512 (h.signed s.flash.cap)) }

/-! ### Clock lists -/

/-- R236: the direction of the first default input, one step along the column toward row offset 3, or along the row toward
the nearest injection column; 0 where there is none. -/
def clkColStep (t : Nat) : Nat := if tilePos t < 3 then 2 else if tilePos t > 3 then 4 else 0
def clkRowStep (t : Nat) : Nat :=
  match tileCol t % 3 with
  | 0 => 3
  | 2 => 5
  | _ => 0

/-- R236: the default clock list of a tile. -/
def clkDefault (t : Nat) : Nat :=
  if tilePos t = 3 then (if tileCol t % 3 = 1 then 1 else clkRowStep t)
  else clkColStep t + 16 * clkRowStep t

/-- The tile that input code 2 to 5 names: north, east, south, west, of the same region. -/
def clkNeighbour (t code : Nat) : Option Nat :=
  match neighbour t (code - 2) with
  | some u => if 2 ≤ code ∧ tileRegion u = tileRegion t then some u else none
  | none => none

/-- R236, R237: an input that a list may name: the bond of an injection tile, or a usable tile of the region. -/
def State.clkOk (s : State) (t code : Nat) : Bool :=
  if code = 1 then tilePos t == 3 && tileCol t % 3 == 1
  else match clkNeighbour t code with | some u => s.usable u | none => false

/-- R236: the list that Wenwyn writes: the default inputs that are usable, then the other usable neighbours (log
entry 29). -/
def State.clkList (s : State) (t : Nat) : Nat :=
  let d := clkDefault t
  let l := ([d % 16, d / 16] ++ [2, 3, 4, 5].filter fun c => c != d % 16 && c != d / 16).filter (s.clkOk t)
  (l.take 4).foldr (fun c n => c + 16 * n) 0

/-- R236: a clock list word as read: the default list until Wenwyn rewrites it. -/
def State.clkWord (s : State) (t : Nat) : Nat := ((s.tile t).clk).getD (clkDefault t)

/-- R236: Wenwyn rewrites the lists of every tile whose list names a tile no longer usable. -/
def State.writeClkLists (s : State) : State :=
  s.each (upTo nTiles) fun s t =>
    let w := s.clkList t
    if w = s.clkWord t then s else s.updTile t fun x => { x with clk := some w }

/-- R371: the commit: the record to the inactive area, then its marker; from the marker the new instar is in force. Fences
committed leave the list of those held in hardware only. -/
def State.commitInstar (s : State) : State :=
  let items := s.boot.commitDue
  let new := s.nextFp items
  let f := s.flash
  let f := if f.area = 0 then { f with fp1 := new } else { f with fp0 := new }
  let s := { s with flash := f, boot := { s.boot with commitDue := [], commitCls := 0 } }
  let s := { s with flt := { s.flt with hwFenced := s.flt.hwFenced.filter fun t => !new.fenced.contains t && !new.unusable.contains t } }
  s.writeClkLists

/-- Put items on the next instar's list (R371, R451), with the class of the fault that led to it. -/
def State.addCommit (s : State) (cls : Nat) (l : List LogItem) : State :=
  { s with boot := { s.boot with
    commitDue := s.boot.commitDue ++ l.filter (fun x => !s.boot.commitDue.contains x),
    commitCls := if s.boot.commitCls = 0 then cls else s.boot.commitCls } }

end Sys2Proof.Machine
end

