-- ==== Sys2Proof/Machine/ImageParts.lean ====
section
/-!
DEFINITION. Program images: their parts as bytes lay them out (R249 to R258, R265, R269), the loader's checks (R251, R260 to
R263), the installing of tables, and the repair of a placement.
-/

namespace Sys2Proof.Machine

/-! ### Parts -/

def leList (n size : Nat) (b : Bytes) : List Nat := (upTo n).map fun i => leAt b (size * i) size
/-- Records of `size` bytes of a section. -/
def recordsOf (size : Nat) (b : Bytes) : List Bytes := (upTo (b.length / size)).map fun i => slice b (size * i) size

/-- A section table entry (R251). -/
structure SecEntry where
  type : Nat
  scope : Nat
  off : Nat
  len : Nat
  dig : Nat
  rsv : Nat
deriving DecidableEq, Repr

def secEntry (b : Bytes) : SecEntry :=
  { type := leAt b 0 2, scope := leAt b 4 4, off := leAt b 8 8, len := leAt b 16 8, dig := leAt b 24 8, rsv := leAt b 2 2 }

def hSecCount (h : Bytes) : Nat := leAt h 0x018 4
def hSecTab (h : Bytes) : Nat := leAt h 0x020 8
def hImgLen (h : Bytes) : Nat := leAt h 0x010 8
def hInstar (h : Bytes) : Nat := leAt h 0x028 4
def hBroods (h : Bytes) : Nat := leAt h 0x0E4 1
def hPPlan (h : Bytes) : Nat := leAt h 0x0E8 4
def hContent (h : Bytes) : Bytes := slice h 0x100 64

/-- R251: sections are padded to a multiple of 512 bytes. -/
def padded (n : Nat) : Nat := cdiv n 512 * 512

/-- R254: a region record. -/
def regRecOf (b : Bytes) : RegRec :=
  { id := leAt b 0 1, work := bitOf (leAt b 1 1) 0, reserve := bitOf (leAt b 1 1) 1, sup := leAt b 2 2, standby := leAt b 4 2, crit := leAt b 6 2,
    w := leAt b 8 4, iPlan := leAt b 12 2, leaveFirst := leAt b 14 2, leaveCount := leAt b 16 2, spareM := leAt b 18 1, spareV := leAt b 19 1,
    spares := (leList 8 2 (slice b 20 16)).filterMap tileOfCode }

/-- R255: a leave-table entry. -/
def leaveEntryOf (w : Nat) : LeaveEntry :=
  { entry := bits w 127 112, region := bits w 111 107, start := bits w 106 80, dur := bits w 79 53, inc := bits w 52 40,
    kind := bits w 39 37 }

/-- R253: a bucket. -/
def bucketOf (b : Bytes) : Bucket :=
  { model := leAt b 0 1, num := leAt b 1 1, first := leAt b 2 1, n := leAt b 3 1, ctx := leAt b 4 4, chunk := leAt b 8 2,
    live := leAt b 10 1 }

/-- R258: a pool. -/
def poolOf (b : Bytes) : Pool :=
  let n := leAt b 2 1
  { num := leAt b 0 1, model := leAt b 1 1, frames := leAt b 4 4, stks := leList n 1 (slice b 8 24), bases := leList n 4 (slice b 32 96) }

/-- R265: write records. -/
def writeRecOf (b : Bytes) : WriteRec :=
  { kind := leAt b 0 1, target := leAt b 2 2, index := leAt b 4 2, len := leAt b 6 2, val := leAt b 8 64 }
def writesOf (n : Nat) (b : Bytes) : List WriteRec := (upTo n).map fun i => writeRecOf (slice b (72 * i) 72)

/-- R265: the patches of a SPARES section, one after another. -/
def patchesOf (g : Nat) : Nat → Bytes → List Patch
  | 0, _ => []
  | fuel + 1, b =>
    if b.length < 8 then []
    else
      let n := leAt b 4 4
      match tileOfCode (leAt b 0 2), tileOfCode (leAt b 2 2) with
      | some f, some s =>
        { region := g, failed := f, spare := s, writes := writesOf n (b.drop 8) } :: patchesOf g fuel (b.drop (8 + 72 * n))
      | _, _ => patchesOf g fuel (b.drop (8 + 72 * n))

/-- R269: a detour set. -/
def detourOf (b : Bytes) : Detour :=
  { mask := leAt b 0 4, left := leAt b 4 1, workMax := leAt b 8 4, writes := writesOf (leAt b 12 4) (b.drop 16) }

/-- R257: a slice record. -/
def sliceOf (b : Bytes) : Slice :=
  { home := leAt b 0 1, stack := leAt b 1 1, tile := leAt b 2 2, row := leAt b 4 4, rows := leAt b 8 4, first := leAt b 12 4 }

/-- R257: how many entries of 32 bytes stand before the first slice record, which begins at `low`. -/
def dirCount (b : Bytes) : Nat → Nat → Nat → Nat
  | 0, i, _ => i
  | fuel + 1, i, low =>
    if 32 * (i + 1) > low then i
    else dirCount b fuel (i + 1) (if leAt b (32 * i + 10) 2 = 0 then low else min low (leAt b (32 * i + 20) 4))

/-- R257: the tensor directory: entries of 32 bytes until the first slice record. -/
def tensorsOf (b : Bytes) : List Tensor :=
  (upTo (dirCount b (b.length / 32) 0 b.length)).map fun i =>
    let e := slice b (32 * i) 32
    { tid := leAt e 0 4, model := leAt e 4 1, layer := leAt e 5 1, kind := leAt e 6 1, form := leAt e 7 1, expert := leAt e 8 2,
      k := leAt e 12 4, n := leAt e 16 4, pg := leAt e 24 1,
      slices := (upTo (leAt e 10 2)).map fun j => sliceOf (slice b (leAt e 20 4 + 16 * j) 16) }

/-- R251: runs of a WDATA section: each row with its number. -/
def runRows (fuel : Nat) (b : Bytes) : List (Nat × Bytes) :=
  match fuel with
  | 0 => []
  | fuel + 1 =>
    if b.length < 512 then []
    else
      let first := leAt b 0 4
      let n := leAt b 4 4
      ((upTo n).map fun i => (first + i, slice b (512 + 512 * i) 512)) ++ runRows fuel (b.drop (512 + 512 * n))

/-! ### The image of a load -/

/-- The sections of one type and scope, and those of one type. -/
def Image.sec (i : Image) (type scope : Nat) : Option Bytes :=
  (i.secs.find? fun x => x.type == type && x.scope == scope).map (·.data)
def Image.all (i : Image) (type : Nat) : List (Nat × Bytes) := (i.secs.filter fun x => x.type == type).map fun x => (x.scope, x.data)
def wholeDevice : Nat := 0xFFFFFFFF
def Image.dev (i : Image) (type : Nat) : Bytes := (i.sec type wholeDevice).getD []

/-- The image that a header and its sections make. -/
def imageOf (hdr : Bytes) (secs : List Sec) : Image :=
  let i : Image := { hdr := hdr, secs := secs, models := [], buckets := [], pools := [], patches := [], detours := [],
                     tensors := [], snapN := 0, train := [] }
  let tr := i.dev 0x0070
  { i with
    models := (upTo (leAt hdr 0x02D 1)).map fun m => (i.sec 0x0001 m).getD []
    buckets := (recordsOf 16 (i.dev 0x0002)).map bucketOf
    pools := (recordsOf 128 (i.dev 0x0031)).map poolOf
    patches := (i.all 0x0050).flatMap fun x => patchesOf x.1 (x.2.length / 8) x.2
    detours := (i.all 0x0051).map fun x => detourOf x.2
    tensors := tensorsOf (i.dev 0x0060)
    snapN := if bitOf (Machine.imgFlags hdr) 1 then Config.trainSnapN tr else 0
    train := if bitOf (Machine.imgFlags hdr) 1 then Config.trainTensors tr else [] }

/-- Fields of a model descriptor (R252). -/
def mFlags (m : Bytes) : Nat := leAt m 1 1
def mLayers (m : Bytes) : Nat := leAt m 2 2
def mKvHeads (m : Bytes) : Nat := leAt m 7 1
def mHeadDim (m : Bytes) : Nat := leAt m 8 2
def mKvSize (m : Bytes) : Nat := if leAt m 10 1 = 2 then 2 else 1
def mVocab (m : Bytes) : Nat := leAt m 24 4
def mContext (m : Bytes) : Nat := leAt m 28 4

def Image.region (i : Image) (g : Nat) : RegRec := regRecOf (slice (i.dev 0x0003) (64 * g) 64)

/-! ### Checks of a load -/

/-- R249, R251, R226: a rule of the header that is broken (0x81). -/
def hdrBad (h : Bytes) (cap : CapRec) : Bool :=
  let nb := leAt h 0x02F 1
  let beats := leList 4 4 (slice h 0x030 16)
  let rises : Bool := (upTo (nb - 1)).all fun i => decide (beats.getD i 0 < beats.getD (i + 1) 0)
  slice h 0 8 != ascii "CARCELIM" || leAt h 8 2 != 1 || leAt h 0x00A 2 != 1024 || decide (imgFlags h ≥ 128) ||
  decide (hSecCount h = 0 ∨ hSecCount h > 65535) || leAt h 0x01C 4 != 0 || hSecTab h % 512 != 0 ||
  decide (leAt h 0x02D 1 = 0 ∨ leAt h 0x02D 1 > 4) || decide (leAt h 0x02E 1 = 0 ∨ leAt h 0x02E 1 > 16) || decide (nb = 0 ∨ nb > 4) ||
  (upTo 4).any (fun i => if i < nb then decide (beats.getD i 0 < 2000 ∨ beats.getD i 0 > 50000) else beats.getD i 0 != 0) ||
  !rises || decide (hBroods h = 0 ∨ hBroods h > 48) || !zeroAt h 0x0E5 3 || decide (hPPlan h = 0 ∨ hPPlan h > cap.inCap) ||
  !zeroAt h 0x0EC 20 || !zeroAt h 0x1C4 572 || (!bitOf (Machine.imgFlags h) 6 && !zeroAt h 0x140 132)

/-- R250: the operator image keys, 0x8000.06 to 0x8000.09; an empty one is absent. -/
def State.imageKeys (s : State) : List Bytes := ([6, 7, 8, 9].map fun k => s.blob 0x8000 k).filter (fun b => !b.isEmpty)

/-- R250: the signature is missing or invalid (0x88). -/
def State.hdrSigBad (s : State) (h : Bytes) : Bool :=
  if bitOf (Machine.imgFlags h) 6 then !(s.imageKeys.any fun k => ecdsaVerify k (sha512 (slice h 0 0x140)) (slice h 0x140 132))
  else s.setting 0x8000 5 == 1

/-- R262: the digest that the change log of the record in force holds for an instar; none where the log is shorter. -/
def State.digestOf (s : State) (instar : Nat) : Option Bytes :=
  let f := s.fp
  if instar = f.instar then some (f.digest s.flash.cap)
  else (f.log.find? fun e => e.instar == instar).map (·.digest)

/-- R260 step 1, R261: the code that ends a load at its header. -/
def State.hdrCode (s : State) (h : Bytes) : Option Nat :=
  let fl := Machine.imgFlags h
  if hdrBad h s.flash.cap then some 0x81
  else if (bitOf fl 2 && !s.licensed 3) || (bitOf fl 1 && (!s.licensed 2 || !bitOf fl 0)) then some 0x86
  else if s.hdrSigBad h then some 0x88
  else if slice h 0x040 64 != devId then some 0x82
  else if leAt h 0x02C 1 ≠ s.flash.cap.variant then some 0x83
  else if hInstar h > s.instar then some 0x84
  else
    match s.digestOf (hInstar h) with
    | none => some 0x85
    | some d => if slice h 0x080 64 == d then none else some 0x84

/-- R251: a known section type, and whether it may have a scope. -/
def secKnown (type scope : Nat) : Bool :=
  if type = 0x0001 then decide (scope < 4)
  else if [0x0002, 0x0003, 0x0031, 0x0060, 0x0070, 0x00F0].contains type then scope == wholeDevice
  else if [0x0010, 0x0011, 0x0012, 0x0013, 0x0020, 0x0021, 0x0022, 0x0023, 0x0062].contains type then (tileOfCode scope).isSome
  else if type = 0x0030 then decide (scope < 96)
  else if type = 0x0040 then decide (scope < 16)
  else if type = 0x0050 then decide (scope < 32)
  else if type = 0x0051 then decide (scope < 64)
  else if type = 0x0061 ∨ type = 0x0063 then decide (scope < 24)
  else false

def ascending : List SecEntry → Bool
  | [] => true
  | [_] => true
  | a :: b :: r => decide (a.off + padded a.len ≤ b.off) && ascending (b :: r)

def noRepeat : List (Nat × Nat) → Bool
  | [] => true
  | a :: r => !r.contains a && noRepeat r

/-- R251: the section table breaks a rule (0x81), or a plan holds more than the 8,192 descriptors of R197 (log entry 99). -/
def tableBad (h : Bytes) (l : List SecEntry) : Bool :=
  let tab := hSecTab h
  let tabEnd := tab + padded (32 * l.length)
  decide (tabEnd > hImgLen h) || l.any (fun e => e.type == 0x0030 && decide (e.len > 32 * 8192)) ||
  l.any (fun e => e.rsv != 0 || !secKnown e.type e.scope || e.off % 512 != 0 || decide (e.off < 1024) ||
    decide (e.off + padded e.len > hImgLen h) || decide (e.off < tabEnd ∧ tab < e.off + padded e.len)) ||
  !ascending l || !noRepeat (l.map fun e => (e.type, e.scope)) ||
  (l.filter fun e => e.type == 1).length != leAt h 0x02D 1 ||
  l.any (fun e => e.type == 1 && decide (e.scope ≥ leAt h 0x02D 1)) ||
  (match l.find? (fun e => e.type == 2) with | some e => e.len != 16 * leAt h 0x02E 1 | none => true)

/-- Bytes of a load's transfers; a byte that none delivered counts as zero (R260). -/
def Load.read (l : Load) (off n : Nat) : Bytes := memRead l.bytes off n
/-- A range lies within one delivered range. -/
def covered (got : List (Nat × Nat)) (off n : Nat) : Bool := n == 0 || got.any fun r => decide (r.1 ≤ off ∧ off + n ≤ r.2)
/-- Add a delivered range, merged with those it meets. -/
def addRange (got : List (Nat × Nat)) (a b : Nat) : List (Nat × Nat) :=
  let (m, r) := got.partition fun x => decide (x.1 ≤ b ∧ a ≤ x.2)
  (m.foldl (fun p x => (min p.1 x.1, max p.2 x.2)) (a, b)) :: r

def Load.tableHeld (l : Load) : Bool := covered l.got (hSecTab l.hdr) (32 * hSecCount l.hdr)
def Load.entries (l : Load) : List SecEntry :=
  (upTo (hSecCount l.hdr)).map fun i => secEntry (l.read (hSecTab l.hdr + 32 * i) 32)
/-- R260: every section is held. -/
def Load.allHeld (l : Load) : Bool := l.tableHeld && l.entries.all fun e => covered l.got e.off e.len
def Load.secs (l : Load) : List Sec := l.entries.map fun e => { type := e.type, scope := e.scope, data := l.read e.off e.len }

/-- R260 step 3: the SHA-512 that CONTENT must be. -/
def Load.contentOf (l : Load) : Bytes := sha512 (l.read 0x400 (hImgLen l.hdr - 0x400) ++ slice l.hdr 0 0x100)

/-- R260: the section table and the sections, each with its padding, as offset and length. -/
def Load.parts (l : Load) : List (Nat × Nat) :=
  (hSecTab l.hdr, padded (32 * hSecCount l.hdr)) :: l.entries.map fun e => (e.off, padded e.len)

/-- Every byte from `a` to `b` lies in one of the parts. -/
def inParts (parts : List (Nat × Nat)) : Nat → Nat → Nat → Bool
  | 0, a, b => decide (a ≥ b)
  | fuel + 1, a, b =>
    if a ≥ b then true
    else
      match parts.find? fun r => decide (r.1 ≤ a ∧ a < r.1 + r.2) with
      | none => false
      | some r => inParts parts fuel (r.1 + r.2) b

/-- R260: the range from `a` to `b` lies outside IMG_LEN, or outside the section table and every section. -/
def Load.outside (l : Load) (a b : Nat) : Bool :=
  decide (b > hImgLen l.hdr) || (l.tableHeld && !inParts l.parts (l.parts.length + 1) a b)

/-- R260: a range that was delivered before the section table was held lies outside them. -/
def Load.strayed (l : Load) : Bool := l.tableHeld && l.got.any fun r => l.outside r.1 r.2

/-- R251: padding that was delivered is not zero. -/
def Load.padBad (l : Load) : Bool :=
  l.entries.any fun e => !zeroAt (l.read (e.off + e.len) (padded e.len - e.len)) 0 (padded e.len - e.len)

/-- R260: the DIGEST of a section that a transfer completes is wrong. -/
def Load.digestBad (l : Load) : Bool :=
  l.tableHeld && l.entries.any fun e => covered l.got e.off e.len && (crc64 (l.read e.off e.len)).toNat != e.dig

/-! ### Copy descriptors (R199) -/

def dOpc (w : Nat) : Nat := bits w 255 252
def dChain (w : Nat) : Bool := bitOf w 251
def dClkr (w : Nat) : Nat := bits w 250 246
def dOffset (w : Nat) : Nat := bits w 245 219
def dXp (w : Nat) : Nat := bits w 218 217
def dTag (w : Nat) : Nat := bits w 215 208
def dPcol (w : Nat) : Nat := bits w 207 202
def dProw (w : Nat) : Nat := bits w 201 196
def dLabel (w : Nat) : Nat := bits w 195 188
def dEdge (w : Nat) : Nat := bits w 187 186
def dNport (w : Nat) : Nat := 2 ^ bits w 185 184
def dRows (w : Nat) : Nat := bits w 159 136
def dStack (w : Nat) : Nat := bits w 127 123
def dHrow (w : Nat) : Nat := bits w 122 96
def dOpnd (w : Nat) : Nat := bits w 95 64
def dRunLen (w : Nat) : Nat := bits w 63 48
def dStride (w : Nat) : Nat := bits w 47 24

/-- The stack row of row `i` of a transfer. -/
def rowOf (w first i : Nat) : Nat :=
  if dRunLen w = 0 then first + i else first + i / dRunLen w * dStride w + i % dRunLen w
/-- The highest stack row of a transfer: the end of its last run, or of the one before it. -/
def rowTop (w first : Nat) : Nat :=
  let n := dRows w - 1
  let l := dRunLen w
  if l = 0 ∨ n / l = 0 then rowOf w first n else max (rowOf w first n) (first + (n / l - 1) * dStride w + l - 1)
/-- R199: the destination row of a MOVE; its rows follow one another from there (log entry 34). -/
def dMoveTo (w : Nat) : Nat := bits w 90 64

/-- R193: rows of a stack with `n` live pseudo-channels (two to a channel). -/
def stackRows (live : Nat) : Nat := 2197264 * 2 * ((upTo 16).filter (bitOf live)).length
/-- R195: rows of a stack's share of the reserved area. -/
def reservedRows (variant : Nat) : Nat := if variant = 0 then 3906304 else 5859456

/-- The lowest and highest rows that a descriptor reads or writes in its stack. -/
def dSpan (w : Nat) : List Nat :=
  if dOpc w = 1 ∨ dOpc w = 2 then [dHrow w, rowTop w (dHrow w)]
  else if dOpc w = 3 then [dHrow w, rowTop w (dHrow w), dMoveTo w, dMoveTo w + (dRows w - 1)]
  else []

def relayRowsBad (w : Nat) : Bool := decide (dRows w = 0 ∨ dRows w > 16384 ∨ bits w 83 70 + dRows w > 16384)

/-- R196: the first row of a stack's share of the reserved area. -/
def State.reservedAt (s : State) (k : Nat) : Nat := stackRows (s.stack k).live - reservedRows s.flash.cap.variant

/-- R196, R200: a plan descriptor of an engine that the loader refuses. -/
def State.planBad (s : State) (e w : Nat) : Bool :=
  (dSpan w).any (fun r => decide (r ≥ s.reservedAt (e / 4))) || (dOpc w == 6 && relayRowsBad w)

/-- R196, R202: a pool with frames in reserved rows, which a paged copy of the plan would name. -/
def State.poolBad (s : State) (i : Image) (p : Pool) : Bool :=
  let m := i.models.getD p.model []
  let top := mLayers m * cdiv p.frames (max 1 p.stks.length) * (2 * mKvHeads m * (mHeadDim m * mKvSize m / 8))
  p.stks.zipIdx.any fun c => decide (p.bases.getD c.2 0 + top > s.reservedAt c.1)

/-- R170: an endpoint descriptor whose rows lie outside the store that KIND names. -/
def epdBad (t w : Nat) : Bool :=
  let base := bits w 59 46
  let n := if bits w 45 32 = 0 then 16384 else bits w 45 32
  let top := match tileKind t with | .m => 512 | .v => 512 | .s => 256
  bitOf w 63 &&
    (match bits w 62 60 with
     | 0 => tileKind t != .m
     | 1 => decide (base + n > top)
     | 2 => decide (base + n > 16384)
     | _ => true)

/-- R181, R182: a message route register whose endpoint does not exist. -/
def mrouteBad (w : Nat) : Bool :=
  bitOf w 63 &&
    (if bitOf w 59 then decide (bits w 46 41 ≠ 0 ∨ bits w 40 35 ≥ 56)
     else decide (bits w 46 41 ≥ 48 ∨ bits w 40 35 ≥ 56) ||
       (tileKind (tileIx (bits w 46 41) (bits w 40 35)) != .s && bits w 34 31 != 0))

/-- R265: the write records of the image's patches and detour sets of one kind. -/
def Image.writes (i : Image) (kind : Nat) : List WriteRec :=
  ((i.patches.flatMap (·.writes)) ++ i.detours.flatMap (·.writes)).filter fun w => w.kind == kind
/-- The value of a write record. -/
def WriteRec.value (w : WriteRec) : Nat := w.val % 2 ^ (8 * w.len)

/-- R197, R265: the copy descriptors of an image, each with its engine: of its plan, its patches and its detour sets. -/
def Image.planned (i : Image) : List (Nat × Nat) :=
  ((i.all 0x0030).flatMap fun x => (recordsOf 32 x.2).map fun d => (x.1, leNat d)) ++
    (i.writes 6).map fun w => (w.target, w.value)

/-- R170, R265: the endpoint descriptors of an image, each with its tile. -/
def Image.endpoints (i : Image) : List (Nat × Nat) :=
  ((i.all 0x0022).flatMap fun x => (leList 16 8 x.2).map fun w => (x.1, w)) ++ (i.writes 3).map fun w => (w.target, w.value)

/-- R260 step 5: a table of the image that R170, R182, R196 or R200 forbids (0x8D). -/
def State.tablesBad (s : State) (i : Image) : Bool :=
  i.endpoints.any (fun x => match tileOfCode x.1 with | some t => epdBad t x.2 | none => true) ||
  (i.all 0x0023).any (fun x => (leList 64 8 x.2).any mrouteBad) || (i.writes 5).any (fun w => mrouteBad w.value) ||
  i.planned.any (fun x => s.planBad x.1 x.2) || i.pools.any (s.poolBad i)

/-- R260, R261 (0x83): the image names a stack, or an engine of a stack, that the capability record marks absent. -/
def State.absentNamed (s : State) (i : Image) : Bool :=
  let absent (k : Nat) : Bool := !bitOf s.flash.cap.stackMask k
  (i.all 0x0061).any (fun x => absent x.1) || (i.all 0x0063).any (fun x => absent x.1) || (i.all 0x0030).any (fun x => absent (x.1 / 4)) ||
  i.planned.any (fun x => absent (x.1 / 4) || (!(dSpan x.2).isEmpty && absent (dStack x.2))) ||
  i.pools.any (fun p => p.stks.any absent) ||
  i.tensors.any fun t => t.slices.any fun x => x.home == 0 && absent x.stack

/-! ### Stored forms and parity (R101, R209) -/

/-- R101, R107: an exponent-compressed tile of a tensor of product type `pt` decodes; of product type 0x0 both FP8 formats pass, since no
part of the image but the command names WFMT (log entry 98). -/
def xcmpStaged (pt : Nat) (t : Bytes) : Bool :=
  let fm := bits (leAt t 0 4) 2 1
  (pt == 0 || pt == 5) && (match denseXcmp pt (if fm ≤ 1 then fm else 0) t with | .ok _ => true | .error _ => false)

/-- R101: the tiles of one slice, one after another, each with its scale row; false at the first that fails R102 or R107. -/
def formsOk (form pt : Nat) : Nat → Bytes → Bool
  | 0, _ => true
  | fuel + 1, b =>
    if b.isEmpty then true
    else
      let n := if form = 2 then xcmpRows (slice b 0 512) else rows24 pt
      if n = 0 ∨ 512 * n > b.length then false
      else
        let t := b.take (512 * n)
        (if form = 2 then xcmpStaged pt t else (bad24 pt t).isNone) && formsOk form pt fuel (b.drop (512 * n))

/-- The row ids of a slice. -/
def Slice.ids (x : Slice) : List Nat :=
  (upTo x.rows).map fun i =>
    if x.home = 0 then hbmRow x.stack (x.row + i) else deepRow ((tileOfCode x.tile).getD 0) (x.row + i)

/-- R101: the stored forms of every tensor are valid as staged. -/
def State.formsStaged (s : State) (i : Image) : Bool :=
  i.tensors.all fun t =>
    let form := bits t.form 5 4
    form == 0 || t.slices.all fun x => formsOk form (bits t.form 3 0) x.rows (x.ids.flatMap s.row)

def xorBytes (a b : Bytes) : Bytes := List.zipWith (· ^^^ ·) a b

/-- R209: the parity row is the exclusive-or of its data rows. -/
def State.parityRow (s : State) (data : List Nat) : Bytes := data.foldl (fun b id => xorBytes b (s.row id)) (List.replicate 512 0)

/-- R209: the sizes that a parity group may have. -/
def groupSizes (variant : Nat) : List Nat := if variant = 0 then [8, 16] else [8, 15]

/-- The stack that holds a row. -/
def stackOfRow (id : Nat) : Nat := (id - 2 ^ 32) / 2 ^ 27

/-- R209: a group has one of the two sizes, lies in as many different stacks and one more, and its parity row is right. -/
def State.groupOk (s : State) (g : Nat × List Nat) : Bool :=
  let st := (g.1 :: g.2).map stackOfRow
  (groupSizes s.flash.cap.variant).contains g.2.length && decide ((st.foldl (fun l k => insertSet k l) []).length = st.length) &&
    s.row g.1 == s.parityRow g.2

/-- R209, R257: the parity of an image: every tensor with parity names a group size of the variant, and every group holds. -/
def State.parityOk (s : State) (i : Image) : Bool :=
  i.tensors.all (fun t => !bitOf t.form 6 || (groupSizes s.flash.cap.variant).contains t.pg) &&
    (!bitOf (Machine.imgFlags i.hdr) 5 || (Config.parityGroups (hContent i.hdr)).all s.groupOk)

/-! ### Installing -/

/-- R260 step 4: Wenwyn stages the weight and parity rows. -/
def State.stageWeights (s : State) (i : Image) : State :=
  let hbm := (i.all 0x0061 ++ i.all 0x0063).flatMap fun x => (runRows x.2.length x.2).map fun r => (hbmRow x.1 r.1, r.2)
  let ds := (i.all 0x0062).flatMap fun x =>
    (runRows x.2.length x.2).map fun r => (deepRow ((tileOfCode x.1).getD 0) r.1, r.2)
  s.setRows (hbm ++ ds)

/-- R84, R129, R131: a command store as 128-bit words. -/
def storeOf (b : Bytes) : Tab Nat :=
  (upTo (cdiv b.length 16)).foldl (fun (m : Tab Nat) i => Tab.put 0 m i (leAt b (16 * i) 16)) []

def tabOf {α : Type} [DecidableEq α] (d : α) (l : List α) : Tab α :=
  l.zipIdx.foldl (fun (m : Tab α) c => Tab.put d m c.2 c.1) []

/-- R170: an endpoint descriptor's pointer starts at BASE. -/
def epdBase (w : W64) : Nat := bits w.toNat 59 46

/-- R265: a tile takes the code of the tile whose code sections are those of scope `c`. -/
def Image.putCode (i : Image) (c : Nat) (x : Tile) : Tile :=
  let code := ((i.sec 0x0010 c).orElse fun _ => (i.sec 0x0011 c).orElse fun _ => i.sec 0x0012 c).getD []
  let v := (i.sec 0x0011 c).getD []
  { x with
    store := storeOf code, streamBase := if v.isEmpty then 0 else Config.vcodeStreamBase v,
    streamOwn := if v.isEmpty then [] else Config.vcodeStreams v }

/-- R260 step 5, R23: the tables of one tile from the image. -/
def State.installTile (s : State) (i : Image) (t : Nat) : State :=
  let c := tileCode t
  let routes := (recordsOf 6 ((i.sec 0x0020 c).getD [])).foldl
    (fun (m : Tab W32) r => Tab.put 0 m (leAt r 0 2) (BitVec.ofNat 32 (leAt r 2 4))) []
  let red := tabOf (0 : W32) ((leList 2 4 ((i.sec 0x0021 c).getD [])).map (BitVec.ofNat 32))
  let eps := (i.sec 0x0022 c).getD []
  let epd := tabOf (0 : W64) ((leList 16 8 eps).map (BitVec.ofNat 64))
  let dr := tabOf 0 ((upTo 64).map fun n => if eps.length ≤ 128 then 0 else Config.dataRoutes (eps.drop 128) n % 512)
  let mr := tabOf (0 : W64) ((leList 64 8 ((i.sec 0x0023 c).getD [])).map (BitVec.ofNat 64))
  let s := s.updTile t fun x => { i.putCode c x with
    routes := routes, red := red, epd := epd, droutes := dr, mroutes := mr,
    epPtr := tabOf 0 ((upTo 16).map fun e => epdBase (Tab.get 0 epd e)), epCnt := [], epNote := [], seqIx := 0, loop := 0 }
  -- R125: the initial descriptors of training streams
  match i.sec 0x0013 c with
  | none => s
  | some d => s.setRows ((upTo (cdiv d.length 512)).map fun r => (spadRow t ((s.tile t).streamBase + r), slice d (512 * r) 512))

/-- The tiles that the image's sections name. -/
def Image.tiles (i : Image) : List Nat :=
  (i.secs.filter fun x => [0x0010, 0x0011, 0x0012, 0x0013, 0x0020, 0x0021, 0x0022, 0x0023].contains x.type).foldl
    (fun l x => match tileOfCode x.scope with | some t => insertSet t l | none => l) []

/-- R255: the leave entries of a field. -/
def Image.leaveOf (i : Image) (f : Nat) : List LeaveEntry :=
  (recordsOf 16 ((i.sec 0x0040 f).getD [])).map fun b => leaveEntryOf (leNat b)

/-- R254: a region record comes into force. -/
def State.putRegion (s : State) (g : Nat) (r : RegRec) : State :=
  s.updRegion g fun x => { x with rg := r, sup := r.sup, standby := r.standby }

/-- R260 step 5: code, route, reduction, endpoint, message-route, copy-plan and leave sections, and the region records. -/
def State.installTables (s : State) (i : Image) : State :=
  let s := s.each i.tiles fun s t => s.installTile i t
  let s := s.each (upTo 32) fun s g => s.putRegion g (i.region g)
  let s := s.each (upTo 16) fun s f => s.updField f fun x => { x with leave := i.leaveOf f }
  s.each (upTo 96) fun s e =>
    let p := (recordsOf 32 ((i.sec 0x0030 e).getD [])).map leNat
    if p.isEmpty ∧ (s.engine e).planN = 0 then s
    else s.updEngine e fun x => { x with plan := tabOf 0 p, planN := p.length, ix := p.length, repl := [], busy := none }

/-! ### Write records (R265) -/

/-- One write of a patch or a detour set. `detour`: a copy descriptor is a replacement (R199). -/
def State.applyWrite (s : State) (detour : Bool) (w : WriteRec) : State :=
  let v := w.value
  match w.kind, tileOfCode w.target with
  | 1, some t => s.updTile t fun x => { x with routes := Tab.put 0 x.routes w.index (BitVec.ofNat 32 v) }
  | 2, some t => s.updTile t fun x => { x with red := Tab.put 0 x.red w.index (BitVec.ofNat 32 v) }
  | 3, some t => s.updTile t fun x => { x with
      epd := Tab.put 0 x.epd w.index (BitVec.ofNat 64 v), epPtr := Tab.put 0 x.epPtr w.index (bits v 59 46) }
  | 4, some t => s.updTile t fun x => { x with droutes := Tab.put 0 x.droutes w.index (Config.dataRouteWord v % 512) }
  | 5, some t => s.updTile t fun x => { x with mroutes := Tab.put 0 x.mroutes w.index (BitVec.ofNat 64 v) }
  | 6, _ =>
    s.updEngine w.target fun x =>
      if detour then { x with repl := Tab.put none x.repl w.index (some v) } else { x with plan := Tab.put 0 x.plan w.index v }
  | 7, some t =>
    match s.img.loaded with
    | some i => s.updTile t (i.putCode w.index)
    | none => s
  | 8, _ => s.putRegion w.target (regRecOf (leBytes 64 v))
  | 9, _ => s.updField w.target fun x => { x with
      leave := x.leave.map fun l => if l.entry = w.index then leaveEntryOf v else l }
  | _, _ => s

def State.applyWrites (s : State) (detour : Bool) : List WriteRec → State
  | [] => s
  | w :: r => (s.applyWrite detour w).applyWrites detour r

/-- A write to the tables or the code of a tile of region `g`. -/
def WriteRec.inTilesOf (g : Nat) (w : WriteRec) : Bool :=
  [1, 2, 3, 4, 5, 7].contains w.kind && (tileOfCode w.target).any fun t => tileRegion t == g

/-- R23: what Wenwyn restages when a Dark region wakes: the tables of its tiles, under the patches in force, and the weight rows of their
deep stores (log entry 30). -/
def State.restage (s : State) (g : Nat) : State :=
  match s.img.loaded with
  | none => s
  | some i =>
    let s := s.each (i.tiles.filter fun t => tileRegion t == g) fun s t => s.installTile i t
    let ps := i.patches.filter fun p => s.img.patched.contains (p.failed, p.spare)
    let s := s.applyWrites false ((ps.flatMap (·.writes)).filter (WriteRec.inTilesOf g))
    let rows := (i.all 0x0062).flatMap fun x =>
      match tileOfCode x.1 with
      | some t => if tileRegion t = g then (runRows x.2.length x.2).map fun r => (deepRow t r.1, r.2) else []
      | none => []
    s.setRows rows

/-! ### Which units an image uses -/

/-- A tile that the image uses: one of its sections, or a slice of its tensors, names it. -/
def Image.uses (i : Image) (t : Nat) : Bool :=
  (i.secs.any fun x => [0x0010, 0x0011, 0x0012, 0x0013, 0x0020, 0x0021, 0x0022, 0x0023, 0x0062].contains x.type && x.scope == tileCode t) ||
    i.tensors.any fun y => y.slices.any fun z => z.home != 0 && z.tile == tileCode t

/-- R267: a spare is free when no patch in force uses it. -/
def State.spareFree (s : State) (u : Nat) : Bool := s.usable u && !s.img.patched.any (fun p => p.2 == u)

/-- R267: the first spare in SPARES order that is usable, free and covered by a patch. -/
def State.patchFor (s : State) (i : Image) (t : Nat) : Option Patch :=
  ((s.region (tileRegion t)).rg.spares.filter s.spareFree).findSome? fun u => i.patches.find? fun p => p.failed == t && p.spare == u

/-- R264, R267, R450: a patch comes into force, code 0x8E. -/
def State.applyPatch (s : State) (p : Patch) (handle : Nat) : State :=
  let s := s.applyWrites false p.writes
  let s := { s with img := { s.img with patched := s.img.patched ++ [(p.failed, p.spare)], runsAt := s.instar } }
  s.event { code := 0x8E, region := p.region, handle := handle, action := 4, tile := some p.failed,
            d0 := tileCode p.failed + tileCode p.spare * 2 ^ 16 + s.instar * 2 ^ 32, d1 := p.writes.length }

/-- R263: the tiles the image uses that are unusable or fenced, and the regions with work that are Untested or Unusable. -/
def State.badTiles (s : State) (i : Image) : List Nat :=
  (s.fp.unusable ++ s.fp.fenced ++ s.flt.hwFenced).foldl (fun l t => if i.uses t then insertSet t l else l) []
def State.badRegions (s : State) (i : Image) : Nat :=
  (upTo 32).foldl (fun m g =>
    let st := (s.region g).st
    if (i.region g).work && (st == .untested || st == .unusable) then m + 2 ^ g else m) 0

/-- R263: the patch of each bad tile, taken in order, no spare twice; none where a tile has no patch. -/
def State.patchesAt (s : State) (i : Image) : List Nat → List Nat → Option (List Patch)
  | [], _ => some []
  | t :: r, used =>
    let spares := ((i.region (tileRegion t)).spares.filter fun u => s.usable u && !used.contains u)
    match spares.findSome? fun u => i.patches.find? fun p => p.failed == t && p.spare == u with
    | none => none
    | some p => (State.patchesAt s i r (p.spare :: used)).map (p :: ·)

/-- R263: a stack that the image names. -/
def Image.namesStack (i : Image) (k : Nat) : Bool :=
  (i.all 0x0061).any (·.1 == k) || (i.all 0x0063).any (·.1 == k) || (i.all 0x0030).any (·.1 / 4 == k) || i.pools.any (·.stks.contains k) ||
  i.tensors.any fun t => t.slices.any fun x => x.home == 0 && x.stack == k

/-- R263: a stack that the image names has changed its live list or been retired since the image's instar. -/
def State.stackMoved (s : State) (i : Image) : Bool :=
  s.fp.log.any fun e => decide (hInstar i.hdr < e.instar) && e.items.any fun x => (x.kind == 4 || x.kind == 5) && i.namesStack x.id

end Sys2Proof.Machine
end

