-- ==== Sys2Proof/Machine/Requests.lean ====
section
/-!
DEFINITION. Requests and Gyper messages: bindings, the messages the device sends (R277, R282 to R285), promises (R293 to
R295), tokens leaving (R296, R297), and requests ending (R284, R298, R307).
-/

namespace Sys2Proof.Machine

/-! ### Partitions and bindings -/

def partObj (p : Nat) : Nat := 0x4000 + p
def quotaObj (p : Nat) : Nat := 0x4400 + p
/-- R273: 0 Inactive, 1 Active, 2 Draining. -/
def State.partState (s : State) (p : Nat) : Nat := s.setting (partObj p) 1

/-- R274: binding `n` (1 to 4) of a partition: its word and address. -/
def State.bindWord (s : State) (p n : Nat) : Nat := s.setting (partObj p) (5 + n)
def State.bindAddr (s : State) (p n : Nat) : Bytes := s.blob (partObj p) (9 + n)
def bindOn (w : Nat) : Bool := bitOf w 32
def bindLane (w : Nat) : Nat := bits w 3 0
def bindVlan (w : Nat) : Nat := bits w 15 4
def bindPort (w : Nat) : Nat := bits w 31 16
def State.bindUp (s : State) (p n : Nat) : Bool :=
  bindOn (s.bindWord p n) && (s.port (bindLane (s.bindWord p n))).up

/-- R274: the partition and binding on which a datagram arrives. -/
def State.bindingOf (s : State) (d : Datagram) : Option (Nat × Nat) :=
  ((upTo 16).flatMap fun p => [(p, 1), (p, 2), (p, 3), (p, 4)]).find? fun b =>
    let w := s.bindWord b.1 b.2
    s.bindUp b.1 b.2 && bindLane w == d.lane && bindVlan w == d.vlan && bindPort w == d.devPort && s.bindAddr b.1 b.2 == d.dev

/-- Addresses are literals, as ADDR_n spells them (log entry 32); an IPv6 literal has a colon. -/
def isV6 (a : Bytes) : Bool := a.contains 0x3A

/-- R297: the binding a message leaves by: the one named while it is up, else the first enabled one that is up and of the
destination's address family. -/
def State.bindFor (s : State) (p n : Nat) (peer : Bytes) : Option Nat :=
  if s.bindUp p n then some n
  else [1, 2, 3, 4].find? fun m => s.bindUp p m && isV6 (s.bindAddr p m) == isV6 peer

/-! ### Messages the device sends -/

/-- R277, R278: a device message of a partition. -/
def State.devMsg (s : State) (p type handle : Nat) (cref : Nat) (body : Bytes) : Bytes :=
  let x := s.part p
  let b := beBytes 2 0x4759 ++ beBytes 1 1 ++ beBytes 1 type ++ beBytes 2 (48 + body.length) ++ beBytes 1 p ++ beBytes 1 x.lastKey ++
    beBytes 8 x.txSeq ++ beBytes 8 handle ++ beBytes 8 cref ++ body
  b ++ (hmac512 (s.blob (partObj p) (4 + x.lastKey)) b).take 16

/-- R280, R297: a message leaves by a binding; the answer is whether one qualified. -/
def State.sendMsg (s : State) (p n : Nat) (peer : Bytes) (peerPort type handle cref : Nat) (body : Bytes) : State × Bool :=
  match s.bindFor p n peer with
  | none => (s, false)
  | some m =>
    let w := s.bindWord p m
    let d : Datagram := { lane := bindLane w, vlan := bindVlan w, dev := s.bindAddr p m, devPort := bindPort w, peer := peer,
                          peerPort := peerPort, data := s.devMsg p type handle cref body, frag := false }
    (({ s with adm := { s.adm with tx := s.adm.tx ++ [d] } } : State).updPart p fun x => { x with txSeq := x.txSeq + 1 }, true)

/-- Where a message came from: partition, binding, address, port. -/
structure From where
  part : Nat
  bind : Nat
  peer : Bytes
  port : Nat
deriving DecidableEq, Repr

def Req.origin (q : Req) : From := { part := q.part, bind := q.bind, peer := q.src, port := q.srcPort }

/-- An answer to a host message; not sent while no binding qualifies (R297). -/
def State.answer (s : State) (f : From) (type handle cref : Nat) (body : Bytes) : State :=
  (s.sendMsg f.part f.bind f.peer f.port type handle cref body).1

/-- R282: REFUSE. -/
def refuseBody (reason detail : Nat) : Bytes := beBytes 1 reason ++ beBytes 3 0 ++ beBytes 4 detail
def State.refuse (s : State) (f : From) (handle cref reason detail : Nat) : State :=
  s.answer f 0x82 handle cref (refuseBody reason detail)

/-! ### Fields of a SUBMIT (R281) -/

def subModel (b : Bytes) : Nat := beAt b 32 1
def subFlags (b : Bytes) : Nat := beAt b 33 1
def subSegs (b : Bytes) : Nat := beAt b 34 2
def subP (b : Bytes) : Nat := beAt b 36 4
def subN (b : Bytes) : Nat := beAt b 40 4
def subTemp (b : Bytes) : Nat := beAt b 44 4
def subTopP (b : Bytes) : Nat := beAt b 48 4
def subTopK (b : Bytes) : Nat := beAt b 52 4
def subNstop (b : Bytes) : Nat := beAt b 56 1
def subSeed (b : Bytes) : Bytes := slice b 64 16
def subStops (b : Bytes) : List Nat := (upTo (subNstop b)).map fun i => beAt b (80 + 4 * i) 4

/-! ### Promises -/

/-- R227: the nominal mark of a beat, ns. -/
def State.markTime (s : State) (b : Nat) : Nat :=
  ((s.beat.mark : Int) + ((b : Int) - s.beat.count) * (s.beat.len * 1000 : Nat)).toNat

/-- The shift of token `i`: the token whose delay caused a re-timing keeps the promise it had (R295). -/
def Req.shiftOf (q : Req) (i : Nat) : Nat :=
  match q.owed with
  | some (j, sh) => if i = j then sh else q.shift
  | none => q.shift

/-- R293, R295: the promise in force for token `i`; 0 while suspended. -/
def State.promiseOf (s : State) (q : Req) (i : Nat) : Nat :=
  if q.susp then 0 else s.markTime (q.bf + 1 + q.guard + i + q.shiftOf i)

/-! ### Work of a beat (R206, R291, R302) -/

/-- Where a sequence stands: whether it is fed again, has prompt tokens to feed, or decodes. -/
inductive Stage where
  | rebuild | prompt | decode
deriving DecidableEq, Repr

def Req.stage (q : Req) : Stage :=
  if q.rebuildT ≠ 0 then .rebuild else if q.fed < subP q.sub then .prompt else .decode

/-- R32: the brood of a slot. -/
def Req.brood (q : Req) : Nat := q.slot / 128
def bookKey (beat brood : Nat) : Nat := beat * 64 + brood

/-- CHUNK of a request's bucket. -/
def State.chunkOf (s : State) (q : Req) : Nat :=
  match s.img.loaded with
  | none => 0
  | some i => match i.buckets.find? (fun b => b.num == q.bucket) with | some b => b.chunk | none => 0

/-- R269: the slot's brood is one that the placement still runs. -/
def State.slotRuns (s : State) (q : Req) : Bool := s.img.detour.isNone || decide (q.brood < s.img.left)

/-- A request that holds a slot. -/
def Req.live (q : Req) : Bool :=
  q.phase == .prefill || q.phase == .decoding || q.phase == .rebuilding || q.phase == .cancelling

/-- Requests, with their numbers. -/
def State.reqList (s : State) : List (Nat × Req) :=
  s.reqs.filterMap fun c => match c.2 with | some q => some (c.1, q) | none => none

/-- The request of the lowest slot of a list. -/
def lowestSlot (l : List (Nat × Req)) : Option Nat :=
  (l.foldl (fun (m : Option (Nat × Req)) c => match m with
    | none => some c
    | some d => if c.2.slot < d.2.slot then some c else m) none).map (·.1)

/-- R302: the rebuilding sequence whose chunk a lane carries in beat `n`. -/
def State.laneRebuild (s : State) (n brood : Nat) : Option Nat :=
  lowestSlot (s.reqList.filter fun c =>
    c.2.live && c.2.stage == .rebuild && decide (c.2.rebuildT ≤ n) && c.2.brood == brood && s.slotRuns c.2)

/-- Tokens of the chunk that a request's lane carries for it in beat `n`; `q` as at the beat's start but for tokens yielded. -/
def State.chunkIn (s : State) (n r : Nat) (q : Req) : Nat :=
  match q.stage with
  | .decode => 0
  | .prompt => if Tab.get 0 s.adm.book (bookKey n q.brood) = r + 1 ∧ (s.laneRebuild n q.brood).isNone then min (s.chunkOf q) (subP q.sub - q.fed) else 0
  | .rebuild =>
    if s.laneRebuild n q.brood = some r then
      min (s.chunkOf q) (subP q.sub + (q.out.length + q.wait.length - if q.yielded then 1 else 0) - q.fed)
    else 0

/-- The next token to leave. -/
def Req.nextIx (q : Req) : Nat := q.out.length + q.wait.length

/-- R296: `tok` as token `i` ends the request. -/
def Req.stopsAt (q : Req) (tok : Nat) : Bool := (subStops q.sub).contains tok
def Req.lastAt (q : Req) (i tok : Nat) : Bool := q.stopsAt tok || decide (i + 1 ≥ subN q.sub)

/-- A token that ends the request by itself has been sampled. -/
def Req.lastCame (q : Req) : Bool := q.out.any (fun t => bitOf t.flags 0) || q.wait.any fun w => q.stopsAt w.1

/-- Whether beat `n` comes before the end of a request's work: a cancel's beat, its last token's, or token N − 1 still to come. -/
def Req.works (q : Req) (n : Nat) : Bool :=
  if q.phase = .cancelling then decide (n < q.cut ∧ q.nextIx + q.owes < subN q.sub) && !q.lastCame
  else if q.endR ≠ 0 then decide (n ≤ q.endBeat)
  else decide (q.nextIx + q.owes < subN q.sub)

/-- R298: the last token's beat has ended, though the token may not have left yet. -/
def State.ended (s : State) (q : Req) : Bool := q.live && q.phase != .cancelling && !q.works s.beat.count

/-- Whether a request's work runs in beat `n`. -/
def State.carries (s : State) (n r : Nat) (q : Req) : Bool :=
  q.live && q.works n && (q.stage == .decode || decide (s.chunkIn n r q > 0))

/-- R291: whether the beat's step ends in the sampling of a token of the request. -/
def State.samples (s : State) (n r : Nat) (q : Req) : Bool :=
  s.carries n r q && s.slotRuns q &&
  (match q.stage with
   | .decode => true
   | .prompt => q.fed + s.chunkIn n r q == subP q.sub
   | .rebuild => q.fed + s.chunkIn n r q == subP q.sub + q.out.length + q.wait.length - if q.yielded then 1 else 0)

/-- R307: the earlier of two late reasons; 0 is none. -/
def firstWhy (a b : Nat) : Nat := if a = 0 then b else if b = 0 then a else min a b

/-- R295: the promises of a request's unsent tokens move by `n` beats, for a delay of token `i`. -/
def Req.retime (q : Req) (i n why : Nat) : Req :=
  if n = 0 then { q with why := firstWhy q.why why }
  else
    let old := match q.owed with
      | some (j, sh) => if j = i then sh else q.shift
      | none => q.shift
    { q with shift := q.shift + n, retimes := min 255 (q.retimes + 1), why := firstWhy q.why why, owed := some (i, old) }

/-- R295: the smallest shift by which token `i`, expected to leave by the mark of beat `b`, meets its promise. -/
def Req.retimeAt (q : Req) (i b why : Nat) : Req :=
  if q.live && !q.susp then q.retime i (b - (q.bf + 1 + q.guard + i + q.shift)) why else q

/-- The same for the next token to be produced. -/
def Req.retimeFor (q : Req) (b why : Nat) : Req := q.retimeAt (q.nextIx + q.owes) b why

/-- A change of every request. -/
def State.mapReqs (s : State) (f : Req → Req) : State :=
  { s with reqs := s.reqs.map fun c => (c.1, c.2.map f) }

/-- R273: a partition holds accepted work. -/
def State.hasWork (s : State) (p : Nat) : Bool := s.reqList.any fun c => c.2.part == p && c.2.live
/-- Some partition holds accepted work. -/
def State.anyWork (s : State) : Bool := s.reqList.any fun c => c.2.live

/-- 0x40pp.0F, .10, R290: sequences, frame indices and committed power (mW) of a partition. -/
def State.resident (s : State) (p : Nat) : Nat := (s.reqList.filter fun c => c.2.part == p && c.2.live).length
def State.framesUsed (s : State) (p : Nat) : Nat :=
  (s.reqList.filter fun c => c.2.part == p && c.2.live).foldl (fun n c => n + c.2.frames.length) 0
def State.committedPower (s : State) (p : Nat) : Nat := s.resident p * s.adm.pps
def State.moduleCommitted (s : State) : Nat := (s.reqList.filter fun c => c.2.live).length * s.adm.pps

/-! ### The journal (R288, R299) -/

/-- R288: where a record of `n` bytes goes in a ring of `top` bytes whose oldest record starts at `first`, with the next free byte at
`tail`; a record is never split across the wrap. None when it does not fit. -/
def ringPlace (top : Nat) (first : Option Nat) (tail n : Nat) : Option Nat :=
  match first with
  | none => if n ≤ top - tail then some tail else if n ≤ tail then some 0 else none
  | some f =>
    if tail > f then
      if n ≤ top - tail then some tail else if n ≤ f then some 0 else none
    else if n ≤ f - tail then some tail else none

/-- R195: bytes of one copy of the journal. -/
def journalBytes : Nat := 6000000000

/-- R299: Wenwyn appends a record to both copies of the journal (log entry 83). -/
def State.journalPut (s : State) (n : Nat) (b : JBody) : State :=
  match ringPlace journalBytes (s.adm.journal.head?.map (·.off)) s.adm.jTail n with
  | none => s
  | some off =>
    { s with adm := { s.adm with
      journal := s.adm.journal ++ [{ off := off, size := n, body := b }], jTail := (off + n) % journalBytes } }

/-- The admission record of a request: 256 bytes and 4 for each prompt token. -/
def State.journalAdmit (s : State) (q : Req) : State :=
  s.journalPut (264 + 4 * subP q.sub)
    (.admission q.sub (q.toks.map (·.2 - 1)) q.part q.handle q.bucket q.slot q.bf (s.markTime (q.bf + 1 + q.guard)) q.guard q.key)

/-- A token id enters its place, in ascending slot order, in a beat record. -/
def insertTok (mask slot tok : Nat) (l : List Nat) : List Nat :=
  let k := ((upTo slot).filter (bitOf mask)).length
  l.take k ++ [tok] ++ l.drop k

/-- The beat record of the present beat and a brood, where it is the newest record and has room for one token more. -/
def State.openBeatRec (s : State) (brood slot : Nat) : Option (JRec × Nat × List Nat × List Nat) :=
  match s.adm.journal.getLast? with
  | some r =>
    match r.body with
    | .beat n b m ids hs =>
      if n = s.beat.count ∧ b = brood ∧ !bitOf m slot ∧
          ringPlace journalBytes (s.adm.journal.head?.map (·.off)) s.adm.jTail 4 = some (r.off + r.size) then some (r, m, ids, hs)
      else none
    | _ => none
  | none => none

/-- R296, R299: a token is written to the beat record of its brood before it leaves; where that is no longer the newest record, a further
record of the beat and brood is begun (log entry 83). -/
def State.journalToken (s : State) (q : Req) (tok : Nat) : State :=
  let slot := q.slot % 128
  match s.openBeatRec q.brood slot with
  | none => s.journalPut 36 (.beat s.beat.count q.brood (2 ^ slot) [tok] [q.handle])
  | some (r, m, ids, hs) =>
    let r' : JRec := { r with
      size := r.size + 4, body := .beat s.beat.count q.brood (m + 2 ^ slot) (insertTok m slot tok ids) (insertTok m slot q.handle hs) }
    { s with adm := { s.adm with
      journal := s.adm.journal.dropLast ++ [r'], jTail := (r'.off + r'.size) % journalBytes } }

/-- The end record of a request. -/
def State.journalEnd (s : State) (q : Req) : State := s.journalPut 24 (.fin q.handle q.endR q.endBeat)

/-- The requests that a record concerns, by handle. -/
def JBody.handles : JBody → List Nat
  | .admission _ _ _ h _ _ _ _ _ _ => [h]
  | .beat _ _ _ _ l => l
  | .fin h _ _ => [h]

/-! ### The streams of sequences (R121, R125, R127, R301, R302) -/

/-- The row of the stream table that holds descriptor `i`. -/
def streamRow (x : Tile) (i : Nat) : Nat := x.streamBase + i / 16

/-- R127: a stream's descriptor is written back: it shares its row with others, so the row is read under check. -/
def State.putStream (s : State) (t i : Nat) (desc : Bytes) : State :=
  if !(isTile .v t && decide (i < 512)) then s
  else
    let r := streamRow (s.tile t) i
    match s.readChk t false r 2 [] 0 with
    | (s, none) => s
    | (s, some b) => s.setSpad t r (putAt b (32 * (i % 16)) (slice desc 0 32))

/-- The tile that a tile of the image stands on under the patches in force. -/
def State.standIn (s : State) (t : Nat) : Nat := match s.img.patched.find? (fun p => p.1 == t) with | some p => p.2 | none => t

/-- The stream of a request's slot holds the request's key, and the counter after `n` tokens. -/
def State.seedStream (s : State) (q : Req) (n : Nat) : State :=
  let c := Config.slotStream s.img.content (if s.img.detour.isSome then s.img.lost else 0) q.slot
  s.putStream (s.standIn c.1) c.2 (slice q.key 0 16 ++ leBytes 8 (2 * n) ++ List.replicate 8 0)

/-- R301: the streams of the sequences whose slots run stand after the tokens that earlier beats have sampled. -/
def State.seedAll (s : State) : State :=
  s.reqList.foldl (fun s c => if c.2.live && s.slotRuns c.2 then s.seedStream c.2 (c.2.nextIx + c.2.owes) else s) s

/-! ### Tokens leaving -/

/-- R283: the TOKEN message of token `i`. -/
def tokenBody (i : Nat) (t : TokRec) (resent : Bool) : Bytes :=
  beBytes 4 i ++ beBytes 4 t.id ++ beBytes 8 t.promised ++ beBytes 8 t.sent ++ beBytes 1 t.late ++ beBytes 1 t.retimes ++
    beBytes 1 (t.flags ||| (if resent then 2 else 0)) ++ beBytes 1 0 ++ beBytes 4 t.lp

/-- R283, R294: what a token that leaves now says. -/
def State.stampTok (s : State) (q : Req) (i : Nat) (t : TokRec) (why : Nat) : TokRec :=
  let pr := s.promiseOf q i
  let late := if q.susp then 0x24 else if s.time.now ≤ pr then 0 else firstWhy q.why (if why = 0 then (if q.why = 0 then 0x20 else 0) else why)
  { t with promised := pr, sent := s.time.now, late := late, retimes := q.retimes,
           flags := (t.flags &&& 1) ||| (if q.susp then 4 else 0) }

/-- R294: the reason that stands when token `i` has left on time: one recorded for the delay of a later token. -/
def Req.whyAfter (q : Req) (i : Nat) : Nat :=
  match q.owed with
  | some (j, _) => if i < j then q.why else 0
  | none => 0

/-- R296, R297: token `i` leaves, or is held in the journal while no binding qualifies. -/
def State.tokenOut (s : State) (r : Nat) (q : Req) (i : Nat) (t : TokRec) (why : Nat) : State :=
  let t := s.stampTok q i t why
  if q.held.any (fun j => decide (j < i)) then s.updReq r fun q => { q with held := insertSet i q.held }
  else
  match s.sendMsg q.part q.bind q.src q.srcPort 0x83 q.handle q.cref (tokenBody i t false) with
  | (s, true) =>
    let s := { s with adm := { s.adm with late := s.adm.late + (if t.late = 0 then 0 else 1) } }
    s.updReq r fun q => { q with
      out := q.out.set i t, lateN := q.lateN + (if t.late = 0 then 0 else 1), why := (if t.late = 0 then q.whyAfter i else q.why), held := q.held.filter (· != i) }
  | (s, false) => s.updReq r fun q => { q with held := insertSet i q.held }

/-- R296: the request ends at a stop token or at token N − 1, sampled in beat `b`. -/
def Req.endAt (q : Req) (i tok b : Nat) : Req :=
  if q.lastAt i tok ∧ q.endR = 0 then { q with endR := if q.stopsAt tok then 0x40 else 0x41, endBeat := b, due := false, owes := 0 } else q

/-- R120, R283: what LOGPROB carries: +0 where T is 0, the canonical NaN where a logit was NaN, else the value sampled. -/
def Req.logProb (q : Req) (lp : Nat) : Nat :=
  if !bitOf (subFlags q.sub) 0 then 0
  else if (ofF32 lp).isNaN then nan32
  else if (ofF32 (subTemp q.sub)).isZero then 0 else lp

/-- R296: the sampled token is journaled and leaves. -/
def State.emitToken (s : State) (r tok lp : Nat) : State :=
  match s.req r with
  | none => s
  | some q =>
    let i := q.out.length
    let t : TokRec := { id := tok, promised := 0, sent := 0, late := 0, retimes := 0, flags := if q.lastAt i tok then 1 else 0,
                        lp := q.logProb lp }
    let q' : Req := { q with out := q.out ++ [t] }
    let s := (s.updReq r fun _ => q').journalToken q tok
    s.tokenOut r q' i t 0

/-- R364, R367: tokens are withheld while a recompute of the beat or a dispute is open. -/
def State.withheld (s : State) : Bool := !s.flt.disputes.isEmpty || s.tiles.any fun c => c.2.capture.isSome

/-- R367: a token sampled `k` beats ago is withheld by the disputes opened since. -/
def State.withheldOld (s : State) (k : Nat) : Bool := s.flt.disputes.any fun d => decide (k ≤ d.age)

/-- R364, R366: withheld tokens are released. Those of an abandoned beat have been discarded (R359). -/
def State.releaseTokens (s : State) : State :=
  if s.withheld && !(s.beat.abandoned && s.flt.disputes.isEmpty) then s
  else
    s.reqList.foldl (fun s c =>
      let l := c.2.wait
      let s := s.updReq c.1 fun q => { q with wait := [] }
      l.foldl (fun s t => s.emitToken c.1 t.1 t.2) s) s

/-! ### Ends -/

/-- R298: the bookings of a request after beat `b` are freed. A booking's key is 64 · beat + brood. -/
def State.unbook (s : State) (r b : Nat) : State :=
  { s with adm := { s.adm with book := s.adm.book.filter fun c => c.2 != r + 1 || decide (c.1 / 64 ≤ b) } }

/-- R298, R307: a request ends with a reason in the present beat; its bookings not yet used are freed. -/
def State.endReq (s : State) (r why : Nat) : State :=
  match s.req r with
  | none => s
  | some q =>
    if !q.live then s
    else
      let s := s.updReq r fun q => { q with
        endR := if q.endR = 0 then why else q.endR, endBeat := s.beat.count, due := false, owes := 0, wait := [], phase := .cancelling,
        cut := s.beat.count + 1 }
      s.unbook r s.beat.count

/-- R270, R375: every request in flight ends. -/
def State.endAll (s : State) (why : Nat) : State :=
  s.reqList.foldl (fun s c => s.endReq c.1 why) s

/-- A withheld last token is discarded: the request has not ended. -/
def Req.unend (q : Req) : Req :=
  if (q.endR = 0x40 ∨ q.endR = 0x41) ∧ !q.out.any (fun t => bitOf t.flags 0) then { q with endR := 0, endBeat := 0 } else q

/-- R359, R367: the tokens of the abandoned beat not yet sent are discarded; the replay samples them again. -/
def State.dropWaiting (s : State) : State :=
  s.mapReqs fun q => if q.wait.isEmpty || !q.yielded then q else { q.unend with wait := q.wait.dropLast, due := true, yielded := false }

/-- R302: chunks that rebuild a sequence. -/
def State.rebuildChunks (s : State) (q : Req) : Nat := cdiv (subP q.sub + q.nextIx) (s.chunkOf q)

/-- R302: the chunks of a brood's rebuilding sequences up to that of a slot. -/
def State.chunksUpTo (s : State) (q : Req) : Nat :=
  (s.reqList.filter fun c => c.2.live && c.2.stage == .rebuild && c.2.brood == q.brood && decide (c.2.slot ≤ q.slot)).foldl
    (fun n c => n + s.rebuildChunks c.2) 0

/-- R295, R302: a sequence to be rebuilt has a slot: its stream's counter is set to 2n, and its token n is promised anew. -/
def State.resumeRebuild (s : State) (r why : Nat) : State :=
  match s.req r with
  | none => s
  | some q =>
    let s := s.seedStream q q.out.length
    s.updReq r fun q => q.retimeFor (s.beat.count + 2 + s.chunksUpTo q) why

/-- R302: a sequence is to be rebuilt: its prompt and delivered tokens are fed again through its lane, and it is re-timed. A request
that is being cancelled is not taken up again. -/
def State.rebuild (s : State) (r : Nat) : State :=
  match s.req r with
  | none => s
  | some q =>
    if !q.live || q.phase == .cancelling then s
    else
      let q := { q.unend with
        phase := .rebuilding, fed := 0, cached := 0, wait := [], due := false, owes := 0, rebuildT := s.beat.count + 1, flags := q.flags ||| 8,
        why := firstWhy q.why (if s.slotRuns q then 0x22 else 0x23) }
      let s := (s.updReq r fun _ => q).unbook r s.beat.count
      let s := if s.slotRuns q then s.resumeRebuild r 0x22 else s
      { s with adm := { s.adm with rebuilds := s.adm.rebuilds + 1 } }

end Sys2Proof.Machine
end

