-- ==== Sys2Proof/Machine/Chrysalis.lean ====
section
/-!
DEFINITION. The training state and its restores (R376 to R383), as the fault paths and the training commands share them. The
manual gives no layout of the TRAIN section: the rows of a tensor's halves come from Config (log entry 16).
-/

namespace Sys2Proof.Machine

def State.updTrain (s : State) (f : Train → Train) : State := { s with train := f s.train }

def State.trainSec (s : State) : Bytes := match s.img.loaded with | some i => i.dev 0x0070 | none => []
/-- R272: the adapter tensors: TID, mirrored, mirror region, rows. -/
def State.trainTensors (s : State) : List (Nat × Bool × Nat × Nat) := match s.img.loaded with | some i => i.train | none => []

/-! ### State rows (R378) -/

/-- The rows of a tensor in the half that step `k` writes. -/
def State.halfRows (s : State) (tid k : Nat) : List Nat := Config.trainRows s.trainSec tid (k % 2)

def State.halfBytes (s : State) (tid k : Nat) : Bytes := (s.halfRows tid k).flatMap s.row

/-- R377: the mirror of a tensor's half that step `k` writes. -/
def mirrorKey (tid k : Nat) : Nat := 2 * tid + k % 2

/-- The V-tiles that hold training streams, with their stream indices. -/
def State.trainStreams (s : State) : List (Nat × Nat) :=
  (upTo nTiles).flatMap fun t => if tileKind t == .v then (s.tile t).streamOwn.map fun i => (t, i) else []

/-- R157, R160: a row of a tensor or of its optimiser state read on its way out of its tile or stack, under check: none where it is
uncorrectable. -/
def State.rowOut (s : State) (id : Nat) : State × Option Bytes :=
  if id < 2 ^ 23 then s.readChk (id / 768) false (id % 768) 5 [] 0
  else if 2 ^ 27 ≤ id ∧ id < 2 ^ 32 then s.readChk ((id - 2 ^ 27) / 16384) true ((id - 2 ^ 27) % 16384) 5 [] 0
  else (s, if Tab.get 0 s.bad id = 0 then some (s.row id) else none)

/-- Rows on their way out, in order; the transfer is aborted at the first that is uncorrectable. -/
def State.rowsOut (s : State) : List Nat → State × Option Bytes
  | [] => (s, some [])
  | id :: r =>
    match s.rowOut id with
    | (s, none) => (s, none)
    | (s, some b) =>
      match State.rowsOut s r with
      | (s, none) => (s, none)
      | (s, some c) => (s, some (b ++ c))

/-- The descriptors of streams, each read under check by its V-core. -/
def State.streamsOut (s : State) : List (Nat × Nat) → State × Option Bytes
  | [] => (s, some [])
  | c :: r =>
    match s.readChk c.1 false (streamRow (s.tile c.1) c.2) 2 [] 0 with
    | (s, none) => (s, none)
    | (s, some b) =>
      match State.streamsOut s r with
      | (s, none) => (s, none)
      | (s, some d) => (s, some (slice b (32 * (c.2 % 16)) 32 ++ d))

/-- Rows padded to whole ones. -/
def padRows (b : Bytes) : Bytes := b ++ List.replicate (cdiv b.length 512 * 512 - b.length) 0

/-- R160, R378: the state rows of S_k: tensors, stream descriptors, data positions; none where a row is uncorrectable. -/
def State.stateRows (s : State) (k : Nat) (data : Tab Nat) : State × Option Bytes :=
  match s.rowsOut (s.trainTensors.flatMap fun t => s.halfRows t.1 k) with
  | (s, none) => (s, none)
  | (s, some b) =>
    match s.streamsOut s.trainStreams with
    | (s, none) => (s, none)
    | (s, some d) => (s, some (b ++ padRows d ++ padRows (data.flatMap fun c => leBytes 8 (c.2 - 1))))

/-- R376, R378: a slot's rows return to their places: the tensors to the half of its step, the streams, the data positions. -/
def State.putStateRows (s : State) (c : Chry) : State :=
  let ids := s.trainTensors.flatMap fun t => s.halfRows t.1 c.step
  let s := s.setRows (ids.zipIdx.map fun x => (x.1, slice c.state (512 * x.2) 512))
  let off := 512 * ids.length
  let s := s.trainStreams.zipIdx.foldl (fun s x => s.putStream x.1.1 x.1.2 (slice c.state (off + 32 * x.2) 32)) s
  s.updTrain fun r => { r with data := c.data }

/-- R378: the commit record, row 0 of a slot. -/
def Chry.row (c : Chry) (slot : Nat) : Bytes :=
  ascii "CHRY" ++ leBytes 2 1 ++ leBytes 1 slot ++ leBytes 1 c.flags ++ leBytes 8 c.step ++ leBytes 4 c.loss ++ leBytes 4 c.ntensor ++
  leBytes 4 c.nstream ++ leBytes 4 c.ninput ++ leBytes 8 c.rows ++ leBytes 8 c.time ++ leBytes 8 c.handle ++ leBytes 8 0 ++
  slice c.image 0 64 ++ slice c.hash 0 64 ++ devId ++ List.replicate 248 0 ++ ascii "CHRYCOMT"

/-! ### Slots -/

def Train.slot (r : Train) (i : Nat) : Option Chry := if i = 0 then r.slotA else r.slotB
def Train.setSlot (r : Train) (i : Nat) (c : Option Chry) : Train := if i = 0 then { r with slotA := c } else { r with slotB := c }

/-- The slot that holds the newest commit. -/
def Train.newest (r : Train) : Option Nat :=
  match r.slotA, r.slotB with
  | some a, some b => some (if a.step ≥ b.step then 0 else 1)
  | some _, none => some 0
  | none, some _ => some 1
  | none, none => none

/-- R378: the slot that does not hold the newest commit. -/
def Train.older (r : Train) : Nat := match r.newest with | some 0 => 1 | _ => 0

/-- R378, R383: a slot write is abandoned and its slot discarded, code 0xC2. -/
def State.dropSlotWrite (s : State) : State :=
  match s.train.writing with
  | none => s
  | some (slot, h) =>
    let s := s.updTrain fun r => { (r.setSlot slot none) with writing := none, snapReq := some h }
    s.event { code := 0xC2, handle := h }

/-- R8, R402: adapter-training commands are taken: a training image is loaded, under the licence. -/
def State.trainOpen (s : State) : Bool := s.training && s.licensed 2

/-- The training state goes with its image: what was asked of it and has not been done is abandoned (log entry 43). -/
def State.endTraining (s : State) : State :=
  let s := s.dropSlotWrite
  let hs := s.train.snapReq.toList ++ (match s.train.restoring with | some r => [r.2.2] | none => [])
  let s := hs.foldl (fun s h => if h = 0 then s else s.finish h 3 0x8A) s
  { s with train := Train.init }

/-! ### Restores (R379, R380) -/

/-- The loss recorded for a step: in the step log, or in a slot. -/
def Train.lossOf (r : Train) (k : Nat) : Option Nat :=
  match r.losses.find? fun c => c.1 == k with
  | some c => some c.2
  | none =>
    match r.slotA.filter (fun c => c.step + 1 == k), r.slotB.filter (fun c => c.step + 1 == k) with
    | some c, _ => some c.loss
    | none, some c => some c.loss
    | none, none => none

/-- A restore from slot `i` under handle `h`: the rows return, and the verification replay is to come. -/
def State.restoreSlot (s : State) (i h : Nat) : State :=
  match s.train.slot i with
  | none => s
  | some c =>
    (s.putStateRows c).updTrain fun r => { r with
      st := 3, step := c.step, restoring := some (i, c.step, h), replayed := false, tried := insertSet i r.tried, mirrors := [], mirrorRows := [], late := [] }

/-- R380: no source remains: code 0xC5, and the training state is STOPPED. -/
def State.stopTraining (s : State) (h : Nat) : State :=
  let s := s.updTrain fun r => { r with st := 4, restoring := none, tried := [], replayed := false }
  let s := s.event { code := 0xC5, handle := h }
  if h = 0 then s else s.finish h 3 0xC5

/-- R380: a restore that does not verify: code 0xC4, and the other committed slot. -/
def State.restoreFailed (s : State) : State :=
  match s.train.restoring with
  | none => s
  | some (_, _, h) =>
    let s := s.event { code := 0xC4, handle := h }
    match [0, 1].find? fun i => (s.train.slot i).isSome && !s.train.tried.contains i with
    | some i => (s.restoreSlot i h).updTrain fun r => { r with fallbacks := r.fallbacks + 1 }
    | none => s.stopTraining h

/-- R379, R380: a restore of the newest committed slot on a fault's path. -/
def State.restoreNewest (s : State) : State :=
  if !s.training ∨ s.train.st = 4 then s
  else
    let (h, s) := s.issue 5 16 32
    let s := s.updTrain fun r => { r with tried := [] }
    match s.train.newest with
    | some i => s.restoreSlot i h
    | none => s.stopTraining h

/-- R379, R381, R383: a fault stop in an adapter-training image: a verification replay runs once more, and a second fault in it is a
mismatch; otherwise S_(k−1) stands in place and a verification period begins. No loss of the step rerun is recorded, so nothing is
left to compare (log entry 43). -/
def State.trainStop (s : State) : State :=
  if !s.training then s
  else if s.train.restoring.isSome then
    if s.train.replayed then s.restoreFailed else s.updTrain fun r => { r with replayed := true }
  else if s.train.st = 1 then
    let (h, s) := s.issue 5 16 32
    (s.finish h 2 0).updTrain fun r => { r with verifyLeft := s.setting 0x7800 4 }
  else s

end Sys2Proof.Machine
end

