-- ==== Sys2Proof/Machine/Paths.lean ====
section
/-!
DEFINITION. Wenwyn's shared acts on the path of a fault: the strike table (R361), fences of units and promotion (R139, R370),
HBM rows by content (R208), stacks out of service (R213), and disputes (R365 to R369).
-/

namespace Sys2Proof.Machine

/-! ### Strikes -/

def State.strikeOf (s : State) (u : Nat) : Strike := Tab.get Strike.none s.flash.strikes u
def State.updStrike (s : State) (u : Nat) (f : Strike → Strike) : State :=
  { s with flash := { s.flash with strikes := Tab.upd Strike.none s.flash.strikes u f } }

/-- The region of a unit: a tile's, or that of a copy engine's field's first half. -/
def unitRegion (u : Nat) : Nat := if u < nTiles then tileRegion u else 2 * stackField ((u - nTiles) / 4)

/-- R361: a transient against a unit; eight queue its region for moult. -/
def State.transient (s : State) (u cls : Nat) : State :=
  let s := s.updStrike u fun x => { x with transients := count8 1 x.transients }
  let s := { s with flt := { s.flt with transients := s.flt.transients + 1 } }
  if (s.strikeOf u).transients ≥ 8 then s.queueMoult (unitRegion u) cls else s

/-- R361: an uncorrectable error of a tile; two queue its region for moult. -/
def State.countUe (s : State) (t cls : Nat) : State :=
  let s := s.updStrike t fun x => { x with ues := count8 1 x.ues }
  if (s.strikeOf t).ues ≥ 2 then s.queueMoult (tileRegion t) cls else s

/-! ### Fences -/

/-- R136, R185, R371: a tile is fenced, and its fence is due for the next instar. -/
def State.fenceUnit (s : State) (t cls : Nat) : State :=
  let s := s.fenceTile t
  let s := { s with flt := { s.flt with hwFenced := insertSet t s.flt.hwFenced } }
  s.addCommit cls [{ kind := 1, val := 0, id := t }]

/-- R370, R385: a tile is declared faulty: the strike table first, then the fence; code 0x94. One that the table already names faulty
was declared before a reset (R371), and its record carries AFTER_RESET (log entry 46). -/
def State.declareFaulty (s : State) (t cls : Nat) : State :=
  let before := (s.strikeOf t).faulty
  let s := s.updStrike t fun x => { x with faulty := true }
  let s := { s with flt := { s.flt with fenced := s.flt.fenced + 1 } }
  (s.fenceUnit t cls).event { code := 0x94, region := tileRegion t, tile := some t, action := 3, path := some cls, after := before }

/-- R139: the supervisor's tile is fenced and the standby promoted; with no usable standby the region is lost. -/
def State.promote (s : State) (g cls : Nat) : State :=
  let r := s.region g
  let s := match tileOfCode r.sup with | some t => s.fenceUnit t cls | none => s
  match tileOfCode r.standby with
  | some u =>
    if s.usable u then s.updRegion g fun r => { r with sup := r.standby, standby := noTile, silent := 0 }
    else (s.updRegion g fun r => { r with sup := noTile }).regionLoss g cls
  | none => (s.updRegion g fun r => { r with sup := noTile }).regionLoss g cls

/-! ### An image leaving (R259 to R261), and every region down -/

/-- R261: what an image installed in a tile is removed. -/
def Tile.unloaded (x : Tile) : Tile :=
  { x with store := [], seqIx := 0, loop := 0, routes := [], red := [], droutes := [], epd := [], epPtr := [], epCnt := [], epNote := [],
           mroutes := [], streamBase := 0, streamOwn := [] }

/-- R261, R316: what is installed is removed: every region Dark, its record and tables gone, no image loaded, P_BASE 0. -/
def State.removeImage (s : State) : State :=
  let s := s.each (upTo 32) fun s g => s.regionDown g .dark
  let ts : Tab Tile := s.tiles.map fun c => (c.1, c.2.unloaded)
  let s := { s with tiles := ts.filter fun c => decide (c.2 ≠ Tile.init) }
  let s := s.each (upTo 32) fun s g => s.updRegion g fun r => { r with rg := .none, sup := noTile, standby := noTile, lost := false }
  let s := s.each (upTo 16) fun s f => s.updField f fun x => { x with leave := [] }
  let s := s.each (upTo 96) fun s e => s.updEngine e fun x => { Engine.init with wq := x.wq, wBusy := x.wBusy, ctr := x.ctr, tele := x.tele }
  let s := { s.endTraining with
    img := { Img.init with hdr := s.img.hdr, load := s.img.load },
    meter := { s.meter with pBase := 0, qualN := 0, qualE := 0, wctx := [], initial := false } }
  s.closeAdm 0x11

/-- R261: a load ends with a code. At step 1 nothing else changes; later what is installed is removed. -/
def State.endLoad (s : State) (code : Nat) : State :=
  match s.img.load with
  | none => s
  | some l =>
    let s := if l.step ≤ 1 then s else s.removeImage
    let s := { s with img := { s.img with load := none } }
    (s.updHnd l.handle fun x => { x with step := l.step }).finish l.handle 3 code

/-- A region that heat, a halt or a trip takes down: Dark, or Untested where it was under moult (R351, R353), which the next
instar records (R451). -/
def State.heatDown (s : State) (g : Nat) : State :=
  if (s.region g).st == .moulting then
    let s := s.regionDown g .untested
    if Tab.get 0 s.fp.region g = 4 then s else s.addCommit 0 [{ kind := 8, val := 4, id := g }]
  else s.regionDown g .dark

/-- R353: every region down, the beat abandoned, the stacks in self-refresh. -/
def State.allDown (s : State) : State :=
  let s := s.closeAdm 0x11 |>.dropWaiting
  let s := { s with beat := { s.beat with abandoned := true } }
  let s := s.dropSlotWrite
  let s := s.each (upTo 32) State.heatDown
  s.each (upTo 24) fun s k => if (s.stack k).st = 0 then s else s.updStack k fun x => { x with selfRef := true }

/-- R375: a whole-device fault: `c` 0 both copies of control-core memory or of the page tables, 1 the cocoon's lockstep cores, 2 the time
unit. After the second the meter and the cocoon no longer work. -/
def State.wholeFault (s : State) (c : Nat) : State :=
  if s.flt.whole then s
  else
    let s := (s.event { code := 0x9E, d0 := c }).closeAdm 0x11 |>.alert 1
    let s := { s with flt := { s.flt with whole := true } }
    let s := if c = 1 then { s with boot := { s.boot with meterStop := true, attOff := true } } else s
    (s.endAll 0x45).allDown

/-! ### The reserved area (R195; the places of its items are log entry 100) -/

/-- The items of the reserved area, in the order of its table. -/
inductive RItem where
  | control | journal | meterRing | tables | chrysalis | staging
deriving DecidableEq, Repr

def RItem.all : List RItem := [.control, .journal, .meterRing, .tables, .chrysalis, .staging]

/-- Bytes of one copy. -/
def RItem.bytes : RItem → Nat
  | .control => 12000000000
  | .journal => journalBytes
  | .meterRing => 1000000000
  | .tables => 500000000
  | .chrysalis => 4000000000
  | .staging => 1000000000

/-- Rows of an item in the share of one of `n` populated stacks. -/
def RItem.rows (n : Nat) (x : RItem) : Nat := cdiv x.bytes (512 * if x = .staging then n else n / 2)

/-- The item that row `o` of a share belongs to, and the row's place among the item's rows. -/
def itemAt (n : Nat) : Nat → List RItem → Option (RItem × Nat)
  | _, [] => none
  | o, x :: l => if o < x.rows n then some (x, o) else itemAt n (o - x.rows n) l

/-- The populated stacks, and those of them that are even or odd. -/
def State.populated (s : State) : List Nat := (upTo 24).filter (bitOf s.flash.cap.stackMask)
def State.copyStacks (s : State) (p : Nat) : List Nat := s.populated.filter fun k => k % 2 == p

/-- Rows of a share that hold items held twice. -/
def State.twiceRows (s : State) : Nat :=
  ([RItem.control, .journal, .meterRing, .tables].map fun x => x.rows s.populated.length).foldl (· + ·) 0

/-- The stack at the same place among those of the other copy. -/
def State.twinStack (s : State) (k : Nat) : Option Nat := (s.copyStacks ((k + 1) % 2))[(s.copyStacks (k % 2)).idxOf k]?

/-! ### HBM rows (R195, R208) -/

/-- What an HBM row holds; of a reserved item the row's place in it. -/
inductive Content where
  | weight
  | parity (data : List Nat)
  | kv (slot : Nat)
  | reserved (x : RItem) (o : Nat)
  | other
deriving DecidableEq, Repr

/-- R195: the other copy of row `a` of stack `k`. -/
def State.twinRow (s : State) (k a : Nat) : Option Nat :=
  (s.twinStack k).map fun j => hbmRow j (s.reservedAt j + (a - s.reservedAt k))

/-- R202: rows of one frame of a pool. -/
def frameRows (m : Bytes) : Nat := 2 * mKvHeads m * (mHeadDim m * mKvSize m / 8)

/-- R202: the stack and first row of frame `f` of layer `l`. -/
def frameAt (p : Pool) (m : Bytes) (f l : Nat) : Nat × Nat :=
  let n := p.stks.length
  if n = 0 then (0, 0)
  else
    let j := (f + l) % n
    (p.stks.getD j 0, p.bases.getD j 0 + (l * cdiv p.frames n + f / n) * frameRows m)

/-- R202: the frame whose rows hold row `a` of stack `k`. -/
def frameOf (p : Pool) (m : Bytes) (k a : Nat) : Option Nat :=
  let n := p.stks.length
  let fr := frameRows m
  (p.stks.zipIdx.filter fun c => c.1 == k).findSome? fun c =>
    let base := p.bases.getD c.2 0
    if n = 0 ∨ fr = 0 ∨ a < base then none
    else
      let q := (a - base) / fr
      let per := cdiv p.frames n
      let l := q / per
      if l ≥ mLayers m then none
      else
        let f := q % per * n + (c.2 + n - l % n) % n
        if f < p.frames then some f else none

/-- R209: the parity groups of the loaded image. -/
def State.groups (s : State) : List (Nat × List Nat) :=
  match s.img.loaded with
  | none => []
  | some i => if bitOf (Machine.imgFlags i.hdr) 5 then Config.parityGroups (hContent i.hdr) else []

/-- R208: what row `a` of stack `k` holds. -/
def State.contentAt (s : State) (k a : Nat) : Content :=
  if a ≥ s.reservedAt k then
    match itemAt s.populated.length (a - s.reservedAt k) RItem.all with
    | some (x, o) => .reserved x o
    | none => .other
  else
    match s.img.loaded with
    | none => .other
    | some i =>
      match i.pools.findSome? fun p =>
        match frameOf p (i.models.getD p.model []) k a with
        | none => none
        | some f => s.reqList.findSome? fun c =>
            if c.2.live && subModel c.2.sub == p.model && c.2.frames.contains f then some c.1 else none with
      | some r => .kv r
      | none =>
        if i.tensors.any fun t => t.slices.any fun x => x.home == 0 && x.stack == k && decide (x.row ≤ a ∧ a < x.row + x.rows) then .weight
        else
          match s.groups.find? fun g => g.1 == hbmRow k a with
          | some g => .parity g.2
          | none => .other

/-- R209: the parity row and the other data rows of the group of a weight row. -/
def State.groupOf (s : State) (id : Nat) : Option (List Nat) :=
  (s.groups.find? fun g => g.2.contains id).map fun g => g.1 :: g.2.filter (· != id)

/-- R208: the operation that uses the staging area is abandoned and reports 0x62 through its handle. -/
def State.stagingLost (s : State) : State :=
  let s := s.endLoad 0x62
  match s.boot.fwRun with
  | none => s
  | some h => ({ s with boot := { s.boot with fwRun := none }, flash := { s.flash with fwMk := false } } : State).finish h 3 0x62

/-- R208: a chrysalis slot is marked invalid, and a write of it in progress is abandoned. -/
def State.slotLost (s : State) (i : Nat) : State :=
  let s := match s.train.writing with | some (j, _) => if j = i then s.dropSlotWrite else s | none => s
  s.updTrain fun r => r.setSlot i none

/-- R307, R375: both copies of the journal's bytes `lo` to `hi` are lost: the requests whose records lie there end with END 0x45. -/
def State.journalLost (s : State) (lo hi : Nat) : State :=
  let hs := (s.adm.journal.filter fun x => decide (x.off < hi ∧ lo < x.off + x.size)).flatMap fun x => x.body.handles
  (s.reqList.filter fun c => hs.contains c.2.handle).foldl (fun s c => s.endReq c.1 0x45) s

/-- R208, R307, R375: both copies of a row of an item held twice are lost; `o` is the row's place in stack `k`. -/
def State.bothLost (s : State) (x : RItem) (k o : Nat) : State :=
  match x with
  | .control => s.wholeFault 0
  | .tables => s.wholeFault 0
  | .journal =>
    let l := s.copyStacks (k % 2)
    let b := 512 * (o * l.length + l.idxOf k)
    s.journalLost b (b + 512)
  | _ => s

/-- R208: a row of a reserved item: an item held twice comes from its other copy. -/
def State.rewriteReserved (s : State) (k a : Nat) (x : RItem) (o : Nat) : State :=
  match x with
  | .staging => s.stagingLost
  | .chrysalis => s.slotLost (k % 2)
  | _ =>
    match s.twinRow k a with
    | none => s.bothLost x k o
    | some w => if Tab.get 0 s.bad w = 0 then s.setRows [(hbmRow k a, s.row w), (w, s.row w)] else s.bothLost x k o

/-- R358: a deep-store weight row is rewritten whole from its HBM copy. -/
def State.rewriteDeep (s : State) (t d : Nat) : State :=
  match s.img.loaded with
  | none => s
  | some i =>
    match ((i.all 0x0062).filter fun x => tileOfCode x.1 == some t).findSome? fun x =>
      (runRows x.2.length x.2).find? fun r => r.1 == d with
    | some r => s.setRow (deepRow t d) r.2
    | none => s

/-- R208: a row of a stack by what it holds: an HBM weight row from its parity group, or without parity the image must be loaded again;
a parity row from its group; a key-value row's sequence is rebuilt. -/
def State.rewriteHbm (s : State) (k a : Nat) : State :=
  match s.contentAt k a with
  | .weight =>
    match s.groupOf (hbmRow k a) with
    | some g => s.setRow (hbmRow k a) (s.parityRow g)
    | none => (s.closeAdm 0x10).endAll 0x10
  | .parity l => s.setRow (hbmRow k a) (s.parityRow l)
  | .kv r => s.rebuild r
  | .reserved x o => s.rewriteReserved k a x o
  | .other => s

/-- R358, R208: a bad row is rewritten whole from its source. -/
def State.rewriteRow (s : State) (id : Nat) : State :=
  if id < 2 ^ 27 then s
  else if id < 2 ^ 32 then s.rewriteDeep ((id - 2 ^ 27) / 16384) ((id - 2 ^ 27) % 16384)
  else s.rewriteHbm ((id - 2 ^ 32) / 2 ^ 27) ((id - 2 ^ 32) % 2 ^ 27)

/-- R208: a row of a stack found uncorrectable: a reserved or a parity row calls for no replay, and is dealt with at once; any other on the
path of its fault's class. -/
def State.hbmLost (s : State) (k a : Nat) : State :=
  match s.contentAt k a with
  | .reserved x o => s.rewriteReserved k a x o
  | .parity _ => s.rewriteHbm k a
  | _ => s.addTodo 2 (.rewrite (hbmRow k a))

/-! ### A stack out of service (R213) -/

/-- The row numbers of a stack. -/
def inStack (k id : Nat) : Bool := decide (hbmRow k 0 ≤ id ∧ id < hbmRow (k + 1) 0)

/-- R213: a stack leaves service and its data are lost: engines refuse descriptors that name it, sequences with pages there are rebuilt,
its chrysalis slot is invalid, and an operation that stages data there is abandoned. -/
def State.stackOut (s : State) (k : Nat) (st : Nat) : State :=
  let s := s.updStack k fun x => { x with st := st }
  let s := ((s.dropRows (inStack k)).slotLost (k % 2)).stagingLost
  match s.img.loaded with
  | none => s
  | some i =>
    s.reqList.foldl (fun s c =>
      if c.2.live && (i.pools.any fun p => p.model == subModel c.2.sub && p.stks.contains k) then s.rebuild c.1 else s) s

/-- R213: the rows of the items held twice come from their other copies; one lost there too is lost. -/
def State.restoreItems (s : State) (k : Nat) : State :=
  match s.twinStack k with
  | none => s
  | some j =>
    let lo := hbmRow j (s.reservedAt j)
    let held (id : Nat) : Bool := decide (lo ≤ id ∧ id < lo + s.twiceRows)
    let here (id : Nat) : Nat := hbmRow k (s.reservedAt k + (id - lo))
    let ids := (s.mem.map fun c => c.1 / 512).foldr (fun id l => if held id && l.head? != some id then id :: l else l) []
    let s := s.setRows (ids.map fun id => (here id, s.row id))
    { s with bad := s.bad.foldl (fun b c => if held c.1 then Tab.put 0 b (here c.1) c.2 else b) s.bad }

/-- R213: the contents of a stack are restored: weights from parity or by reload, parity rows, and reserved items. -/
def State.stackRestore (s : State) (k : Nat) : State :=
  let s := s.restoreItems k
  match s.img.loaded with
  | none => s
  | some i =>
    let ids := i.tensors.flatMap fun t => (t.slices.filter fun x => x.home == 0 && x.stack == k).flatMap Slice.ids
    let par := (s.groups.map (·.1)).filter (inStack k)
    (ids ++ par).foldl (fun s id => s.rewriteRow id) s

/-- R361, R369, R371: a strike against a unit; the second, and each later one against a unit still in service, declares a tile faulty,
and takes a copy engine's stack out of service. -/
def State.strike (s : State) (u cls : Nat) : State :=
  let s := s.updStrike u fun x => { x with strikes := count8 1 x.strikes }
  let s := { s with flt := { s.flt with strikes := s.flt.strikes + 1 } }
  if (s.strikeOf u).strikes < 2 then s
  else if u < nTiles then (if s.usable u then (s.declareFaulty u cls).addTodo cls (.patch u) else s)
  else if (s.stack ((u - nTiles) / 4)).st ≠ 1 then s
  else
    ((s.updStrike u fun x => { x with faulty := true }).stackOut ((u - nTiles) / 4) 2).stackRestore ((u - nTiles) / 4)

/-! ### Fault stop -/

/-- Acts for which Wenwyn makes a fault stop (R359). -/
def Repair.stops : Repair → Bool
  | .patch _ => false
  | .detour _ => false
  | .stack _ => false
  | _ => true

/-- R358: the weight rows of a tile's deep store are rewritten from their HBM copies. -/
def State.restageTile (s : State) (t : Nat) : State :=
  match s.img.loaded with
  | none => s
  | some i =>
    s.setRows (((i.all 0x0062).filter fun x => tileOfCode x.1 == some t).flatMap fun x =>
      (runRows x.2.length x.2).map fun r => (deepRow t r.1, r.2))

/-- R359 step 3: one act; a patch or a detour set stays on the list, for its own step. -/
def State.actOn (s : State) (c : Nat × Repair) : State :=
  match c.2 with
  | .rewrite id => if id = 0 then s else s.rewriteRow id
  | .restage t => s.restageTile t
  | .strike u => s.strike u c.1
  | .chan u => s.strike u c.1
  | .declare t =>
    let s := s.declareFaulty t c.1
    if (s.region (tileRegion t)).sup = tileCode t then s.promote (tileRegion t) c.1 else s.addTodo c.1 (.patch t)
  | .fence t =>
    let s := s.fenceUnit t c.1
    if (s.region (tileRegion t)).sup = tileCode t then s.promote (tileRegion t) c.1 else s.addTodo c.1 (.patch t)
  | .promote g => s.promote g c.1
  | _ => s

/-- R359: the stop: every Active region stops, admission closes, unsent tokens of the beat are withheld; then the acts the
faults call for; a clean restart is due. `live`: training goes on from the live halves (R379). -/
def State.faultStop (s : State) (cls : Nat) (live : Bool := true) : State :=
  let s := s.stopAll.closeAdm 0x11 |>.dropWaiting
  let s := if live then s.dropSlotWrite.trainStop else s.dropSlotWrite
  let s := { s with flt := { s.flt with stops := s.flt.stops + 1, restart := true } }
  let s := s.event { code := 0x97, action := 1, path := some cls }
  let acts := s.flt.todo
  let s := { s with flt := { s.flt with todo := acts.filter fun c => !c.2.stops } }
  (acts.filter fun c => c.2.stops).foldl State.actOn s

/-! ### Disputes -/

/-- R365: a dispute opens; its pass is captured in the replay. -/
def State.openDispute (s : State) (d : Dispute) : State :=
  ({ s with flt := { s.flt with disputes := s.flt.disputes ++ [d] } } : State).addTodo 1 .dispute

/-- The verdicts of R366. -/
inductive Ruling where
  | transientOriginal | transientRepeat | transientChecker | checkerSuspect | minoritySecond | minorityOriginal | unresolved
  | producerStrike
deriving DecidableEq, Repr

/-- R366, R369: the verdict. A second or third core that is not free leaves the dispute unresolved (R368). -/
def ruling (d : Dispute) (v : Verdict) : Ruling :=
  let r := v.r.toNat
  if d.noSecond then (if v.replayOk then .transientChecker else .producerStrike)
  else if r ≠ d.orig then
    match v.s with
    | none => .unresolved
    | some x => if x.toNat = r then .transientOriginal else if x.toNat = d.orig then .transientRepeat else .unresolved
  else if d.digest && v.replayOk then .transientChecker
  else
    match v.s with
    | none => .unresolved
    | some x =>
      if x.toNat = d.orig then .checkerSuspect
      else
        match v.t with
        | none => .unresolved
        | some y => if y.toNat = d.orig then .minoritySecond else if y.toNat = x.toNat then .minorityOriginal else .unresolved

/-- R365: the free spares that may repeat the pass of a dispute, in the order of choice: those of the other region of the field, then those
of the remaining regions. The first is the second core, and the next the third. -/
def State.repeatCores (s : State) (d : Dispute) : List Nat :=
  let g := tileRegion d.producer
  let other := if g % 2 = 0 then g + 1 else g - 1
  let regs := other :: (upTo 32).filter fun h => h != g && h != other
  regs.flatMap fun h => (s.region h).rg.spares.filter fun u => tileKind u == .m && s.spareFree u && u != d.checker && u != d.producer

/-- R365: the second core. -/
def State.secondCore (s : State) (d : Dispute) : Option Nat := (s.repeatCores d).head?

/-- R368: what the runs of a dispute gave; a run for which no core is free gave nothing. -/
def State.runsOf (s : State) (d : Dispute) (v : Verdict) : Verdict :=
  let n := (s.repeatCores d).length
  { v with s := if n = 0 then none else v.s, t := if n < 2 then none else v.t }

/-- R367: a fault stop, the withheld tokens discarded, and every sequence that had some rebuilt. -/
def State.rebuildAfter (s : State) : State :=
  let had := s.reqList.filter fun c => !c.2.wait.isEmpty || c.2.due || decide (c.2.owes > 0)
  let s := s.faultStop 1
  had.foldl (fun s c => s.rebuild c.1) s

/-- R366 to R369: what a verdict does. -/
def State.rule (s : State) (d : Dispute) (w : Ruling) : State :=
  let g := unitRegion d.producer
  let tile := if d.producer < nTiles then some d.producer else none
  let ev (s : State) (code action : Nat) : State :=
    s.event { code := code, region := g, tile := tile, unit := if d.producer < nTiles then 0xFFFF else d.producer - nTiles, action := action }
  match w with
  | .transientOriginal => ((ev s 0x92 0).transient d.producer 1).releaseTokens
  | .transientRepeat => ((ev s 0x92 6).transient d.producer 1).rebuildAfter
  | .transientChecker => ((ev s 0x92 0).transient d.checker 1).releaseTokens
  | .checkerSuspect =>
    let s := { s with flt := { s.flt with suspect := s.flt.suspect + 1 } }
    ((ev s 0x95 7).queueMoult (tileRegion d.checker) 1).releaseTokens
  | .minoritySecond =>
    let s := match s.secondCore d with
      | some u => (ev s 0x93 7).strike u 1
      | none => ev s 0x93 7
    (s.queueMoult (tileRegion d.checker) 1).releaseTokens
  | .minorityOriginal => ((ev s 0x93 6).strike d.producer 1).rebuildAfter
  | .producerStrike => (((ev s 0x93 6).strike d.producer 1).queueMoult (tileRegion d.checker) 1).rebuildAfter
  | .unresolved =>
    let s := { s with flt := { s.flt with unresolved := s.flt.unresolved + 1 } }
    let s := (ev s 0x96 (if s.training then 9 else 6)).queueMoult g 1
    let again := s.flt.unresSeen.contains (d.producer, d.pass)
    let s := { s with flt := { s.flt with unresSeen := (d.producer, d.pass) :: s.flt.unresSeen.filter (· != (d.producer, d.pass)) } }
    if s.training then ((s.faultStop 1 false).restoreNewest)
    else if again then
      (s.reqList.foldl (fun s c => if c.2.wait.isEmpty && !c.2.due && c.2.owes == 0 then s else s.endReq c.1 0x45) s).faultStop 1
    else s.rebuildAfter

end Sys2Proof.Machine
end

