-- ==== Sys2Proof/Machine/Commit.lean ====
section
/-!
DEFINITION. An instar commit as an act of Wenwyn's (R371).
-/

namespace Sys2Proof.Machine

/-- R213: a stack whose live list the new record holds returns to service, or is retired, and its contents are restored. -/
def State.restoreStacks (s : State) : State :=
  let due := s.flt.todo.filterMap fun c => match c.2 with | .stack k => some k | _ => none
  let s := { s with flt := { s.flt with todo := s.flt.todo.filter fun c => match c.2 with | .stack _ => false | _ => true } }
  s.each due fun s k =>
    let w := Tab.get 0 s.fp.stks k
    (s.updStack k fun x => { x with st := if w % 256 = 1 then 1 else 3, live := w / 256 }).stackRestore k

/-- R381: a verification period begins; every input of both methods runs for VERIFY_STEPS steps. -/
def State.beginVerify (s : State) : State :=
  if s.training then { s with train := { s.train with verifyLeft := s.setting 0x7800 4 } } else s

/-- R371: an instar commit: a handle of kind 0x08, the record and its marker, code 0x98 with the class of the fault that led
to it; a load in progress (R261) and a slot write (R383) are abandoned, and a verification period begins (R381). -/
def State.commitNow (s : State) : State :=
  let s := (s.endLoad 0x8A).dropSlotWrite.beginVerify
  let cls := s.boot.commitCls
  let (h, s) := s.issue 8 16 32
  let s := s.commitInstar.restoreStacks
  (s.event { code := 0x98, handle := h, path := if cls = 0 then none else some cls }).finish h 2 0

/-- An instar commit where something waits for one; one raised in bring-up waits for step 9 (R410). -/
def State.commitIfDue (s : State) : State := if s.boot.commitDue.isEmpty || !s.boot.done then s else s.commitNow

end Sys2Proof.Machine
end

