-- ==== Sys2Proof/Machine/MatrixCore.lean ====
section
/-!
DEFINITION. The matrix core: its command words, the checks that refuse one, and the meaning of each of its commands (R57 to
R110, R363).
-/

namespace Sys2Proof.Machine

/-! ### Fields of a command word (R85, R90) -/

def fOpc (w : Nat) : Nat := bits w 127 124
def fSfmt (w : Nat) : Nat := bits w 119 118
def fWfmt (w : Nat) : Nat := bits w 117 116
def fSuns (w : Nat) : Bool := bitOf w 115
def fWuns (w : Nat) : Bool := bitOf w 114
def fSp24 (w : Nat) : Bool := bitOf w 113
def fXcmp (w : Nat) : Bool := bitOf w 112
def fZobs (w : Nat) : Bool := bitOf w 111
def fAxis (w : Nat) : Nat := bits w 110 109
def fSbuf (w : Nat) : Nat := bits w 108 108
def fSsb (w : Nat) : Nat := bits w 107 105
def fKgrp (w : Nat) : Nat := bits w 104 101
def fAccb (w : Nat) : Nat := bits w 82 76
def fAccin (w : Nat) : Bool := bitOf w 75
def fOut (w : Nat) : Nat := bits w 74 73
def fOfmt (w : Nat) : Nat := bits w 72 70
def fRz (w : Nat) : Bool := bitOf w 69
def fNsat (w : Nat) : Bool := bitOf w 68
def fOdst (w : Nat) : Nat := bits w 67 54
def fRoute (w : Nat) : Nat := bits w 53 48
def fTag (w : Nat) : Nat := bits w 47 40

/-- A word with the bits `[hi:lo]` cleared. -/
def without (w hi lo : Nat) : Nat := w - bits w hi lo * 2 ^ lo

/-! ### What product types use -/

/-- Stationary elements are BF16: 4 sub-blocks to a block (R61). -/
def isWideElem (pt : Nat) : Bool := pt == 5 || pt == 6 || pt == 10 || pt == 11
def subsPerBlock (pt : Nat) : Nat := if isWideElem pt then 4 else 8
/-- Sub-blocks between one step's index and the next (R86). -/
def subStride (pt : Nat) : Nat := if pt = 11 then 2 else 1
/-- R86: accumulator rows of an output tile. -/
def accRows (wide : Bool) (ncol : Nat) : Nat := if wide then cdiv ncol 4 else ncol
/-- Weight tiles of a set (R69). -/
def setTiles (wide : Bool) (pt : Nat) : Nat :=
  if wide then 4 else if pt = 11 then 4 else if pt = 6 ∨ pt = 7 ∨ pt = 9 ∨ pt = 10 then 2 else 1
/-- The product type whose element format a set's tiles have. -/
def basePt (pt : Nat) : Nat :=
  match pt with
  | 6 => 5
  | 7 => 4
  | 8 => 4
  | 9 => 0
  | 10 => 5
  | 11 => 5
  | p => p
/-- Rows of one dense tile (R36). -/
def denseRows (pt : Nat) : Nat :=
  match basePt pt with
  | 1 => 33
  | 2 => 25
  | 3 => 17
  | 5 => 64
  | _ => 32
def logicalRows (wide : Bool) : Nat := if wide then 32 else 128
def reduction (wide : Bool) : Nat := if wide then 512 else 128
def outTiles (w : Nat) : Nat := fNstep w / fKgrp w
/-- Columns that an output tile sends: a complex product sends its real and its imaginary columns (log entry 22). -/
def outCols (w : Nat) : Nat := if isComplex (fPt w) then 2 * fNcol w else fNcol w
/-- Destination rows of an output tile (R87). -/
def outRows (wide : Bool) (w : Nat) : Nat :=
  match cvtOf (fOfmt w) with
  | some c => cdiv (outCols w * logicalRows wide * c.size) 512
  | none => 0

/-! ### Checks -/

/-- The first cause, in the order of the tables of R92 and R103 (log entry 22). -/
def firstCause (l : List (Bool × Nat)) : Option Nat :=
  match l.find? (·.1) with
  | some c => some c.2
  | none => none

/-- Destination rows `n` from ODST lie in the store that OUT names (0x07). -/
def destBad (out odst n : Nat) : Bool :=
  match out with
  | 1 => decide (odst + n > 512 ∨ odst > 511)
  | 2 => decide (odst + n > 16384)
  | _ => false

/-- R85, R92, R93: why an MMA word is refused. -/
def mmaBad (wide training mxfp4 : Bool) (w : Nat) : Option Nat :=
  let pt := fPt w
  let ncol := fNcol w
  let ntile := outTiles w
  let rows := accRows wide ncol
  firstCause [
    (decide (pt > 11), 2), (decide (fSfmt w > 1 ∨ (fSfmt w ≠ 0 ∧ pt > 3 ∧ pt ≠ 9)), 2),
    (decide (fWfmt w > 1 ∨ (fWfmt w ≠ 0 ∧ ¬(pt ≤ 2 ∨ pt = 9))), 2), ((fSuns w || fWuns w) && pt != 4, 2),
    (decide (fAxis w = 3), 2), (decide (fOfmt w > 5), 2), (decide (fOut w = 0 ∧ fOfmt w ≠ 0), 2),
    (decide (bits w 39 0 ≠ 0), 2),
    (decide (fKgrp w = 0 ∨ fKgrp w > 8), 3), (decide (fNstep w = 0 ∨ fNstep w % fKgrp w ≠ 0), 3),
    (decide (ncol > if wide then 512 else 128), 3),
    (decide (fSsb w + subStride pt * fKgrp w > subsPerBlock pt) && !isComplex pt, 3),
    (isComplex pt && decide (fSsb w + subStride pt > subsPerBlock pt), 3),
    (!isComplex pt && decide (fAccb w + (if fOut w = 0 then ntile * rows else rows) > 128), 3),
    (isComplex pt && decide (fOut w = 0 ∧ fKgrp w = 1 ∧ ncol ≤ 64 ∧ fAccb w + ncol ≤ 64 ∧
      fAccb w + ntile * ncol > 64), 3),
    (wide && decide (pt > 4), 4), (isComplex pt && decide (ncol > 64 ∨ fKgrp w ≠ 1 ∨ fAccb w + ncol > 64), 4),
    (decide (fAxis w = 1 ∨ fAxis w = 2) && !(training && !wide && (pt == 0 || pt == 4 || pt == 5 || pt == 6)), 5),
    (decide (pt = 3) && !mxfp4, 6), (destBad (fOut w) (fOdst w) (ntile * outRows wide w), 7),
    (fSp24 w && (fXcmp w || decide (pt > 4) || decide (fAxis w ≠ 0)), 0x0C),
    (fXcmp w && (!(pt == 0 || pt == 5) || decide (fAxis w ≠ 0)), 0x0C),
    (fZobs w && (decide (pt > 5) || decide (fAxis w ≠ 0)), 0x0C)]

/-- R90: why a DRAIN is refused. -/
def drainBad (w : Nat) : Option Nat :=
  let n := fNcolRaw w
  firstCause [
    (decide (without w 127 124 - bits w 91 76 * 2 ^ 76 - bits w 74 40 * 2 ^ 40 ≠ 0), 2), (decide (fOfmt w > 5), 2),
    (decide (n = 0 ∨ n > 128 ∨ fAccb w + n > 128), 3), (decide (fOut w = 0), 3),
    (destBad (fOut w) (fOdst w) (cdiv (n * 128 * (match cvtOf (fOfmt w) with | some c => c.size | none => 1)) 512), 7)]

/-- R90: why an ACCLD is refused. -/
def accldBad (w : Nat) : Option Nat :=
  let n := fNcolRaw w
  firstCause [
    (decide (without w 127 124 - bits w 91 76 * 2 ^ 76 - bits w 74 73 * 2 ^ 73 - bits w 67 54 * 2 ^ 54 -
      bits w 47 40 * 2 ^ 40 ≠ 0), 2),
    (decide (n = 0 ∨ n > 128 ∨ fAccb w + n > 128), 3), (decide (fOut w = 0 ∨ fOut w = 3), 3),
    (destBad (fOut w) (fOdst w) n, 7)]

/-- R90: bits not listed of the other classes. -/
def nopBad (w : Nat) : Option Nat := firstCause [(decide (without w 127 124 ≠ 0), 2)]
def modeBad (w : Nat) : Option Nat :=
  firstCause [(decide (without w 127 123 - bits w 47 40 * 2 ^ 40 ≠ 0), 2)]
def tagOnlyBad (w : Nat) : Option Nat :=
  firstCause [(decide (without w 127 124 - bits w 47 40 * 2 ^ 40 ≠ 0), 2)]
def jumpBad (w : Nat) : Option Nat :=
  firstCause [(decide (without w 127 124 - bits w 25 16 * 2 ^ 16 - bits w 9 0 ≠ 0), 2), (decide (bits w 25 16 = 0), 3)]

/-! ### Issue -/

/-- The word at the sequencer's index (R84). -/
def Tile.word (x : Tile) : Nat := Tab.get 0 x.store x.seqIx

/-- Issue a command of one class: the word at the sequencer's index when the M-core runs, its POST and MODE are done, and
the word has that class. A reserved class (0x01) and a refused word fault under R92. -/
def State.issueM (s : State) (t cls : Nat) (bad : Nat → Option Nat) (f : Nat → State → State) : State :=
  let x := s.tile t
  let w := x.word
  if !(s.runs t) || x.posted || x.modeReq.isSome then s
  else if fOpc w ≥ 8 then s.issueFault t 1 (fTag w)
  else if fOpc w ≠ cls then s
  else
    match bad w with
    | some c => s.issueFault t c (fTag w)
    | none => f w s

/-- The sequencer goes on to the next index. -/
def Tile.advance (x : Tile) : Tile := { x with seqIx := (x.seqIx + 1) % 1024 }
/-- R91: one command more completed. -/
def Tile.oneDone (x : Tile) : Tile := { x with nDone := count8 1 x.nDone }

/-! ### The array's arithmetic (R38 to R42, R49 to R52, R80) -/

/-- One pass of a step: the stationary part and the weight tile it uses, the weighting of R51, the subtraction of R52 and
the accumulator it adds into. -/
structure Pass where
  part : Nat
  tile : Nat
  shift : Nat
  neg : Bool
  im : Bool
deriving DecidableEq, Repr

/-- The three BF16 passes of R49 over parts `(hi, lo)` and tiles `(hi, lo)`. -/
def pass49 (hi lo thi tlo : Nat) (neg im : Bool) : List Pass :=
  [⟨lo, thi, 0, neg, im⟩, ⟨hi, tlo, 0, neg, im⟩, ⟨hi, thi, 0, neg, im⟩]

/-- R49, R51, R52, R82: the passes of a step, in their order. -/
def passesOf : Nat → List Pass
  | 6 => pass49 0 1 0 1 false false
  | 7 => [⟨1, 0, 0, false, false⟩, ⟨1, 1, 8, false, false⟩, ⟨0, 0, 8, false, false⟩, ⟨0, 1, 16, false, false⟩]
  | 8 => [⟨1, 0, 0, false, false⟩, ⟨0, 0, 8, false, false⟩]
  | 11 => pass49 0 1 0 1 false false ++ pass49 2 3 2 3 true false ++ pass49 0 1 2 3 false true ++
      pass49 2 3 0 1 false true
  | 9 => [⟨0, 0, 0, false, false⟩, ⟨1, 1, 0, true, false⟩, ⟨0, 1, 0, false, true⟩, ⟨1, 0, 0, false, true⟩]
  | 10 => [⟨0, 0, 0, false, false⟩, ⟨1, 1, 0, true, false⟩, ⟨0, 1, 0, false, true⟩, ⟨1, 0, 0, false, true⟩]
  | _ => [⟨0, 0, 0, false, false⟩]

/-- R34, R51, R85: the number a stationary element of part `i` stands for. -/
def statNum (w i raw : Nat) : Num :=
  match fPt w with
  | 4 => int8Num (fSuns w) raw
  | 7 => int8Num (i == 1) raw
  | 8 => int8Num (i == 1) raw
  | pt => if isWideElem pt then ofB16 raw else (if fSfmt w = 0 then fE4M3 else fE5M2).decode raw

/-- The number a weight element of tile `i` of the set stands for. -/
def weightNum (w i raw : Nat) : Num :=
  match fPt w with
  | 4 => int8Num (fWuns w) raw
  | 7 => int8Num (i == 0) raw
  | 8 => int8Num false raw
  | pt => (weightFmt (basePt pt) (fWfmt w)).decode raw

/-- R61: a stationary element of a loaded sub-block: logical row `i`, reduction index `k`. -/
def statElem (wide : Bool) (w : Nat) (b : Nat) (i k : Nat) : Nat :=
  if isWideElem (fPt w) then elemAt b 16 (i * 128 + k) else elemAt b 8 (i * reduction wide + k)

/-- R41: one accumulation group `g` of a pass, for output `(r, c)`; `off` is the column of the tile that output column `c`
takes. `b` is the stationary part packed, `tiles` the set. -/
def groupSum (wide : Bool) (w : Nat) (ps : Pass) (b : Nat) (tiles : List Dense) (r off g : Nat) : Num :=
  let at_ (q : Nat) : Num :=
    let tix := if wide then q / 128 else ps.tile
    let k := q % 128
    let d : Dense := tiles.getD tix ⟨[], 0, 8⟩
    let wt := if fAxis w = 1 then d.at off k else d.at k off
    let st := if fAxis w = 2 then statElem wide w b q r else statElem wide w b r q
    (statNum w ps.part st).mulArr (weightNum w ps.tile wt)
  let x := sumExact ((upTo 32).map fun i => at_ (32 * g + i))
  let x :=
    if isMx (fPt w) then
      let d : Dense := tiles.getD (if wide then g / 4 else ps.tile) ⟨[], 0, 8⟩
      let sc := d.scale (g % 4) off
      if sc = 255 then .nan else x.scale2 ((sc : Int) - 127)
    else x
  let x := x.scale2 ps.shift
  if x.isZero then .fin false 0 0 else if ps.neg then x.negate else x

/-- R41 steps 3 and 4 over the passes of one accumulator of a step: output `(r, c)`. -/
def cellValue (wide : Bool) (w : Nat) (im : Bool) (stat : List Nat) (tiles : List Dense) (start r off : Nat) : Nat :=
  (passesOf (fPt w)).foldl (fun acc ps =>
    if ps.im != im then acc
    else
      (upTo (reduction wide / 32)).foldl (fun a g =>
        accAdd a (groupSum wide w ps (stat.getD ps.part 0) tiles r off g)) acc) start

/-! ### Accumulator rows (R62) -/

def accRow (t a : Nat) : Nat := spadRow t (640 + a)

/-- The values of column `c` of an output tile whose rows begin at `base`. -/
def accCol (s : State) (t : Nat) (wide : Bool) (base c : Nat) : List Nat :=
  let row := s.row (accRow t (if wide then base + c / 4 else base + c))
  (upTo (logicalRows wide)).map fun i => leAt row ((if wide then 128 * (c % 4) else 0) + 4 * i) 4

/-- Write a column back. -/
def setAccCol (s : State) (t : Nat) (wide : Bool) (base c : Nat) (v : List Nat) : State :=
  let id := accRow t (if wide then base + c / 4 else base + c)
  let b := (v.map (leBytes 4)).flatten
  s.setRow id (if wide then putAt (s.row id) (128 * (c % 4)) b else b)

/-! ### Results leaving (R45 to R47, R87, R88) -/

/-- Convert FP32 values for a destination; bytes and the counts of R47. -/
def convertOut (w : Nat) (vals : List Nat) : Bytes × Nat × Nat :=
  match cvtOf (fOfmt w) with
  | none => ([], 0, 0)
  | some c =>
    let l := vals.map (convert c (if fRz w then .rz else .rne) (fNsat w))
    ((l.map fun x => leBytes c.size x.w).flatten, satCount l, nanCount l)

/-- `n` rows of a byte string, the last padded with zero bytes. -/
def rowsOf (b : Bytes) : List Bytes := (upTo (cdiv b.length 512)).map fun i => slice b (512 * i) 512

/-- Send rows to OUT: the scratchpad from row `d`, the deep store from row `d` by way of the vertical port (R152), or the mesh. -/
def State.sendOut (s : State) (t out d rr : Nat) (rows : List Bytes) : State :=
  match out with
  | 1 => s.setRows (rows.zipIdx.map fun c => (spadRow t (d + c.2), c.1))
  | 2 => s.updTile t fun x => { x with vpQ := x.vpQ ++ rows.zipIdx.map fun c => .result (d + c.2) c.1 }
  | _ => s.injectAll t rr rows

/-- Count what a conversion saturated and the NaN elements it wrote (R47, R91). -/
def State.countConv (s : State) (t sat nan : Nat) : State :=
  s.updTile t fun x => { x with nSat := count64 sat x.nSat, nNan := count64 nan x.nNan }

/-! ### One 128-column group of a step -/

/-- R61: the first row of sub-block `n` in a block, and the rows it has. -/
def subRows (pt : Nat) : Nat := if isWideElem pt then 64 else 32
def subRow (pt blk n : Nat) : Nat := 256 * blk + n * subRows pt

/-- R82, R86: the (block, sub-block) of each stationary part of step `p`. -/
def statParts (w p : Nat) : List (Nat × Nat) :=
  let b := fSbuf w
  let n := fSsb w + subStride (fPt w) * (p % fKgrp w)
  match fPt w with
  | 11 => [(b, n), (b, n + 1), (1 - b, n), (1 - b, n + 1)]
  | 6 => [(b, n), (1 - b, n)]
  | 7 => [(b, n), (1 - b, n)]
  | 8 => [(b, n), (1 - b, n)]
  | 9 => [(b, n), (1 - b, n)]
  | 10 => [(b, n), (1 - b, n)]
  | _ => [(b, n)]

/-- R95: a stationary element that is zero. -/
def statZero (pt raw : Nat) : Bool :=
  if pt = 4 then raw == 0 else if isWideElem pt then raw % 2 ^ 15 == 0 else raw % 2 ^ 7 == 0

/-- R108: the zero mask of a loaded sub-block, bit (logical row / 8) · (D / 8) + (reduction index / 8). -/
def zeroMask (wide : Bool) (w b : Nat) : Nat :=
  let kb := reduction wide / 8
  (upTo 256).foldl (fun m n =>
    let i := 8 * (n / kb)
    let k := 8 * (n % kb)
    if (upTo 64).all (fun e => statZero (fPt w) (statElem wide w b (i + e / 8) (k + e % 8))) then m + 2 ^ n else m) 0

/-- Ones of a 256-bit mask. -/
def ones256 (m : Nat) : Nat := ((upTo 256).filter (bitOf m)).length

/-- R72, R108, R157: load a sub-block under check, its rows from the `nth` that the command reads; `none` at an uncorrectable row. -/
def State.loadPart (s : State) (t w : Nat) (c : Nat × Nat) (es : List Ecc) (nth : Nat) : State × Option SubBlock :=
  let row := subRow (fPt w) c.1 c.2
  match s.readRows t false 0 es nth ((upTo (subRows (fPt w))).map (row + ·)) with
  | (s, none) => (s, none)
  | (s, some b) => (s, some { row := row, data := b, mask := if fZobs w then zeroMask (s.tile t).wide w (packed b) else 0 })

/-- The registers hold this sub-block. -/
def SubBlock.is (w : Nat) (c : Nat × Nat) (b : SubBlock) : Bool :=
  b.row == subRow (fPt w) c.1 c.2 && b.data.length == 512 * subRows (fPt w)

/-- R59, R72: the stationary part of a pass moves into the stationary registers, from the shadow registers where it was loaded while
the pass before streamed. Passes of one chain that use the same sub-block load nothing. The number of the next row read comes back. -/
def State.takePart (s : State) (t w : Nat) (c : Nat × Nat) (es : List Ecc) (nth : Nat) : State × Nat × Option SubBlock :=
  let x := s.tile t
  match x.stat.filter (SubBlock.is w c), x.shadow.filter (SubBlock.is w c) with
  | some b, _ => (s, nth, some b)
  | none, some b => (s.updTile t fun x => { x with stat := some b, shadow := none }, nth, some b)
  | none, none =>
    match s.loadPart t w c es nth with
    | (s, none) => (s, nth, none)
    | (s, some b) => (s.updTile t fun x => { x with stat := some b }, nth + subRows (fPt w), some b)

/-- R57, R72: the first sub-block of the next step loads into the shadow registers while this one streams; false at an uncorrectable
row. -/
def State.preload (s : State) (t w p : Nat) (es : List Ecc) (nth : Nat) : State × Nat × Bool :=
  let x := s.tile t
  let c := (statParts w p).getD (((passesOf (fPt w)).head?.map (·.part)).getD 0) (0, 0)
  let has (b : Option SubBlock) : Bool := (b.filter (SubBlock.is w c)).isSome
  if p ≥ fNstep w || has x.stat || has x.shadow then (s, nth, true)
  else
    match s.loadPart t w c es nth with
    | (s, none) => (s, nth, false)
    | (s, some b) => (s.updTile t fun x => { x with shadow := some b }, nth + subRows (fPt w), true)

/-- R82: the parts of a step's passes, one pass after another, as packed numbers by part; `none` at an uncorrectable row. -/
def State.takeParts (s : State) (t w p : Nat) (es : List Ecc) : List Nat → Nat → List (Nat × Nat) → State × Nat × Option (List (Nat × Nat))
  | [], nth, l => (s, nth, some l)
  | i :: r, nth, l =>
    match s.takePart t w ((statParts w p).getD i (0, 0)) es nth with
    | (s, nth, none) => (s, nth, none)
    | (s, nth, some b) => State.takeParts s t w p es r nth (if l.any fun c => c.1 == i then l else (i, packed b.data) :: l)

/-- R363: the pass about to run is sampled: SAMPLE_RATE passes have been counted, no capture is held. -/
def State.sampleDue (s : State) (t w : Nat) : Bool :=
  let n := s.setting 0x7000 6
  decide (fPt w ≤ 5 ∧ n ≠ 0 ∧ (s.tile t).passes ≥ n) && (s.tile t).capture.isNone

/-- R363: the captured rows of a sampled pass, from deep-store row 16,128: a header row (its layout is not stated: a free
value, log entry 23), the stationary sub-block, and the accumulator rows at its start. -/
def State.writeCapture (s : State) (t : Nat) (stat : Bytes) (acc : List Bytes) : State :=
  let (h, s) := s.fresh 4096
  s.setRows (((leBytes 512 h :: rowsOf stat) ++ acc).zipIdx.map fun c => (deepRow t (16128 + c.2), c.1))

/-- R177, R363: the result digest, over the FP32 results in accumulator-row order. -/
def resultDigest (cols : List (List Nat)) : Nat := (crc64 ((cols.flatten.map (leBytes 4)).flatten)).toNat

/-! ### Ownership of accumulator rows (R89) -/

/-- The output tiles of an MMA that are not complete cover accumulator row `a`. -/
def MmaRun.owns (wide : Bool) (r : MmaRun) (a : Nat) : Bool :=
  let w := r.word
  let n := accRows wide (fNcol w)
  let lo := fAccb w + (if fOut w = 0 then r.p / fKgrp w * n else 0)
  let hi := fAccb w + (if fOut w = 0 then outTiles w * n else n)
  let inside (lo hi : Nat) : Bool := decide (lo ≤ a ∧ a < hi)
  inside lo hi || (isComplex (fPt w) && inside (lo + 64) (hi + 64))

def Tile.ownsAcc (x : Tile) (a : Nat) : Bool := match x.mma with | some r => r.owns x.wide a | none => false

/-- A DRAIN that has still to read accumulator row `a`, or an ACCLD that has still to load it. -/
def SideRun.owns (d : SideRun) (a : Nat) : Bool := decide (fAccb d.word + d.done ≤ a ∧ a < fAccb d.word + fNcolRaw d.word)

/-- The accumulator rows that the group of columns `j` of step `p` uses. -/
def MmaRun.rowsUsed (wide : Bool) (r : MmaRun) : List Nat :=
  let w := r.word
  let ncol := fNcol w
  let base := fAccb w + (if fOut w = 0 then r.p / fKgrp w * accRows wide ncol else 0)
  let re := ((upTo (min 128 (ncol - 128 * r.j))).map fun c => base + (if wide then (128 * r.j + c) / 4 else 128 * r.j + c)).eraseDups
  if isComplex (fPt w) then re ++ re.map (· + 64) else re

/-- A row of M-core results that waits for the vertical port. -/
def isResult : VpReq → Bool
  | .result _ _ => true
  | _ => false

/-- R77, R89: the MMA is held: a row it needs belongs to an earlier DRAIN or ACCLD, or a destination has not taken its last results. -/
def Tile.mmaHeld (x : Tile) (r : MmaRun) : Bool :=
  !x.outQ.isEmpty || x.vpQ.any isResult || (r.rowsUsed x.wide).any fun a => x.side.any fun d => !d.later && d.owns a

/-! ### One 128-column group of a step -/

/-- The MMA in progress meets an uncorrectable row (R92, R160). -/
def State.mmaFault (s : State) (t code : Nat) (r : MmaRun) (w1 w2 : Nat := 0) : State :=
  s.coreFault t code (fTag r.word) r.ix w1 w2 false (s.tile t).early

/-- What one group does: its parts at hand, the accumulator rows it starts from, the sums, and where its columns go. The number of the
next row read comes back. -/
def State.runGroup (s : State) (t : Nat) (r : MmaRun) (set : TileSet) (es : List Ecc) (nth : Nat) : State × Nat :=
  let w := r.word
  let pt := fPt w
  let wide := (s.tile t).wide
  let ncol := fNcol w
  let base := fAccb w + (if fOut w = 0 then r.p / fKgrp w * accRows wide ncol else 0)
  let first := r.p % fKgrp w == 0
  let last := r.p % fKgrp w == fKgrp w - 1
  let fromZero := first && !fAccin w
  match s.takeParts t w r.p es ((passesOf pt).map (·.part)) nth [] with
  | (s, nth, none) => (s.mmaFault t 8 r, nth)
  | (s, nth, some packs) =>
    match s.preload t w (r.p + 1) es nth with
    | (s, nth, false) => (s.mmaFault t 8 r, nth)
    | (s, nth, true) =>
    -- the accumulator rows this group starts from, under check (R157)
    let rowsAll := if fromZero then [] else (r.rowsUsed wide).map (640 + ·)
    match s.readRows t false 0 es nth rowsAll with
    | (s, none) => (s.mmaFault t 8 r, nth)
    | (s, some _) =>
      -- sampling, at the pass's first column (R363)
      let due := r.j == 0 && s.sampleDue t w
      let sampled := if r.j = 0 then (if due then some [] else none) else r.sampled
      let s :=
        if due then
          let acc := if fromZero then [] else
            (upTo (accRows wide ncol)).map fun i => s.row (accRow t (base + i))
          s.writeCapture t (((s.tile t).stat.map (·.data)).getD []) acc
        else s
      -- the results
      let cols := (upTo (min 128 (ncol - 128 * r.j))).map (128 * r.j + ·)
      let lrows := upTo (logicalRows wide)
      let parts := (upTo 4).map fun i => ((packs.find? fun c => c.1 == i).map (·.2)).getD 0
      let colVal (im : Bool) (c : Nat) : List Nat :=
        let start := if fromZero then [] else accCol s t wide (if im then base + 64 else base) c
        let off := (c - 128 * r.j) + (if set.half then 64 else 0)
        lrows.map fun i => cellValue wide w im parts set.tiles (start.getD i 0) i off
      let re := cols.map (colVal false)
      let im := if isComplex pt then cols.map (colVal true) else []
      let sampled := sampled.map (· ++ re)
      let keep := fOut w = 0 || !last
      let s := if keep then (cols.zip re).foldl (fun s c => setAccCol s t wide base c.1 c.2) s else s
      let s := if keep then (cols.zip im).foldl (fun s c => setAccCol s t wide (base + 64) c.1 c.2) s else s
      -- observation (R108 to R110)
      let s :=
        if fZobs w then
          (s.count t 1 (256 * cols.length)).count t 2 (ones256 (((s.tile t).stat.map (·.mask)).getD 0) * cols.length)
        else s
      -- the set is consumed; a complex set serves two steps (R83)
      let s := s.updTile t fun x => { x with
        turn := if isComplex pt && !set.half then { set with half := true } :: x.turn.drop 1 else x.turn.drop 1 }
      let endStep := decide (128 * (r.j + 1) ≥ ncol)
      let out := if keep then r.out else r.out ++ re
      let outIm := if keep then r.outIm else r.outIm ++ im
      -- the pass is counted, and a sampled pass is captured (R363)
      let s :=
        if endStep && decide (pt ≤ 5) then
          s.updTile t fun x => { x with passes := if sampled.isSome then 1 else x.passes + 1 }
        else s
      let s :=
        match sampled with
        | some cs =>
          if endStep then
            let c : Capture :=
              { tile := t, word := w, ix := r.ix, loop := (s.tile t).loop, step := r.p, beat := s.beat.count,
                cyc := (s.region (tileRegion t)).cyc, dig := resultDigest cs }
            s.updTile t fun x => { x with capture := some c }
          else s
        | none => s
      -- a completed output tile leaves (R86 to R88)
      let sendNow := endStep && last && decide (fOut w ≠ 0)
      let (by_, sat, nan) := convertOut w ((out ++ outIm).flatten)
      let rows := rowsOf by_
      let s := if sendNow then (s.countConv t sat nan).sendOut t (fOut w) (fOdst w + r.rowsOut) (fRoute w) rows else s
      let r' : MmaRun := { r with
        p := if endStep then r.p + 1 else r.p, j := if endStep then 0 else r.j + 1,
        out := if sendNow then [] else out, outIm := if sendNow then [] else outIm,
        rowsOut := if sendNow then r.rowsOut + rows.length else r.rowsOut, sampled := if endStep then none else sampled }
      let s :=
        if r'.p ≥ fNstep w then
          -- a second half that no step uses goes with the command (log entry 96)
          s.updTile t fun x => { x with
            mma := none, chain := true, turn := x.turn.filter (fun d => !d.half), nDone := count8 1 x.nDone,
            side := x.side.map fun d => { d with later := false } }
        else s.updTile t fun x => { x with mma := some r' }
      (s, nth + rowsAll.length)

/-! ### DRAIN and ACCLD in progress -/

/-- The `k`-th DRAIN or ACCLD in progress moves its next accumulator row; none while it waits (R77, R89). -/
def State.sideRow (s : State) (t k : Nat) : Option State :=
  let x := s.tile t
  match x.side[k]? with
  | none => none
  | some d =>
    let w := d.word
    let i := d.begun
    let a := fAccb w + i
    let put (s : State) (d : SideRun) : State := s.updTile t fun x => { x with side := x.side.set k d }
    if i ≥ fNcolRaw w || (d.later && x.ownsAcc a) || (x.side.take k).any (fun e => e.owns a) then none
    else if fOpc w = 3 ∧ fOut w = 2 then
      some ((put s { d with begun := i + 1 }).updTile t fun x => { x with vpQ := x.vpQ ++ [.accld (fOdst w + i) a] })
    else if fOpc w ≠ 3 ∧ fOut w = 3 ∧ !x.outQ.isEmpty then none
    else
      match s.readChk t false (if fOpc w = 3 then fOdst w + i else 640 + a) 1 d.es i with
      | (s, none) => some (s.coreFault t 8 (fTag w) d.ix 0 0 d.later k)
      | (s, some b) =>
        if fOpc w = 3 then some ((put s { d with begun := i + 1, done := i + 1 }).setRow (accRow t a) b)
        else
          let (by_, sat, nan) := convertOut w ((upTo 128).map fun n => leAt b (4 * n) 4)
          let buf := d.buf ++ by_
          let full := decide (buf.length ≥ 512 ∨ i + 1 = fNcolRaw w)
          let s := put (s.countConv t sat nan) { d with begun := i + 1, done := i + 1, buf := if full then [] else buf }
          some (if full then s.sendOut t (fOut w) (fOdst w + i * by_.length / 512) (fRoute w) [slice buf 0 512] else s)

/-- It goes on for at most `n` rows. -/
def State.sideRows (s : State) (t k : Nat) : Nat → State
  | 0 => s
  | n + 1 => match s.sideRow t k with | none => s | some s => s.sideRows t k n

/-- R84, R89: every DRAIN and ACCLD in progress goes on as far as it can, and those that are complete are counted. -/
def State.runSide (s : State) (t : Nat) : State :=
  let l := (s.tile t).side
  if l.isEmpty then s
  else
    let s := s.each (upTo l.length) fun s k => s.sideRows t k 128
    s.updTile t fun x =>
      let n := (x.side.filter fun d => decide (d.done ≥ fNcolRaw d.word)).length
      if n = 0 then x else { x with side := x.side.filter (fun d => decide (d.done < fNcolRaw d.word)), nDone := count8 n x.nDone }

/-- The commands in progress go on while their operands and destinations are at hand (R70, R76, R77): the MMA consumes at most two
sets, each of at most two steps, and the DRAINs and ACCLDs follow. -/
def State.runArray (s : State) (t : Nat) (es : List Ecc) (nth : Nat) : Nat → State
  | 0 => s.runSide t
  | n + 1 =>
    let s := s.runSide t
    match (s.tile t).mma, (s.tile t).turn with
    | some r, set :: _ =>
      if set.need ≠ 0 || (s.tile t).mmaHeld r then s
      else
        let (s, nth) := s.runGroup t r set es nth
        s.runArray t es nth n
    | _, _ => s

/-- R77: room at a destination lets the array go on. -/
def State.arrayGoes (s : State) (t : Nat) : State := if s.arrayRuns t then s.runArray t [] 0 4 else s

/-! ### Meanings -/

/-- NOP (R90). -/
def execNop (t : Nat) (s : State) : Host.Outcome State Fault Refusal :=
  onM t s fun s => s.issueM t 0 nopBad fun _ s => s.updTile t fun x => x.advance.oneDone

/-- MMA (R71, R73, R84 to R86): enters when no other is in progress and its first set is in the turn buffer, and holds the sequencer
until then; an uncorrectable ring row met before it (R160) faults it. The array keeps a sub-block of the MMA before it only where no
WAIT, MODE or POST lies between them (log entry 97). -/
def execMma (t : Nat) (es : List Ecc) (s : State) : Host.Outcome State Fault Refusal :=
  onM t s fun s =>
    s.issueM t 1 (mmaBad (s.tile t).wide s.training (s.licensed 3)) fun w s =>
      let x := s.tile t
      if x.mma.isSome then s
      else if x.pendingUe then s.issueFault t 8 (fTag w)
      else
        match x.turn with
        | [] => s
        | set :: _ =>
          if set.need ≠ 0 then s
          else
            let r : MmaRun := { word := w, ix := x.seqIx, p := 0, j := 0, out := [], outIm := [], rowsOut := 0, sampled := none }
            (s.updTile t fun x => { x.advance with
              mma := some r, stat := (if x.chain then x.stat else none), shadow := (if x.chain then x.shadow else none) }).runArray t es 0 4

/-- R84: a DRAIN or an ACCLD begins: it runs alongside the MMA in progress, and the sequencer goes on. -/
def State.beginSide (s : State) (t w : Nat) (es : List Ecc) : State :=
  (s.updTile t fun x => { x.advance with
    side := x.side ++ [{ word := w, ix := x.seqIx, es := es, begun := 0, done := 0, buf := [], later := x.mma.isSome }] }).runArray t [] 0 4

/-- DRAIN (R45 to R47, R84, R87 to R90): reads, converts and writes accumulator rows, each when it is free. -/
def execDrain (t : Nat) (es : List Ecc) (s : State) : Host.Outcome State Fault Refusal :=
  onM t s fun s => s.issueM t 2 drainBad fun w s => s.beginSide t w es

/-- ACCLD (R84, R89, R90): loads FP32 accumulator rows from the scratchpad (1), or the deep store (2) by way of the vertical port. -/
def execAccld (t : Nat) (es : List Ecc) (s : State) : Host.Outcome State Fault Refusal :=
  onM t s fun s => s.issueM t 3 accldBad fun w s => s.beginSide t w es

/-- R66: the array is empty: the last result of every MMA is in the accumulator or at its destination. -/
def Tile.arrayEmpty (x : Tile) : Bool := x.mma.isNone && x.outQ.isEmpty && !x.vpQ.any isResult

/-- MODE (R66): waits until the array is empty, then asks for the new mode. -/
def execMode (t : Nat) (s : State) : Host.Outcome State Fault Refusal :=
  onM t s fun s =>
    s.issueM t 4 modeBad fun w s =>
      s.whenB (s.tile t).arrayEmpty fun s => s.updTile t fun x => { x.advance with modeReq := some (bitOf w 123), chain := false }

/-- MODE_TAKES_EFFECT (R66). -/
def execModeTakesEffect (t : Nat) (s : State) : Host.Outcome State Fault Refusal :=
  onM t s fun s =>
    match (s.tile t).modeReq with
    | none => s
    | some m => s.whenB (s.runs t) fun s => s.updTile t fun x => { x.oneDone with wide := m, modeReq := none }

/-- R91, R129: the next start word is taken, and the core goes on; without one it waits. -/
def State.takeStart (s : State) (t : Nat) : State :=
  match (s.tile t).starts with
  | [] => s
  | _ :: r => s.updTile t fun x => { x.advance.oneDone with starts := r, chain := false }

/-- WAIT (R90, R91, R129): consumes one start word. A V-core waits for its start words in the same way (log entry 103). -/
def execWait (t : Nat) (s : State) : Host.Outcome State Fault Refusal :=
  onUnit (isTile .m t || isTile .v t) s fun s =>
    if isTile .v t then s.whenB (s.runs t) fun s => s.takeStart t
    else s.issueM t 5 tagOnlyBad fun _ s => s.takeStart t

/-- POST (R91): once every earlier command is complete, sends the status tuple to the cluster's S-core. Word 3, a count of
stalled cycles, is a free value: cycles are not modelled (log entry 24). -/
def execPost (t : Nat) (s : State) : Host.Outcome State Fault Refusal :=
  onM t s fun s =>
    s.issueM t 6 tagOnlyBad fun w s =>
      s.whenB ((s.tile t).arrayEmpty && (s.tile t).side.isEmpty && (Tab.get none (s.tile t).sends statusChannel).isNone) fun s =>
        let x := s.tile t
        let (st, s) := s.fresh 64
        (s.updTile t fun x => { x with posted := true, chain := false }).sendOn t statusChannel .post
          [BitVec.ofNat 64 (fTag w + 256 * x.nDone), BitVec.ofNat 64 x.nSat, BitVec.ofNat 64 x.nNan, BitVec.ofNat 64 st] 64

/-- JUMP (R90): to the target on its first `count` executions, then on, its count reset. -/
def execJump (t : Nat) (s : State) : Host.Outcome State Fault Refusal :=
  onM t s fun s =>
    s.issueM t 7 jumpBad fun w s =>
      s.updTile t fun x =>
        if x.loop < bits w 25 16 then { x.oneDone with seqIx := bits w 9 0, loop := x.loop + 1 }
        else { x.advance.oneDone with loop := 0 }

/-- ARRAY_STALL (R79): code 0x09 of the oldest command in progress: a DRAIN or an ACCLD issued before the MMA, the MMA, or a DRAIN or
an ACCLD alone. -/
def execArrayStall (t : Nat) (s : State) : Host.Outcome State Fault Refusal :=
  onM t s fun s =>
    s.whenB (s.arrayRuns t) fun s =>
      let x := s.tile t
      match (if x.early = 0 then x.mma else none), x.side with
      | some r, _ => s.coreFault t 9 (fTag r.word) r.ix
      | none, d :: _ => s.coreFault t 9 (fTag d.word) d.ix
      | none, [] => s

/-! ### Tile sets (R64, R76) -/

/-- R84: the MMA that the sequencer issues next, where it stands at one that no check refuses. -/
def State.nextMma (s : State) (t : Nat) : Option (Nat × Nat) :=
  let x := s.tile t
  if s.runs t && !x.posted && x.modeReq.isNone && fOpc x.word == 1 && (mmaBad x.wide s.training (s.licensed 3) x.word).isNone then
    some (x.word, x.seqIx)
  else none

/-- The set in the turn buffer of which tiles are still to come. -/
def Tile.openSet (x : Tile) : Option TileSet := x.turn.getLast?.filter fun d => decide (d.need ≠ 0)

/-- R64, R70, R73: the word and index of the command whose set the feeder takes a tile of, and whether it is the MMA in progress: that one
while sets of it are lacking, then the next one. -/
def State.feedFor (s : State) (t : Nat) : Option (Nat × Nat × Bool) :=
  let x := s.tile t
  let next := (s.nextMma t).map fun c => (c.1, c.2, false)
  match x.mma with
  | some r => if x.turn.length - (if x.openSet.isSome then 1 else 0) < r.setsLeft then some (r.word, r.ix, true) else next
  | none => next

/-- Row `i` from the ring's consume pointer (R63). -/
def ringRow (x : Tile) (i : Nat) : Nat := 512 + (x.ringUse + i) % 128

/-- What decoding one stored tile gives: the dense tile and the rows it took, or the fault with R102's two words. -/
inductive TileRead where
  | ok (d : Dense) (rows : Nat) (coded : Option Bool)
  | uncorrectable
  | refused (code row byte : Nat)
  | waits
deriving DecidableEq, Repr

/-- R36, R97, R102, R104, R107: read the stored tile whose first row is ring row `off`. -/
def State.readTile (s : State) (t w off : Nat) (es : List Ecc) : State × TileRead :=
  let x := s.tile t
  let pt := fPt w
  let rowAt (i : Nat) : Nat := ringRow x (off + i)
  let head := s.row (spadRow t (rowAt 0))
  let want : Nat := if fXcmp w then xcmpRows head else if fSp24 w then rows24 pt else denseRows pt
  let headBad : Bool := fXcmp w && (match checkOf s (spadRow t (rowAt 0)) es off with | .bad _ => true | _ => false)
  if off ≥ x.ringCnt then (s, .waits)
  else if headBad then ((s.readRows t false 0 es off [rowAt 0]).1, .uncorrectable)
  else
    match (if fXcmp w then xcmpWordBad pt (fWfmt w) head else none) with
    | some b => (s, .refused 0x0B 0 (b / 8))
    | none =>
      if off + want > x.ringCnt then (s, .waits)
      else
        match s.readRows t false 0 es off ((upTo want).map rowAt) with
        | (s, none) => (s, .uncorrectable)
        | (s, some b) =>
          if fXcmp w then
            match denseXcmp pt (fWfmt w) b with
            | .error p => (s, .refused 0x0B (p / 4096) (p % 4096 / 8))
            | .ok (d, n, dns) => (s, .ok d n (some dns))
          else if fSp24 w then
            match bad24 pt b with
            | some (r, o) => (s, .refused 0x0A r o)
            | none => (s, .ok (dense24 pt b) want none)
          else (s, .ok (denseOf (basePt pt) b) want none)

/-- Up to `n` tiles of a set, one after another, as far as the ring holds them. -/
def State.readSet (s : State) (t w : Nat) (es : List Ecc) : Nat → Nat → List Dense → State × List Dense × Nat × TileRead
  | 0, off, l => (s, l.reverse, off, .waits)
  | n + 1, off, l =>
    match s.readTile t w off es with
    | (s, .ok d rows c) =>
      let s := if fSp24 w then s.count t 3 1 else s
      let s :=
        match c with
        | some true => s.count t 5 1
        | some false => (s.count t 4 1).count t 6 (denseRows (fPt w) - rows)
        | none => s
      State.readSet s t w es n (off + rows) (d :: l)
    | (s, r) => (s, l.reverse, off, r)

/-- R69, R98, R107: the rows of the turn buffer that a set takes: in stored form, but dense under XCMP. -/
def turnRows (wide : Bool) (w : Nat) : Nat := setTiles wide (fPt w) * (if fSp24 w then rows24 (fPt w) else denseRows (fPt w))

/-- TILE_SET_ENTER (R64, R102, R107): the tiles of a set leave the ring for the turn buffer, checked and decoded, as far as the ring
holds them; a set begins where the buffer has room for all of it. The array goes on once a set is whole. -/
def execTileSetEnter (t : Nat) (es : List Ecc) (s : State) : Host.Outcome State Fault Refusal :=
  onM t s fun s =>
    s.whenB (s.arrayRuns t) fun s =>
      match s.feedFor t with
      | none => s
      | some (w, ix, now) =>
        let x := s.tile t
        let set := x.openSet.getD { tiles := [], need := setTiles x.wide (fPt w), rows := turnRows x.wide w, half := false }
        let before := if x.openSet.isSome then x.turn.dropLast else x.turn
        if before.length ≥ 2 ∨ before.foldl (fun m d => m + d.rows) 0 + set.rows > 264 then s
        else
          match s.readSet t w es set.need 0 [] with
          | (s', tiles, used, res) =>
            let fault (c r o : Nat) : State :=
              s'.coreFault t c (fTag w) ix r o (!now) (if now then (s'.tile t).early else (s'.tile t).side.length)
            match res with
            | .uncorrectable => fault 8 0 0
            | .refused c r o => fault c r o
            | _ =>
              if used = 0 then s
              else
                (s'.updTile t fun x => { x with
                  ringUse := (x.ringUse + used) % 128, ringCnt := x.ringCnt - used,
                  turn := before ++ [{ set with tiles := set.tiles ++ tiles, need := set.need - tiles.length }] }).runArray t es used 4

/-! ### The stream ring's writers -/

/-- R63: append a row at the ring's fill pointer. -/
def State.ringAppend (s : State) (t : Nat) (b : Bytes) : State :=
  let x := s.tile t
  (s.setRow (spadRow t (512 + x.ringFill)) b).updTile t fun x =>
    { x with ringFill := (x.ringFill + 1) % 128, ringCnt := x.ringCnt + 1 }

/-- R160: an uncorrectable row on its way into the ring: the MMA in progress, or the next, faults with 0x08. -/
def State.ringUe (s : State) (t : Nat) : State :=
  match (s.tile t).mma with
  | some r => s.mmaFault t 8 r
  | none => s.updTile t fun x => { x with pendingUe := true }

end Sys2Proof.Machine
end

