-- ==== Sys2Proof/Machine/Fabric.lean ====
section
/-!
DEFINITION. The data mesh's routers (R163 to R179, R185 to R191): packets forwarded, forked, added in reduction units and taken
by the tile port, and the stalls of R188.
-/

namespace Sys2Proof.Machine

/-! ### Route entries and unit words (R167, R175) -/

def eValid (w : Nat) : Bool := bitOf w 31
def eOp (w : Nat) : Nat := bits w 30 28
def eDchk (w : Nat) : Bool := bitOf w 27
def eOut (w : Nat) : List Nat := (upTo 6).filter (bitOf (bits w 26 21))
def eLabel (w : Nat) : Nat := bits w 20 13
def eEpd (w : Nat) : Nat := bits w 12 9
def uValid (w : Nat) : Bool := bitOf w 31
def uBf16 (w : Nat) : Bool := bitOf w 30
def uOut (w : Nat) : List Nat := (upTo 6).filter (bitOf (bits w 29 24))
def uChain (w : Nat) : Bool := bitOf w 23
def uLabel (w : Nat) : Nat := bits w 22 15
def uEpd (w : Nat) : Nat := bits w 14 11

def Tile.entry (x : Tile) (port label : Nat) : Nat := (Tab.get 0 x.routes (port * 256 + label)).toNat
def Tile.unit (x : Tile) (u : Nat) : Nat := (Tab.get 0 x.red u).toNat

/-! ### Sending -/

/-- R188: progress at an output port ends the stalls reported there. -/
def Tile.progress (x : Tile) (port : Nat) : Tile := { x with stalls := x.stalls.filter fun k => k.1 != port }

/-- R165, R187: a packet leaves by a port that is not fenced: it takes a place at the far side, none when there is no place
there. The far side of a port it fences discards it as a breach. -/
def State.putOut (s : State) (t port epd : Nat) (p : Packet) : Option State :=
  if port = 4 then
    if (s.tile t).tileIn.length ≥ inPackets then none
    else some (s.updTile t fun x => { x with tileIn := x.tileIn ++ [(epd, p)] })
  else if port = 5 then
    -- R164: at a corner the image names which of the two ring ports the label drives (log entry 95)
    let k := ringKey t (if isCorner t && Config.cornerPort t p.label then 6 else 5)
    if (Tab.get [] s.ringOut k).length ≥ inPackets then none else some { s with ringOut := Tab.upd [] s.ringOut k (· ++ [p]) }
  else
    match neighbour t port with
    | none => some s
    | some u =>
      let q := opposite port
      if (s.fence u q).closed then some (s.breach u q false p.label 4)
      else if (Tab.get [] (s.tile u).inBuf q).length ≥ inPackets then none
      else some (s.updTile u fun x => { x with inBuf := Tab.upd [] x.inBuf q (· ++ [p]) })

/-- R187: one output of a route. A multicast branch through a fence counts the packet as sent; a unicast route or a sum is
dropped and its route or unit blocked. None while the packet waits. -/
def State.outPort (s : State) (t port epd : Nat) (multi : Bool) (key unit : Nat) (p : Packet) : Option State :=
  match s.fence t port with
  | .held => none
  | .normal => (s.putOut t port epd p).map fun s => s.updTile t fun x => x.progress port
  | _ =>
    let s := s.count t 15 4
    some (if multi then s else s.fenceBlock t key port p.label unit)

/-! ### Digests -/

/-- R155: rows of a transposed tile: 32 of 8-bit elements, 64 of BF16. -/
def xpRows (xp : Nat) : Nat := if xp = 1 then 32 else 64

def Packet.good (p : Packet) : Bool := p.dig == crc64 p.row

/-- R156: the buffers of the tiles of descriptor `ep` of which not all rows have arrived are discarded. -/
def Tile.dropPartial (x : Tile) (ep : Nat) : Tile := { x with tbufs := x.tbufs.filter fun b => b.ep != ep || decide (b.rows.length ≥ xpRows b.xp) }

/-- R179: a mismatch: the packet is discarded, its route or unit blocked, both digests reported. -/
def State.digestFail (s : State) (t key code port unit : Nat) (p : Packet) : State :=
  (((s.count t 16 1).block t key).occur t code).fabReport t code port false p.label unit p.dig.toNat (crc64 p.row).toNat

/-! ### Forks -/

/-- R173: a fork takes a packet into its skew buffer; none when that buffer is full, or none of the eight is free. A unit's
fork has input port 8 + u. -/
def State.forkTake (s : State) (t port label : Nat) (outs : List Nat) (p : Packet) : Option State :=
  let x := s.tile t
  let own := (upTo 8).find? fun k => match Tab.get none x.skew k with
    | some w => w.port == port && w.label == label
    | none => false
  let free := (upTo 8).find? fun k => (Tab.get none x.skew k).isNone
  match own.orElse fun _ => free with
  | none => none
  | some k =>
    let w := (Tab.get none x.skew k).getD { port := port, label := label, held := [], sent := outs.map fun o => (o, 0) }
    if w.held.length ≥ skewPackets then none
    else some (s.updTile t fun x => { x with skew := Tab.put none x.skew k (some { w with held := w.held ++ [p] }) })

/-- R173: packets that every branch has sent leave the skew buffer; an empty one is free again. -/
def Skew.retire (w : Skew) : Option Skew :=
  let n := w.sent.foldl (fun m c => min m c.2) w.held.length
  let w := { w with held := w.held.drop n, sent := w.sent.map fun c => (c.1, c.2 - n) }
  if w.held.isEmpty then none else some w

/-- The label and descriptor of a fork's outputs. -/
def Tile.forkCfg (x : Tile) (w : Skew) : Nat × Nat :=
  if w.port ≥ 8 then (uLabel (x.unit (w.port - 8)), uEpd (x.unit (w.port - 8)))
  else (eLabel (x.entry w.port w.label), eEpd (x.entry w.port w.label))

/-- A packet, with its outputs: one output sends it on, several fork it; none while it waits. -/
def State.route (s : State) (t port label : Nat) (outs : List Nat) (epd key unit : Nat) (p : Packet) : Option State :=
  match outs with
  | [o] => s.outPort t o epd false key unit p
  | _ => s.forkTake t port label outs p

/-! ### Forwarding -/

/-- The router's part of a tile works: its region is Active, the tile is not fenced off and has a clock (R237). -/
def State.routerOn (s : State) (t : Nat) : Bool := s.tileOn t && !(s.tile t).selfFenced

/-- Input ports: port 6 is the second ring port of a corner, whose route entries are those of port 5 (R164). -/
def entryPort (port : Nat) : Nat := if port = 6 then 5 else port

/-- R167, R178: the router checks the digest of a packet that it forwards. -/
def checksHere (e : Nat) : Bool := eDchk e || (eOut e).contains 4 || (eOut e).contains 5

/-- The ports that the route's outputs name exist (R164). -/
def portsExist (t : Nat) (outs : List Nat) : Bool :=
  !outs.isEmpty && outs.all fun o => if o = 4 then true else if o = 5 then onEdge t else (neighbour t o).isSome

/-- R77, R165: a place has come free at port 4: what the tile sends moves up, and an array that waited for it goes on. -/
def State.portFreed (s : State) (t : Nat) : State :=
  let s := s.updTile t Tile.pumpOut
  if tileKind t == .m && (s.tile t).outQ.isEmpty then s.arrayGoes t else s

/-- The oldest packet of input buffer `port` goes where its route table entry says; none while there is no place for it. -/
def State.forward (s : State) (t port : Nat) (p : Packet) : Option State :=
  let x := s.tile t
  let ip := entryPort port
  let key := ip * 256 + p.label
  let e := x.entry ip p.label
  if x.blocked.contains key then some (s.count t 17 1)
  else if !eValid e ∨ eOp e ≥ 5 then some (s.labelDiscard t ip p.label 4)
  else if eOp e ≥ 1 then
    let u := (eOp e - 1) / 2
    let side := 2 * u + (eOp e - 1) % 2
    if !uValid (x.unit u) then some (s.labelDiscard t ip p.label 4)
    else if x.blocked.contains (unitKey u) then some (s.count t 17 1)
    else if (Tab.get [] x.opBuf side).length ≥ opPackets then none
    else some (s.updTile t fun x => { x with opBuf := Tab.upd [] x.opBuf side (· ++ [{ port := port, pkt := p }]) })
  else if !portsExist t (eOut e) then some (s.labelDiscard t ip p.label 4)
  else if checksHere e && !p.good then
    let s := s.digestFail t key 0x52 ip 15 p
    some (if p.xp ≠ 0 ∧ (eOut e).contains 4 then s.updTile t fun x => x.dropPartial (eEpd e) else s)
  else s.route t ip p.label (eOut e) (eEpd e) key 15 { p with label := eLabel e }

/-- PACKET_FORWARD (R167, R172, R173, R175, R178, R179, R187): the oldest packet of an input buffer goes where its route table
entry says, or stays while there is no place for it. -/
def execPacketForward (t port : Nat) (s : State) : Host.Outcome State Fault Refusal :=
  onTile t s fun s =>
    s.whenB (s.routerOn t && decide (port < 6 ∨ (port = 6 ∧ isCorner t = true))) fun s =>
      match Tab.get [] (s.tile t).inBuf port with
      | [] => s
      | p :: rest =>
        match (s.updTile t fun x => { x with inBuf := Tab.put [] x.inBuf port rest }).forward t port p with
        | none => s
        | some s => if port = 4 then s.portFreed t else s

/-- FORK_BRANCH_SEND (R173, R174, R187): a branch of a fork sends its next packet. -/
def execForkBranchSend (t k port : Nat) (s : State) : Host.Outcome State Fault Refusal :=
  onTile t s fun s =>
    s.whenB (s.routerOn t && decide (k < 8)) fun s =>
      match Tab.get none (s.tile t).skew k with
      | none => s
      | some w =>
        match w.sent.find? fun c => c.1 == port with
        | none => s
        | some c =>
          match w.held[c.2]? with
          | none => s
          | some p =>
            let (label, epd) := (s.tile t).forkCfg w
            match s.outPort t port epd true 0 15 { p with label := label } with
            | none => s
            | some s =>
              let w : Skew := { w with sent := w.sent.map fun (d : Nat × Nat) => if d.1 = port then (port, d.2 + 1) else d }
              s.updTile t fun x => { x with skew := Tab.put none x.skew k w.retire, stalls := x.stalls.filter fun q => q.1 / 16 != k + 1 }

/-! ### Reduction -/

/-- R53, R176: the sum of two rows, element by element. -/
def addRows (bf : Bool) (a b : Bytes) : Bytes :=
  let w := if bf then 2 else 4
  (upTo (512 / w)).flatMap fun i => leBytes w (treeAdd bf (leAt a (w * i) w) (leAt b (w * i) w))

/-- A packet with a fresh digest (R177). -/
def freshPacket (label : Nat) (row : Bytes) : Packet := { label := label, xp := 0, dig := crc64 row, row := row }

/-- REDUCTION_ADD (R175, R176, R178, R179): a unit adds its oldest pair, both digests checked, and sends the sum. -/
def execReductionAdd (t u : Nat) (s : State) : Host.Outcome State Fault Refusal :=
  onTile t s fun s =>
    s.whenB (s.routerOn t && decide (u < 2)) fun s =>
      let x := s.tile t
      let c := x.unit u
      let la := Tab.get [] x.opBuf (2 * u)
      let lb := Tab.get [] x.opBuf (2 * u + 1)
      let take (s : State) : State := s.updTile t fun x => { x with
        opBuf := Tab.put [] (Tab.put [] x.opBuf (2 * u) (la.drop 1)) (2 * u + 1) (lb.drop 1),
        stalls := x.stalls.filter fun k => k.1 / 16 != u + 1 }
      if x.blocked.contains (unitKey u) then
        (s.updTile t fun x => { x with opBuf := Tab.put [] (Tab.put [] x.opBuf (2 * u) []) (2 * u + 1) [] }).count t 17 (la.length + lb.length)
      else
        match la, lb with
        | a :: _, b :: _ =>
          if !uValid c then take s
          else if !a.pkt.good then (take s).digestFail t (unitKey u) 0x51 (entryPort a.port) u a.pkt
          else if !b.pkt.good then (take s).digestFail t (unitKey u) 0x51 (entryPort b.port) u b.pkt
          else
            let sum := freshPacket (uLabel c) (addRows (uBf16 c) a.pkt.row b.pkt.row)
            if uChain c then
              let v := 1 - u
              if !uValid (x.unit v) then (take s).labelDiscard t 7 (uLabel c) 4
              else if x.blocked.contains (unitKey v) then (take s).count t 17 1
              else if (Tab.get [] x.opBuf (2 * v)).length ≥ opPackets then s
              else (take s).updTile t fun x => { x with opBuf := Tab.upd [] x.opBuf (2 * v) (· ++ [{ port := 7, pkt := sum }]) }
            else if !portsExist t (uOut c) then (take s).labelDiscard t 7 (uLabel c) 4
            else ((take s).route t (8 + u) 0 (uOut c) (uEpd c) (unitKey u) u sum).getD s
        | _, _ => s

/-! ### The consumers of a transfer (R160, R179, R208) -/

/-- Where a packet at an input port of a router goes on to: the ports and labels at the next routers, and whether its own tile takes it. -/
def fanOut (t : Nat) (outs : List Nat) (label : Nat) : List (Nat × Nat × Nat) × Bool :=
  (outs.filterMap fun o => if o < 4 then (neighbour t o).map fun u => (u, opposite o, label) else none, outs.contains 4)

def Tile.follow (x : Tile) (t port label : Nat) : List (Nat × Nat × Nat) × Bool :=
  let e := x.entry (entryPort port) label
  if !eValid e then ([], false)
  else if eOp e = 0 then fanOut t (eOut e) (eLabel e)
  else
    let u := x.unit ((eOp e - 1) / 2 % 2)
    let c := if uChain u then x.unit (1 - (eOp e - 1) / 2 % 2) else u
    fanOut t (uOut c) (uLabel c)

/-- The tiles to which the routes lead, from a list of routers, input ports and labels. -/
def State.consumers (s : State) : Nat → List (Nat × Nat × Nat) → List Nat → List Nat
  | 0, _, acc => acc
  | _, [], acc => acc
  | fuel + 1, (t, port, label) :: l, acc =>
    let (next, here) := (s.tile t).follow t port label
    State.consumers s fuel (next ++ l) (if here then insertSet t acc else acc)

/-- R30, R137, R181: Wenwyn sends a direction to the supervisor of a region, on the message network. -/
def State.direct (s : State) (g : Nat) : State :=
  match tileOfCode (s.region g).sup with
  | none => s
  | some t =>
    let m : Msg := { src := 2784, ch := Config.controlRow % 56, dst := .ep t (Config.directEndpoint g % 16),
                     words := [BitVec.ofNat 64 (Config.directWord g)], reply := none }
    s.putMsg m

/-- R160: cores stop, on a direction of Wenwyn's to their supervisors, once what they have in progress is done. -/
def State.stopCores (s : State) (ts : List Nat) : State :=
  let s := s.each ((ts.map tileRegion).foldl (fun l g => insertSet g l) []) State.direct
  s.each ts fun s t => s.updTile t fun x => { x with stopped := true }

/-- R160, R208: the consumers of a transfer stop: the cores of the tiles to which its routes lead, from routers, input ports and labels. -/
def State.stopConsumers (s : State) (l : List (Nat × Nat × Nat)) : State := s.stopCores (s.consumers (nTiles * 6) l [])

/-- R179: the consumers of the route, or of the unit, that a digest mismatch has blocked. -/
def State.stopAfter (s : State) (t port label unit : Nat) : State :=
  let x := s.tile t
  let (next, here) :=
    if unit < 2 then fanOut t (uOut (x.unit unit)) (uLabel (x.unit unit))
    else let c := x.follow t port label; (c.1, c.2 || port == 4)
  s.stopCores (s.consumers (nTiles * 6) next (if here then [t] else []))

/-! ### The tile port -/

def dscValid (w : Nat) : Bool := bitOf w 63
def dscKind (w : Nat) : Nat := bits w 62 60
def dscBase (w : Nat) : Nat := bits w 59 46
def dscCount (w : Nat) : Nat := if bits w 45 32 = 0 then 16384 else bits w 45 32
def dscNen (w : Nat) : Bool := bitOf w 31
def dscNrr (w : Nat) : Nat := bits w 29 24
def dscNcnt (w : Nat) : Nat := if bits w 23 10 = 0 then 16384 else bits w 23 10

def Tile.dsc (x : Tile) (ep : Nat) : Nat := (Tab.get 0 x.epd ep).toNat
def Tile.ptr (x : Tile) (ep : Nat) : Nat := Tab.get 0 x.epPtr ep

/-- R170: the pointer advances by one, and returns to BASE after BASE + COUNT − 1. -/
def Tile.advancePtr (x : Tile) (ep : Nat) : Tile :=
  let w := x.dsc ep
  let p := x.ptr ep
  if dscKind w = 0 then x
  else { x with epPtr := Tab.put 0 x.epPtr ep (if p + 1 = dscBase w + dscCount w then dscBase w else p + 1) }

/-- R171: a notice is due with the next row written through the descriptor. -/
def Tile.noticeDue (x : Tile) (ep : Nat) : Bool :=
  dscNen (x.dsc ep) && decide (Tab.get 0 x.epCnt ep + 1 ≥ dscNcnt (x.dsc ep))

/-- R183: a tile port whose notice has passed its bound has stopped. -/
def Tile.portStalled (x : Tile) : Bool := x.sends.any fun c => c.2.any fun d => d.kind == .notice && d.stalled

/-- R171: a row has been written through a descriptor; after every NCNT of them a notice goes out. -/
def State.rowWritten (s : State) (t ep : Nat) : State :=
  let x := s.tile t
  let w := x.dsc ep
  if !dscNen w then s
  else if x.noticeDue ep then
    let n := (Tab.get 0 x.epNote ep + 1) % 2 ^ 16
    (s.updTile t fun x => { x with epCnt := Tab.put 0 x.epCnt ep 0, epNote := Tab.put 0 x.epNote ep n }).sendLater t (dscNrr w) .notice
      [BitVec.ofNat 64 (ep + n * 2 ^ 8)]
  else s.updTile t fun x => { x with epCnt := Tab.upd 0 x.epCnt ep (· + 1) }

/-- R155, R170: what the tile buffers do with a transposed row for deep-store row `d`: none for a row that R170 refuses. -/
inductive XpTake where
  | refused
  | waits
  | into (l : List TileBuf)
deriving DecidableEq, Repr

/-- The tile buffer takes another row of its transfer, the one for row `d`. -/
def TileBuf.next (b : TileBuf) (xp ep d : Nat) : Bool :=
  b.xp == xp && b.ep == ep && b.d + b.rows.length == d && decide (b.rows.length < xpRows xp)

def Tile.xpTake (x : Tile) (xp ep d : Nat) (row : Bytes) : XpTake :=
  if xp = 3 then .refused
  else if x.tbufs.any (·.next xp ep d) then .into (x.tbufs.map fun b => if b.next xp ep d then { b with rows := b.rows ++ [row] } else b)
  else if d % xpRows xp ≠ 0 then .refused
  else if x.tbufs.length ≥ 2 then .waits
  else .into (x.tbufs ++ [{ xp := xp, d := d, ep := ep, rows := [row] }])

/-- R152, R155: the tile whose last row is deep-store row `d` has arrived, and asks for the vertical port. -/
def Tile.tileWhole (x : Tile) (ep d : Nat) : Tile :=
  let whole := x.tbufs.filter fun b => b.ep == ep && decide (b.rows.length ≥ xpRows b.xp) && b.d + b.rows.length == d + 1
  { x with vpQ := x.vpQ ++ whole.map fun b => .tile b.d b.ep }

/-- R60, R62, R63, R170: the tile port refuses a packet through a descriptor that is not VALID, that names no store of the tile or a
row outside it, or that takes no transposed packet. -/
def tileRefuses (t w d xp : Nat) : Bool :=
  !dscValid w || decide (dscKind w ≥ 3) || (dscKind w == 0 && tileKind t != .m) || (xp != 0 && dscKind w != 2) ||
    (dscKind w == 1 && decide (d ≥ min 512 (spadRows t))) || (dscKind w == 2 && decide (d ≥ 16384))

/-- Class 2 requests of R152 that the tile port may have waiting. -/
def relayWaiting (q : List VpReq) : Nat := (q.filter fun r => match r with | .relayWrite _ _ _ => true | _ => false).length

/-- R170 to R172, R178, R179: the tile port takes its oldest packet. `ring` restricts it to packets for the stream ring. -/
def State.tilePort (s : State) (t : Nat) (ring : Bool) : State :=
  let x := s.tile t
  match x.tileIn with
  | [] => s
  | (ep, p) :: rest =>
    let w := x.dsc ep
    if x.portStalled ∨ (ring ∧ (dscKind w ≠ 0 ∨ dscValid w = false)) then s
    else
      let s' := s.updTile t fun x => ({ x with tileIn := rest } : Tile).progress 4
      let key := tilePortKey ep p.label
      let d := x.ptr ep
      if x.blocked.contains key then s'.count t 17 1
      else if !p.good then
        let s' := s'.digestFail t key 0x52 4 15 p
        if p.xp = 0 then s' else s'.updTile t fun x => x.dropPartial ep
      else if tileRefuses t w d p.xp then s'.labelDiscard t 4 p.label 1
      else if dscKind w = 2 ∧ p.xp ≠ 0 then
        match x.xpTake p.xp ep d p.row with
        | .refused => s'.labelDiscard t 4 p.label 1
        | .waits => s
        | .into l => s'.updTile t fun x => (({ x with tbufs := l } : Tile).tileWhole ep d).advancePtr ep
      else if dscKind w = 2 then
        if relayWaiting x.vpQ ≥ inPackets then s
        else s'.updTile t fun x => ({ x with vpQ := x.vpQ ++ [.relayWrite d p.row ep] } : Tile).advancePtr ep
      else if dscKind w = 0 then
        if x.ringCnt ≥ 128 then s else (s'.ringAppend t p.row).rowWritten t ep
      else ((s'.setSpad t d p.row).updTile t fun x => x.advancePtr ep).rowWritten t ep

/-- TILE_PORT_DELIVER (R170 to R172, R178, R179). -/
def execTilePortDeliver (t : Nat) (s : State) : Host.Outcome State Fault Refusal :=
  onTile t s fun s => s.whenB (s.routerOn t) fun s => s.tilePort t false

/-! ### Stalls -/

/-- R188: a packet is ready for output `port` and cannot leave by it: the oldest of an input buffer, the next of a fork's branch, or a
unit's sum. -/
def State.outputHeld (s : State) (t port : Nat) : Bool :=
  let x := s.tile t
  let held (epd : Nat) (p : Packet) : Bool := (s.outPort t port epd true 0 15 p).isNone
  (upTo 7).any (fun i => match Tab.get [] x.inBuf i with
    | [] => false
    | p :: _ =>
      let e := x.entry (entryPort i) p.label
      eValid e && eOp e == 0 && eOut e == [port] && !x.blocked.contains (entryPort i * 256 + p.label) && held (eEpd e) { p with label := eLabel e }) ||
  (upTo 8).any (fun k => match Tab.get none x.skew k with
    | none => false
    | some w => w.sent.any fun c => c.1 == port && (match w.held[c.2]? with
        | some p => held (x.forkCfg w).2 { p with label := (x.forkCfg w).1 }
        | none => false)) ||
  (upTo 2).any fun u =>
    let c := x.unit u
    uValid c && !uChain c && uOut c == [port] && !x.blocked.contains (unitKey u) &&
      (match Tab.get [] x.opBuf (2 * u), Tab.get [] x.opBuf (2 * u + 1) with
       | a :: _, _ :: _ => held (uEpd c) { a.pkt with label := uLabel c }
       | _, _ => false)

/-- R188: what makes no progress: an output port that lacks credit for a packet or for a message, a fork whose skew buffer is full, or a
reduction unit that holds packets on one side only. -/
def State.holding (s : State) (t port : Nat) (msg : Bool) (unit : Nat) : Bool :=
  let x := s.tile t
  if msg then s.net.any fun m => m.src < nTiles && s.wayOf (s.pathOf m.src m.ch) == .waits t port
  else if unit = 15 then s.outputHeld t port
  else
    (Tab.get [] x.opBuf (2 * unit)).isEmpty != (Tab.get [] x.opBuf (2 * unit + 1)).isEmpty && decide (unit < 2) ||
      (Tab.get none x.skew unit).any fun w => decide (w.held.length ≥ skewPackets)

/-- FABRIC_STALL (R188, R191): once for each stall, at 65,536 cycles without progress. -/
def execFabricStall (t port : Nat) (msgNet : Bool) (label unit cycles : Nat) (s : State) : Host.Outcome State Fault Refusal :=
  onTile t s fun s =>
    let key := ((if unit < 15 then 16 * (unit + 1) + 7 else port + (if msgNet then 8 else 0)) , label)
    s.whenB (s.routerOn t && decide (cycles ≥ 65536 ∧ port < 8 ∧ label < 256 ∧ unit < 16) && !(s.tile t).stalls.contains key &&
        s.holding t port msgNet unit) fun s =>
      let far := match neighbour t port with | some u => tileRegion u != tileRegion t | none => false
      let s := if far then s.updRegion (tileRegion t) fun r => { r with causes := r.causes ||| 32 } else s
      (((s.updTile t fun x => { x with stalls := key :: x.stalls }).count t 19 1).occur t 0x53).fabReport t 0x53 port msgNet label unit cycles 0

end Sys2Proof.Machine
end

