-- ==== Sys2Proof/Machine/Copies.lean ====
section
/-!
DEFINITION. The copy engines (R197 to R208): plan queues, the operations of R199 row by row, Wenwyn's descriptors, and the
patrol and retraining of the stacks (R210 to R214).
-/

namespace Sys2Proof.Machine

/-! ### Ring ports of a descriptor (R28, R199) -/

/-- The router of ring port `i` of a descriptor. -/
def dPortTile (w i : Nat) : Nat :=
  if dEdge w % 2 = 0 then tileIx (dPcol w + i) (dProw w) else tileIx (dPcol w) (dProw w + i)

/-- Its ring port: at a corner router port 6 on an east or west edge (R26, R164). -/
def dPortNo (w i : Nat) : Nat := if isCorner (dPortTile w i) && dEdge w % 2 == 1 then 6 else 5

/-- The router lies on the edge. -/
def onEdgeOf (edge c r : Nat) : Bool :=
  decide (c < 48 ∧ r < 56) && (match edge with | 0 => r == 55 | 1 => c == 47 | 2 => r == 0 | _ => c == 0)

/-- R28: every ring port lies on its edge, in the engine's segment or one next to it. -/
def dPortsOk (e w : Nat) : Bool :=
  let own := segmentIx (stackEdge (e / 4)) (stackField (e / 4))
  (upTo (dNport w)).all fun i =>
    let c := if dEdge w % 2 = 0 then dPcol w + i else dPcol w
    let r := if dEdge w % 2 = 0 then dProw w else dProw w + i
    onEdgeOf (dEdge w) c r && segmentNear own (segmentIx (dEdge w) (tileField (tileIx c r)))

def dHasPorts (w : Nat) : Bool := dOpc w == 1 || dOpc w == 2 || dOpc w == 4 || dOpc w == 5 || dOpc w == 6

/-! ### Fields of OPND -/

def pBrood (w : Nat) : Nat := bits w 95 90
def pLayer (w : Nat) : Nat := bits w 89 82
def pHead (w : Nat) : Nat := bits w 81 78
def pHeads (w : Nat) : Nat := if bits w 77 74 = 0 then 16 else bits w 77 74
def pKinds (w : Nat) : Nat := bits w 73 72
def pPool (w : Nat) : Nat := bits w 71 68
def rTile (w : Nat) : Nat := tileIx (bits w 95 90) (bits w 89 84)
def rWords (w e : Nat) : List W64 :=
  [BitVec.ofNat 64 (bits w 83 70 + dRows w % 16384 * 2 ^ 16 + bits w 69 64 * 2 ^ 32 + dTag w * 2 ^ 40), BitVec.ofNat 64 e]

/-! ### Refusals (R199, R200, R214) -/

/-- Bits of a descriptor that are reserved. -/
def dReserved (w : Nat) : Bool :=
  dOpc w ≥ 7 || dXp w == 3 || bits w 185 184 == 3 || bitOf w 216 || bits w 183 160 != 0 || bits w 135 128 != 0 || bits w 23 0 != 0

def State.stackUp (s : State) (k : Nat) : Bool := (s.stack k).st == 1

/-- The pool and the model of a paged copy. -/
def State.poolOf (s : State) (w : Nat) : Option (Pool × Bytes) :=
  match s.img.loaded with
  | none => none
  | some i => (i.pools.find? fun p => p.num == pPool w).map fun p => (p, i.models.getD p.model [])

/-- R196, R214: the rows of a stack that a descriptor may name: all of them for one of Wenwyn's, those below the reserved area for a plan
entry. -/
def State.rowLimit (s : State) (k : Nat) (wen : Bool) : Nat := if wen then stackRows (s.stack k).live else s.reservedAt k

/-- R199, R213: the pool of a paged copy is refused: it or a head is absent, a stack of it is out of service, or for a plan entry its rows
reach the reserved area (R196). -/
def State.poolRefused (s : State) (w : Nat) (wen : Bool) : Bool :=
  match s.poolOf w, s.img.loaded with
  | some (p, m), some i =>
    decide (pLayer w ≥ mLayers m ∨ pHead w + pHeads w > mKvHeads m) || p.stks.any (fun k => !s.stackUp k) || (!wen && s.poolBad i p)
  | _, _ => true

/-- 0x65: the descriptor is refused. -/
def State.dRefused (s : State) (e w : Nat) (wen : Bool) : Bool :=
  let k := e / 4
  let off (r : Nat) : Bool := decide (r ≥ s.rowLimit k wen)
  let rows : Bool := dRows w == 0 || dStack w != k || (dSpan w).any off
  dReserved w || (dHasPorts w && !dPortsOk e w) || (dOpc w != 0 && !s.stackUp k) ||
  (match dOpc w with
   | 0 => false
   | 1 => rows || (dXp w != 0 && (dRows w % (if dXp w = 1 then 32 else 64) != 0 || dHrow w % 4 != 0))
   | 2 => rows
   | 3 => rows
   | 6 => dStack w != k || off (dHrow w) || relayRowsBad w || decide (bits w 95 90 ≥ 48 ∨ bits w 89 84 ≥ 56)
   | _ => dRows w != 0 || dStack w != 0 || pKinds w == 3 || s.poolRefused w wen)

/-- R199: the region CLKR, or a region behind a ring port, is not Active; a Stopped one only holds the copy back (R187). -/
def dRegions (w : Nat) : List Nat :=
  dClkr w :: if dHasPorts w then (upTo (dNport w)).map fun i => tileRegion (dPortTile w i) else []
def State.dCutOff (s : State) (w : Nat) : Bool := (dRegions w).any fun g => decide ((s.region g).st.code ≥ 2)
def State.dHeld (s : State) (w : Nat) : Bool := (dRegions w).any fun g => (s.region g).st == .stopped

/-! ### Events and ends (R208, R214, R215) -/

/-- The channel that holds stack row `a` (R193). -/
def channelOf (live a : Nat) : Nat :=
  let l := (upTo 32).filter fun p => bitOf live (p / 2)
  (l.getD (a / 4 % max 1 l.length) 0) / 2

/-- R214: an engine's event: stack and channel, stack row, engine and plan index, TAG (log entry 33). -/
def State.copyEvent (s : State) (e code row ix tag action : Nat) : State :=
  let k := e / 4
  s.event { code := code, source := 3, unit := e, d0 := k + channelOf (s.stack k).live row * 2 ^ 8, d1 := row,
            d2 := e + ix * 2 ^ 16, d3 := tag, action := action }

def State.countEngine (s : State) (e k n : Nat) : State := s.updEngine e fun x => { x with ctr := Tab.upd 0 x.ctr k (count48 n) }
def State.countStack (s : State) (k c n : Nat) : State := s.updStack k fun x => { x with ctr := Tab.upd 0 x.ctr c (count48 n) }

/-- The run of the plan queue, or of the Wenwyn queue. -/
def Engine.run (x : Engine) (wen : Bool) : Option CopyRun := if wen then x.wBusy else x.busy
def State.setRun (s : State) (e : Nat) (wen : Bool) (r : Option CopyRun) : State :=
  s.updEngine e fun x => if wen then { x with wBusy := r } else { x with busy := r }

/-- R198: an entry of a pass completed after the next beat mark is a late copy. -/
def State.lateCopy (s : State) (e : Nat) (wen : Bool) (r : CopyRun) : State :=
  if !wen && decide ((s.engine e).passBeat < s.beat.count) then
    ((s.countEngine e 3 1).copyEvent e 0x64 (dHrow r.d) r.ix (dTag r.d) 0).updRegion (dClkr r.d) fun g => { g with causes := g.causes ||| 8 }
  else s

/-- A descriptor completes. -/
def State.copyDone (s : State) (e : Nat) (wen : Bool) (r : CopyRun) : State :=
  ((s.setRun e wen none).countEngine e 1 1).lateCopy e wen r

/-- The ring ports by which a READ or a PREAD enters the mesh, with its label. -/
def dEntries (w : Nat) : List (Nat × Nat × Nat) :=
  if dOpc w = 1 ∨ dOpc w = 4 then (upTo (dNport w)).map fun i => (dPortTile w i, dPortNo w i, dLabel w) else []

/-- R208, R214: a copy ends early with a code, or is refused, and its consumers stop. -/
def State.copyEnd (s : State) (e : Nat) (wen : Bool) (r : CopyRun) (code row : Nat) : State :=
  let act := if (classOf code).isSome then 1 else 0
  (((s.setRun e wen none).countEngine e 4 1).copyEvent e code row r.ix (dTag r.d) act).stopConsumers (dEntries r.d)

/-! ### Rows of a stack under check (R207) -/

/-- A row read: the counters, code 0x61 once per stack per beat with the count of the rest, and the data, none when the row is
uncorrectable. -/
def State.hbmRead (s : State) (k a : Nat) (es : List Ecc) (nth : Nat) : State × Option Bytes :=
  let id := hbmRow k a
  match checkOf s id es nth with
  | .clean => (s, some (s.row id))
  | .corrected _ =>
    let s := (s.countStack k 1 1).updStack k fun x => { x with ceN := count64 1 x.ceN }
    let x := s.stack k
    let s :=
      if x.ceSeen then s
      else
        (s.event { code := 0x61, source := 4, unit := k, d0 := k + channelOf x.live a * 2 ^ 8, d1 := a, count := x.ceN }).updStack k fun x =>
          { x with ceSeen := true, ceN := 0 }
    (s, some (s.row id))
  | .bad m => ({ (s.countStack k 2 1) with bad := Tab.put 0 s.bad id m }, none)

/-- R208: an uncorrectable row ends the copy, code 0x62, and its content decides the path. -/
def State.hbmBad (s : State) (e : Nat) (wen : Bool) (r : CopyRun) (k a : Nat) : State :=
  (s.copyEnd e wen r 0x62 a).hbmLost k a

/-- R212: an access to row `a` of stack `k` is held, while its channel is retrained. -/
def State.chanHeld (s : State) (k a : Nat) : Bool :=
  match (s.stack k).retr with
  | some ch => channelOf (s.stack k).live a == ch
  | none => false
def State.anyHeld (s : State) (l : List (Nat × Nat)) : Bool := l.any fun c => s.chanHeld c.1 c.2

/-- Several rows of the stacks; at the first uncorrectable one its place. -/
def State.hbmReads (s : State) (es : List Ecc) : Nat → List (Nat × Nat) → State × Except (Nat × Nat) (List Bytes)
  | _, [] => (s, .ok [])
  | nth, (k, a) :: l =>
    match s.hbmRead k a es nth with
    | (s, none) => (s, .error (k, a))
    | (s, some b) =>
      match State.hbmReads s es (nth + 1) l with
      | (s, .error x) => (s, .error x)
      | (s, .ok r) => (s, .ok (b :: r))

/-! ### Ring ports -/

/-- R187: a packet at a ring port: taken into the router's buffer; at a fence dropped, and the route of its label blocked (R179, code 0x56;
no report leaves a fenced tile); none while it waits. -/
def State.ringInject (s : State) (t port : Nat) (p : Packet) : Option State :=
  let key := 256 * 5 + p.label
  if (s.tile t).selfFenced ∨ (s.region (tileRegion t)).st.code ≥ 2 then
    if (s.tile t).blocked.contains key then some (s.count t 17 1)
    else some (((s.count t 15 4).block t key).occur t 0x56)
  else if !s.tileOn t then none
  else if (Tab.get [] (s.tile t).inBuf port).length ≥ inPackets then none
  else some (s.updTile t fun x => { x with inBuf := Tab.upd [] x.inBuf port (· ++ [p]) })

/-- The oldest packet of a label that has left by a ring port of `t`. -/
def State.ringTake (s : State) (t port label : Nat) : Option (Packet × State) :=
  let q := Tab.get [] s.ringOut (ringKey t port)
  match q.find? fun p => p.label == label with
  | none => none
  | some p => some (p, { s with ringOut := Tab.put [] s.ringOut (ringKey t port) (q.erase p) })

/-- 0x63: no further packet of the label can come: the router's region is gone, the port is fenced, or a route to it is
blocked (R179, R187). -/
def State.ringCut (s : State) (t label : Nat) : Bool :=
  let x := s.tile t
  x.selfFenced || decide ((s.region (tileRegion t)).st.code ≥ 2) ||
  x.blocked.any fun k =>
    if k < 1536 then
      let e := (Tab.get 0 x.routes k).toNat
      eValid e && (eOut e).contains 5 && eLabel e == label
    else if k < 2048 then (uOut (x.unit (k - 1536))).contains 5 && uLabel (x.unit (k - 1536)) == label
    else false

/-! ### READ, WRITE, MOVE, RELAY -/

/-- One more row moved. -/
def State.rowDone (s : State) (e : Nat) (wen : Bool) (r : CopyRun) : State :=
  let r := { r with done := r.done + 1 }
  let s := s.countEngine e 2 1
  if r.done ≥ dRows r.d then s.copyDone e wen r else s.setRun e wen (some r)

def State.stepRead (s : State) (e : Nat) (wen : Bool) (r : CopyRun) (es : List Ecc) : State :=
  let a := rowOf r.d (dHrow r.d) r.done
  let k := e / 4
  let i := r.done % dNport r.d
  if s.chanHeld k a then s
  else
  match s.hbmRead k a es 0 with
  | (s', none) => s'.hbmBad e wen r k a
  | (s', some b) =>
    match s'.ringInject (dPortTile r.d i) (dPortNo r.d i) { label := dLabel r.d, xp := dXp r.d, dig := crc64 b, row := b } with
    | none => s
    | some s => s.rowDone e wen r

def State.stepWrite (s : State) (e : Nat) (wen : Bool) (r : CopyRun) : State :=
  let i := r.done % dNport r.d
  let t := dPortTile r.d i
  let a := rowOf r.d (dHrow r.d) r.done
  if s.chanHeld (e / 4) a then s
  else
  match s.ringTake t (dPortNo r.d i) (dLabel r.d) with
  | some (p, s) => (s.setRow (hbmRow (e / 4) a) p.row).rowDone e wen r
  | none => if s.ringCut t (dLabel r.d) then s.copyEnd e wen r 0x63 a else s

def State.stepMove (s : State) (e : Nat) (wen : Bool) (r : CopyRun) (es : List Ecc) : State :=
  let a := rowOf r.d (dHrow r.d) r.done
  let k := e / 4
  if s.anyHeld [(k, a), (k, dMoveTo r.d + r.done)] then s
  else
  match s.hbmRead k a es 0 with
  | (s, none) => s.hbmBad e wen r k a
  | (s, some b) => (s.setRow (hbmRow k (dMoveTo r.d + r.done)) b).rowDone e wen r

/-- R181, R200: the path of a relay command, from the router of its ring port. -/
def relayPath (c t : Nat) : List (Nat × Nat) := leg false (tileCol c) (tileRow c) (tileCol t) (tileRow t)

/-- R183, R200: the relay command goes out, and again after a NAK; past 64 retries the engine keeps it and stops there. At a fence the copy
ends short. -/
def State.stepRelay (s : State) (e : Nat) (wen : Bool) (r : CopyRun) : State :=
  let c := dPortTile r.d 0
  if r.done % 2 = 1 then s
  else if (s.tile c).selfFenced ∨ (s.region (tileRegion c)).st.code ≥ 2 then s.copyEnd e wen r 0x63 (dHrow r.d)
  else if r.done / 2 > 64 ∨ !s.tileOn c then s
  else
    let msg : Msg := { src := nTiles + e, ch := c, dst := .relay (rTile r.d), words := rWords r.d e, reply := none }
    let s := s.putMsg msg
    s.setRun e wen (some { r with done := r.done + 1 })

/-- The reply to a relay command: accepted, turned away, or none, at a fence (R179, R187). -/
inductive RelayReply where
  | accepted | nak | fenced
deriving DecidableEq, Repr

def State.relayReply (s : State) (e : Nat) (a : RelayReply) : State :=
  let go (s : State) (wen : Bool) (r : CopyRun) : State :=
    match a with
    | .accepted => s.copyDone e wen r
    | .nak => s.setRun e wen (some { r with done := r.done + 1 })
    | .fenced => s.copyEnd e wen r 0x63 (dHrow r.d)
  match (s.engine e).run false, (s.engine e).run true with
  | some r, w =>
    if dOpc r.d = 6 ∧ r.done % 2 = 1 then go s false r
    else match w with
      | some w => if dOpc w.d = 6 ∧ w.done % 2 = 1 then go s true w else s
      | none => s
  | none, some w => if dOpc w.d = 6 ∧ w.done % 2 = 1 then go s true w else s
  | none, none => s

/-! ### Paged copies (R202 to R206) -/

/-- R204: the beat whose copy of the length table a descriptor reads: its queue's, or for one of Wenwyn's the present one. -/
def State.beatOf (s : State) (e : Nat) (wen : Bool) : Nat := if wen then s.beat.count else (s.engine e).passBeat

/-- R204: a slot's length in the copy of beat `n`; none for an invalid entry. -/
def State.lenOf (s : State) (n slot : Nat) : Option Nat := Tab.get none s.adm.lens (2 * slot + n % 2)

/-- R204: the frame of page `pg` of a slot; none for an invalid entry. -/
def State.pageOf (s : State) (slot pg : Nat) : Option Nat :=
  let w := (Tab.get 0 s.adm.pages (4096 * slot + pg)).toNat
  if bitOf w 31 then some (bits w 23 0) else none

/-- R205: the live slots of a brood in beat `n`, ascending, with their lengths: those whose length entry is valid. -/
def State.liveSlots (s : State) (n b : Nat) : List (Nat × Nat) :=
  (upTo 128).filterMap fun i => (s.lenOf n (128 * b + i)).map fun l => (128 * b + i, l)

/-- Bytes of one vector, and rows of one block of a page. -/
def vecBytes (m : Bytes) : Nat := mHeadDim m * mKvSize m
def blockRows (m : Bytes) : Nat := vecBytes m / 8

/-- R203: the stack and first row of the block of head `h`, keys or values, in page `pg` of a slot; none for an invalid entry
of its page table. -/
def State.blockAt (s : State) (p : Pool) (m : Bytes) (layer slot pg h : Nat) (value : Bool) : Option (Nat × Nat) :=
  (s.pageOf slot pg).map fun f =>
    let (k, a) := frameAt p m f layer
    (k, a + 2 * h * blockRows m + (if value then blockRows m else 0))

/-- One packet of a PREAD: its slot and length, head, keys or values, and its number within them. -/
structure PPacket where
  slot : Nat
  len : Nat
  h : Nat
  value : Bool
  n : Nat
deriving DecidableEq, Repr

/-- R206: the packets of one head and kind: key tiles of 128 tokens, or blocks of `P` rows. -/
def pCount (w : Nat) (m : Bytes) (value : Bool) (len : Nat) : Nat :=
  if !value && dXp w != 0 then cdiv (len + 1) 128 * xpRows (dXp w) else cdiv (len + 1) 64 * blockRows m

def State.pPackets (s : State) (n w : Nat) (m : Bytes) : List PPacket :=
  (s.liveSlots n (pBrood w)).flatMap fun c =>
    (upTo (pHeads w)).flatMap fun i =>
      (if pKinds w = 1 then [true] else if pKinds w = 0 then [false] else [false, true]).flatMap fun v =>
        (upTo (pCount w m v c.2)).map fun n => { slot := c.1, len := c.2, h := pHead w + i, value := v, n := n }

/-- The tokens whose vectors make a packet, each with the bytes of it that the packet carries: position, offset in the vector,
count, and the zero bytes after it. -/
def pTokens (w : Nat) (m : Bytes) (x : PPacket) : List (Nat × Nat × Nat × Nat) :=
  let v := vecBytes m
  if !x.value && dXp w != 0 then
    let wide := if dXp w = 1 then 128 else 256
    let per := 512 / wide
    (upTo per).map fun c => (128 * (x.n / xpRows (dXp w)) + x.n % xpRows (dXp w) * per + c, 0, v, wide - v)
  else
    let pg := x.n / blockRows m
    let a := 512 * (x.n % blockRows m)
    (upTo (512 / v + 2)).filterMap fun c =>
      let t := a / v + c
      let lo := max a (t * v)
      let hi := min (a + 512) ((t + 1) * v)
      if lo < hi then some (64 * pg + t, lo - t * v, hi - lo, 0) else none

/-- The stack rows that hold `n` bytes from `off` of the vector of a position. -/
def State.vecRows (s : State) (p : Pool) (m : Bytes) (layer : Nat) (x : PPacket) (pos off n : Nat) : Option (List (Nat × Nat)) :=
  (s.blockAt p m layer x.slot (pos / 64) x.h x.value).map fun b =>
    let a := pos % 64 * vecBytes m + off
    (upTo ((a + n - 1) / 512 - a / 512 + 1)).map fun i => (b.1, b.2 + a / 512 + i)

/-- R206: the bytes of a packet; 0x66 at an invalid entry, the row at an uncorrectable one. -/
inductive PGot where
  | ok (b : Bytes)
  | bad (k a : Nat)
  | invalid
deriving DecidableEq, Repr

def State.pTake (s : State) (p : Pool) (m : Bytes) (layer : Nat) (x : PPacket) (es : List Ecc) (nth : Nat) :
    List (Nat × Nat × Nat × Nat) → State × PGot
  | [] => (s, .ok [])
  | (pos, off, n, pad) :: l =>
    let rest (s : State) (nth : Nat) (b : Bytes) : State × PGot :=
      match State.pTake s p m layer x es nth l with
      | (s, .ok c) => (s, .ok (b ++ List.replicate pad 0 ++ c))
      | r => r
    if pos > x.len then rest s nth (List.replicate n 0)
    else
      match s.vecRows p m layer x pos off n with
      | none => (s, .invalid)
      | some rows =>
        match s.hbmReads es nth rows with
        | (s, .error r) => (s, .bad r.1 r.2)
        | (s, .ok bs) => rest s (nth + rows.length) (slice bs.flatten ((pos % 64 * vecBytes m + off) % 512) n)

/-- The rows that a packet reads. -/
def State.pRows (s : State) (p : Pool) (m : Bytes) (w : Nat) (x : PPacket) : List (Nat × Nat) :=
  (pTokens w m x).flatMap fun c => if c.1 > x.len then [] else (s.vecRows p m (pLayer w) x c.1 c.2.1 c.2.2.1).getD []

def State.stepPread (s : State) (e : Nat) (wen : Bool) (r : CopyRun) (es : List Ecc) : State :=
  match s.poolOf r.d with
  | none => s.copyEnd e wen r 0x65 0
  | some (p, m) =>
    let all := s.pPackets (s.beatOf e wen) r.d m
    match all[r.done]? with
    | none => s.copyDone e wen r
    | some x =>
      if s.anyHeld (s.pRows p m r.d x) then s
      else
      match s.pTake p m (pLayer r.d) x es 0 (pTokens r.d m x) with
      | (s', .invalid) => (s'.copyEnd e wen r 0x66 0).addTodo 2 (.rewrite 0)
      | (s', .bad k a) => s'.hbmBad e wen r k a
      | (s', .ok b) =>
        let b := slice b 0 512
        let i := r.done % dNport r.d
        let xp := if x.value then 0 else dXp r.d
        match s'.ringInject (dPortTile r.d i) (dPortNo r.d i) { label := dLabel r.d, xp := xp, dig := crc64 b, row := b } with
        | none => s
        | some s' =>
          let r := { r with done := r.done + 1 }
          let s' := s'.countEngine e 2 1
          if r.done ≥ all.length then s'.copyDone e wen r else s'.setRun e wen (some r)

/-- R205: packets that carry one token. -/
def tokenPackets (m : Bytes) : Nat := cdiv (2 * mKvHeads m * vecBytes m) 512

/-- R205: write one segment: its rows read, merged and written back whole, the lower first. -/
def State.putSegment (s : State) (rows : List (Nat × Nat)) (old : List Bytes) (off : Nat) (seg : Bytes) : State :=
  let b := putAt old.flatten off seg
  s.setRows (rows.zipIdx.map fun c => (hbmRow c.1.1 c.1.2, slice b (512 * c.2) 512))

/-- R205: the segments of a token of a slot, head by head. -/
def State.putToken (s : State) (e : Nat) (wen : Bool) (r : CopyRun) (p : Pool) (m : Bytes) (slot len : Nat) (buf : Bytes) (es : List Ecc)
    (nth : Nat) : List (Nat × Bool) → State × Bool
  | [] => (s, true)
  | (h, v) :: l =>
    let x : PPacket := { slot := slot, len := len, h := h, value := v, n := 0 }
    let z := vecBytes m
    match s.vecRows p m (pLayer r.d) x len 0 z with
    | none => ((s.copyEnd e wen r 0x66 0).addTodo 2 (.rewrite 0), false)
    | some rows =>
      match s.hbmReads es nth rows with
      | (s, .error a) => (s.hbmBad e wen r a.1 a.2, false)
      | (s, .ok old) =>
        let s := s.putSegment rows old (len % 64 * z % 512) (slice buf ((2 * h + (if v then 1 else 0)) * z) z)
        State.putToken (s.countEngine e 2 rows.length) e wen r p m slot len buf es (nth + rows.length) l

/-- The heads and kinds that a PAPPEND names. -/
def dSegments (w : Nat) : List (Nat × Bool) :=
  (upTo (pHeads w)).flatMap fun i =>
    (if pKinds w = 1 then [true] else if pKinds w = 0 then [false] else [false, true]).map fun v => (pHead w + i, v)

/-- The rows that the token of a slot reads and writes. -/
def State.tokenRows (s : State) (p : Pool) (m : Bytes) (w slot len : Nat) : List (Nat × Nat) :=
  (dSegments w).flatMap fun c =>
    (s.vecRows p m (pLayer w) { slot := slot, len := len, h := c.1, value := c.2, n := 0 } len 0 (vecBytes m)).getD []

def State.stepPappend (s : State) (e : Nat) (wen : Bool) (r : CopyRun) (es : List Ecc) : State :=
  match s.poolOf r.d with
  | none => s.copyEnd e wen r 0x65 0
  | some (p, m) =>
    let np := max 1 (tokenPackets m)
    let live := s.liveSlots (s.beatOf e wen) (pBrood r.d)
    match live[r.done / np]? with
    | none => s.copyDone e wen r
    | some (slot, len) =>
      let i := r.done % dNport r.d
      let t := dPortTile r.d i
      if s.anyHeld (s.tokenRows p m r.d slot len) then s
      else
      match s.ringTake t (dPortNo r.d i) (dLabel r.d) with
      | none => if s.ringCut t (dLabel r.d) then s.copyEnd e wen r 0x63 0 else s
      | some (pk, s) =>
        let buf := r.buf ++ pk.row
        let r' := { r with done := r.done + 1, buf := buf }
        if r'.done % np ≠ 0 then s.setRun e wen (some r')
        else
          match s.putToken e wen r p m slot len buf es 0 (dSegments r.d) with
          | (s, false) => s
          | (s, true) =>
            let r' := { r' with buf := [] }
            if r'.done / np ≥ live.length then s.copyDone e wen r' else s.setRun e wen (some r')

/-! ### The commands -/

/-- One row, or one packet, of the descriptor in progress. -/
def State.copyStep (s : State) (e : Nat) (wen : Bool) (r : CopyRun) (es : List Ecc) : State :=
  match dOpc r.d with
  | 1 => s.stepRead e wen r es
  | 2 => s.stepWrite e wen r
  | 3 => s.stepMove e wen r es
  | 4 => s.stepPread e wen r es
  | 5 => s.stepPappend e wen r es
  | 6 => s.stepRelay e wen r
  | _ => s.copyDone e wen r

/-- A step of the engine's plan descriptor of operation `opc`; it pauses while a region it needs is Stopped. -/
def State.planStep (s : State) (e opc : Nat) (es : List Ecc) : State :=
  match (s.engine e).busy with
  | none => s
  | some r => if dOpc r.d = opc ∧ !s.dHeld r.d then s.copyStep e false r es else s

/-- PLAN_QUEUE_START (R198): at a beat mark, once the pass before has completed. -/
def execPlanQueueStart (e : Nat) (s : State) : Host.Outcome State Fault Refusal :=
  onEngine e s fun s =>
    let x := s.engine e
    s.whenB (s.img.loaded.isSome && x.busy.isNone && decide (x.ix ≥ x.planN ∧ x.passBeat < s.beat.count) && !s.beat.abandoned) fun s =>
      s.updEngine e fun x => { x with ix := 0, passBeat := s.beat.count }

/-- R198: the region CLKR of the entry has counted OFFSET cycles since the mark of the queue's beat. -/
def State.triggered (s : State) (e w : Nat) : Bool :=
  let r := s.region (dClkr w)
  let b := (s.engine e).passBeat
  r.marked && (decide (r.markOf > b) || (r.markOf == b && decide (dOffset w ≤ r.cyc)))

/-- DESCRIPTOR_START (R28, R198, R199, R214): the next plan entry starts, or its replacement, or is refused. -/
def execDescriptorStart (e : Nat) (s : State) : Host.Outcome State Fault Refusal :=
  onEngine e s fun s =>
    let x := s.engine e
    s.whenB (x.busy.isNone && decide (x.ix < x.planN) && !s.beat.abandoned) fun s =>
      let w := Tab.get 0 x.plan x.ix
      let cut := s.dCutOff w
      let d := if cut then (Tab.get none x.repl x.ix).getD w else w
      let r : CopyRun := { d := d, ix := x.ix, done := 0, buf := [] }
      let s' := s.updEngine e fun x => { x with ix := x.ix + 1 }
      if cut && s.dCutOff d then s'.copyEnd e false r 0x65 (dHrow d)
      else if !s.triggered e d || s.dHeld d then s
      else if s.dRefused e d false then s'.copyEnd e false r 0x65 (dHrow d)
      else if dOpc d = 0 then s'.copyDone e false r
      else s'.setRun e false (some r)

/-- READ (R199, R207, R208): the next row of the stack leaves by its ring port. -/
def execCopyRead (e : Nat) (es : List Ecc) (s : State) : Host.Outcome State Fault Refusal := onEngine e s fun s => s.planStep e 1 es
/-- WRITE (R178, R199): the next packet with LABEL is written. -/
def execCopyWrite (e : Nat) (s : State) : Host.Outcome State Fault Refusal := onEngine e s fun s => s.planStep e 2 []
/-- MOVE (R199, R208): the next row is read and written. -/
def execCopyMove (e : Nat) (es : List Ecc) (s : State) : Host.Outcome State Fault Refusal := onEngine e s fun s => s.planStep e 3 es
/-- PREAD (R202, R203, R206): the next packet of the live slots' pages. -/
def execCopyPread (e : Nat) (es : List Ecc) (s : State) : Host.Outcome State Fault Refusal := onEngine e s fun s => s.planStep e 4 es
/-- PAPPEND (R202, R203, R205): the next packet of the live slots' new tokens. -/
def execCopyPappend (e : Nat) (es : List Ecc) (s : State) : Host.Outcome State Fault Refusal := onEngine e s fun s => s.planStep e 5 es
/-- RELAY (R199, R200): the relay command goes out. -/
def execCopyRelay (e : Nat) (s : State) : Host.Outcome State Fault Refusal := onEngine e s fun s => s.planStep e 6 []

/-- R198: the plan queue waits for a trigger or has finished its pass. -/
def Engine.planIdle (x : Engine) : Bool := x.busy.isNone

/-- WENWYN_DESCRIPTOR (R197, R198, R199): a descriptor of Wenwyn's enters the queue (0 adds none), and while the plan queue is
idle the oldest one moves a row. -/
def execWenwynDescriptor (e d : Nat) (es : List Ecc) (s : State) : Host.Outcome State Fault Refusal :=
  onEngine e s fun s =>
    let s := if d ≠ 0 ∧ (s.engine e).wq.length < 64 then s.updEngine e fun x => { x with wq := x.wq ++ [d % 2 ^ 256] } else s
    let x := s.engine e
    if !x.planIdle then s
    else
      match x.wBusy with
      | some r => if s.dHeld r.d then s else s.copyStep e true r es
      | none =>
        match x.wq with
        | [] => s
        | w :: rest =>
          let r : CopyRun := { d := w, ix := 8192, done := 0, buf := [] }
          let s' := s.updEngine e fun x => { x with wq := rest }
          if s.dRefused e w true ∨ s.dCutOff w then s'.copyEnd e true r 0x65 (dHrow w)
          else if s.dHeld w then s
          else (s'.setRun e true (some r)).copyStep e true r es

/-- RELAY_COMMAND (R152, R200): the fabric relay takes its oldest command, and its rows become requests of class 2. -/
def execRelayCommand (t : Nat) (s : State) : Host.Outcome State Fault Refusal :=
  onTile t s fun s =>
    s.whenB (s.routerOn t) fun s =>
      match (s.tile t).relayQ with
      | [] => s
      | c :: rest =>
        s.updTile t fun x => { x with
          relayQ := rest, vpQ := x.vpQ ++ ((upTo c.rows).filter fun i => decide (c.d + i < 16384)).map fun i => .relayRead (c.d + i) c.rr c.tag c.engine }

/-! ### Patrol and retraining (R210 to R213) -/

/-- HBM_PATROL (R207, R210): the next row of the stack; a corrected row is rewritten whole, and is weak when the pass before
corrected it too. -/
def execHbmPatrol (k : Nat) (es : List Ecc) (s : State) : Host.Outcome State Fault Refusal :=
  onStack k s fun s =>
    let x := s.stack k
    let a := x.patrol
    s.whenB (x.st == 1 && !x.selfRef && decide (stackRows x.live > 0) && !s.chanHeld k a) fun s =>
      let fixed := match checkOf s (hbmRow k a) es 0 with | .corrected _ => true | _ => false
      let (s, b) := (s.countStack k 3 1).hbmRead k a es 0
      let s := match b with
        | some b =>
          if fixed then
            let s := (s.setRow (hbmRow k a) b).updStack k fun x => { x with patrolHit := insertSet a x.patrolHit }
            if x.patrolOld.contains a then
              ((s.countStack k 4 1).event { code := 0x69, source := 4, unit := k, d0 := k + channelOf x.live a * 2 ^ 8, d1 := a }).updStack k fun x =>
                { x with weakRows := insertSet a x.weakRows }
            else s
          else s
        | none => s.hbmLost k a
      s.updStack k fun x =>
        if a + 1 ≥ stackRows x.live then { x with patrol := 0, patrolOld := x.patrolHit, patrolHit := [] } else { x with patrol := a + 1 }

/-- R212: a retraining of a channel begins. -/
def State.startRetrain (s : State) (k ch handle : Nat) : State :=
  (s.countStack k 5 1).updStack k fun x => { x with retr := some ch, tries := 1, handle := handle, drift := x.drift.filter (· != ch) }

/-- CHANNEL_RETRAIN (R212): for interface errors at once, for drift at the 97% point of a beat. -/
def execChannelRetrain (k ch : Nat) (cause : RetrainCause) (s : State) : Host.Outcome State Fault Refusal :=
  onStack k s fun s =>
    let x := s.stack k
    s.whenB (x.st == 1 && x.retr.isNone && bitOf x.live ch) fun s =>
      match cause with
      | .errors => s.startRetrain k ch 0
      | .drift => s.whenB ((s.stack k).drift.contains ch) fun s => s.startRetrain k ch 0

/-- R211, R213: a channel is retired while the device runs: the whole stack leaves service, its live list is due for the next
instar, and its contents are restored. -/
def State.retireChannel (s : State) (k ch : Nat) : State :=
  let s := s.event { code := 0x68, source := 4, unit := k, d0 := k + ch * 2 ^ 8 }
  let gone := (upTo 16).filter fun c => c == ch || !bitOf (s.stack k).live c
  let s := if gone.length > 2 then s.addCommit 8 [{ kind := 5, val := 0, id := k }] else s.addCommit 8 [{ kind := 4, val := ch, id := k }]
  let s := s.stackOut k (if gone.length > 2 then 3 else 2)
  s.addTodo 8 (.stack k)

/-- CHANNEL_RETRAIN_DONE (R212, R213): a failed attempt is repeated twice; the third failure retires the channel. -/
def execChannelRetrainDone (k : Nat) (ok : Bool) (s : State) : Host.Outcome State Fault Refusal :=
  onStack k s fun s =>
    let x := s.stack k
    match x.retr with
    | none => s
    | some ch =>
      let close (s : State) (st code : Nat) : State := if x.handle = 0 then s else s.finish x.handle st code
      if ok then
        let s := s.updStack k fun x => { x with retr := none, tries := 0, trainT := x.temp, handle := 0 }
        close (s.event { code := 0x67, source := 4, unit := k, d0 := k + ch * 2 ^ 8, handle := x.handle }) 2 0
      else if x.tries < 3 then (s.countStack k 5 1).updStack k fun x => { x with tries := x.tries + 1 }
      else close ((s.updStack k fun x => { x with retr := none, tries := 0, handle := 0 }).retireChannel k ch) 3 0x68

end Sys2Proof.Machine
end

