-- ==== Sys2Proof/Machine/Session.lean ====
section
/-!
DEFINITION. What every Fordan write and action has in common (R410, R415, R416, R419, R420, R422): the session, its role, the
checks that come before an object's own rules, and the response.
-/

namespace Sys2Proof.Machine

/-- R419: statuses. -/
def stOk : Nat := 0x00
def stNoObject : Nat := 0x01
def stAccess : Nat := 0x02
def stRole : Nat := 0x03
def stSecureOnly : Nat := 0x04
def stType : Nat := 0x05
def stRange : Nat := 0x06
def stBusy : Nat := 0x08
def stSegment : Nat := 0x09
def stRefused : Nat := 0x0A
def stBringup : Nat := 0x0B
def stUnknownHandle : Nat := 0x0C

/-- A 32-bit signed number. -/
def toI32 (n : Nat) : Int := if n < 2 ^ 31 then n else (n : Int) - (2 ^ 32 : Nat)

/-- The session that is nobody's: what Wenwyn does of itself. -/
def noSession : Nat := 32

def State.sess (s : State) (k : Nat) : Option Sess := Tab.get none s.fordan.sess k
def State.updSess (s : State) (k : Nat) (f : Sess → Sess) : State :=
  match s.sess k with
  | none => s
  | some q => { s with fordan := { s.fordan with sess := Tab.put none s.fordan.sess k (some (f q)) } }

/-- R415: a response of session `k` to transaction `x`. -/
def State.respond (s : State) (k x svc status ix sub : Nat) (data : Bytes) : State :=
  let m : FMsg := { sess := k, svc := svc + 128, status := status, txn := x, ix := ix, sub := sub, data := data }
  { s with fordan := { s.fordan with out := s.fordan.out ++ [m] } }

/-- R415: a refused request answers with its status and a DETAIL. -/
def State.failed (s : State) (k x svc status ix sub detail : Nat) : State := s.respond k x svc status ix sub (leBytes 4 detail)

/-! ### Rights (R411, R422) -/

def Role.partition? : Role → Option Nat
  | .partition p => some p
  | _ => none

/-- The partition whose handles an action of the session issues (R422); 16 for none. -/
def State.handlePart (s : State) (k : Nat) : Nat :=
  match s.sess k with
  | some q => (match q.role with | .partition p => p | _ => 16)
  | none => 16

/-- R411, R422: reached only in a vendor session. -/
def secureOnly (ix sub : Nat) : Bool := ix == 0x9010 && sub == 6

/-- R422: objects that a partition reads. -/
def partReads (p ix sub : Nat) : Bool :=
  ix == 0x1000 || (ix == 0x2800 && decide (sub ≤ 5)) || ix == 0x2808 || (ix == 0x4000 + p && sub != 4 && sub != 5) || ix == 0x4400 + p ||
  ix == 0x4800 || ix == 0x6000 || (ix == 0x1800 && (sub == 7 || sub == 8 || sub == 9)) || sessionObj ix sub

def mayRead (r : Role) (ix sub : Nat) : Bool :=
  match r with
  | .operator => !secureOnly ix sub
  | .vendor => true
  | .partition p => partReads p ix sub

/-- R399, R422: objects that a role writes or invokes. FW_MIN_SVN is the operator's alone. -/
def mayWrite (r : Role) (ix sub : Nat) : Bool :=
  match r with
  | .operator => !secureOnly ix sub
  | .vendor => decide (0x9000 ≤ ix ∧ ix ≤ 0x9FFF) && !(ix == 0x9000 && sub == 5)
  | .partition _ => (ix == 0x1800 && sub == 7) || (ix == 0x9020 && (sub == 1 || sub == 2)) || (ix == 0x6002 && decide (1 ≤ sub ∧ sub ≤ 3))

/-- R410: what a running bring-up still accepts. -/
def inBringup (ix sub : Nat) : Bool := (ix == 0x1800 && sub == 5) || (ix == 0x9020 && (sub == 1 || sub == 2))

/-! ### Types (R12, R416) -/

/-- Bytes of a value of a fixed size. -/
def ObjTy.size : ObjTy → Option Nat
  | .u8 => some 1
  | .u16 => some 2
  | .u32 => some 4
  | .u64 => some 8
  | .i32 => some 4
  | .i64 => some 8
  | .f32 => some 4
  | .bool => some 1
  | .time => some 8
  | .handle => some 8
  | .str => none
  | .blob => none

/-- R416: an action object. -/
def ObjRow.isAction (r : ObjRow) : Bool := r.ty == .handle && r.acc == .wo

/-- R416: a byte of a UTF-8 string: how many bytes of its character must still follow, and the bounds of the next; none where the string is not
UTF-8. -/
def utf8Next (st : Nat × Nat × Nat) (b : Byte) : Option (Nat × Nat × Nat) :=
  let n := b.toNat
  if st.1 = 0 then
    if n < 0x80 then some (0, 0x80, 0xBF)
    else if 0xC2 ≤ n ∧ n ≤ 0xDF then some (1, 0x80, 0xBF)
    else if n = 0xE0 then some (2, 0xA0, 0xBF)
    else if n = 0xED then some (2, 0x80, 0x9F)
    else if 0xE1 ≤ n ∧ n ≤ 0xEF then some (2, 0x80, 0xBF)
    else if n = 0xF0 then some (3, 0x90, 0xBF)
    else if 0xF1 ≤ n ∧ n ≤ 0xF3 then some (3, 0x80, 0xBF)
    else if n = 0xF4 then some (3, 0x80, 0x8F)
    else none
  else if st.2.1 ≤ n ∧ n ≤ st.2.2 then some (st.1 - 1, 0x80, 0xBF)
  else none

/-- R416: the bytes are UTF-8. -/
def utf8Ok (v : Bytes) : Bool :=
  match v.foldl (fun st b => st.bind fun x => utf8Next x b) (some (0, 0x80, 0xBF)) with
  | some x => x.1 == 0
  | none => false

/-- R416: the bytes are a value of the type. -/
def ObjTy.fits (t : ObjTy) (v : Bytes) : Bool :=
  match t with
  | .str => decide (v.length ≤ 255) && utf8Ok v
  | .bool => v == [0] || v == [1]
  | .blob => false
  | _ => some v.length == t.size

/-- A number that a signed object carries. -/
def asInt (size v : Nat) : Int := if v < 2 ^ (8 * size - 1) then v else (v : Int) - (2 ^ (8 * size) : Nat)

/-- A command's number as the value of an object; one that does not fit its width has the wrong length. -/
def numBytes (ix sub v : Nat) : Bytes :=
  match objRow ix sub with
  | some r => match r.ty.size with
    | some n => if v < 2 ^ (8 * n) then leBytes n v else leBytes (n + 1) v
    | none => []
  | none => []

/-! ### Writes and actions -/

/-- R416: the service that moves a value of the object: an action by ACTION, a BLOB by segmented transfer, any other by READ and WRITE. -/
def ObjRow.service (r : ObjRow) (svc : Nat) : Bool :=
  if r.isAction then svc == 6 else if r.ty == .blob then svc == 3 || svc == 4 else svc == 1 || svc == 2 || svc == 7 || svc == 8

/-- R419: the checks before an object's own rules, in one order (log entry 35). -/
def State.writeGate (s : State) (q : Sess) (ix sub svc : Nat) : Option Nat :=
  match objRow ix sub with
  | none => some (if sub = 0 ∧ (objTop ix).isSome then stAccess else stNoObject)
  | some r =>
    if secureOnly ix sub && q.role != .vendor then some stSecureOnly
    else if !mayWrite q.role ix sub then some stRole
    else if !r.service svc then some stType
    else if r.acc == .ro || r.acc == .const then some stAccess
    else if !s.boot.done && !inBringup ix sub then some stBringup
    else none

/-- R419: the same for a read. -/
def readGate (q : Sess) (ix sub svc : Nat) : Option Nat :=
  match objRow ix sub with
  | none => if sub = 0 ∧ (objTop ix).isSome then (if mayRead q.role ix 0 then (if svc = 3 then some stType else none) else some stRole) else some stNoObject
  | some r =>
    if secureOnly ix sub && q.role != .vendor then some stSecureOnly
    else if !mayRead q.role ix sub then some stRole
    else if !r.service svc then some stType
    else if r.acc == .wo then some stAccess
    else none

/-- The outcome of an object's own rules for a write, and for an action. -/
inductive WRes where
  | ok (s : State)
  | fail (status detail : Nat)

inductive ARes where
  | ok (h : Nat) (s : State)
  | fail (detail : Nat)

/-- R420: the write is refused by a rule of the device. -/
def refusedBy (code : Nat) : WRes := .fail stRefused code

/-- A WRITE (R415, R416, R419, R420) of a value that is not a BLOB: `f` are the object's own rules. -/
def State.sessWrite (s : State) (k x ix sub : Nat) (v : Bytes) (f : State → Bytes → WRes) : State :=
  match s.sess k with
  | none => s
  | some q =>
    match s.writeGate q ix sub 2 with
    | some st => s.failed k x 2 st ix sub 0
    | none =>
      let good := match objRow ix sub with | some r => r.ty.fits v | none => false
      if !good then s.failed k x 2 stType ix sub 0
      else
        match f s v with
        | .ok s' => s'.respond k x 2 stOk ix sub []
        | .fail st d => s.failed k x 2 st ix sub d

/-- A WRITE of a number. -/
def State.numWrite (s : State) (k x ix sub v : Nat) (f : State → Nat → WRes) : State :=
  s.sessWrite k x ix sub (numBytes ix sub v) fun s b => f s (leNat b)

/-- An ACTION (R14, R416): it answers with its handle, or with REFUSED. -/
def State.sessAct (s : State) (k x ix sub : Nat) (f : State → ARes) : State :=
  match s.sess k with
  | none => s
  | some q =>
    match s.writeGate q ix sub 6 with
    | some st => s.failed k x 6 st ix sub 0
    | none =>
      match f s with
      | .ok h s' => s'.respond k x 6 stOk ix sub (leBytes 8 h)
      | .fail d => s.failed k x 6 stRefused ix sub d

end Sys2Proof.Machine
end

