-- ==== Sys2Proof/Machine/Time.lean ====
section
/-!
DEFINITION. External time (R216 to R225): the references and their qualification, the time states, the error estimate, and the
three writes that set a time.
-/

namespace Sys2Proof

/-- R223: the lowest logarithmic interval of a message; one above that rate is discarded and counted. -/
def PtpMsg.low : PtpMsg → Int
  | .announce _ _ _ => -3
  | _ => -7

def PtpMsg.head : PtpMsg → PtpHead
  | .sync h _ _ => h
  | .announce h _ _ => h
  | .delay h _ _ => h

end Sys2Proof

namespace Sys2Proof.Machine

def State.updTime (s : State) (f : TimeUnit → TimeUnit) : State := { s with time := f s.time }

/-- R216, R217: the inputs of a source are all qualified. -/
def TimeUnit.srcOk (u : TimeUnit) : Nat → Bool
  | 1 => u.ptpQ && u.refQ
  | 2 => u.ptpQ
  | 3 => u.ppsQ && u.refQ
  | 4 => u.ppsQ
  | _ => false

/-- R217: the first source of the preference list whose inputs are qualified; 0 where there is none. -/
def State.chooseSrc (s : State) : Nat :=
  (([1, 2, 3, 4].map fun i => s.setting 0x2801 i).find? s.time.srcOk).getD 0

/-- R219: the error estimate, ns, saturating. -/
def TimeUnit.errEst (u : TimeUnit) : Nat :=
  let sat (n : Nat) : Nat := min n 0xFFFFFFFF
  match u.st with
  | .unset => 0xFFFFFFFF
  | .acquiring => if u.offs.isEmpty then u.errIn else sat (u.offs.foldl (fun m o => max m o.natAbs) 0)
  | .locked => 100
  | .holdover => sat (u.errIn + u.errAge * 20 / 1000000)
  | .freerun => if u.byHand then 0xFFFFFFFF else sat (u.errIn + u.errAge * 5000 / 1000000)

/-- R218, R222: a change of state, code 0x75. -/
def State.enterTime (s : State) (st : TimeSt) : State :=
  if s.time.st = st then s
  else
    let s := s.updTime fun u =>
      { u with st := st, errIn := u.errEst, errAge := 0, good := 0, far := 0, slew := 0, byHand := u.byHand && st == .freerun }
    s.event { code := 0x75, source := 6 }

/-- R227: the first mark at or after one beat from `t`. -/
def markAfter (t len : Nat) : Nat := cdiv (t + len * 1000) (len * 1000) * (len * 1000)

/-- R229: a field time counter that receives no time words keeps counting as device time steps by `d`. -/
def State.keepCounters (s : State) (d : Int) : State :=
  s.each (upTo 16) fun s f => if (s.field f).wordLost then s.updField f fun x => { x with tcOff := x.tcOff - d } else s

/-- R229: the delay of each branch of the time-distribution tree, measured by loopback. -/
def State.loopback (s : State) (n : Nat) : State :=
  s.each (upTo 16) fun s f => s.updField f fun x => { x with delay := Config.branchDelay f n }

/-- R229: the field time counter of a clock origin. -/
def State.fieldTime (s : State) (f : Nat) : Int := s.time.now + (s.field f).tcOff

/-- R220, R221, R227, R229: device time takes a value, and the field time counters follow it. -/
def State.setTime (s : State) (t : Nat) : State :=
  let s := s.keepCounters ((t : Int) - s.time.now)
  let s := s.updTime fun u => { u with now := t, valid := true }
  { s with beat := { s.beat with nextMark := markAfter t s.beat.len } }

/-- R217, R218, R221: the source in use, and the states that its presence or absence leads to. -/
def State.reselect (s : State) : State :=
  let src := s.chooseSrc
  let s := s.updTime fun u => { u with src := src }
  let u := s.time
  match u.st with
  | .unset => if src ≠ 0 then s.enterTime .acquiring else s
  | .acquiring => if src = 0 then s.enterTime (if u.valid then .holdover else .unset) else s
  | .locked => if src = 0 then s.enterTime .holdover else s
  | .holdover => if src ≠ 0 then s.enterTime .acquiring else s
  | .freerun => if src ≠ 0 ∧ !(u.untaken && s.anyWork) then s.enterTime .acquiring else s

/-- R220: what offsets are measured against: the tracking phase until device time has been taken from the reference, then device time. -/
def TimeUnit.phase (u : TimeUnit) (sub : Nat) : Int := (if u.untaken then u.track else u.now) + (sub % 1000 : Nat)

/-- R220: the rate, ns each second, at which device time is slewed to remove an offset. -/
def slewFor (offs : Int) : Int := max (-100000) (min 100000 offs)

/-- R218 to R220: what a measurement of the reference's time `ref` leaves: the offset, the runs of R218, and the steering of the tracking
phase, or of device time by slewing (log entry 104). -/
def TimeUnit.measured (u : TimeUnit) (ref : Int) (sub : Nat) : TimeUnit :=
  let offs := ref - u.phase sub
  { u with
    offs := (offs :: u.offs).take 16, good := (if offs.natAbs ≤ 100 then u.good + 1 else 0), far := (if offs.natAbs > 1000 then u.far + 1 else 0),
    track := (if u.untaken then ref - (sub % 1000 : Nat) else u.track), slew := (if u.untaken then 0 else slewFor offs) }

/-- R218, R220, R225: one measurement; `known` where the reference's time of day is known. -/
def State.measure (s : State) (ref : Int) (sub : Nat) (known : Bool) : State :=
  let s := s.updTime fun u => u.measured ref sub
  let u := s.time
  match u.st with
  | .acquiring =>
    if u.good ≥ 16 then
      if u.untaken then
        if known then ((s.setTime u.track.toNat).updTime fun u => { u with untaken := false }).enterTime .locked else s
      else s.enterTime .locked
    else s
  | .locked => if u.far ≥ 4 then s.enterTime .acquiring else s
  | _ => s

/-- R389: step 8 of bring-up has started the time unit. -/
def State.timeUp (s : State) : Bool := decide (s.boot.step ≥ 8)

/-- R223: the unicast masters named; none selects multicast. -/
def State.unicast (s : State) : List Bytes := ([5, 6, 7, 8].map fun i => s.blob 0x2802 i).filter fun a => !a.isEmpty

/-- R223: the message is one that the settings of 0x2802 admit: its domain, its transport and its master. -/
def State.ptpTakes (s : State) (h : PtpHead) : Bool :=
  h.domain == s.setting 0x2802 1 && h.transport == s.setting 0x2802 2 && (s.unicast.isEmpty || s.unicast.contains h.src)

/-- R223: the best master clock algorithm over the foreign masters heard. -/
def TimeUnit.chooseMaster (u : TimeUnit) : TimeUnit :=
  let m := match Config.bestMaster (u.masters.map fun c => (c.1, c.2.1)) with
    | some i => u.masters[i]?
    | none => none
  { u with
    master := m.map (·.1), utc := (match m with | some c => c.2.2 | none => u.utc), ptpQ := u.ptpQ && m.isSome && m.map (·.1) == u.master }

/-- R223: an Announce enters the table of up to 8 foreign masters. -/
def TimeUnit.hear (u : TimeUnit) (src data : Bytes) (utc : Int) : TimeUnit :=
  let l := if u.masters.any (fun c => c.1 == src) then u.masters.map fun c => if c.1 == src then (src, data, utc) else c
    else if u.masters.length < 8 then u.masters ++ [(src, data, utc)] else u.masters
  ({ u with masters := l } : TimeUnit).chooseMaster

/-- A Sync of the selected master is a measurement (R217 to R220, R224), after the path delay and the correction of 0x2802.04. -/
def State.takeSync (s : State) (h : PtpHead) (origin sub : Nat) : State :=
  if s.time.master ≠ some h.src then s
  else
    let s := s.updTime fun u => { u with newLane := u.newLane - 1, ptpQ := u.newLane ≤ 1 }
    let s := s.reselect
    if s.time.src = 1 ∨ s.time.src = 2 then s.measure (origin + s.time.pathDelay + toI32 (s.setting 0x2802 4)) sub true else s

/-- PTP_MESSAGE (R217, R219, R220, R223, R224). -/
def execPtpMessage (m : PtpMsg) (s : State) : Host.Outcome State Fault Refusal :=
  .next <| s.whenB (s.timeUp && s.ptpTakes m.head) fun s =>
    if m.head.logInt < m.low then s.updTime fun u => { u with dropped := u.dropped + 1 }
    else
      match m with
      | .sync h origin sub => s.takeSync h origin sub
      | .announce h data utc => (s.updTime fun u => u.hear h.src data utc).reselect
      | .delay _ p2p mean =>
        s.whenB (s.setting 0x2802 3 == (if p2p then 1 else 0)) fun s => s.updTime fun u => { u with pathDelay := mean }

/-- R225: the UTC offset: that of the announce message while PTP is in use, else 0x2803.03. -/
def State.utcOffset (s : State) : Int := if s.time.src = 1 ∨ s.time.src = 2 then s.time.utc else toI32 (s.setting 0x2803 3)

/-- The whole second nearest to a time, ns. -/
def nearSecond (t : Int) : Int := (t + 500000000) / 1000000000 * 1000000000

/-- R217: the qualification of TIME_PPS after an edge. -/
def TimeUnit.edge (u : TimeUnit) (m : PpsEdge) : TimeUnit :=
  let good := if m.spaced then min 4 (u.ppsGood + 1) else 1
  let bad := if m.expected then 0 else u.ppsBad + 1
  let q := (u.ppsQ || decide (good ≥ 4)) && decide (bad < 2)
  { u with ppsGood := (if q || !u.ppsQ then good else 1), ppsBad := (if bad < 2 then bad else 0), ppsQ := q, ppsNext := u.ppsNext.map (· + 1) }

/-- R225: the second that a pulse stands for: the nearest one of device time once that is valid; before, the one written to 0x2803.01; with
none written the nearest of the tracking phase, whose time of day is not known. -/
def TimeUnit.pulse (u : TimeUnit) (sub : Nat) : Int × Bool :=
  if u.valid then (nearSecond (u.now + (sub % 1000 : Nat)), true)
  else match u.ppsNext with
    | some n => (n * 1000000000, true)
    | none => (nearSecond (u.phase sub), false)

/-- TIME_PPS_EDGE (R217, R219, R220, R225): the second reaches the pin late by the cable delay of 0x2803.02. -/
def execTimePpsEdge (m : PpsEdge) (s : State) : Host.Outcome State Fault Refusal :=
  .next <| s.whenB s.timeUp fun s =>
    let p := s.time.pulse m.sub
    let s := (s.updTime fun u => u.edge m).reselect
    if s.time.src = 3 ∨ s.time.src = 4 then s.measure (p.1 + toI32 (s.setting 0x2803 2)) m.sub p.2 else s

/-- PPS_TIMEOUT (R217): no edge for 1.2 s. The second that an edge has already used is forgotten. -/
def execPpsTimeout (s : State) : Host.Outcome State Fault Refusal :=
  .next (s.whenB s.timeUp fun s => (s.updTime fun u => { u with ppsQ := false, ppsGood := 0, ppsBad := 0, ppsNext := (if u.ppsGood = 0 then u.ppsNext else none) }).reselect)

/-- ANNOUNCE_TIMEOUT (R217): PTP is no longer qualified, by an announce receipt timeout or for want of a Sync; the master selected is no
longer heard, and the algorithm runs over the others. -/
def execAnnounceTimeout (s : State) : Host.Outcome State Fault Refusal :=
  .next (s.whenB s.timeUp fun s =>
    (s.updTime fun u =>
      { (TimeUnit.chooseMaster { u with masters := u.masters.filter fun c => some c.1 != u.master }) with ptpQ := false }).reselect)

/-- REF25_QUALIFY (R217). -/
def execRef25Qualify (q : Bool) (s : State) : Host.Outcome State Fault Refusal :=
  .next (s.whenB s.timeUp fun s => (s.updTime fun u => { u with refQ := q }).reselect)

/-- The estimate on entry to FREERUN is at the least the first that exceeds 1 ms (R218). -/
def TimeUnit.pastLimit (u : TimeUnit) : TimeUnit := { u with errIn := max u.errIn 1000001 }

/-- HOLDOVER_LIMIT (R218, R219): the estimate passes 1 ms. -/
def execHoldoverLimit (s : State) : Host.Outcome State Fault Refusal :=
  .next (s.whenB (s.time.st == .holdover) fun s => (s.enterTime .freerun).updTime TimeUnit.pastLimit)

/-- 0x2800.06 (R220): a step, while device time is valid and no partition holds accepted work. -/
def State.wrTimeStep (s : State) (v : Nat) : WRes :=
  if s.time.valid && !s.anyWork then .ok (s.setTime v) else refusedBy 0

/-- TIME_STEP_TO. -/
def execTimeStepTo (k x v : Nat) (s : State) : Host.Outcome State Fault Refusal := .next (s.numWrite k x 0x2800 6 v State.wrTimeStep)

/-- 0x2801.06 (R221): while free run is permitted and the state is UNSET. -/
def State.wrFreerun (s : State) (v : Nat) : WRes :=
  if s.setting 0x2801 5 = 1 ∧ s.time.st = .unset then
    .ok (((s.setTime v).enterTime .freerun).updTime fun u => { u with byHand := true, untaken := true })
  else refusedBy 0

/-- FREERUN_SET. -/
def execFreerunSet (k x v : Nat) (s : State) : Host.Outcome State Fault Refusal := .next (s.numWrite k x 0x2801 6 v State.wrFreerun)

/-- 0x2803.01 (R225): the second of the next pulse. -/
def State.wrPpsNext (s : State) (v : Nat) : WRes := .ok (s.updTime fun u => { u with ppsNext := some v })

/-- PPS_NEXT_SECOND. -/
def execPpsNextSecond (k x v : Nat) (s : State) : Host.Outcome State Fault Refusal := .next (s.numWrite k x 0x2803 1 v State.wrPpsNext)

end Sys2Proof.Machine
end

