-- ==== Sys2Proof/Machine/Meter.lean ====
section
/-!
DEFINITION. The meter (R308 to R326): a beat's sums and its division, records and their signing rounds, the meter ring and its
export.
-/

namespace Sys2Proof.Machine

def State.updMeter (s : State) (f : Meter → Meter) : State := { s with meter := f s.meter }

/-- An event of the meter. -/
def State.meterEvent (s : State) (code : Nat) (d0 : Nat := 0) : State := s.event { code := code, source := 8, d0 := d0 }

/-! ### Samples (R308, R309, R311) -/

/-- R5, R308: the points that are measured: the stack supplies are those of the stacks the capability record populates. -/
def State.points (s : State) : List Nat := (upTo 90).filter fun p => decide (p < 65 ∨ 89 ≤ p) || bitOf s.flash.cap.stackMask (p - 65)

/-- One sample of the measured points `ps`: nanojoules are accumulated; missing samples and readings out of range are remembered. -/
def Meter.sample (u : Meter) (ps : List Nat) (m : Sample) : Meter :=
  let acc := ps.foldl (fun (a : Tab Nat) p =>
    if m.missing.contains p then a else Tab.upd 0 a p (· + m.v.getD p 0 * m.i.getD p 0 / 1000)) u.acc
  { u with
    acc := acc
    miss := m.missing.foldl (fun (a : Tab Nat) p => if ps.contains p then Tab.upd 0 a p (· + 1) else a) u.miss
    range := m.outOfRange.foldl (fun l p => if ps.contains p then insertSet p l else l) u.range }

/-- R311: the monitor of a point is failed for the beat. -/
def Meter.failed (u : Meter) (p : Nat) : Bool := u.range.contains p || decide (Tab.get 0 u.miss p > 10)

/-- A point's energy in the beat, µJ, rounded down; the rest is carried (R309). -/
def Meter.energy (u : Meter) (p : Nat) : Nat := Tab.get 0 u.acc p / 1000

/-- The window closes: discarded nanojoules stay. -/
def Meter.closeWindow (u : Meter) : Meter :=
  { u with acc := u.acc.foldl (fun (a : Tab Nat) c => Tab.put 0 a c.1 (c.2 % 1000)) [], miss := [], range := [] }

/-! ### Sums of a beat (R310, R311) -/

/-- E_in, E_rails, L_model, the residual in 0.001%, whether it is beyond 2%, the failed monitors, and the energy taken for
every point. -/
structure Sums where
  eIn : Nat
  rails : Nat
  lModel : Nat
  r : Int
  above : Bool
  failed : List Nat
  points : List Nat

/-- R311: the energies of failed rails as shares of the remainder; equal shares where none was ever sound (log entry 38). -/
def shareOf (lg : Tab Nat) (failed : List Nat) (rem p : Nat) : Nat :=
  let tot := failed.foldl (fun n q => n + Tab.get 0 lg q) 0
  if tot = 0 then rem / max 1 failed.length else rem * Tab.get 0 lg p / tot

/-- The sums of the beat that ends. A remainder that needs a failed input, and the residual of a beat without input energy, are
free values (log entries 2, 38). -/
def State.beatSums (s : State) : Sums × State :=
  let u := s.meter
  let ppm := s.flash.volt.lossPpm
  let fix := s.flash.volt.pFix * s.beat.len / 1000
  let failed := (upTo 90).filter u.failed
  let bad := failed.filter (· ≠ 0)
  let inBad := u.failed 0
  let sound := (upTo 90).foldl (fun n p => if p = 0 ∨ u.failed p then n else n + u.energy p) 0
  let (rem, s) :=
    if bad.isEmpty then (0, s)
    else if inBad then s.fresh 32
    else ((u.energy 0 * 1000000 - (fix * 1000000 + sound * (1000000 + ppm))) / (1000000 + ppm), s)
  let points := (upTo 90).map fun p => if u.failed p && p != 0 then shareOf u.lastGood bad rem p else u.energy p
  let rails := (points.drop 1).foldl (· + ·) 0
  let lModel := rails * ppm / 1000000 + fix
  let eIn := if inBad then rails + lModel else u.energy 0
  let diff : Int := (eIn : Int) - rails - lModel
  let (r, above, s) :=
    if inBad then ((0 : Int), false, s)
    else if eIn = 0 then
      let (v, s) := s.fresh 32
      (toI32 v, decide ((toI32 v).natAbs > 2000), s)
    else ((diff * 100000).tdiv eIn, decide (diff.natAbs * 50 > eIn), s)
  ({ eIn := eIn, rails := rails, lModel := lModel, r := r, above := above, failed := failed, points := points }, s)

/-- R310, R311: the codes of the check, the count of beats beyond it, and METER_STATE. -/
def State.judge (s : State) (x : Sums) : State :=
  let s := x.failed.foldl (fun s p => s.meterEvent 0xA1 p) s
  let s := s.updMeter fun u => { u with
    residLast := x.r, failLast := x.failed, residOver := u.residOver + (if x.above then 1 else 0), over16 := (if x.above then u.over16 + 1 else 0),
    ok256 := (if x.above then 0 else u.ok256 + 1),
    lastGood := (upTo 90).foldl (fun (t : Tab Nat) p => if u.failed p then t else Tab.put 0 t p (u.energy p)) u.lastGood }
  let s := if x.above then s.meterEvent 0xA2 else s
  let s := if s.meter.over16 = 16 then (s.meterEvent 0xA3).updMeter fun u => { u with st := 2 } else s
  if s.meter.st = 2 ∧ s.meter.ok256 ≥ 256 then s.updMeter fun u => { u with st := 1 } else s

/-! ### Records (R317 to R321) -/

/-- Bytes 0 to 311 of a record. -/
def MRec.signed (x : MRec) : Bytes :=
  ascii "HMTR" ++ beBytes 2 1 ++ beBytes 1 x.kind ++ beBytes 1 x.chain ++ beBytes 8 x.seq ++ beBytes 4 x.epoch ++ beBytes 4 x.flags ++
    slice x.body 0 184 ++ beBytes 8 x.cover ++ beBytes 8 x.tSeal ++ slice x.prev 0 64 ++ List.replicate 24 0

/-- A record, 512 bytes. -/
def MRec.bytes (x : MRec) : Bytes := x.signed ++ slice x.hash 0 64 ++ List.replicate 4 0 ++ slice x.sig 0 132

/-- A record before sealing. -/
def State.newRec (s : State) (kind chain flags beat handle : Nat) (body : Bytes) : MRec :=
  { kind := kind, chain := chain, seq := 0, epoch := s.flash.epoch, flags := flags, body := slice body 0 184, cover := 0,
    tSeal := 0, prev := [], hash := [], sig := [], beat := beat, handle := handle, sent := false }

def devChain : Nat := 0xFF

/-- R318: CONTENT of a request record. -/
def Req.content (q : Req) : Bytes :=
  sha512 (slice q.sub 32 80 ++ ((upTo (subP q.sub)).flatMap fun i => beBytes 4 (Tab.get 0 q.toks i - 1)) ++ q.out.flatMap fun t => beBytes 4 t.id)

/-- R318: a request record. -/
def State.reqRec (s : State) (q : Req) : MRec :=
  s.newRec 1 q.part q.flags q.endBeat q.handle <|
    beBytes 8 q.handle ++ beBytes 8 q.cref ++ beBytes 8 q.tAdmit ++ beBytes 8 q.firstOcc ++ beBytes 4 q.beats ++
    beBytes 1 (subModel q.sub) ++ beBytes 1 q.bucket ++ beBytes 1 q.endR ++ beBytes 1 0 ++ beBytes 4 (subP q.sub) ++ beBytes 4 q.out.length ++
    beBytes 4 q.lateN ++ beBytes 4 q.residMax ++ beBytes 8 (q.eBase + q.eDec + q.eCtx + q.ePre) ++ beBytes 8 q.eBase ++
    beBytes 8 q.eDec ++ beBytes 8 q.eCtx ++ beBytes 8 q.ePre ++ beBytes 8 q.eDev ++ beBytes 4 q.residN ++ beBytes 4 q.estN ++
    beBytes 4 q.suspN ++ beBytes 4 0 ++ q.content

/-! ### Division of a beat (R312 to R316) -/

/-- R314: d, c and p of a slot, and the rebuild tokens fed for it. -/
structure Work where
  d : Nat
  c : Nat
  p : Nat
  reb : Nat

def State.workOf (s : State) (n r : Nat) (q : Req) : Work :=
  let k := if s.carries n r q then s.chunkIn n r q else 0
  { d := if q.yielded || q.due then 1 else 0, c := if q.stage = .decode ∧ (q.yielded || q.due) then q.cached + 1 else 0,
    p := if q.stage = .prompt then k else 0, reb := if q.stage = .rebuild then k else 0 }

/-- R315: the slot is occupied in beat `n`. -/
def State.occupied (s : State) (n r : Nat) (q : Req) : Bool :=
  q.live && (s.carries n r q || q.yielded || (decide (q.firstOcc ≠ 0) && q.phase != .cancelling && q.works n))

def wDec : Nat := 2 ^ 24
def wPre : Nat := 2 ^ 24

/-- A slot's activity. -/
def Work.activity (w : Work) (wctx : Nat) : Nat := wDec * w.d + wctx * w.c + wPre * w.p

/-- A request's charge for a beat. -/
structure Charge where
  base : Nat
  dec : Nat
  ctx : Nat
  pre : Nat

/-- R315: act, dec, pre and ctx of a slot. -/
def charge (share eAct aTot a : Nat) (w : Work) : Charge :=
  let act := if aTot = 0 then 0 else eAct * a / aTot
  let dec := if a = 0 then 0 else act * wDec * w.d / a
  let pre := if a = 0 then 0 else act * wPre * w.p / a
  { base := share, dec := dec, ctx := act - dec - pre, pre := pre }

def Charge.total (c : Charge) : Nat := c.base + c.dec + c.ctx + c.pre

/-- How a beat is divided (R315, R316). -/
inductive BeatKind where
  | noImage | fault | idle | work
deriving DecidableEq, Repr

/-- The amounts of the beat record, and each occupied slot's charge. -/
structure Division where
  slots : Nat
  eBase : Nat
  eReq : Nat
  eFault : Nat
  eUn : Nat
  charges : List (Nat × Charge)

def State.divide (s : State) (k : BeatKind) (eIn : Nat) (occ : List (Nat × Req × Work)) : Division :=
  let nought : Charge := { base := 0, dec := 0, ctx := 0, pre := 0 }
  let zero := occ.map fun c => (c.1, nought)
  match k with
  | .noImage => { slots := 0, eBase := 0, eReq := 0, eFault := 0, eUn := eIn, charges := [] }
  | .fault => { slots := 0, eBase := 0, eReq := 0, eFault := eIn, eUn := 0, charges := zero }
  | .idle => { slots := 0, eBase := 0, eReq := 0, eFault := 0, eUn := eIn, charges := zero }
  | .work =>
    let slots := match s.img.loaded with | some i => hBroods i.hdr * 128 | none => 0
    let eBase := min eIn (s.meter.pBase * s.beat.len / 1000)
    let share := eBase / max 1 slots
    let aF := occ.foldl (fun n c => n + wPre * c.2.2.reb) 0
    let a (q : Req) (w : Work) : Nat := w.activity (Tab.get 0 s.meter.wctx (subModel q.sub))
    let aTot := occ.foldl (fun n c => n + a c.2.1 c.2.2) aF
    let eAct := eIn - eBase
    let charges := occ.map fun c => (c.1, charge share eAct aTot (a c.2.1 c.2.2) c.2.2)
    let eReq := charges.foldl (fun n c => n + c.2.total) 0
    let eFault := if aTot = 0 then 0 else eAct * aF / aTot
    { slots := slots, eBase := eBase, eReq := eReq, eFault := eFault, eUn := eIn - eFault - eReq, charges := charges }

/-- R313: P_BASE after a beat that qualifies: the mean over the first beats after a load, or over 16 in a row. -/
def State.rebase (s : State) (qualifies work : Bool) (eIn : Nat) : State :=
  let u := s.meter
  if work then s.updMeter fun u => { u with initial := false, qualN := 0, qualE := 0 }
  else if !qualifies then (if u.initial then s else s.updMeter fun u => { u with qualN := 0, qualE := 0 })
  else
    let n := u.qualN + 1
    let e := u.qualE + eIn
    let p := e * 1000 / max 1 (n * s.beat.len)
    let take := u.initial || n ≥ 16
    let s := s.updMeter fun u => { u with
      qualN := (if take && !u.initial then 0 else n), qualE := (if take && !u.initial then 0 else e), pBase := (if take then p else u.pBase) }
    if take && p != u.pBase then s.meterEvent 0xA6 p else s

/-- R318: the body of a beat record. -/
def State.beatBody (s : State) (k : BeatKind) (x : Sums) (d : Division) (occ tokens : Nat) : Bytes :=
  let no := k == .noImage
  let sum (a b : Nat) : Nat := ((x.points.drop a).take b).foldl (· + ·) 0
  beBytes 8 s.beat.count ++ beBytes 8 s.beat.mark ++ beBytes 8 x.eIn ++ beBytes 8 x.rails ++ beBytes 8 x.lModel ++
  beBytes 4 (x.r % (2 ^ 32 : Nat)).toNat ++ beBytes 2 (if no then 0 else occ) ++ beBytes 1 x.failed.length ++ beBytes 1 0 ++
  beBytes 8 d.eBase ++ beBytes 8 d.eReq ++ beBytes 8 d.eFault ++ beBytes 8 d.eUn ++ beBytes 4 (if no then 0 else tokens) ++
  beBytes 4 (if no then 0 else s.meter.pBase) ++ beBytes 4 s.beat.len ++
  ((upTo 4).flatMap fun m => beBytes 4 (if no then 0 else Tab.get 0 s.meter.wctx m)) ++
  beBytes 4 (sum 33 32) ++ beBytes 4 (sum 65 24) ++ beBytes 4 (sum 89 1) ++
  ((upTo 32).flatMap fun g => beBytes 2 (x.points.getD (1 + g) 0 / 1000))

/-! ### The meter ring (R324) -/

def ringPlaces : Nat := 1953125
def beatReserve : Nat := 65536

/-- Records held and places reserved, of the device chain and of requests. -/
def Meter.held (u : Meter) (dev : Bool) : Nat := ((u.ring ++ u.pend).filter fun x => (x.chain == devChain) == dev).length
def State.placesReq (s : State) : Nat := s.meter.held false + (s.reqList.filter fun c => c.2.live).length

/-- 0x6000.09: free places outside the beat reserve. -/
def State.ringFree (s : State) : Nat := ringPlaces - s.placesReq - max beatReserve (s.meter.held true)
def State.beatPlace (s : State) : Bool := decide (s.placesReq + s.meter.held true < ringPlaces)

/-- R324: code 0xA4 when the free places fall below 1/16. -/
def State.watchRing (s : State) : State :=
  let low := decide (s.ringFree * 16 < ringPlaces)
  if low == s.meter.low then s
  else
    let s := s.updMeter fun u => { u with low := low }
    if low then s.meterEvent 0xA4 else s

/-- R324: a beat record is written where a place remains; otherwise the beat is remembered for a gap record, code 0xA5. -/
def State.putBeat (s : State) (x : MRec) (e : Nat) (d : Division) : State :=
  if s.beatPlace then s.updMeter fun u => { u with pend := u.pend ++ [x] }
  else
    match s.meter.missed with
    | some g =>
      let h : Gap := { g with last := x.beat, eIn := g.eIn + e, eReq := g.eReq + d.eReq, eFault := g.eFault + d.eFault, eUn := g.eUn + d.eUn }
      s.updMeter fun u => { u with missed := some h }
    | none =>
      let h : Gap := { first := x.beat, last := x.beat, eIn := e, eReq := d.eReq, eFault := d.eFault, eUn := d.eUn }
      (s.updMeter fun u => { u with missed := some h }).meterEvent 0xA5

/-- R315, R317: what one beat adds to a request. -/
def Req.addBeat (q : Req) (n eIn : Nat) (x : Sums) (c : Charge) (flags : Nat) : Req :=
  { q with
    eBase := q.eBase + c.base, eDec := q.eDec + c.dec, eCtx := q.eCtx + c.ctx, ePre := q.ePre + c.pre, eDev := q.eDev + eIn,
    residMax := max q.residMax x.r.natAbs, residN := q.residN + (if x.above then 1 else 0),
    estN := q.estN + (if x.failed.contains 0 then 1 else 0), suspN := q.suspN + (if q.susp then 1 else 0),
    flags := q.flags ||| flags ||| (if q.susp then 4 else 0), beats := q.beats + 1, firstOcc := if q.firstOcc = 0 then n else q.firstOcc }

/-- METER_BEAT_DIVIDE: the beat that ends is summed, checked, divided and recorded. Before the first mark the input energy is
E_BEFORE (R316). -/
def State.meterBeat (s : State) (lost : Bool) : State :=
  if s.boot.meterStop then s.updMeter Meter.closeWindow
  else if s.beat.count = 0 then s.updMeter fun u => { u.closeWindow with eBefore := u.energy 0 }
  else
    let n := s.beat.count
    let (x, s) := s.beatSums
    let s := (s.judge x).updMeter Meter.closeWindow
    let k : BeatKind :=
      if s.img.loaded.isNone || s.img.load.isSome || s.img.firstMark then .noImage
      else if lost || (s.beat.abandoned && s.beat.work) then .fault
      else if !s.beat.work then .idle
      else .work
    let occ := if k = .noImage then [] else (s.reqList.filter fun c => s.occupied n c.1 c.2).map fun c => (c.1, c.2, s.workOf n c.1 c.2)
    let d := s.divide k x.eIn occ
    let flags := (if x.failed.contains 0 then 1 else 0) + (if x.above then 2 else 0) + (if s.meter.st = 2 then 16 else 0) +
      (if s.pwr.legacy then 32 else 0)
    let tokens := occ.foldl (fun t c => t + c.2.2.d) 0
    let body := s.beatBody k x d occ.length tokens
    let s := d.charges.foldl (fun s c => s.updReq c.1 fun q => q.addBeat n x.eIn x c.2 (flags + if s.beat.replay then 8 else 0)) s
    let s := s.updMeter fun u => { u with
      eIn := u.eIn + x.eIn, eUn := u.eUn + d.eUn, eFault := u.eFault + d.eFault, round := u.round + 1 }
    let s := s.putBeat (s.newRec 2 devChain flags n 0 body) x.eIn d
    let allOn : Bool := (upTo 32).all fun g => !(s.region g).rg.work || s.active g
    let s := if k = .noImage then s else s.rebase (occ.isEmpty && allOn && k == .work) (!occ.isEmpty) x.eIn
    s.watchRing

/-! ### Signing rounds (R320 to R322) -/

/-- Signatures in a beat, and the beats of a round. -/
def sigsPerBeat (len : Nat) : Nat := len * 5400 / 1000000
def roundBeats (len : Nat) : Nat := cdiv 17 (sigsPerBeat len)

/-- Beat order, and within a beat ascending handle. -/
def recBefore (x y : MRec) : Bool := decide (x.beat < y.beat) || (x.beat == y.beat && decide (x.handle ≤ y.handle))
def insertRec (x : MRec) : List MRec → List MRec
  | [] => [x]
  | y :: r => if recBefore x y then x :: y :: r else y :: insertRec x r
def sortRecs (l : List MRec) : List MRec := l.foldr insertRec []

/-- R320: a record is given its SEQ, sealed and, where it covers itself, signed. -/
def State.seal (s : State) (x : MRec) (cover : Option Nat) : MRec × State :=
  let u := s.meter
  let seq := Tab.get 0 u.seqs x.chain + 1
  let prev :=
    if seq > 1 then Tab.get [] u.hashes x.chain
    else if x.chain = devChain then List.replicate 64 0 else u.epochHash
  let x := { x with seq := seq, cover := cover.getD seq, tSeal := s.time.now, prev := prev }
  let h := sha512 x.signed
  let x := { x with hash := h, sig := if x.cover = seq then ecdsaSign meteringKey h else List.replicate 132 0 }
  (x, s.updMeter fun u => { u with seqs := Tab.put 0 u.seqs x.chain seq, hashes := Tab.put [] u.hashes x.chain h, ring := u.ring ++ [x] })

/-- The records of a round in order; in batches the last of each chain covers the others. -/
def State.sealAll (s : State) (batch : Bool) : List MRec → State
  | [] => s
  | x :: r =>
    let later := (r.filter fun y => y.chain == x.chain).length
    let cover := if batch then some (Tab.get 0 s.meter.seqs x.chain + 1 + later) else none
    (s.seal x cover).2.sealAll batch r

/-- R300: a request keeps its sealed record. -/
def State.noteSealed (s : State) : State :=
  s.mapReqs fun q =>
    if !q.recB.isEmpty || q.handle == 0 then q
    else
      match s.meter.ring.find? fun x => x.kind == 1 && x.handle == q.handle with
      | some x => { q with recB := x.bytes }
      | none => q

/-- SIGNING_ROUND_CLOSE (R319, R320, R321, R322): a round closes once the last of its beats has been divided. -/
def execSigningRoundClose (s : State) : Host.Outcome State Fault Refusal :=
  .next (s.whenB (s.meter.begun && !s.boot.meterStop && decide (s.meter.round ≥ roundBeats s.beat.len)) fun s =>
    let l := sortRecs s.meter.pend
    let batch := decide (l.length > roundBeats s.beat.len * sigsPerBeat s.beat.len)
    let s := s.updMeter fun u => { u with pend := [], round := 0 }
    let s := (s.sealAll batch l).noteSealed
    if batch then s.meterEvent 0xA7 l.length else s)

/-- EPOCH_RECORD (R316, R318, R320, R325): the first beat of a new epoch writes, seals and signs the epoch record. -/
def execEpochRecord (s : State) : Host.Outcome State Fault Refusal :=
  .next (s.whenB (!s.meter.begun && !s.boot.meterStop && decide (s.beat.count ≥ 1)) fun s =>
    let first := s.beat.mark - (s.beat.count - 1) * s.beat.len * 1000
    let body := beBytes 1 s.boot.cause ++ List.replicate 7 0 ++ beBytes 8 first ++ beBytes 8 s.meter.eBefore ++ devId ++
      sha512 (publicOf meteringKey) ++ List.replicate 32 0
    let (x, s) := s.seal (s.newRec 3 devChain 0 0 0 body) none
    s.updMeter fun u => { u with begun := true, epochHash := x.hash, st := if u.st = 0 then 1 else u.st })

/-- GAP_RECORD (R318, R324): once places return, one gap record for the beats missed. -/
def execGapRecord (s : State) : Host.Outcome State Fault Refusal :=
  .next (match s.meter.missed with
    | none => s
    | some g =>
      if !s.beatPlace then s
      else
        let body := beBytes 8 g.first ++ beBytes 8 g.last ++ beBytes 8 g.eIn ++ beBytes 8 g.eReq ++ beBytes 8 g.eFault ++ beBytes 8 g.eUn
        let x := s.newRec 4 devChain 0 g.last 0 body
        s.updMeter fun u => { u with missed := none, pend := u.pend ++ [x] })

/-! ### Export (R324, R326) -/

/-- The records of a chain from a SEQ; before a partition chain's first the epoch record. -/
def Meter.chainFrom (u : Meter) (chain seq : Nat) : List MRec :=
  let l := u.ring.filter fun x => x.chain == chain && decide (seq ≤ x.seq)
  if chain = devChain ∨ l.isEmpty then l else (u.ring.filter fun x => x.kind == 3) ++ l

/-- R422: a partition exports its own chain alone; the operator any. -/
def Sess.chainOk (q : Sess) : Bool :=
  match q.role with
  | .partition p => q.chain == p
  | _ => decide (q.chain < 16) || q.chain == devChain

/-- 0x6002.03: an export of the session's chain. One begun before in the same session ends (log entry 39). -/
def State.actExport (k : Nat) (s : State) : ARes :=
  match s.sess k with
  | none => .fail 0
  | some q =>
    if !q.chainOk then .fail 0
    else
      let s := if q.exportH ≠ 0 ∧ (s.hnd q.exportH).st = 1 then s.finish q.exportH 3 0 else s
      let (h, s) := s.issue 0x0D (s.handlePart k) k
      let data := (s.meter.chainFrom q.chain q.frm).flatMap MRec.bytes
      let s := s.updSess k fun q => { q with exportH := h, exportData := data }
      .ok h (if data.isEmpty then s.finish h 2 0 else s)

/-- METER_EXPORT. -/
def execMeterExport (k x : Nat) (s : State) : Host.Outcome State Fault Refusal := .next (s.sessAct k x 0x6002 3 (State.actExport k))

/-- R324: places whose records are acknowledged, and sent where they must be, are freed. -/
def State.freePlaces (s : State) : State :=
  (s.updMeter fun u => { u with
    ring := u.ring.filter fun x => !(decide (x.seq ≤ Tab.get 0 u.ackd x.chain) && (x.kind != 1 || x.sent)) }).watchRing

/-- 0x6002.05: acknowledge the session's chain. A SEQ not yet sealed is out of range (log entry 39). -/
def State.wrAckSeq (k : Nat) (s : State) (v : Nat) : WRes :=
  match s.sess k with
  | none => refusedBy 0
  | some q =>
    if v > Tab.get 0 s.meter.seqs q.chain then .fail stRange 0
    else .ok (s.updMeter fun u => { u with ackd := Tab.upd 0 u.ackd q.chain (max v) }).freePlaces

/-- ACK_SEQ. -/
def execAckSeq (k x v : Nat) (s : State) : Host.Outcome State Fault Refusal := .next (s.numWrite k x 0x6002 5 v (State.wrAckSeq k))

end Sys2Proof.Machine
end

