-- ==== Sys2Proof/Machine/Gyper.lean ====
section
/-!
DEFINITION. Gyper messages from the hosts (R276 to R280), the receive rings (R288), the admission of requests (R281, R287, R289
to R293), and the answers to CANCEL and QUERY (R285, R286, R298).
-/

namespace Sys2Proof.Machine

/-! ### Verification (R276, R277, R279, R280) -/

/-- R276: a length that the message-type table allows. -/
def lengthOk (type n : Nat) : Bool :=
  n % 4 == 0 &&
  (match type with
   | 1 => decide (n ≥ 128)
   | 2 => n == 48
   | 3 => n == 64
   | 4 => decide (n ≥ 60)
   | _ => false)

/-- R280: a SEQ is accepted. -/
def Win.accepts (w : Win) (q : Nat) : Bool :=
  decide (q + 1 > w.hi) || (decide (q + 1 < w.hi) && decide (w.hi - 1 - q ≤ 1024) && !bitOf w.seen (w.hi - 2 - q))

/-- R280: a SEQ is taken into the window. -/
def Win.take (w : Win) (q : Nat) : Win :=
  if q + 1 > w.hi then
    let k := q + 1 - w.hi
    let seen := if w.hi = 0 ∨ k > 1024 then 0 else (w.seen * 2 ^ k + 2 ^ (k - 1)) % 2 ^ 1024
    { hi := q + 1, seen := seen }
  else { w with seen := w.seen ||| 2 ^ (w.hi - 2 - q) }

/-- R279: a datagram of a partition's binding is verified. A slot that holds no key verifies nothing (log entry 40). -/
def State.verifies (s : State) (p type : Nat) (b : Bytes) : Bool :=
  let key := beAt b 7 1
  let k := s.blob (partObj p) (4 + key)
  decide (b.length ≥ 48) && beAt b 0 2 == 0x4759 && beAt b 2 1 == 1 && beAt b 3 1 == type && decide (key < 2) &&
  beAt b 4 2 == b.length && decide (b.length ≤ s.setting (partObj p) 0x13) && lengthOk type b.length && beAt b 6 1 == p &&
  s.partState p != 0 && !k.isEmpty && slice b (b.length - 16) 16 == (hmac512 k (b.take (b.length - 16))).take 16 &&
  (Tab.get winInit (s.part p).win key).accepts (beAt b 8 8)

/-! ### The receive ring (R288) -/

def ringBytes : Nat := 4194304

/-- Where a record of `n` bytes goes in a partition's ring; none when it does not fit. -/
def Partn.place (x : Partn) (n : Nat) : Option Nat := ringPlace ringBytes (x.ring.head?.map (·.off)) x.tail n

/-- The verified message enters its partition's ring, or is answered with REFUSE 0x0D. -/
def State.ringWrite (s : State) (p n : Nat) (d : Datagram) : State :=
  let size := 8 + d.data.length
  match (s.part p).place size with
  | none =>
    s.refuse { part := p, bind := n, peer := d.peer, port := d.peerPort } (beAt d.data 16 8) (beAt d.data 24 8) 0x0D 0
  | some off =>
    let r : RingRec := { off := off, size := size, data := d.data, src := d.peer, srcPort := d.peerPort, bind := n, time := s.time.now }
    s.updPart p fun x => { x with ring := x.ring ++ [r], tail := (off + size) % ringBytes }

/-- A host message of a type arrives (R274, R279): one on no binding, and a fragment, are not answered. -/
def State.receive (s : State) (type : Nat) (d : Datagram) : State :=
  match s.bindingOf d with
  | none => s
  | some (p, n) =>
    if d.frag then s
    else if !s.verifies p type d.data then s.updPart p fun x => { x with dropped := x.dropped + 1 }
    else
      let key := beAt d.data 7 1
      (s.updPart p fun x => { x with
        lastKey := key, win := Tab.upd winInit x.win key (·.take (beAt d.data 8 8)) }).ringWrite p n d

/-! ### Requests being assembled (R281, R287) -/

/-- R276, R281: a field of a SUBMIT out of its range, or a reserved one that is not zero, apart from those that need the model. -/
def submitBad (b : Bytes) : Bool :=
  let t := subTemp b
  let p := subTopP b
  beAt b 16 8 != 0 || decide (subModel b > 3 ∨ subFlags b > 3 ∨ subP b < 1 ∨ subP b > 262144 ∨ subN b < 1 ∨ subN b > 262144) ||
  !(decide (t < 0x7F800000) || t == 0x80000000) || !decide (0 < p ∧ p ≤ 0x3F800000) || decide (subNstop b > 8) || !zeroAt b 57 7 ||
  (!bitOf (subFlags b) 1 && !zeroAt b 64 16)

def tokensOf (b : Bytes) (off : Nat) : List Nat := (upTo ((b.length - 16 - off) / 4)).map fun i => beAt b (off + 4 * i) 4

/-- Tokens from an index on; one held twice, or beyond the prompt, spoils the request. -/
def Req.addTokens (q : Req) (first : Nat) (l : List Nat) : Req :=
  l.zipIdx.foldl (fun q c =>
    let i := first + c.2
    if i ≥ subP q.sub ∨ Tab.get 0 q.toks i ≠ 0 then { q with refuse := 6 }
    else { q with toks := Tab.put 0 q.toks i (c.1 + 1) }) q

def Req.complete (q : Req) : Bool := q.toks.length ≥ subP q.sub

/-- A request as its SUBMIT makes it. -/
def newReq (p : Nat) (x : RingRec) : Req :=
  { part := p, bind := x.bind, src := x.src, srcPort := x.srcPort, cref := beAt x.data 24 8, sub := x.data, bad := submitBad x.data,
    toks := [], segs := 0, t0 := x.time, phase := .assembling, susp := false, handle := 0, bucket := 0, slot := 0, frames := [],
    bf := 0, ba := 0, guard := 0, key := [], shift := 0, retimes := 0, why := 0, tAdmit := 0, out := [], wait := [], held := [],
    cut := 0, endR := 0, endBeat := 0, doneAt := 0, recB := [], compDone := false, lateN := 0, refuse := 0, detail := 0, eBase := 0,
    eDec := 0, eCtx := 0, ePre := 0, eDev := 0, residN := 0, estN := 0, suspN := 0, residMax := 0, flags := 0, beats := 0,
    firstOcc := 0, cached := 0, fed := 0, due := false, yielded := false, owes := 0, owed := none, rebuildT := 0, admB := [] }

/-- A request is refused (R282); it is kept for R287. -/
def State.refuseReq (s : State) (r reason detail : Nat) : State :=
  match s.req r with
  | none => s
  | some q =>
    let s := s.updReq r fun q => { q with phase := .refused, refuse := reason, detail := detail, doneAt := s.time.now }
    let s := { s with adm := { s.adm with refused := s.adm.refused + 1 } }
    s.refuse q.origin 0 q.cref reason detail

/-! ### Slots, frames and bookings (R289 to R291) -/

def State.quota (s : State) (p sub : Nat) : Nat := s.setting (quotaObj p) sub

/-- R344: a partition's effective share, W. -/
def State.qPowerEff (s : State) (p : Nat) : Nat :=
  let q := s.quota p 5
  if s.pwr.pcap then q * s.moduleLimit / max 1 (s.setting 0x2000 1) else q

/-- R305: the partition is over quota. -/
def State.overQuota (s : State) (p : Nat) : Bool := decide (s.resident p > s.quota p 1 ∨ s.framesUsed p > s.quota p 2)

/-- A slot that no accepted request holds. -/
def State.slotFree (s : State) (slot : Nat) : Bool := !s.reqList.any fun c => c.2.live && c.2.slot == slot

/-- The lowest free slot of a brood of a bucket. -/
def State.freeSlot (s : State) (b : Bucket) (brood : Nat) : Option Nat :=
  ((upTo b.live).map (brood * 128 + ·)).find? s.slotFree

/-- R269: the broods of a bucket that the placement runs. -/
def State.broodsOf (s : State) (b : Bucket) : List Nat :=
  ((upTo b.n).map (b.first + ·)).filter fun k => s.img.detour.isNone || decide (k < s.img.left)

/-- R291: prompt bookings of a lane in the 8 beats from `j`. -/
def booked8 (book : Tab Nat) (brood j : Nat) : Nat :=
  ((upTo 8).filter fun i => Tab.get 0 book (bookKey (j + i) brood) != 0).length

/-- R291: beat `n` is free, and one booking more keeps the reserve: at most `top` in any 8 beats. -/
def bookOk (book : Tab Nat) (brood top n : Nat) : Bool :=
  Tab.get 0 book (bookKey n brood) == 0 && (upTo 8).all fun i => decide (n + i < 7) || decide (booked8 book brood (n + i - 7) < top)

/-- R291: `k` chunks of request `r` in ascending beats from `n`: the beat of the last, and the bookings. -/
def bookFrom (brood top r : Nat) : Nat → Nat → Nat → Tab Nat → Nat × Tab Nat
  | 0, _, n, book => (n, book)
  | _ + 1, 0, n, book => (n - 1, book)
  | fuel + 1, k + 1, n, book =>
    if bookOk book brood top n then bookFrom brood top r fuel k (n + 1) (Tab.put 0 book (bookKey n brood) (r + 1))
    else bookFrom brood top r fuel (k + 1) (n + 1) book

def State.bookTop (s : State) : Nat := 8 - s.setting 0x4800 3

/-- Beats that a search for `k` bookings can pass. -/
def bookFuel (book : Tab Nat) (k : Nat) : Nat := 16 * (k + book.length) + 16

/-- The bookings of a request on the lane of a brood: b_f and the lane table. -/
def State.bookOn (s : State) (r brood k : Nat) : Nat × Tab Nat :=
  bookFrom brood s.bookTop r (bookFuel s.adm.book k) k (s.beat.count + 2) s.adm.book

/-- A candidate of R291: b_f, MAX_CTX, BUCKET, slot, and the bookings. -/
structure SlotCand where
  bf : Nat
  ctx : Nat
  bucket : Nat
  slot : Nat
  book : Tab Nat

def SlotCand.before (a b : SlotCand) : Bool :=
  decide (a.bf < b.bf) || (a.bf == b.bf && (decide (a.ctx < b.ctx) || (a.ctx == b.ctx && (decide (a.bucket < b.bucket) ||
    (a.bucket == b.bucket && decide (a.slot < b.slot))))))

/-- R291: the slot whose lane gives the earliest b_f. -/
def State.bestSlot (s : State) (r p : Nat) (l : List Bucket) : Option SlotCand :=
  let all := l.flatMap fun b => (s.broodsOf b).filterMap fun k => (s.freeSlot b k).map fun slot =>
    let (bf, book) := s.bookOn r k (cdiv p b.chunk)
    ({ bf := bf, ctx := b.ctx, bucket := b.num, slot := slot, book := book } : SlotCand)
  all.foldl (fun (m : Option SlotCand) c => match m with
    | none => some c
    | some d => if c.before d then some c else some d) none

/-- R258, R290: frame indices of the model's pools that no accepted request holds. -/
def State.framesFree (s : State) (i : Image) (model k : Nat) : List Nat :=
  let pools := i.pools.filter fun p => p.model == model
  let n := match pools with | [] => 0 | p :: r => r.foldl (fun n q => min n q.frames) p.frames
  let used := (s.reqList.filter fun c => c.2.live && subModel c.2.sub == model).flatMap fun c => c.2.frames
  ((upTo n).filter fun f => !used.contains f).take k

/-- R299: bytes a request reserves in the journal. -/
def journalNeed (b : Bytes) : Nat := 256 + 4 * subP b + 8 * subN b

/-- R300: a completed request's records are freed; its handle is no longer known. -/
def State.forget (s : State) (r : Nat) : State :=
  match s.req r with
  | none => s
  | some q =>
    let s := { s with reqs := Tab.put none s.reqs r none }
    if q.handle = 0 then s
    else
      { s with adm := { s.adm with
                 jFree := s.adm.jFree + journalNeed q.sub,
                 journal := s.adm.journal.filter fun x => x.body.handles.any fun h => h != q.handle && s.reqList.any fun c => c.2.handle == h },
               boot := { s.boot with handles := Tab.put hndNone s.boot.handles q.handle hndNone } }

/-- R300: retained records, oldest first, until `need` bytes are free. -/
def State.makeRoom (s : State) (need : Nat) : Nat → State
  | 0 => s
  | fuel + 1 =>
    if s.adm.jFree ≥ need then s
    else
      let old := (s.reqList.filter fun c => c.2.phase == .complete && c.2.compDone).foldl (fun (m : Option (Nat × Nat)) c =>
        match m with
        | none => some (c.2.doneAt, c.1)
        | some d => if c.2.doneAt < d.1 then some (c.2.doneAt, c.1) else m) none
      match old with
      | none => s
      | some (_, r) => (s.forget r).makeRoom need fuel

/-! ### Admission (R289) -/

/-- Checks 1 to 9: the reason and detail of the first that fails. -/
def State.admitCode (s : State) (q : Req) : Option (Nat × Nat) :=
  let p := q.part
  let m := subModel q.sub
  let model : Bytes := match s.img.loaded with | some i => i.models.getD m [] | none => []
  let inModel : Bool := match s.img.loaded with | some i => decide (m < i.models.length) | none => false
  let fits : Bool := match s.img.loaded with
    | some i => i.buckets.any fun b => b.model == m && decide (subP q.sub + subN q.sub ≤ b.ctx)
    | none => false
  if !s.time.valid then some (1, 0)
  else if s.img.load.isSome then some (3, 0)
  else if s.img.loaded.isNone then some (2, 0)
  else if !s.adm.isOpen then some (s.adm.why, 0)
  else if s.partState p ≠ 1 ∨ !([1, 2, 3, 4].any fun n => s.bindUp p n) then some (0x0F, 0)
  else if !inModel || !bitOf (s.setting (partObj p) 3) m then some (4, 0)
  else if q.bad || decide (subTopK q.sub > mVocab model) || q.toks.any (fun c => decide (c.2 > mVocab model)) ||
      (subStops q.sub).any (fun t => decide (t ≥ mVocab model)) then some (6, 0)
  else if !fits then some (5, 0)
  else if s.resident p > s.quota p 1 then some (7, 1)
  else if s.framesUsed p > s.quota p 2 then some (7, 2)
  else if s.resident p + 1 > s.quota p 1 then some (7, 1)
  else if s.quota p 3 ≠ 0 ∧ (s.part p).bucket = 0 then some (0x0C, 0)
  else if s.committedPower p + s.adm.pps > s.qPowerEff p * 1000 ∨ s.moduleCommitted + s.adm.pps > s.moduleLimit * 1000 then some (0x0B, 0)
  else none

/-- R282: the body of an ADMIT. -/
def State.admitBody (s : State) (q : Req) : Bytes :=
    beBytes 8 q.bf ++ beBytes 8 (s.markTime (q.bf + 1 + q.guard)) ++ beBytes 8 (s.beat.len * 1000) ++ beBytes 4 (subN q.sub) ++
    beBytes 1 q.bucket ++ beBytes 1 q.guard ++ beBytes 2 0 ++ slice q.key 0 16

/-- R282, R287: ADMIT, and the original one once more. -/
def State.sendAdmit (s : State) (f : From) (q : Req) : State := s.answer f 0x81 q.handle q.cref q.admB

/-- R127, R289, R290, R293: the request takes its slot, frames, bookings, journal space and place in the rate bucket. -/
def State.admitOn (s : State) (r : Nat) (q : Req) (c : SlotCand) (frames : List Nat) : State :=
  let (rnd, s) := s.fresh 128
  let (h, s) := s.issue 1 q.part 32
  let q : Req := { q with
    phase := .prefill, handle := h, bucket := c.bucket, slot := c.slot, frames := frames, bf := c.bf, ba := s.beat.count,
    guard := s.setting 0x4800 2, key := if bitOf (subFlags q.sub) 1 then subSeed q.sub else leBytes 16 rnd, tAdmit := s.time.now }
  let q : Req := { q with admB := s.admitBody q }
  let s := s.updReq r fun _ => q
  let s := { s with adm := { s.adm with book := c.book, jFree := s.adm.jFree - journalNeed q.sub, admitted := s.adm.admitted + 1 } }
  let s := if s.quota q.part 3 = 0 then s else s.updPart q.part fun x => { x with bucket := x.bucket - 1 }
  ((s.watchRing.journalAdmit q).seedStream q 0).sendAdmit q.origin q

/-- ADMISSION (R289): checks 10 to 13 after the others. -/
def State.accept (s : State) (r : Nat) : State :=
  match s.req r with
  | none => s
  | some q =>
    match s.admitCode q, s.img.loaded with
    | some (c, d), _ => s.refuseReq r c d
    | none, none => s
    | none, some i =>
      let m := subModel q.sub
      let total := subP q.sub + subN q.sub
      let l := i.buckets.filter fun b => b.model == m && decide (total ≤ b.ctx)
      let k := cdiv total 64
      match s.bestSlot r (subP q.sub) l with
      | none => s.refuseReq r 8 0
      | some c =>
        let frames := s.framesFree i m k
        if s.framesUsed q.part + k > s.quota q.part 2 then s.refuseReq r 7 2
        else if frames.length < k then s.refuseReq r 9 0
        else
          let s := s.makeRoom (journalNeed q.sub) s.reqs.length
          if s.adm.jFree < journalNeed q.sub ∨ s.ringFree = 0 then s.refuseReq r 0x0D 0
          else if c.bf > s.beat.count + s.setting 0x4800 4 then s.refuseReq r 0x0A (c.bf - (s.beat.count + s.setting 0x4800 4))
          else s.admitOn r q c frames

/-- R281: a request whose prompt is spoilt or complete is answered. -/
def State.settle (s : State) (r : Nat) : State :=
  match s.req r with
  | none => s
  | some q =>
    if q.phase != .assembling then s
    else if q.refuse = 6 ∨ q.segs > subSegs q.sub then s.refuseReq r 6 0
    else if !q.complete then s
    else if q.segs ≠ subSegs q.sub then s.refuseReq r 6 0
    else s.accept r

/-- A request of a partition that satisfies a condition. -/
def State.findReq (s : State) (p : Nat) (f : Req → Bool) : Option (Nat × Req) := s.reqList.find? fun c => c.2.part == p && f c.2

/-- A SUBMIT from the ring (R281, R287). -/
def State.takeSubmit (s : State) (p : Nat) (x : RingRec) : State :=
  let f : From := { part := p, bind := x.bind, peer := x.src, port := x.srcPort }
  match s.findReq p fun q => q.cref == beAt x.data 24 8 with
  | some (_, q) =>
    (match q.phase with
     | .assembling => s
     | .refused => s.refuse f 0 q.cref q.refuse q.detail
     | _ => s.sendAdmit f q)
  | none =>
    let r := s.adm.reqN
    let q := (newReq p x).addTokens 0 (tokensOf x.data 112)
    let s := { s with reqs := Tab.put none s.reqs r (some q), adm := { s.adm with reqN := r + 1 } }
    s.settle r

/-- A PROMPT from the ring. One without a request being assembled changes nothing (log entry 31). -/
def State.takePrompt (s : State) (p : Nat) (x : RingRec) : State :=
  match s.findReq p fun q => q.phase == .assembling && q.cref == beAt x.data 24 8 with
  | none => s
  | some (r, _) =>
    (s.updReq r fun q => { (q.addTokens (beAt x.data 32 4) (tokensOf x.data 40)) with
      segs := q.segs + 1, bad := q.bad || !zeroAt x.data 36 4 || beAt x.data 16 8 != 0 }).settle r

/-! ### STATUS, CANCEL, QUERY (R284 to R286, R298) -/

/-- The beat that will produce the request's next token, as the promise engine expects it. -/
def State.expectBeat (s : State) (r : Nat) (q : Req) : Nat :=
  match q.stage with
  | .decode => if q.due then s.beat.count else s.beat.count + 1
  | .prompt => s.adm.book.foldl (fun n c => if c.2 = r + 1 then max n (c.1 / 64) else n) (s.beat.count + 1)
  | .rebuild =>
    q.rebuildT - 1 + s.chunksUpTo q

def State.stateCode (s : State) (q : Req) : Nat :=
  match q.phase with
  | .complete => 4
  | .cancelling => 5
  | _ => if s.ended q then 4 else if q.susp then 6 else match q.phase with | .decoding => 2 | .rebuilding => 3 | _ => 1

/-- LAST_REASON: the END of a complete request, else the latest late reason (log entry 41). -/
def Req.lastReason (q : Req) : Nat :=
  if q.phase = .complete then q.endR
  else match (q.out.reverse.find? fun t => t.late != 0) with | some t => t.late | none => q.why

/-- R284: STATUS. -/
def State.sendStatus (s : State) (f : From) (r : Nat) (q : Req) : State :=
  let i := q.out.length - q.held.length
  let done := q.phase == .complete || s.ended q
  s.answer f 0x85 q.handle q.cref <|
    beBytes 1 (s.stateCode q) ++ beBytes 1 q.lastReason ++ beBytes 2 0 ++ beBytes 4 i ++
    beBytes 8 (if done then 0 else s.promiseOf q i) ++
    beBytes 8 (if done then 0 else s.markTime (if q.owes > 0 then s.beat.count + 1 else s.expectBeat r q + 1))

/-- A request that the partition holds under a handle. -/
def State.reqOf (s : State) (p h : Nat) : Option (Nat × Req) := s.findReq p fun q => decide (h ≠ 0) && q.handle == h

/-- R298: before the 97% point of the beat the work stops with the next beat, after it one later. -/
def State.cutOf (s : State) : Nat :=
  if (s.time.now - s.beat.mark) * 100 < s.beat.len * 1000 * 97 then s.beat.count + 1 else s.beat.count + 2

/-- A CANCEL from the ring. -/
def State.takeCancel (s : State) (p : Nat) (x : RingRec) : State :=
  let f : From := { part := p, bind := x.bind, peer := x.src, port := x.srcPort }
  let h := beAt x.data 16 8
  match s.reqOf p h with
  | none => s.refuse f h (beAt x.data 24 8) 0x12 0
  | some (r, q) =>
    if q.phase = .complete ∨ q.phase = .cancelling ∨ s.ended q then s.sendStatus f r q
    else
      let cut := s.cutOf
      let s := (s.updReq r fun q => { q with phase := .cancelling, cut := cut, endR := 0x43, endBeat := cut - 1 }).unbook r (cut - 1)
      match s.req r with
      | some q => s.sendStatus f r q
      | none => s

/-- R284: COMPLETE. -/
def completeBody (q : Req) : Bytes :=
  beBytes 1 q.endR ++ beBytes 3 0 ++ beBytes 4 q.out.length ++ beBytes 4 q.lateN ++ beBytes 4 0 ++ slice q.recB 0 512

/-- R285: the records asked for, of which `l` are still held. -/
def State.sendChain (s : State) (f : From) (q : Req) (asked : Nat) (l : List (Nat × MRec)) : State :=
  l.foldl (fun s c => s.answer f 0x86 q.handle q.cref
    (beBytes 2 c.1 ++ beBytes 2 l.length ++ beBytes 2 (asked - l.length) ++ beBytes 2 0 ++ c.2.bytes)) s

/-- WHAT 3: the request's own record, and those after it up to the covering one, without the first FROM of these. -/
def State.queryChain (s : State) (f : From) (q : Req) (frm n : Nat) : State :=
  let own := beAt q.recB 8 8
  let cover := beAt q.recB 208 8
  let after := ((upTo (cover - own)).map (own + 1 + ·)).drop frm
  let asked := (own :: after).take n
  let held := asked.zipIdx.filterMap fun c =>
    (s.meter.ring.find? fun x => x.chain == q.part && x.seq == c.1).map fun x => (c.2, x)
  s.sendChain f q asked.length held

/-- A QUERY from the ring. -/
def State.takeQuery (s : State) (p : Nat) (x : RingRec) : State :=
  let f : From := { part := p, bind := x.bind, peer := x.src, port := x.srcPort }
  let h := beAt x.data 16 8
  let what := beAt x.data 32 1
  let frm := beAt x.data 36 4
  let n := beAt x.data 40 4
  match s.reqOf p h with
  | none => s.refuse f h (beAt x.data 24 8) 0x12 0
  | some (r, q) =>
    if what > 4 ∨ n < 1 ∨ n > 64 ∨ !zeroAt x.data 33 3 ∨ !zeroAt x.data 44 4 then s.refuse f h q.cref 6 0
    else
      let sealed := q.phase == .complete && !q.recB.isEmpty
      match what with
      | 0 => s.sendStatus f r q
      | 1 =>
        ((upTo n).map (frm + ·)).foldl (fun s i =>
          match q.out[i]? with
          | some t =>
            if q.held.contains i then s
            else (s.sendMsg q.part q.bind q.src q.srcPort 0x83 q.handle q.cref (tokenBody i t true)).1
          | none => s) s
      | 2 =>
        if sealed && q.held.isEmpty && q.wait.isEmpty then (s.sendMsg q.part q.bind q.src q.srcPort 0x84 q.handle q.cref (completeBody q)).1 else s.sendStatus f r q
      | 3 => if sealed then s.queryChain f q frm n else s.sendStatus f r q
      | _ =>
        if sealed then
          s.sendChain f q 1 ((s.meter.ring.filter fun y => y.kind == 3 && y.epoch == beAt q.recB 16 4).map fun y => (0, y))
        else s.sendStatus f r q

/-- The partition whose ring is served next (R288). -/
def State.nextRing (s : State) : Option Nat :=
  ((upTo 16).map fun i => (s.adm.turn + i) % 16).find? fun p => !(s.part p).ring.isEmpty

end Sys2Proof.Machine
end

