-- ==== Sys2Proof/Machine/Tokens.lean ====
section
/-!
DEFINITION. The commands of the token service (R273 to R306): host messages, tokens and COMPLETE leaving, rebuilds, and the
operator's writes of partitions, bindings, keys and quotas.
-/

namespace Sys2Proof.Machine

/-- SUBMIT (R279, R280, R281, R288). -/
def execSubmit (d : Datagram) (s : State) : Host.Outcome State Fault Refusal := .next (s.receive 1 d)
/-- PROMPT (R279, R280, R281, R288). -/
def execPrompt (d : Datagram) (s : State) : Host.Outcome State Fault Refusal := .next (s.receive 4 d)
/-- CANCEL (R279, R280, R288): Wenwyn acts on it when it takes it from the ring. -/
def execCancel (d : Datagram) (s : State) : Host.Outcome State Fault Refusal := .next (s.receive 2 d)
/-- QUERY (R279, R280, R288): Wenwyn answers it when it takes it from the ring. -/
def execQuery (d : Datagram) (s : State) : Host.Outcome State Fault Refusal := .next (s.receive 3 d)

/-- RECEIVE_RING_TAKE (R281, R286 to R289, R298): one record of the next non-empty ring. -/
def execReceiveRingTake (s : State) : Host.Outcome State Fault Refusal :=
  .next (match s.nextRing with
    | none => s
    | some p =>
      match (s.part p).ring with
      | [] => s
      | x :: rest =>
        let s := { (s.updPart p fun y => { y with ring := rest }) with adm := { s.adm with turn := (p + 1) % 16 } }
        match beAt x.data 3 1 with
        | 1 => s.takeSubmit p x
        | 2 => s.takeCancel p x
        | 3 => s.takeQuery p x
        | 4 => s.takePrompt p x
        | _ => s)

/-- PROMPT_INCOMPLETE (R281): REFUSE 0x0E. -/
def execPromptIncomplete (r : Nat) (s : State) : Host.Outcome State Fault Refusal :=
  .next (match s.req r with
    | some q => if q.phase = .assembling then s.refuseReq r 0x0E 0 else s
    | none => s)

/-- A sampled token leaves, or waits behind the withheld ones. -/
def State.tokenComes (s : State) (r : Nat) (q : Req) (tok lp b : Nat) (hold : Bool) : State :=
  let q' := q.endAt q.nextIx tok b
  if hold || !q.wait.isEmpty then s.updReq r fun _ => { q' with wait := q.wait ++ [(tok, lp)] }
  else (s.updReq r fun _ => q').emitToken r tok lp

/-- TOKEN_SEND (R294, R296, R297, R364): the token of the beat, sampled for a request that is due one, or one that an earlier beat still
owes; withheld while a check or a dispute is open. An abandoned beat yields none (R359). -/
def execTokenSend (r tok lp : Nat) (s : State) : Host.Outcome State Fault Refusal :=
  .next (match s.req r with
    | none => s
    | some q =>
      if q.owes > 0 then
        s.tokenComes r { q with owes := q.owes - 1 } tok lp (s.beat.count - q.owes) (s.withheldOld q.owes)
      else if !q.due || s.beat.abandoned then s
      else s.tokenComes r { q with due := false, yielded := true } tok lp s.beat.count s.withheld)

/-- R296, R297, R323: COMPLETE of a request whose tokens have left and whose record is sealed. -/
def State.sendComplete (s : State) (r : Nat) : State :=
  match s.req r with
  | none => s
  | some q =>
    if q.phase ≠ .complete ∨ q.compDone ∨ q.recB.isEmpty ∨ !q.held.isEmpty ∨ !q.wait.isEmpty then s
    else
      match s.sendMsg q.part q.bind q.src q.srcPort 0x84 q.handle q.cref (completeBody q) with
      | (s, true) =>
        ((s.updReq r fun q => { q with compDone := true, doneAt := s.time.now }).updMeter fun u => { u with
          ring := u.ring.map fun x => if x.kind == 1 && x.handle == q.handle then { x with sent := true } else x }).freePlaces
      | (s, false) => s

/-- COMPLETE_SEND. -/
def execCompleteSend (r : Nat) (s : State) : Host.Outcome State Fault Refusal := .next (s.sendComplete r)

/-- HELD_MESSAGE_SEND (R297): held tokens, late with reason 0x25, and then COMPLETE. -/
def execHeldMessageSend (r : Nat) (s : State) : Host.Outcome State Fault Refusal :=
  .next (match s.req r with
    | none => s
    | some q =>
      let s := q.held.foldl (fun s i =>
        match s.req r with
        | none => s
        | some q => match q.out[i]? with
          | some t => s.tokenOut r q i t 0x25
          | none => s) s
      s.sendComplete r)

/-- SEQUENCE_REBUILD (R295, R302, R303). -/
def execSequenceRebuild (r : Nat) (s : State) : Host.Outcome State Fault Refusal := .next (s.rebuild r)

/-- RATE_BUCKET_REFILL (R304): one place, up to Q_BURST. -/
def execRateBucketRefill (p : Nat) (s : State) : Host.Outcome State Fault Refusal :=
  onPart p s fun s => s.whenB (s.quota p 3 != 0) fun s => s.updPart p fun x => { x with bucket := min (s.quota p 4) (x.bucket + 1) }

/-- RETENTION_EXPIRY (R287, R300). -/
def execRetentionExpiry (r : Nat) (s : State) : Host.Outcome State Fault Refusal :=
  .next (match s.req r with
    | some q => if (q.phase = .complete ∧ q.compDone) ∨ q.phase = .refused then s.forget r else s
    | none => s)

/-! ### Partitions (R273 to R275, R305, R306) -/

/-- R400: PART_LIMIT. -/
def State.partLimit (s : State) : Nat :=
  match s.flash.lics.find? fun l => l.feature == 1 && l.valid with
  | some l => l.limit
  | none => 4

/-- 0x40pp.01 (R273). -/
def State.wrPartState (p : Nat) (s : State) (v : Nat) : WRes :=
  let others := ((upTo 16).filter fun o => o != p && s.partState o != 0).length
  if v > 2 then .fail stRange 0
  else if v ≠ 0 ∧ s.partState p = 0 ∧ others + 1 > s.partLimit then refusedBy 0
  else if v = 0 ∧ s.hasWork p then refusedBy 0
  else
    let was := s.partState p
    let s := s.putSetting (partObj p) 1 v
    .ok (if was = 0 ∧ v ≠ 0 then s.updPart p fun x => { x with lastKey := 0 } else s)

/-- PARTITION_STATE_WRITE. -/
def execPartitionStateWrite (k x p v : Nat) (s : State) : Host.Outcome State Fault Refusal :=
  onPart p s fun s => s.numWrite k x (partObj p) 1 v (State.wrPartState p)

/-- R274: the word is in range. -/
def bindRangeOk (v : Nat) : Bool :=
  decide (v < 2 ^ 33) && decide (bindVlan v ≤ 4094) && (!bindOn v || decide (bindPort v ≥ 1))

/-- 0x40pp.06 to .09 (R274). -/
def State.wrBinding (p sub : Nat) (s : State) (v : Nat) : WRes :=
  let same (w : Nat) : Bool := bindOn w && bindLane w == bindLane v && bindVlan w == bindVlan v
  let taken := (upTo 16).any fun o => o != p && [1, 2, 3, 4].any fun n => same (s.bindWord o n)
  let left := [1, 2, 3, 4].any fun n => n + 5 != sub && bindOn (s.bindWord p n)
  if sub < 6 ∨ 9 < sub then .fail stNoObject 0
  else if !bindRangeOk v then .fail stRange 0
  else if bindOn v && taken then refusedBy 0
  else if bindOn (s.bindWord p (sub - 5)) && !bindOn v && !left && s.hasWork p then refusedBy 0
  else .ok (s.putSetting (partObj p) sub v)

/-- BINDING_WRITE. -/
def execBindingWrite (k x p sub v : Nat) (s : State) : Host.Outcome State Fault Refusal :=
  onPart p s fun s => s.numWrite k x (partObj p) sub v (State.wrBinding p sub)

/-- 0x40pp.04, .05 (R275, R280): a key applies at once, and its slot's window is cleared. -/
def State.putKey (s : State) (p slot : Nat) (key : Bytes) : State :=
  (s.putBlob (partObj p) (4 + slot) key).updPart p fun x => { x with win := Tab.put winInit x.win slot winInit }

/-- KEY_SLOT_WRITE (R275): the effect of a completed transfer of 64 bytes by a role that may write the slot. -/
def execKeySlotWrite (k x p slot : Nat) (key : Bytes) (s : State) : Host.Outcome State Fault Refusal :=
  onPart p s fun s =>
    let ix := partObj p
    let sub := 4 + slot
    let good := decide (slot < 2) && key.length == 64
    match s.sess k with
    | none => s
    | some q =>
      match s.writeGate q ix sub 4 with
      | some st => s.failed k x 4 st ix sub 0
      | none => if good then (s.putKey p slot key).respond k x 4 stOk ix sub [] else s.failed k x 4 stType ix sub 0

/-- R295, R306: a request whose suspension ends is re-timed: its next token is promised by M(b + 1 + g), b the beat that produces it. -/
def State.resume (s : State) (r : Nat) : State :=
  match s.req r with
  | none => s
  | some q =>
    let n := s.expectBeat r q - (q.bf + q.nextIx + q.owes + q.shift)
    s.updReq r fun q => { q with susp := false, shift := q.shift + n, retimes := min 255 (q.retimes + 1), owed := none }

/-- REQUEST_SUSPEND (R306): accepted requests are suspended where the committed power exceeds the effective share, and go on where
it does not. -/
def State.suspendAll (s : State) : State :=
  s.reqList.foldl (fun s c =>
    if !c.2.live then s
    else
      let above := decide (s.committedPower c.2.part > s.qPowerEff c.2.part * 1000)
      if above && !c.2.susp then s.updReq c.1 fun q => { q with susp := true }
      else if !above && c.2.susp then s.resume c.1
      else s) s

/-- 0x44pp.01 to .05 (R305). -/
def State.wrQuota (p sub : Nat) (s : State) (v : Nat) : WRes :=
  if sub < 1 ∨ 5 < sub then .fail stNoObject 0
  else if sub = 4 ∧ (v < 1 ∨ 65535 < v) then .fail stRange 0
  else if sub = 5 ∧ v * 1000 < s.committedPower p then refusedBy 0
  else
    let s := s.putSetting (quotaObj p) sub v
    .ok ((if sub = 4 then s.updPart p fun x => { x with bucket := min v x.bucket } else s).suspendAll)

/-- QUOTA_WRITE. -/
def execQuotaWrite (k x p sub v : Nat) (s : State) : Host.Outcome State Fault Refusal :=
  onPart p s fun s => s.numWrite k x (quotaObj p) sub v (State.wrQuota p sub)

end Sys2Proof.Machine
end

