-- ==== Sys2Proof/Machine/Power.lean ====
section
/-!
DEFINITION. Power delivery (R327 to R348): operating points (R238, R240), rail limits and stretches, leave, budgets and their
cuts, wakes, and the failures of supplies.
-/

namespace Sys2Proof.Machine

/-- An event of a steward. -/
def State.powerEvent (s : State) (code g : Nat) (d0 : Nat := 0) (d1 : Nat := 0) : State :=
  s.event { code := code, region := g, source := 5, d0 := d0, d1 := d1 }

/-! ### Operating points -/

/-- R240: a region's work and a 512 ns stop end by the 97% point at point `p`. -/
def State.pointFits (s : State) (g p : Nat) : Bool :=
  decide (((s.region g).rg.w * 1000 + 512 * mhz p) * 100 ≤ s.beat.len * 1000 * mhz p * 97)

/-- R238: the earliest beat at which a change written now can be made. -/
def State.earliest (s : State) : Nat := if s.time.now + 1000000 ≤ s.beat.nextMark then s.beat.count + 2 else s.beat.count + 3

/-- R238: the first beat from `n` on at which the other region of the field has no change to another point; Wenwyn moves the later request
by one beat, and looks again. -/
def State.changeBeat (s : State) (g p n : Nat) : Nat :=
  let other := (s.region (if g % 2 = 0 then g + 1 else g - 1)).changes
  (((upTo (other.length + 1)).map (n + ·)).find? fun m => !other.any fun c => c.1 == m && c.2 != p).getD (n + other.length + 1)

/-- R238: the change of `g` at beat `n`, behind those of earlier beats; one that Wenwyn moves is reported. -/
def State.putChange (s : State) (g p n : Nat) : State :=
  let m := s.changeBeat g p n
  let s := s.updRegion g fun r => r.setChanges (r.changes.filter (fun c => decide (c.1 < m)) ++ [(m, p)])
  if m = n then s else s.event { code := 0x77, region := g, source := 7, d0 := g + p * 2 ^ 8 + 1 * 2 ^ 24, d1 := n, d2 := m }

/-- The point of the origin of a region: its ceiling (R240). -/
def State.opCeil (s : State) (g : Nat) : Nat := s.setting (0x2820 + g) 2

/-- A point number for which I_PLAN scaled by its frequency is within a budget (R343). -/
def pointFor (iPlan j : Nat) : Nat := ((upTo 5).find? fun p => decide (iPlan * mhz p ≤ j * 1800)).getD 5

/-- R355: the lowest point that the ceiling, a throttle or a cut asks for. -/
def State.wantOp (s : State) (g : Nat) : Nat :=
  let r := s.region g
  let cut := if s.pwr.pcap || s.pwr.inCut then pointFor r.rg.iPlan r.j else 0
  max (s.opCeil g) (max r.thPt cut)

/-- The pending rises of a region, each from the point before it. -/
def risesFrom : Nat → List (Nat × Nat) → List (Nat × Nat)
  | _, [] => []
  | p, c :: l => if c.2 < p then c :: risesFrom p l else risesFrom c.2 l

/-- R355: the pending rises of a region give way to a new cut, code 0x77. -/
def State.dropRises (s : State) (g : Nat) : State :=
  let r := s.region g
  let l := risesFrom r.op r.changes
  (l.foldl (fun s c => s.changeDropped g 3 c) s).updRegion g fun r => r.setChanges (r.changes.filter fun c => !l.contains c)

/-- Wenwyn moves an Active region toward the point wanted: a cut at the earliest beat, in place of pending rises; a rise, which meets
R240, after what is pending. -/
def State.retarget (s : State) (g : Nat) : State :=
  let r := s.region g
  let p := s.wantOp g
  if r.st != .active || p == r.lastPoint then s
  else if p > r.lastPoint then
    let s := s.dropRises g
    if p = (s.region g).lastPoint then s else s.putChange g p s.earliest
  else if s.pointFits g p then s.putChange g p (max s.earliest (((r.changes.getLast?).map (·.1 + 1)).getD 0))
  else s

/-- FREQUENCY_CHANGE_REQUEST (R238, R240): Wenwyn writes a change of the named Active regions for beat `n`, at least two beats
ahead. One that reaches its origin too late moves to the next beat, code 0x77. -/
def execFrequencyChangeRequest (gs : List Nat) (pt n : Nat) (late : Bool) (s : State) : Host.Outcome State Fault Refusal :=
  onUnit (gs.all fun g => g < 32) s fun s =>
    s.each gs fun s g =>
      let r := s.region g
      if r.st != .active || decide (pt > 5 ∨ n < s.beat.count + 2 ∨ pt < s.opCeil g) || !s.pointFits g pt then s
      else if late then
        let m := s.changeBeat g pt (n + 1)
        (s.putChange g pt (n + 1)).event { code := 0x77, region := g, source := 5, d0 := g + pt * 2 ^ 8, d1 := n, d2 := m }
      else s.putChange g pt n

/-! ### Limits (R328, R346) -/

def popCount32 (m : Nat) : Nat := ((upTo 32).filter (bitOf m)).length
def Region.derated (r : Region) : Bool := decide (popCount32 r.phases ≥ 2)
/-- Limits in force, 0.1 A and W. -/
def Region.lim10 (r : Region) : Nat := if r.derated then 4000 else 4400
def Region.lim1m (r : Region) : Nat := if r.derated then 3660 else 4000
def Region.env (r : Region) : Nat := if r.derated then 275 else 300

/-- The largest stretch that any cause asks for, in eighths (R329). -/
def Region.stretch (r : Region) : Nat :=
  max (if r.hot10 then 4 else 0) (max (if r.hot1m then 2 else 0) (max (if r.slope then 8 else 0) (max r.pcapStr r.thStr)))

/-! ### Budgets (R342, R343, R345, R355) -/

/-- R343: regions of a class that hold work. -/
def State.cutClass (s : State) (crit : Bool) : List Nat :=
  (upTo 32).filter fun g => (s.region g).rg.work && (s.region g).crit == crit

/-- What region `g` offers: 0.75 · I_PLAN · V_SET · K, in units of 1/(4 · 10^10) W. -/
def State.offer (s : State) (g : Nat) : Nat := 3 * (s.region g).rg.iPlan * s.vset g 0 * (1000000 + s.flash.volt.lossPpm)

/-- One class of the cut: the budgets of its regions, and what is still needed. -/
def State.cutOne (s : State) (crit : Bool) (need : Nat) : State × Nat :=
  let l := s.cutClass crit
  let pool := l.foldl (fun n g => n + s.offer g) 0
  let take := min need pool
  if take = 0 then (s, need)
  else
    (s.each l fun s g => s.updRegion g fun r => { r with j := min r.j ((4 * r.rg.iPlan * pool - 3 * r.rg.iPlan * take) / (4 * pool)) }, need - take)

/-- R343: the smallest stretch under which the plan meets the budget. -/
def pcapStretch (iPlan j : Nat) : Nat :=
  if iPlan ≤ j then 0 else (((upTo 8).map (· + 1)).find? fun k => decide (iPlan * 8 ≤ j * (8 + k))).getD 8

/-- R342, R343: W to cut: P_PLAN above the limit under PCAP_N, the input's excess under MODULE_IN_MAX. -/
def State.cutNeed (s : State) : Nat :=
  let plan := match s.img.loaded with | some i => hPPlan i.hdr | none => 0
  max (if s.pwr.pcap then plan - s.moduleLimit else 0) (if s.pwr.inCut then s.pwr.inNeed else 0)

/-- Budgets are computed: limits, then the cut class by class; a region that a budget no longer holds back loses its stretch. -/
def State.budgets (s : State) : State :=
  let s := s.each (upTo 32) fun s g =>
    let r := s.region g
    if r.j = r.lim1m then s else s.updRegion g fun r => { r with j := r.lim1m }
  let need := s.cutNeed * 40000000000
  let (s, need) := s.cutOne false need
  let (s, _) := s.cutOne true need
  let s := s.each (upTo 32) fun s g =>
    let r := s.region g
    let k := if s.pwr.pcap || s.pwr.inCut then (if r.op ≥ pointFor r.rg.iPlan r.j then 0 else pcapStretch r.rg.iPlan r.j) else 0
    let held := s.pwr.inCut && decide (r.j < r.lim1m)
    if r.pcapStr = k ∧ (r.inputSeen || !held) then s else s.updRegion g fun r => { r with pcapStr := k, inputSeen := r.inputSeen || held }
  s.each (upTo 32) fun s g => s.retarget g

/-- R341: the marks of a sixteenth are read, and the cuts computed again (R343, R344, R345). -/
def State.sixteenth (s : State) (w : Nat) : State :=
  let s := { s with beat := { s.beat with sixteenth := w } }
  let s := s.each (upTo 32) fun s g =>
    let c := bitOf (s.region g).rg.crit w
    if (s.region g).crit == c then s else s.updRegion g fun r => { r with crit := c }
  let lim := s.setting 0x2000 2
  let due := s.pwr.releaseDue
  let s := { s with pwr := { s.pwr with pcapLim := lim, releaseDue := false } }
  if s.pwr.pcap || s.pwr.inCut || due then s.budgets.suspendAll else s

/-- SIXTEENTH_BOUNDARY (R341): the next sixteenth of the beat begins; the first begins at the nominal mark. -/
def execSixteenthBoundary (s : State) : Host.Outcome State Fault Refusal :=
  .next (s.whenB (decide (s.beat.sixteenth < 15)) fun s => s.sixteenth (s.beat.sixteenth + 1))

/-- PCAP_ASSERT (R306, R342, R343, R344). -/
def execPcapAssert (s : State) : Host.Outcome State Fault Refusal :=
  let s := { s with pins := { s.pins with pcapN := false } }
  .next (s.whenB (!s.pwr.pcap) fun s =>
    (({ s with pwr := { s.pwr with pcap := true, pcapLim := s.setting 0x2000 2, releaseDue := false } } : State).powerEvent 0xB5 0xFF).budgets.suspendAll.alert 32)

/-- PCAP_RELEASE (R345): budgets, stretches and shares return at the next sixteenth boundary. -/
def execPcapRelease (s : State) : Host.Outcome State Fault Refusal :=
  let s := { s with pins := { s.pins with pcapN := true } }
  .next (s.whenB s.pwr.pcap fun s => ({ s with pwr := { s.pwr with pcap := false, releaseDue := true } } : State).powerEvent 0xB5 0xFF)

/-- MODULE_INPUT_CUT (R342): begins when the mean passes MODULE_IN_MAX, and stands until it has stayed 5% below for 1 ms. `us`
is the time since the last judgement. -/
def State.inputCut (s : State) (us : Nat) : State :=
  let top := s.setting 0x2000 1
  let p := s.pwr.pIn
  if p > top then
    let need := max s.pwr.inNeed (p - top)
    let fresh := !s.pwr.inCut || decide (need > s.pwr.inNeed)
    let s := { s with pwr := { s.pwr with inCut := true, inLow := 0, inNeed := need } }
    if fresh then s.budgets else s
  else if !s.pwr.inCut then s
  else if p * 100 ≤ top * 95 then
    let n := s.pwr.inLow + us
    if n ≥ 1000 then ({ s with pwr := { s.pwr with inCut := false, inLow := 0, inNeed := 0 } } : State).budgets
    else { s with pwr := { s.pwr with inLow := n } }
  else { s with pwr := { s.pwr with inLow := 0 } }

/-- 0x2000.01 (R342). -/
def State.wrModuleInMax (s : State) (v : Nat) : WRes :=
  if v < 6000 ∨ 13000 < v then .fail stRange 0
  else if v * 1000 < s.moduleCommitted then refusedBy 0
  else .ok ((s.putSetting 0x2000 1 v).inputCut 0)

/-- MODULE_IN_MAX_WRITE. -/
def execModuleInMaxWrite (k x v : Nat) (s : State) : Host.Outcome State Fault Refusal := .next (s.numWrite k x 0x2000 1 v State.wrModuleInMax)

/-- 0x2000.02 (R344): in force from the next sixteenth boundary. -/
def State.wrPcapLimit (s : State) (v : Nat) : WRes :=
  if v < 6000 ∨ 13000 < v then .fail stRange 0 else .ok (s.putSetting 0x2000 2 v)

/-- PCAP_LIMIT_WRITE. -/
def execPcapLimitWrite (k x v : Nat) (s : State) : Host.Outcome State Fault Refusal := .next (s.numWrite k x 0x2000 2 v State.wrPcapLimit)

/-- 0x2000.07 (R334): in force from the next beat mark. -/
def State.wrMarginMode (s : State) (v : Nat) : WRes :=
  if v > 1 then .fail stRange 0
  else .ok { (s.putSetting 0x2000 7 v) with pwr := { s.pwr with legacyReq := some (v == 1) } }

/-- MARGIN_MODE_WRITE. -/
def execMarginModeWrite (k x v : Nat) (s : State) : Host.Outcome State Fault Refusal := .next (s.numWrite k x 0x2000 7 v State.wrMarginMode)

/-- 0x2820.02 to 0x283F.02 (R240): the operator's ceiling. -/
def State.wrOpCeil (g : Nat) (s : State) (v : Nat) : WRes :=
  if v > 5 then .fail stRange 0
  else if s.anyWork && (s.region g).rg.work && !s.pointFits g v then refusedBy 0
  else .ok ((s.putSetting (0x2820 + g) 2 v).retarget g)

/-! ### Leave (R338, R340) -/

/-- LEAVE_GRANT_END (R338): a grant's duration has closed. -/
def execLeaveGrantEnd (g n : Nat) (s : State) : Host.Outcome State Fault Refusal := onRegion g s fun s => s.endGrant g fun x => x.n == n

/-- LEAVE_QUEUE_SERVE (R340). -/
def execLeaveQueueServe (f : Nat) (s : State) : Host.Outcome State Fault Refusal := onField f s fun s => s.serveLeave f

/-- LEAVE_TIMEOUT (R340): the request's bound has run out. Inrush leave has none. -/
def execLeaveTimeout (f n : Nat) (s : State) : Host.Outcome State Fault Refusal :=
  onField f s fun s =>
    match (s.field f).queue.find? fun q => q.n == n && !q.inrush with
    | none => s
    | some q =>
      ((s.updField f fun x => { x with queue := x.queue.filter fun p => p != q }).answerLeave q.tile rTimedOut 0).leaveEvent q.tile q.inc q.us

/-! ### The 1 µs sample (R308, R309, R329 to R331, R342, R356) -/

/-- R356: stacks at 85 °C or above that a plan descriptor under the region's clock names. -/
def State.hbmHot (s : State) (g : Nat) : Bool :=
  s.stks.any fun k => k.2.hot85 && ((upTo 4).any fun i => (s.engine (4 * k.1 + i)).plan.any fun d => dClkr d.2 == g)

/-- R356: the throttle word of a region. -/
def State.throttleWord (s : State) (g : Nat) : Nat :=
  let r := s.region g
  let bit (c : Bool) (n : Nat) : Nat := if c then 2 ^ n else 0
  let cut := decide (r.j < r.lim1m)
  bit (decide (r.st.code ≤ 1) && (r.hotThr || decide (r.thPt > s.opCeil g))) 0 + bit r.hot10 1 + bit r.hot1m 2 + bit r.slope 3 + bit (cut && (s.pwr.pcap || s.pwr.releaseDue)) 4 + bit (cut && s.pwr.inCut) 5 +
  bit (r.derated && decide (r.rg.iPlan > r.lim1m)) 6 + bit (decide (s.opCeil g > 0)) 7 + bit r.droop 8 + bit (s.therm.halted || s.therm.tripped) 9 +
  bit (s.hbmHot g) 10

/-- R333: the set point of a rail is at the higher point before the nominal mark of beat n − 1, and so rises in the ms before that mark. -/
def State.riseRail (s : State) (g : Nat) : State :=
  let r := s.region g
  if r.opPend ≠ 0xFF ∧ r.opPend < r.op ∧ r.opPendBeat ≤ s.beat.count + 2 ∧ r.railOp ≠ r.opPend then s.updRegion g fun r => { r with railOp := r.opPend }
  else s

/-- The cycles of the microsecond just past: eighths of a period that droop stretches and a stop have taken are not counted again. -/
def Region.passUs (r : Region) : Region :=
  let k := r.stretch
  let m := mhz r.op * 8
  let d := min r.lag m
  let n := (m - d) / (8 + k)
  { r with cyc := r.cyc + n, lag := r.lag - d, strP := r.strP + (if k = 0 then 0 else n), strE := r.strE + k * n }

/-- The microsecond just past, of one region: beat cycles, stretched periods, and the durations of its throttle reasons. -/
def State.regionUs (s : State) (g : Nat) : State :=
  let w := s.throttleWord g
  let s := if w = 0 then s else s.updRegion g fun r => { r with
    droop := false, thrDur := (upTo 11).foldl (fun (t : Tab Nat) b => if bitOf w b then Tab.upd 0 t (b + 1) (fun n => (n + 1) % 2 ^ 64) else t) r.thrDur }
  let s := if s.beat.nextMark ≤ s.time.now + 1000000 then s.riseRail g else s
  let r := s.region g
  if r.st == .active && r.marked then s.updRegion g Region.passUs else s

/-- R329, R330: the windows of a region's logic rail at a sample. -/
def State.judgeLogic (s : State) (m : Sample) (g : Nat) : State :=
  let r := s.region g
  let i10 := m.logic10.getD g 0
  let i1m := m.logic1m.getD g 0
  let i := m.i.getD (1 + g) 0
  let hot10 := if r.hot10 then decide (i10 * 4400 > 4100 * r.lim10) else decide (i10 * 4400 ≥ 4300 * r.lim10)
  let hot1m := if r.hot1m then decide (i1m * 4000 > 3850 * r.lim1m) else decide (i1m * 4000 ≥ 3950 * r.lim1m)
  let slope := decide (i > r.iPrev + 40000)
  let begins := (hot10 && !r.hot10) || (hot1m && !r.hot1m)
  let first := slope && !r.slopeSeen
  let s := s.updRegion g fun r => { r with
    i10 := i10, i1m := i1m, iPrev := i, hot10 := hot10, hot1m := hot1m, slope := slope, slopeSeen := r.slopeSeen || slope }
  let s := if begins then s.powerEvent 0xB2 g else s
  if first then s.powerEvent 0xB3 g else s

/-- R331: code 0xB1, once per rail per beat. Rails of a region: 0 logic, 1 store tier. -/
def State.railPassed (s : State) (g rail : Nat) : State :=
  if (s.region g).railSeen.contains rail then s
  else (s.updRegion g fun r => { r with railSeen := insertSet rail r.railSeen }).powerEvent 0xB1 g
def State.stackPassed (s : State) (k : Nat) : State :=
  if (s.stack k).railSeen.contains 0 then s
  else (s.updStack k fun x => { x with railSeen := [0] }).event { code := 0xB1, source := 5, unit := k }
def State.ringPassed (s : State) : State :=
  if s.pwr.railSeen.contains 0 then s
  else ({ s with pwr := { s.pwr with railSeen := [0] } } : State).powerEvent 0xB1 0xFF

/-- R331: the windows of the store-tier, stack and ring rails at a sample. -/
def State.judgeOthers (s : State) (m : Sample) : State :=
  let s := s.each (upTo 32) fun s g =>
    let a := m.store10.getD g 0
    let b := m.store1m.getD g 0
    let s := if (s.region g).iStore10 = a ∧ (s.region g).iStore1m = b then s else s.updRegion g fun r => { r with iStore10 := a, iStore1m := b }
    if a > 640 ∨ b > 530 then s.railPassed g 1 else s
  let s := s.each s.populated fun s k =>
    let p := m.stack1m.getD k 0
    let x := s.stack k
    let w := if x.withhold then decide (p > 30) else decide (p > 32)
    let s := if x.p1m = p ∧ x.withhold = w then s else s.updStack k fun x => { x with p1m := p, withhold := w }
    if p > 32 then s.stackPassed k else s
  let s := { s with pwr := { s.pwr with pRing := m.ring1m, pIn := m.in1m, vIn := m.v.getD 0 0 } }
  if m.ring1m > 350 then s.ringPassed else s

/-- R354 step 2: at the end of a halt one field wakes at a time, in ascending field index. -/
def State.wakeTurnOf (s : State) (g : Nat) : Bool :=
  !(s.region g).wakeTurn || (upTo 32).all fun h => decide (g / 2 ≤ h / 2) || !((s.region h).waking && (s.region h).wakeTurn)

/-- R336: whether a paused wake of a field waits for room. -/
def State.wakePaused (s : State) (f : Nat) : Bool :=
  [2 * f, 2 * f + 1].any fun g => (s.region g).waking && decide ((s.region g).wakeK < 8) && s.wakeTurnOf g && !s.fitsInrush g 250

/-- R331, R339, R340: the field's plane, its waiting requests and its paused wakes at a sample. -/
def State.fieldUs (s : State) (m : Sample) (f : Nat) : State :=
  let a := m.plane10.getD f 0
  let b := m.plane1m.getD f 0
  let x := s.field f
  let s := (x.queue.filter fun q => !q.inrush).foldl (fun s q => s.updRegion q.region fun r => { r with causes := r.causes ||| 4 }) s
  let p := s.wakePaused f
  if x.i18 = a ∧ x.i18m = b ∧ x.queue.isEmpty ∧ !p then s
  else s.updField f fun x => { x with
    i18 := a, i18m := b, queue := x.queue.map (fun q => { q with waited := q.waited + 1 }), wakeWait := x.wakeWait + if p then 1 else 0 }

/-- R228, R229: a microsecond of device time, which the tracking phase shares; each second the branch delays are measured again. -/
def State.tick (s : State) : State :=
  let s1 := s.updTime fun u => { u with now := u.now + 1000, track := u.track + 1000, errAge := u.errAge + 1 }
  if s.time.now / 1000000000 = s1.time.now / 1000000000 then s1 else s1.loopback (s1.time.now / 1000000000)

/-- MONITOR_SAMPLE (R228, R229, R308, R309, R311, R329, R330, R331, R340, R342, R356): every point is sampled, the sample stamped with the device time at hand, and the microsecond passes. -/
def execMonitorSample (m : Sample) (s : State) : Host.Outcome State Fault Refusal :=
  .next <|
    let s := s.tick
    let s := s.each (upTo 32) State.regionUs
    let s := s.each (upTo 16) fun s f => s.fieldUs m f
    let s := if s.boot.meterStop then s else { s with meter := s.meter.sample s.points m }
    let s := s.each (upTo 32) fun s g => s.judgeLogic m g
    (s.judgeOthers m).inputCut 1

/-- R328, R331: the envelopes, judged at the end of a beat's window on its mean power; then the rails may report again. -/
def State.judgeEnvelopes (s : State) : State :=
  let above (p lim : Nat) : Bool := decide (s.meter.energy p > lim * s.beat.len)
  let s0 := s
  let s := s.each (upTo 32) fun s g =>
    let s := if above (1 + g) (s0.region g).env then s.railPassed g 0 else s
    if above (33 + g) 40 then s.railPassed g 1 else s
  let s := s.each (upTo 24) fun s k => if above (65 + k) 32 then s.stackPassed k else s
  let s := if above 89 350 then s.ringPassed else s
  let s := s.each (upTo 32) fun s g =>
    if (s.region g).railSeen.isEmpty && !(s.region g).slopeSeen then s else s.updRegion g fun r => { r with railSeen := [], slopeSeen := false }
  let s := s.each (upTo 24) fun s k => if (s.stack k).railSeen.isEmpty then s else s.updStack k fun x => { x with railSeen := [] }
  { s with pwr := { s.pwr with railSeen := [] } }

/-! ### Wakes (R335, R336) -/

/-- A region that Wenwyn may wake: Dark, and not held off by heat, a halt, a trip, or a device that may not wake any. -/
def State.mayWake (s : State) (g : Nat) : Bool :=
  let r := s.region g
  r.st == .dark && !r.waking && !r.heatOff && !s.therm.halted && !s.therm.tripped && !s.boot.barred && !s.flt.whole &&
    !(s.field (g / 2)).planeOff

/-- A wake begins; `m` for the wake of a moult, `turn` for one at the end of a halt, where the fields take turns (R354). -/
def State.beginWake (s : State) (g : Nat) (m : Bool) (turn : Bool := false) : State :=
  let p := s.opCeil g
  s.updRegion g fun r => { r with waking := true, wakeK := 0, wakeMoult := m, wakeTurn := turn, wakePt := p }

/-- R260 step 8, R354 step 2: every region with WORK or RESERVE begins to wake. -/
def State.wakeImage (s : State) (turn : Bool) : State :=
  s.each (upTo 32) fun s g => if s.inUse g && s.mayWake g then s.beginWake g false turn else s

/-- REGION_WAKE (R24, R335, R336). -/
def execRegionWake (g : Nat) (s : State) : Host.Outcome State Fault Refusal :=
  onRegion g s fun s => s.whenB (s.mayWake g) fun s => s.beginWake g false

/-- R336, R340: the next stage may have its inrush leave: the leave of the stage before it has ended, the room exists, and no
other request comes first. -/
def State.stageReady (s : State) (g : Nat) : Bool :=
  let q := (s.field (g / 2)).queue.filter fun q => !q.inrush
  s.fitsInrush g 250 && !q.any fun x => s.fits x || decide (x.waited ≥ 100)

/-- WAKE_STAGE (R335, R336, R339): the inrush leave of the stage before ends, and the next stage closes under its own; where the
room is missing the sequence pauses. -/
def execWakeStage (g : Nat) (s : State) : Host.Outcome State Fault Refusal :=
  onRegion g s fun s =>
    s.whenB ((s.region g).waking && decide ((s.region g).wakeK < 8) && s.wakeTurnOf g) fun s =>
      let s := s.endGrant g fun x => x.tile == nTiles
      if s.stageReady g then
        let (_, s) := s.grant g nTiles 250 none 0
        s.updRegion g fun r => { r with wakeK := r.wakeK + 1 }
      else s

/-- WAKE_COMPLETE (R23, R24, R236, R335, R336): the logic reset completes; the region is Stopped, or Moulting, with its tables and
deep store restaged. -/
def execWakeComplete (g : Nat) (s : State) : Host.Outcome State Fault Refusal :=
  onRegion g s fun s =>
    let r := s.region g
    s.whenB (r.waking && r.wakeK == 8) fun s =>
      let s := s.endGrant g fun x => x.tile == nTiles
      let s := s.updRegion g fun r => { r with
        st := (if r.wakeMoult then .moulting else .stopped), waking := false, wakeK := 0, wakeMoult := false, wakeTurn := false, op := r.wakePt,
        railOp := r.wakePt, wakeAt := s.time.now + 50000, marked := false, cyc := 0, strE := 0, strP := 0, stopNs := 0, lag := 0, trim := 0 }
      if r.wakeMoult then s.event { code := 0x9A, region := g, handle := (match r.moult with | some m => m.handle | none => 0) }
      else (s.restage g).writeClkLists

/-! ### Failures of supplies (R346 to R348) -/

/-- R24, R346 to R348: a region becomes Unusable, a loss for the image (R269) and an item of the next instar (R451). -/
def State.unusable (s : State) (g code d0 d1 : Nat) (deep : Bool) : State :=
  let s := (s.regionDown g .unusable deep).powerEvent code g d0 d1
  (s.addCommit 7 [{ kind := 8, val := 5, id := g }]).regionLoss g 7

/-- PHASE_FAILURE (R346, R450): phase `i` is turned off; two derate the region, three lose it. `cur` in 0.1 A. -/
def execPhaseFailure (g i cause cur : Nat) (s : State) : Host.Outcome State Fault Refusal :=
  onRegion g s fun s =>
    s.whenB (decide (i < 24 ∧ cause < 4) && !bitOf (s.region g).phases i) fun s =>
      let s := s.updRegion g fun r => { r with phases := r.phases + 2 ^ i }
      let n := popCount32 (s.region g).phases
      let s := (s.powerEvent 0xB6 g (i + cause * 2 ^ 8 + n * 2 ^ 16) cur).addCommit 0 [{ kind := 6, val := i, id := g }]
      let s := s.queueMoult g 0
      if n = 2 then (s.powerEvent 0xB7 g).budgets
      else if n = 3 then s.unusable g 0xB8 0 0 false
      else s

/-- LOGIC_SHORT_CIRCUIT (R347): the rail's current, 0.1 A, above 880 A for 200 ns. -/
def execLogicShortCircuit (g cur : Nat) (s : State) : Host.Outcome State Fault Refusal :=
  onRegion g s fun s => s.whenB (decide (cur > 8800)) fun s => s.unusable g 0xB9 0 0 false

/-- STORE_SHORT_CIRCUIT (R348): a store-tier rail, or a field's 1.8 V plane with both regions of the field. -/
def execStoreShortCircuit (w : StoreShort) (s : State) : Host.Outcome State Fault Refusal :=
  onUnit (match w with | .store g => g < 32 | .plane f => f < 16) s fun s =>
    match w with
    | .store g => s.unusable g 0xBA 0 0 true
    | .plane f =>
      let s := s.updField f fun x => { x with planeOff := true }
      (s.unusable (2 * f) 0xBA 0 0 true).unusable (2 * f + 1) 0xBA 0 0 true

end Sys2Proof.Machine
end

