-- ==== Sys2Proof/Machine/Heat.lean ====
section
/-!
DEFINITION. Temperature and coolant (R349 to R356): thresholds, throttle, switch-off, trip and halt.
-/

namespace Sys2Proof.Machine

/-- Degrees as the sensors report them, 0.01 °C. -/
def deg (n : Int) : Int := n * 100

def maxOf (l : List Int) : Int := l.foldl max (l.headD 0)

/-- R349: a region's temperature is the highest of its five sensors. -/
def Region.temp (r : Region) : Int := maxOf r.temps

/-- THERMAL_TRIP (R352): in hardware; it stands until a reset. Every request in flight ends with END 0x45. -/
def State.trip (s : State) : State :=
  if s.therm.tripped then s
  else
    let s := { s with therm := { s.therm with tripped := true }, pins := { s.pins with thermtrip := true } }
    ((s.allDown.endAll 0x45).powerEvent 0xBD 0xFF).alert 8

/-- R353, R356: the halt on loss of coolant flow, or of an HBM stack at 95 °C. -/
def State.halt (s : State) (hbm : Bool) : State :=
  if s.therm.tripped then s
  else if s.therm.halted then { s with therm := { s.therm with hbmHalt := s.therm.hbmHalt || hbm } }
  else
    let s := { s with therm := { s.therm with halted := true, hbmHalt := hbm, halts := s.therm.halts + 1 } }
    ((s.allDown.mapReqs fun q => if q.live then { q with why := firstWhy q.why 0x26 } else q).powerEvent 0xBE 0xFF).alert 16

/-- COOLANT_LOSS (R353). -/
def execCoolantLoss (s : State) : Host.Outcome State Fault Refusal :=
  .next (({ s with pins := { s.pins with coolantOk := false }, therm := { s.therm with coolant := false } } : State).halt false)

/-- R349: the temperatures under which a halt ends. -/
def State.coolEnough (s : State) : Bool :=
  ((upTo 32).all fun g => decide ((s.region g).temp < deg 90)) && decide (maxOf s.therm.ring < deg 90) &&
  (upTo 24).all fun k => (s.stack k).st == 0 || decide ((s.stack k).temp < deg 80)

/-- R355: the throttle of a region at the end of a halt, whose temperatures are below every threshold: it ends. -/
def State.dropThrottle (s : State) (g : Nat) : State :=
  let r := s.region g
  if !r.hotThr && r.thPt == 0 then s
  else
    let s := s.updRegion g fun r => { r with hotThr := false, thStr := 0, thPt := 0, hotRun := 0, cool := false }
    if r.hotThr then s.powerEvent 0xBB g else s

/-- HALT_END (R354): coolant has flowed for 1 s and the temperatures allow it. The wakes of the regions begin, field by field, and the
clean restart follows them; the cuts are applied anew (R355). -/
def execHaltEnd (s : State) : Host.Outcome State Fault Refusal :=
  .next (s.whenB (s.therm.halted && !s.therm.tripped && s.coolEnough) fun s =>
    let s := { s with
      therm := { s.therm with halted := false, hbmHalt := false, coolant := true }, pins := { s.pins with coolantOk := true },
      flt := { s.flt with restart := s.flt.restart || s.img.loaded.isSome } }
    let s := s.each (upTo 24) fun s k => if (s.stack k).selfRef then s.updStack k fun x => { x with selfRef := false } else s
    ((s.each (upTo 32) State.dropThrottle).budgets.powerEvent 0xBE 0xFF).wakeImage true)

/-- R350: a region at 105 °C is stretched and moved one point lower. -/
def State.throttleOn (s : State) (g : Nat) : State :=
  let s := s.updRegion g fun r => { r with hotThr := true, thStr := 2, thPt := min 5 (r.op + 1), hotRun := 0, cool := false }
  (s.powerEvent 0xBB g).retarget g

/-- R349, R350, R355: one reading of a region; a trip or a halt of the same reading wins over a throttle (`calm` is unset). -/
def State.readRegion (s : State) (calm : Bool) (g : Nat) (l : List Int) : State :=
  let l := (upTo 5).map fun i => l.getD i 0
  let t := maxOf l
  let r := s.region g
  let run := if r.hotThr ∧ t ≥ deg 105 ∧ r.op = 5 then r.hotRun + 1 else 0
  let deeper := run ≥ 10
  let s := s.updRegion g fun r => { r with
    temps := l, hotSince := (if t ≥ deg 110 then (if r.hotSince = 0 then max 1 s.time.now else r.hotSince) else 0),
    cool := r.cool && decide (t < deg 100), hotRun := (if deeper then 0 else run),
    thStr := if deeper then min 8 (r.thStr + 1) else r.thStr }
  if calm ∧ t ≥ deg 105 ∧ !r.hotThr ∧ r.st = .active then s.throttleOn g else s

/-- R349: one reading of a stack, code 0xBF as it passes 85 °C and as it falls below 80 °C. A move of 5 °C from the last training asks
for the retraining of every channel (R212). -/
def State.readStack (s : State) (k : Nat) (t : Int) : State :=
  let x := s.stack k
  if x.st = 0 then s
  else
    let hot := if x.hot85 then decide (t ≥ deg 80) else decide (t ≥ deg 85)
    let moved := decide (x.st = 1 ∧ (t - x.trainT).natAbs ≥ 500)
    let s := s.updStack k fun x => { x with
      temp := t, hot85 := hot, trainT := (if moved then t else x.trainT),
      drift := if moved then (upTo 16).filter (bitOf x.live) else x.drift }
    if hot == x.hot85 then s else s.event { code := 0xBF, source := 5, unit := k }

/-- SENSOR_READ (R349, R350, R352, R353): every sensor is read and judged. -/
def execSensorRead (m : Sensors) (s : State) : Host.Outcome State Fault Refusal :=
  .next <|
    let ring := (upTo 4).map fun i => m.ring.getD i 0
    let tops := ((upTo 32).any fun g => decide (maxOf ((upTo 5).map fun i => (m.regions.getD g []).getD i 0) ≥ deg 120)) ||
      decide (maxOf ring ≥ deg 120) || (upTo 24).any fun k => (s.stack k).st != 0 && decide (m.stks.getD k 0 ≥ deg 105)
    let hot := (upTo 24).any fun k => (s.stack k).st != 0 && decide (m.stks.getD k 0 ≥ deg 95)
    let s := s.each (upTo 32) fun s g => s.readRegion (!tops && !hot) g (m.regions.getD g [])
    let s := { s with therm := { s.therm with ring := ring } }
    let s := s.each (upTo 24) fun s k => s.readStack k (m.stks.getD k 0)
    if tops then s.trip else if hot then s.halt true else s

/-- R350, at a nominal mark: a region still at 105 °C moves one point further down; one that has stayed below 100 °C from the mark
before is no longer stretched, and rises by a step at this and each later beat. -/
def State.heatMark (s : State) (g : Nat) : State :=
  let r := s.region g
  if !r.hotThr && r.thPt == 0 then s
  else if r.hotThr && decide (r.temp ≥ deg 105) then
    (s.updRegion g fun r => { r with thPt := min 5 (r.thPt + 1), cool := false }).retarget g
  else if r.hotThr && r.cool then
    ((s.updRegion g fun r => { r with hotThr := false, thStr := 0, thPt := r.thPt - 1, cool := false }).powerEvent 0xBB g).retarget g
  else if r.hotThr then s.updRegion g fun r => { r with cool := decide (r.temp < deg 100) }
  else (s.updRegion g fun r => { r with thPt := r.thPt - 1 }).retarget g

/-- HEAT_SWITCH_OFF (R351, R358): a region at or above 110 °C for 1 s is switched off for heat, and is a loss for the image. -/
def execHeatSwitchOff (g : Nat) (s : State) : Host.Outcome State Fault Refusal :=
  onRegion g s fun s =>
    let r := s.region g
    s.whenB (decide (r.temp ≥ deg 110 ∧ r.hotSince ≠ 0) && decide (r.st.code ≤ 3) && !r.heatOff) fun s =>
      (((s.heatDown g).updRegion g fun r => { r with heatOff := true, hotThr := false, thStr := 0, thPt := 0 }).powerEvent 0xBC g).regionLoss g 7

/-- HEAT_REWAKE (R351): every sensor of the region has been below 90 °C for 10 s, and Wenwyn wakes it. -/
def execHeatRewake (g : Nat) (s : State) : Host.Outcome State Fault Refusal :=
  onRegion g s fun s =>
    s.whenB ((s.region g).heatOff && decide ((s.region g).temp < deg 90)) fun s =>
      let s := s.updRegion g fun r => { r with heatOff := false }
      s.whenB (s.mayWake g) fun s => s.beginWake g false

end Sys2Proof.Machine
end

