-- ==== Sys2Proof/Machine/ScalarCore.lean ====
section
/-!
DEFINITION. The S-core's schedule primitives (R131 to R136), but for BWAIT, which stands with the beats. Every other S-core instruction takes a fixed number of cycles
and has no command here.
-/

namespace Sys2Proof.Machine

/-- A primitive of the S-core begins only when none is in progress (R132). -/
def State.sFree (s : State) (t : Nat) : Bool :=
  let x := s.tile t
  s.runs t && x.waitB.isNone && x.recvWait.isNone && !x.leaveWait &&
    !(x.sends.any fun c => match c.2 with | some d => d.kind == .core && !d.waiting | none => false)

/-- R133, R231: the S-core stops with a beat loss. -/
def State.beatLossAt (s : State) (t n : Nat) : State := s.coreFault t 0x72 0 0 n

/-- LEAVE (R134, R337 to R340). A planned entry is granted when it fits its region's budget; KIND 2 and unplanned requests
are tested under R339 and wait in the steward's queue. -/
def execLeave (t : Nat) (arg : LeaveArg) (s : State) : Host.Outcome State Fault Refusal :=
  onS t s fun s =>
    s.whenB (s.sFree t) fun s =>
      let g := tileRegion t
      let r := s.region g
      match arg with
      | .planned e =>
        match (s.field (tileField t)).leave.find? (fun l => l.entry == e) with
        | none => s.answerLeave t rRefused 0
        | some l =>
          if l.region ≠ g then s.answerLeave t rRefused 0
          else if l.kind = 2 then
            if s.fitsInrush g l.inc && (s.field (tileField t)).queue.isEmpty then
              let (n, s) := s.grant g t l.inc (some e) 0
              s.answerLeave t rGranted n
            else s.queueLeave t l.inc 0 0 true
          else if r.committed + l.inc ≤ r.j then
            let (n, s) := s.grant g t l.inc (some e) l.start
            s.answerLeave t rGranted n
          else s.answerLeave t rRefused 0
      | .unplanned a us bound =>
        let inc := 10 * a
        if a = 0 ∨ a > 440 ∨ us = 0 ∨ us > 1000 then (s.answerLeave t rRefused 0).leaveEvent t inc us
        else (s.queueLeave t inc us bound false).serveLeave (tileField t)

/-- LEAVE_END (R132, R338): ends a grant that this S-core's region holds. -/
def execLeaveEnd (t : Nat) (arg : LeaveRef) (s : State) : Host.Outcome State Fault Refusal :=
  onS t s fun s =>
    s.whenB (s.sFree t) fun s =>
      s.endGrant (tileRegion t) fun x =>
        match arg with
        | .entry e => x.entry == some e
        | .grant n => x.n == n

/-- R132, R181, R183: the operands that a SEND can name: one to four words, one of the 64 registers, a bound of the convention. -/
def sendOk (rr : Nat) (words : List W64) (bound : Nat) : Bool :=
  decide (rr < 64 ∧ 1 ≤ words.length ∧ words.length ≤ 4 ∧ 1 ≤ bound ∧ bound ≤ 1023)

/-- SEND (R132, R135, R180 to R183): one to four words on the channel of route register `rr`. -/
def execSend (t rr : Nat) (words : List W64) (bound : Nat) (s : State) : Host.Outcome State Fault Refusal :=
  onS t s fun s => s.whenB (s.sFree t && sendOk rr words bound) fun s => s.sendOn t rr .core words bound

/-- A RECV in progress takes the oldest message of its endpoint, if one is held. -/
def State.takeRecv (s : State) (t : Nat) : State :=
  let x := s.tile t
  match x.recvWait with
  | none => s
  | some e =>
    match Tab.get [] x.eps e with
    | [] => s
    | m :: r =>
      s.updTile t fun x => { x with
        eps := Tab.put [] x.eps e r, recvWait := none, rcvd := m, result := rMessage }

/-- RECV (R132, R135): takes the oldest message of endpoint `ep`, or waits up to its bound. -/
def execRecv (t ep _bound : Nat) (s : State) : Host.Outcome State Fault Refusal :=
  onS t s fun s =>
    s.whenB (s.sFree t && decide (ep < 16)) fun s => (s.updTile t fun x => { x with recvWait := some ep }).takeRecv t

/-- RECV_BOUND_EXPIRY (R132): EMPTY. -/
def execRecvBoundExpiry (t : Nat) (s : State) : Host.Outcome State Fault Refusal :=
  onS t s fun s =>
    s.whenB (s.tile t).recvWait.isSome fun s =>
      s.updTile t fun x => { x with recvWait := none, rcvd := [], result := rEmpty }

/-- The S-core is its region's supervisor (R21). -/
def State.isSup (s : State) (t : Nat) : Bool := (s.region (tileRegion t)).sup == tileCode t

/-- R136, R267, R371: a supervisor's fence: the ports of the tile are fenced, the fence is due for the next instar, and the repair of an
image that uses the tile is due. -/
def State.supFence (s : State) (u : Nat) : State :=
  if s.flt.hwFenced.contains u then s.fenceTile u else (s.fenceUnit u 5).addTodo 5 (.patch u)

/-- FENCE (R136, R185, R267): fences every port facing a tile of the supervisor's own region. On any other S-core or tile it is
a fault, whose code the manual does not give: a free value (log entry 26). -/
def execFence (t target : Nat) (s : State) : Host.Outcome State Fault Refusal :=
  onS t s fun s =>
    s.whenB (s.sFree t) fun s =>
      if s.isSup t && decide (target < nTiles) && tileRegion target == tileRegion t then
        (s.supFence target).updTile t fun x => { x with result := rDone }
      else
        let (c, s) := s.fresh 8
        s.coreFault t c 0 0

end Sys2Proof.Machine
end

