-- ==== Sys2Proof/Machine/Supervision.lean ====
section
/-!
DEFINITION. The region supervisors and Wenwyn's first acts on their reports (R137 to R140, R358, R360).
-/

namespace Sys2Proof.Machine

/-! ### Fault reports -/

/-- R365: the unit that the supervisors' maps name, and whether it has a second core (R369). -/
def producerUnit : Producer → Nat
  | .mcore t => t
  | .other t => t
  | .engine e => nTiles + e
def producerAlone : Producer → Bool
  | .mcore _ => false
  | _ => true
def producerOk : Producer → Bool
  | .mcore t => t < nTiles
  | .other t => t < nTiles
  | .engine e => e < 96

/-- R384: SOURCE of a report: a router for the fabric codes, else the tile. -/
def sourceOf (code : Nat) : Nat := if 0x51 ≤ code ∧ code ≤ 0x57 then 1 else 0

/-- R244, R245: the region is late: its mark of the present beat came late, or is still to come. -/
def State.lateRegion (s : State) (g : Nat) : Bool :=
  let r := s.region g
  r.st == .active && r.marked && (r.markOf != s.beat.count || decide (r.lateCyc > 0))

/-- R189: the report is that of the router nearest the cause. -/
def nearest (r : Report) : Bool :=
  r.code != 0x53 || decide (bits r.w0 10 8 ≥ 4) || bits r.w0 35 32 != 15

/-- The key by which two program faults are the same: code, tile, and the command index (or the label of 0x57). -/
def progKey (r : Report) : Nat × Nat × Nat := (r.code, r.tile, if r.code = 0x57 then r.w0 else bits r.w0 25 16)

/-- R161: the row that a memory report names. -/
def reportRow (r : Report) : Nat :=
  if bitOf r.w0 8 then deepRow r.tile (bits r.w0 31 16) else spadRow r.tile (bits r.w0 31 16)

/-- R358: the path of a report's class: what Wenwyn puts on its list. A supervisor's own core that stops is replaced at once
(R139). -/
def State.faultPath (s : State) (g : Nat) (r : Report) (p : Producer) (conseq : Bool) : State :=
  let sup := (s.region g).sup == tileCode r.tile
  match classOf r.code with
  | some 1 =>
    let s := s.stopAfter r.tile (bits r.w0 10 8) (bits r.w0 19 12) (bits r.w0 35 32)
    s.openDispute { digest := true, producer := producerUnit p, noSecond := producerAlone p, pass := r.w0, checker := r.tile,
                    orig := r.w2, chk := r.w3, beat := s.beat.count, age := 0 }
  | some 2 =>
    let s :=
      if r.code = 0x42 ∨ r.code = 0x44 then (s.countUe r.tile 2).addTodo 2 (.rewrite (reportRow r))
      else if r.code = 0x0A ∨ r.code = 0x0B then s.addTodo 2 (.restage r.tile)
      else s.addTodo 2 (.rewrite 0)
    if r.code = 0x32 ∧ sup then s.promote g 5 else s
  | some 3 =>
    if conseq then
      if nearest r then { s with flt := { s.flt with stallHold := (r.tile, 0) :: s.flt.stallHold.filter (fun c => c.1 != r.tile) } } else s
    else s.addTodo 3 (if r.code = 0x27 ∨ r.code = 0x54 then .chan r.tile else .strike r.tile)
  | some 4 =>
    if r.code = 0x31 ∧ sup then s.promote g 4
    else if s.beat.replay ∧ s.flt.progSeen = some (progKey r) then s.addTodo 4 (.declare r.tile)
    else ({ s with flt := { s.flt with progSeen := some (progKey r) } } : State).addTodo 4 (.rewrite 0)
  | some 5 => s.addTodo 5 (if sup then .promote g else .fence r.tile)
  | some 6 => s.addTodo 6 .replay
  | _ => s

/-- A region whose supervisor can send. -/
def State.supRuns (s : State) (g : Nat) : Bool :=
  s.active g && (match tileOfCode (s.region g).sup with | some t => s.runs t | none => false)

/-- R137, R139: the supervisor forwards the report; one about the supervisor itself reaches Wenwyn without it. -/
def State.canForward (s : State) (g : Nat) (r : Report) : Bool := s.supRuns g || (s.region g).sup == tileCode r.tile

/-- FAULT_REPORT (R137, R140, R358, R360, R384): the supervisor takes its oldest report, stamps it and forwards it; Wenwyn
writes its record and starts its path. -/
def execFaultReport (g : Nat) (prod : Producer) (s : State) : Host.Outcome State Fault Refusal :=
  onUnit (g < 32 && producerOk prod) s fun s =>
    match (s.region g).reports with
    | [] => s
    | r :: rest =>
      s.whenB (s.canForward g r) fun s =>
        let s := s.updRegion g fun x => { x with reports := rest }
        let conseq := classOf r.code == some 3 && (!nearest r || s.lateRegion (unitRegion (producerUnit prod)))
        let act := match classOf r.code with
          | some 1 => 2
          | some _ => if conseq then 0 else 1
          | none => 0
        let s := s.event { code := r.code, region := g, source := sourceOf r.code, tile := some r.tile, d0 := r.w0, d1 := r.w1, d2 := r.w2,
                           d3 := r.w3, action := act, conseq := conseq }
        s.faultPath g r prod conseq

/-! ### Beat reports -/

/-- The counters of R110, R162 and R190, numbered 1 to 21 in the order of 0x7040. -/
def counterIds : List Nat := (upTo 21).map (· + 1)

/-- The sum of one counter over tiles. -/
def State.sumOf (s : State) (ts : List Nat) (k : Nat) : Nat := ts.foldl (fun n t => n + Tab.get 0 (s.tile t).ctr k) 0

/-- Counters are cleared as an S-core reads them. -/
def State.clearCtrs (s : State) (ts : List Nat) : State :=
  s.each ts fun s t => if (s.tile t).ctr.isEmpty then s else s.updTile t fun x => { x with ctr := [] }

/-- R138, the first stage, after a region mark: each running S-core reads and clears the counters of its cluster, and sends them to the
supervisor. -/
def State.gather (s : State) (g : Nat) : State :=
  s.each ((regionTiles g).filter fun t => tileKind t == .s && s.runs t) fun s t =>
    let ts := clusterTiles t
    (s.clearCtrs ts).updRegion g fun r => { r with
      gathered := counterIds.foldl (fun (m : Tab Nat) k => Tab.upd 0 m k (· + s.sumOf ts k)) r.gathered }

/-- BEAT_REPORT (R137, R138, R162, R190, R242, R243): once for each region mark: the sums of the counters gathered, and the figures of the
beat. -/
def execBeatReport (g : Nat) (s : State) : Host.Outcome State Fault Refusal :=
  onRegion g s fun s =>
    s.whenB (s.supRuns g && (s.region g).repDue) fun s =>
      let s := s.updRegion g fun r => { r with
        sums := r.gathered, tele := counterIds.foldl (fun (m : Tab Nat) k => Tab.upd 0 m k (fun n => (n + Tab.get 0 r.gathered k) % 2 ^ 64)) r.tele,
        gathered := [], rep := r.figs, repDue := false, sentRep := true, silent := 0 }
      let f := (s.region g).figs
      if f.strP * 100 > f.cyc then s.event { code := 0x76, region := g, source := 2 } else s

/-- SUPERVISOR_SILENCE (R139, R358): after two beats without a beat report, the supervisor's tile is fenced, the standby promoted
and a new instar committed. -/
def execSupervisorSilence (g : Nat) (s : State) : Host.Outcome State Fault Refusal :=
  onRegion g s fun s =>
    s.whenB (s.active g && decide ((s.region g).silent ≥ 2)) fun s => ((s.promote g 5).updRegion g fun r => { r with silent := 0 }).commitIfDue

/-- Sends that a restarted core no longer waits for: its own that are to be tried again, or have passed their bound. -/
def Snd.dropped (d : Snd) : Bool := (d.waiting || d.stalled) && d.kind != .notice && d.kind != .report

/-- CORE_RESTART (R92, R130, R137): the supervisor restarts a stopped M-core or V-core at a command index; a status
tuple it keeps (R183) is sent by the command that sends it. -/
def execCoreRestart (t ix : Nat) (s : State) : Host.Outcome State Fault Refusal :=
  onUnit (isTile .m t || isTile .v t) s fun s =>
    s.whenB ((s.tile t).stopped && s.supRuns (tileRegion t) && s.usable t && decide (ix < 1024)) fun s =>
      let free := ((s.tile t).sends.filter fun c => c.2.any Snd.dropped).map (·.1)
      let s := s.updTile t fun x => { x with
        stopped := false, seqIx := ix, posted := false, sends := x.sends.filter fun c => !c.2.any Snd.dropped }
      s.each free fun s rr => s.sendNext t rr

end Sys2Proof.Machine
end

