-- ==== Sys2Proof/Machine/Beats.lean ====
section
/-!
DEFINITION. Beats and clocks (R226 to R245): the nominal mark and all that it ends and begins, the region marks, the loss of the
time word or of a clock, frequency changes and stretches.
-/

namespace Sys2Proof.Machine

/-! ### Requests at the end of a beat (R291, R298, R301, R302) -/

/-- What the work of beat `n`, when it has run to its end, does to a request. A token that has not come yet is owed (R244). -/
def State.advanced (s : State) (n r : Nat) (q : Req) : Req :=
  let k := if s.carries n r q then s.chunkIn n r q else 0
  let q' := match q.stage with
    | .decode => if q.yielded || q.due then { q with cached := q.cached + 1 } else q
    | .prompt =>
      { q with fed := q.fed + k, cached := q.cached + k,
               phase := if q.phase == ReqPh.prefill && decide (q.fed + k ≥ subP q.sub) then .decoding else q.phase }
    | .rebuild =>
      let tokens := q.nextIx - if q.yielded then 1 else 0
      if k = 0 then q
      else if q.fed + k ≥ subP q.sub + tokens then
        { q with fed := subP q.sub, cached := subP q.sub + tokens, rebuildT := 0,
                 phase := if q.phase == ReqPh.rebuilding then .decoding else q.phase }
      else { q with fed := q.fed + k, cached := q.cached + k }
  { q' with yielded := false, owes := q.owes + if q.due then 1 else 0, due := false }

/-- The request's last beat has ended: its last token, or the end of its work, lies in beat `n` or before. -/
def Req.above (q : Req) (n : Nat) : Bool :=
  q.live && q.wait.isEmpty && q.owes == 0 && ((q.phase != .cancelling && q.endR != 0 && decide (q.endBeat ≤ n)) || (q.phase == .cancelling && decide (q.cut ≤ n + 1)))

/-- R296, R298, R318: a request whose last beat has ended is complete; its meter record waits for the round. -/
def State.closeReq (s : State) (r : Nat) : State :=
  match s.req r with
  | none => s
  | some q =>
    let q : Req := { q with phase := .complete, due := false, susp := false }
    let s := ((s.updReq r fun _ => q).unbook r 0).journalEnd q
    let s := s.updMeter fun u => { u with pend := u.pend ++ [s.reqRec q] }
    s.finish q.handle (if q.endR = 0x40 ∨ q.endR = 0x41 ∨ q.endR = 0x43 then 2 else 3) q.endR

/-- A request's bookings have moved: it is re-timed from its last one (R295). -/
def State.retimeBooked (s : State) (r : Nat) : State :=
  s.updReq r fun q => q.retimeFor (s.expectBeat r q + 1) 0x21

/-- A booking leaves beat `n` of a lane for the next beat from `from_` that R291 allows with `top` in any 8 beats. -/
def State.moveBooking (s : State) (n brood from_ top : Nat) : State :=
  match Tab.get 0 s.adm.book (bookKey n brood) with
  | 0 => s
  | v + 1 =>
    let book := Tab.put 0 s.adm.book (bookKey n brood) 0
    let (_, book) := bookFrom brood top v (bookFuel book 1) 1 from_ book
    ({ s with adm := { s.adm with book := book } } : State).retimeBooked v

/-- R301: the chunk of a beat that did not run to its end takes the next beat; one booked there gives way into the reserve. -/
def State.slipBooking (s : State) (n brood : Nat) : State :=
  match Tab.get 0 s.adm.book (bookKey n brood) with
  | 0 => s
  | v + 1 =>
    let s := s.moveBooking (n + 1) brood (n + 2) 8
    let book := Tab.put 0 (Tab.put 0 s.adm.book (bookKey n brood) 0) (bookKey (n + 1) brood) (v + 1)
    ({ s with adm := { s.adm with book := book } } : State).retimeBooked v

/-- Lanes of the loaded image. -/
def State.lanes (s : State) : List Nat := match s.img.loaded with | some i => upTo (hBroods i.hdr) | none => []

/-- R269, R302: a rebuilding sequence whose slot the placement no longer runs takes a free slot, in the order of admission. -/
def State.findSlot (s : State) (r : Nat) : State :=
  match s.req r, s.img.loaded with
  | some q, some i =>
    if !(q.live && q.stage == .rebuild && !s.slotRuns q) then s
    else
      let l := i.buckets.filter fun b => b.model == subModel q.sub && decide (subP q.sub + subN q.sub ≤ b.ctx)
      match l.findSome? fun b => ((s.broodsOf b).findSome? fun k => s.freeSlot b k).map fun slot => (b.num, slot) with
      | none => s
      | some (b, slot) =>
        (s.updReq r fun q => { q with bucket := b, slot := slot, rebuildT := max q.rebuildT (s.beat.count + 1) }).resumeRebuild r 0x23
  | _, _ => s

/-- R302: rebuild chunks take the lane of beat `n` ahead of a prompt booking. -/
def State.displace (s : State) (n brood : Nat) : State :=
  if (s.laneRebuild n brood).isSome then s.moveBooking n brood (n + 1) s.bookTop else s

/-- The requests at the mark that ends beat `n`. -/
def State.endBeatReqs (s : State) (n : Nat) (ok : Bool) : State :=
  let s0 := s
  let s := if ok then { s with reqs := s.reqs.map fun c => (c.1, c.2.map fun q => if q.live then s0.advanced n c.1 q else q) }
    else s.each s.lanes fun s b => s.slipBooking n b
  s.each ((s.reqList.filter fun c => c.2.above n).map (·.1)) State.closeReq

/-- R204: the tables of a slot for beat `n`: the length, and the page entries that the beat's step reaches. -/
def State.kvSlot (s : State) (n r : Nat) (q : Req) : State :=
  let top := (q.cached + max 1 (s.chunkIn n r q) - 1) / 64
  let pages := ((q.frames.take (top + 1)).zipIdx).foldl (fun (m : Tab W32) c =>
    Tab.put 0 m (4096 * q.slot + c.2) (BitVec.ofNat 32 (2 ^ 31 + c.1 % 2 ^ 24))) s.adm.pages
  { s with adm := { s.adm with pages := pages, lens := Tab.put none s.adm.lens (2 * q.slot + n % 2) (some q.cached) } }

/-- R204: the copy of the length table for the beat that begins, and the page entries; those of slots that no sequence holds any more are
cleared (log entry 83). -/
def State.kvTables (s : State) : State :=
  let n := s.beat.count
  let held (slot : Nat) : Bool := s.reqList.any fun c => c.2.live && c.2.slot == slot
  let s := { s with adm := { s.adm with
    lens := s.adm.lens.filter fun (c : Nat × Option Nat) => c.1 % 2 != n % 2,
    pages := s.adm.pages.filter fun (c : Nat × W32) => held (c.1 / 4096) } }
  (s.reqList.filter fun c => s.carries n c.1 c.2).foldl (fun s c => s.kvSlot n c.1 c.2) s

/-- The requests at the mark that begins the present beat: lanes are handed out, and tokens fall due (R291). -/
def State.beginBeatReqs (s : State) : State :=
  let n := s.beat.count
  let s := s.each (s.reqList.map (·.1)) State.findSlot
  let s := s.each s.lanes fun s b => s.displace n b
  let s := { s with adm := { s.adm with book := s.adm.book.filter fun c => decide (n ≤ c.1 / 64 + 8) } }
  let s1 := s
  let s : State := { s with reqs := s.reqs.map fun c => (c.1, c.2.map fun q => { q with due := q.live && !q.yielded && (q.endR == 0 || q.phase == .cancelling) && s1.samples n c.1 q }) }
  s.kvTables

/-! ### Beat losses (R231, R358) -/

/-- S-cores of a region that take part in its marks (R230). -/
def State.sCores (s : State) (g : Nat) : List Nat :=
  (regionTiles g).filter fun t => tileKind t == .s && s.runs t && !(s.tile t).store.isEmpty

/-- The mark of the present beat has been asserted. -/
def State.hasMark (s : State) (g : Nat) : Bool := (s.region g).marked && (s.region g).markOf == s.beat.count

/-- R231: the mark of the present beat was not asserted before the next nominal mark. -/
def State.missedMark (s : State) (g : Nat) : Bool := s.active g && decide (s.beat.count ≥ 1) && !s.hasMark g && !(s.sCores g).isEmpty

def State.loseBeat (s : State) (g : Nat) : State :=
  let s := s.each (s.sCores g) fun s t => s.beatLossAt t s.beat.count
  { s with beat := { s.beat with losses := s.beat.losses + 1 } }

/-! ### What else a nominal mark does -/

/-- R139: beats without a beat report. -/
def State.countSilence (s : State) (g : Nat) : State :=
  let r := s.region g
  let n := if r.st != .active || r.sentRep then 0 else r.silent + 1
  if r.silent = n ∧ !r.sentRep then s else s.updRegion g fun r => { r with silent := n, sentRep := false }

/-- R360: stalls taken for consequences; one that stands for two beats with every mark on time is acted on. -/
def State.ageStalls (s : State) : State :=
  let onTime : Bool := (upTo 32).all fun g => !s.active g || (s.hasMark g && (s.region g).lateCyc == 0)
  let held := s.flt.stallHold.filter fun c => !(s.tile c.1).stalls.isEmpty
  let aged := held.map fun c => (c.1, if onTime then c.2 + 1 else 0)
  let s := { s with flt := { s.flt with stallHold := aged.filter fun c => decide (c.2 < 2) } }
  (aged.filter fun c => decide (c.2 ≥ 2)).foldl (fun s c => s.addTodo 3 (.strike c.1)) s

/-- R359, R267, R269: what a clean restart waits for is done. -/
def State.restartReady (s : State) : Bool :=
  s.flt.restart && s.boot.commitDue.isEmpty && !s.therm.halted && !s.therm.tripped &&
  (s.flt.todo.all fun c => match c.2 with | .stack _ => true | _ => false) &&
  (upTo 32).all fun g => !s.inUse g || (s.region g).lost || decide ((s.region g).st.code ≤ 1)

/-- R239, R333: after a nominal mark: a rise of the next beat stands already, and a fall follows from the mark of n + 1. -/
def State.rampRail (s : State) (g : Nat) : State :=
  let r := s.region g
  let p := if r.opPend ≠ 0xFF ∧ r.opPend < r.op ∧ r.opPendBeat ≤ s.beat.count + 1 then r.opPend else r.op
  if p = r.railOp then s else s.updRegion g fun r => { r with railOp := p }

/-- R334: a written MARGIN_MODE takes effect; leaving it returns every rail to V_SET. -/
def State.marginMark (s : State) : State :=
  match s.pwr.legacyReq with
  | none => s
  | some m =>
    let s := { s with pwr := { s.pwr with legacy := m, legacyReq := none } }
    if m then s else s.each (upTo 32) fun s g => if (s.region g).trim = 0 then s else s.updRegion g fun r => { r with trim := 0 }

/-- R215: Wenwyn reads the counters of stacks and engines, which clears them. -/
def addTele (tele ctr : Tab Nat) : Tab Nat := ctr.foldl (fun (t : Tab Nat) c => Tab.upd 0 t c.1 fun n => (n + c.2) % 2 ^ 64) tele
def State.readHbm (s : State) : State :=
  let s := s.each (upTo 24) fun s k =>
    if (s.stack k).ctr.isEmpty && !(s.stack k).ceSeen then s
    else s.updStack k fun x => { x with tele := addTele x.tele x.ctr, ctr := [], ceSeen := false }
  s.each (upTo 96) fun s e => if (s.engine e).ctr.isEmpty then s else s.updEngine e fun x => { x with tele := addTele x.tele x.ctr, ctr := [] }

/-- R260, R390: admission opens at the first nominal mark after a load, unless every region is barred from wake. -/
def State.firstMark (s : State) : State :=
  if s.img.firstMark && !s.boot.barred then
    { s with img := { s.img with firstMark := false }, adm := { s.adm with isOpen := true, why := 0 } }
  else s

/-- Device time has come to `m` ns, unless it is past it (R218). -/
def TimeUnit.reach (u : TimeUnit) (m : Nat) : TimeUnit := { u with now := max u.now m, track := u.track + ((m - u.now : Nat) : Int), errAge := u.errAge + (m - u.now) / 1000 }

/-- The count increases, and device time stands at the mark (R227). -/
def State.advanceMark (s : State) : State :=
  let m := s.beat.nextMark
  { s with time := s.time.reach m,
           beat := { s.beat with count := (s.beat.count + 1) % 2 ^ 64, mark := m, nextMark := m + s.beat.len * 1000, work := false } }

/-- R368: beats since a dispute was opened; R359: a clean restart is at hand; the queues of the control cores have been read. -/
def Dispute.older (d : Dispute) : Dispute := { d with age := d.age + 1 }
def State.ageDisputes (s : State) : State :=
  let l := s.flt.disputes.map Dispute.older
  { s with flt := { s.flt with disputes := l }, img := { s.img with restart := s.img.restart || s.restartReady }, ctl := [] }

/-- A beat that ran to its end leaves nothing to replay. -/
def State.settleBeat (s : State) (ok : Bool) : State :=
  if ok then { s with beat := { s.beat with replay := false }, flt := { s.flt with progSeen := if s.beat.replay then none else s.flt.progSeen } } else s

/-- NOMINAL_MARK (R183, R215, R227, R231, R301, R315, R328, R333, R334, R341, R350, R360, R366). -/
def execNominalMark (s : State) : Host.Outcome State Fault Refusal :=
  .next (s.whenB s.time.valid fun s =>
    let n := s.beat.count
    let lost := (upTo 32).filter s.missedMark
    let s := s.each lost State.loseBeat
    let s := s.judgeEnvelopes.meterBeat (!lost.isEmpty)
    let s := s.each (upTo 32) State.riseRail
    let ok := !s.beat.abandoned && lost.isEmpty && s.beat.work
    let s := (s.each (upTo 32) State.countSilence).ageStalls
    let s := ((s.endBeatReqs n ok).settleBeat ok).advanceMark
    let s := s.beginBeatReqs
    let s := s.ageDisputes
    let s := (s.marginMark.firstMark.readHbm).each (upTo 32) State.rampRail
    (s.each (upTo 32) State.heatMark).sixteenth 0)

/-! ### Region marks (R230 to R233, R242 to R244) -/

/-- R24, R336: a region woken and Stopped becomes Active at the mark of the first beat whose nominal mark lies 50 µs after its
logic reset. -/
def State.woken (s : State) (g : Nat) : Bool :=
  let r := s.region g
  r.st == .stopped && decide (r.wakeAt ≠ 0 ∧ r.wakeAt ≤ s.beat.mark) && !s.flt.restart && !s.beat.abandoned

/-- R230: the mark can be asserted: the S-cores that count have arrived at their BWAIT for the beat. -/
def State.markDue (s : State) (g : Nat) : Bool :=
  s.time.valid && decide (s.beat.count ≥ 1) && !s.hasMark g &&
    (s.woken g || (s.active g && (s.sCores g).all fun t => (s.tile t).waitB == some s.beat.count))

/-- A tile at its region's mark: route blocks lifted (R179), endpoint pointers at BASE (R170), reports of the beat forgotten (R161,
R172, R187), a partial transposed tile dropped (R156). -/
def Tile.atMark (x : Tile) : Tile :=
  { x with
    tbufs := x.tbufs.filter fun b => decide (b.rows.length ≥ xpRows b.xp), blocked := [], epPtr := tabOf 0 ((upTo 16).map fun e => epdBase (Tab.get 0 x.epd e)), epNote := [], breachSeen := [],
    labelSeen := [], ceSeen := false }

/-- R133: BWAIT returns. -/
def Tile.bwaitDone (x : Tile) (late : Nat) : Tile :=
  { x with waitB := none, bres := (if late = 0 then 1 else 2), late := late }

/-- R334: the trim that follows from the beat just past. -/
def State.trimOf (s : State) (g : Nat) : Nat :=
  let r := s.region g
  let top := min 60 (s.vset g r.railOp - 650)
  if !s.pwr.legacy then 0
  else if r.strE = 0 then min top (r.trim + 5)
  else if r.strP * 1000 > r.cyc then min top (r.trim - 10)
  else min top r.trim

/-- R244, R295: an overrun, `late` cycles and `ns` after the nominal mark: the event, with the stretch and the stop of the beat before and
its causes, and the requests whose tokens the beat before still owes are re-timed. `y` is the region as that beat left it. -/
def State.overrun (s : State) (g late ns : Nat) (y : Region) : State :=
  let s := { s with time := s.time.reach (s.beat.mark + ns) }
  let causes := y.causes ||| ((if y.strE > 0 then 1 else 0) + if y.stopNs > 0 then 2 else 0)
  let s := s.event { code := 0x71, region := g, source := 2, d0 := causes, d1 := late, d2 := ns % 2 ^ 32 + y.stopNs * 2 ^ 32, d3 := y.strE }
  let s := { s with beat := { s.beat with overruns := s.beat.overruns + 1 } }
  let why := if y.inputSeen then 0x27 else 0x20
  s.mapReqs fun q => if q.owes > 0 then q.retimeAt q.nextIx (s.beat.count + cdiv ns (s.beat.len * 1000)) why else q

/-- R239: a change of point is due at the mark of the present beat. -/
def State.changeDue (s : State) (g : Nat) : Bool :=
  let r := s.region g
  r.opPend != 0xFF && decide (r.opPendBeat ≤ s.beat.count)

/-- R243: the figures of a region's beat, at the mark that ends it. -/
def State.figsOf (s : State) (g : Nat) : BeatFigs :=
  let r := s.region g
  { work := r.workEnd, str := r.strE, strP := r.strP, cyc := r.cyc, stop := r.stopNs, slack := (s.beat.len * 1000 : Nat) - (r.workNs : Int) }

/-- R133: BWAIT returns in the S-cores that wait for the mark. -/
def State.bwaitReturns (s : State) (g late : Nat) : State :=
  s.each (s.sCores g) fun s t => s.updTile t fun x => if x.waitB.isSome then x.bwaitDone late else x

/-- REGION_MARK (R133, R138, R156, R161, R170, R172, R179, R187, R230, R231, R239, R242 to R244, R295, R334, R336, R338). `late` in region
cycles, `ns` in ns. Where the point changes at the mark, the clock is gated, the region is Stopped, and BWAIT returns at the first edge
at the new point. -/
def execRegionMark (g late ns : Nat) (s : State) : Host.Outcome State Fault Refusal :=
  onRegion g s fun s =>
    s.whenB (s.markDue g) fun s =>
      let s := if s.woken g then s.updRegion g fun r => { r with st := .active, wakeAt := 0 } else s
      let y := s.region g
      let chg := s.changeDue g
      let trim := s.trimOf g
      let s := s.each (regionTiles g) fun s t => s.updTile t Tile.atMark
      let s := if chg then s else s.bwaitReturns g late
      let s := s.gather g
      let s := s.updRegion g fun r => { r with
        figs := s.figsOf g, lateLast := late, markOf := s.beat.count, marked := true, markNs := s.beat.mark,
        lateCyc := late, cyc := 0, strE := 0, strP := 0, stopNs := 0, lag := 0, causes := 0, inputSeen := bitOf (s.throttleWord g) 5,
        repDue := true, trim := trim, grants := r.grants.map fun x => { x with start := 0 } }
      let s := if late > 0 then s.overrun g late ns y else s
      let s := if chg then s.updRegion g fun r => { r with st := .stopped, changing := true } else s
      { s with beat := { s.beat with work := true } }

/-- BWAIT (R133, R230, R231): waits for the region mark of beat `n`; where that mark has passed it returns LATE at once with
the late cycles, which the supervisor handles as an overrun, and where the mark of `n + 1` has passed too the S-core stops with a beat
loss. -/
def execBwait (t n : Nat) (s : State) : Host.Outcome State Fault Refusal :=
  onS t s fun s =>
    s.whenB (s.sFree t) fun s =>
      let g := tileRegion t
      let r := s.region g
      let passed := r.marked && decide (n ≤ r.markOf)
      let lost := (r.marked && decide (n + 1 ≤ r.markOf)) || (!passed && decide (n + 1 ≤ s.beat.count))
      if lost then s.beatLossAt t n
      else if passed then
        (s.updTile t fun x => { x with bres := 2, late := r.lateCyc + r.cyc }).overrun g (r.lateCyc + r.cyc) (s.stamp g - r.markNs) r
      else
        let s := s.updTile t fun x => { x with waitB := some n, bres := 0, late := 0 }
        s.updRegion g fun r => { r with workEnd := r.cyc, workNs := s.stamp g - r.markNs }

/-! ### Loss of time or clock (R229, R235, R237) -/

/-- R229: an origin that has lost its clock takes both regions down. -/
def State.originLost (s : State) (g : Nat) : State := (s.regionDown g .dark).regionLoss g 7

/-- TIME_WORD_LOSS (R229): the field time counter goes on from the timing clock by itself; with that lost too its regions are. -/
def execTimeWordLoss (f : Nat) (noClk : Bool) (s : State) : Host.Outcome State Fault Refusal :=
  onField f s fun s =>
    let s := (s.event { code := 0x78, source := 6, unit := f }).updField f fun x => { x with wordLost := true }
    if noClk && !(s.field f).noClk then ((s.updField f fun x => { x with noClk := true }).originLost (2 * f)).originLost (2 * f + 1)
    else s

/-- The inputs of a clock list, in order. -/
def clkInputs (w : Nat) : List Nat := ((upTo 4).map fun i => w / 16 ^ i % 16).filter (· != 0)

/-- CLOCK_INPUT_LOST (R237): `live` are the inputs that carry edges. -/
def execClockInputLost (t : Nat) (live : List Nat) (s : State) : Host.Outcome State Fault Refusal :=
  onTile t s fun s =>
    s.whenB (s.active (tileRegion t) && s.usable t) fun s =>
      let l := clkInputs (s.clkWord t)
      let g := tileRegion t
      match (l.drop ((s.tile t).clkIn + 1) ++ l.take ((s.tile t).clkIn)).find? fun c => live.contains c with
      | some c =>
        let i := l.idxOf c
        let s := (s.updTile t fun x => { x with clkIn := i }).updRegion g fun r => { r with clkSw := r.clkSw + 1, causes := r.causes ||| 16 }
        s.report t 0x73 0 0 0
      | none => (s.coreFault t 0x74 0 (s.tile t).seqIx).updTile t fun x => { x with noClk := true }

/-! ### Frequency changes and stretches (R239, R242) -/

/-- FREQUENCY_CHANGE (R238, R239, R343): the spare synthesiser takes over a region Stopped at its mark, `ns` after the gating: the first
edge at the new point, at which BWAIT returns. -/
def execFrequencyChange (g ns : Nat) (s : State) : Host.Outcome State Fault Refusal :=
  onRegion g s fun s =>
    s.whenB ((s.region g).changing && decide (128 ≤ ns ∧ ns ≤ 512)) fun s =>
      let s := s.updRegion g fun r => { r.setChanges r.opNext with
        st := .active, changing := false, op := r.opPend, stopNs := ns, lag := ns * mhz r.opPend * 8 / 1000 }
      (s.bwaitReturns g (s.region g).lateCyc).budgets

/-- DROOP_STRETCH (R242): the next period is lengthened by `k` eighths. -/
def execDroopStretch (g k : Nat) (s : State) : Host.Outcome State Fault Refusal :=
  onRegion g s fun s =>
    s.whenB (s.active g && decide (1 ≤ k ∧ k ≤ 8)) fun s =>
      s.updRegion g fun r => { r with strE := r.strE + k, strP := r.strP + 1, lag := r.lag + k, droop := true }

end Sys2Proof.Machine
end

