-- ==== Sys2Proof/Machine/Training.lean ====
section
/-!
DEFINITION. Training: mirrors, snapshots and their commits, restores, verification replays, exports and batches (R376 to R383).
-/

namespace Sys2Proof.Machine

/-- R381: during a verification period every tensor is mirrored and every step is snapshotted. -/
def Train.verifying (r : Train) : Bool := r.verifyLeft != 0

/-- R383: a mirror region, until it is lost with no detour set in its place. -/
def State.mirrorStands (s : State) (g : Nat) : Bool := !(s.region g).lost || s.img.detour.isSome

/-- The tensor is mirrored in the present step (R272, R381). -/
def State.mirrored (s : State) (tid : Nat) : Bool := s.trainTensors.any fun t => t.1 == tid && (t.2.1 || s.train.verifying) && s.mirrorStands t.2.2.1

/-- Training runs: no restore is in progress, and it is not stopped. -/
def State.trains (s : State) : Bool := s.training && s.train.st == 1

/-- MIRROR_COPY (R160, R377): the tensor's half of the step last completed is in its mirror region; a row that is uncorrectable aborts
the copy. -/
def execMirrorCopy (tid : Nat) (s : State) : Host.Outcome State Fault Refusal :=
  .next (s.whenB (s.trains && s.mirrored tid) fun s =>
    match s.rowsOut (s.halfRows tid s.train.step) with
    | (s, none) => s
    | (s, some b) => s.updTrain fun r => { r with
        mirrors := Tab.put 0 r.mirrors tid (r.step + 1), mirrorRows := Tab.put [] r.mirrorRows (mirrorKey tid r.step) b,
        late := eraseSet tid r.late })

/-- MIRROR_LATE (R377): the copy has not completed as the next update phase begins, code 0xC7; for the step the tensor counts as not
mirrored. -/
def execMirrorLate (tid : Nat) (s : State) : Host.Outcome State Fault Refusal :=
  .next (s.whenB (s.trains && s.mirrored tid && Tab.get 0 s.train.mirrors tid != s.train.step + 1 && !s.train.late.contains tid) fun s =>
    (s.event { code := 0xC7, d0 := tid }).updTrain fun r => { r with late := insertSet tid r.late, mirrors := Tab.put 0 r.mirrors tid 0 })

/-- 0x7800.08 (R259, R378): a snapshot at the next step. Refused where no training runs, while a load runs, and while one is already
asked for. -/
def State.actCheckpoint (k : Nat) (s : State) : ARes :=
  if s.img.load.isSome then .fail 0x8B
  else if !s.trainOpen || !s.trains || s.train.snapReq.isSome then .fail 0
  else
    let (h, s) := s.issue 4 (s.handlePart k) k
    .ok h (s.updTrain fun r => { r with snapReq := some h })

/-- CHECKPOINT: the operator's; the periodic ones are part of CHRYSALIS_COMMIT (R378). -/
def execCheckpoint (k x : Nat) (s : State) : Host.Outcome State Fault Refusal := .next (s.sessAct k x 0x7800 8 (State.actCheckpoint k))

/-- R160, R378, R383: the commit record of the slot being written: S_k with the loss of step k + 1. A row of S_k that is uncorrectable
gives the write up. -/
def State.commitSlot (s : State) (loss : Nat) : State :=
  match s.train.writing with
  | none => s
  | some (slot, h) =>
    let k := s.train.step
    let data := s.train.data
    match s.stateRows k data with
    | (s, none) => s.dropSlotWrite
    | (s, some rows) =>
    let c : Chry :=
      { flags := if s.train.verifying then 1 else 0, step := k, loss := loss, ntensor := s.trainTensors.length,
        nstream := s.trainStreams.length, ninput := data.length, rows := rows.length / 512, time := s.time.now, handle := h,
        image := s.img.content, hash := sha512 rows, data := data, state := rows }
    let s := s.updTrain fun r => { (r.setSlot slot (some c)) with writing := none }
    (s.event { code := 0xC1, handle := h }).finish h 2 0

/-- R376: every input stream takes the batch at its data position, if it is held; batches before the oldest position that a committed
slot names are no longer retained. -/
def State.takeBatches (s : State) : State :=
  let r := s.train
  let data := r.data.map fun c => if r.batches.any fun b => b.1 == c.1 && b.2.1 + 1 == c.2 then (c.1, c.2 + 1) else c
  let oldest (st : Nat) : Nat :=
    ([some data, r.slotA.map (·.data), r.slotB.map (·.data)].filterMap id).foldl (fun m d => min m (Tab.get 0 d st - 1)) (Tab.get 0 data st - 1)
  s.updTrain fun r => { r with data := data, batches := r.batches.filter fun b => decide (oldest b.1 ≤ b.2.1) }

/-- R376: the step log reaches back to the step of the older committed slot. -/
def Train.trimLog (r : Train) : Train :=
  let low := ([r.slotA, r.slotB].filterMap id).foldl (fun m c => min m c.step) r.step
  { r with losses := r.losses.filter fun c => decide (low ≤ c.1) }

/-- R378, R381: a snapshot of the state just reached begins where one is due. -/
def State.startSnapshot (s : State) : State :=
  let r := s.train
  let n := match s.img.loaded with | some i => i.snapN | none => 0
  let slot := r.older
  match r.snapReq with
  | some h => s.updTrain fun r => { r with snapReq := none, writing := some (slot, h) }
  | none =>
    if r.verifying || (n != 0 && r.step % n == 0) then
      let (h, s) := s.issue 4 16 32
      s.updTrain fun r => { r with writing := some (slot, h) }
    else s

/-- A step completes with its loss. -/
def State.stepDone (s : State) (loss : Nat) : State :=
  let s := s.updTrain fun r => { r with
    step := r.step + 1, lastLoss := loss, losses := r.losses ++ [(r.step + 1, loss)], verifyLeft := r.verifyLeft - 1, late := [] }
  s.takeBatches.updTrain Train.trimLog

/-- R381: of the snapshot being written in a verification period, the first tensor whose mirror half has another SHA-512 than its
slot copy. -/
def State.mirrorDiffers (s : State) : Option Nat :=
  if s.train.verifying && s.train.writing.isSome then
    (s.trainTensors.map (·.1)).find? fun t =>
      Tab.get 0 s.train.mirrors t == s.train.step + 1 &&
        sha512 (Tab.get [] s.train.mirrorRows (mirrorKey t s.train.step)) != sha512 (s.halfBytes t s.train.step)
  else none

/-- R381: the older committed slot is restored; the newest counts as tried. -/
def State.restoreOlder (s : State) : State :=
  let (h, s) := s.issue 5 16 32
  let i := s.train.older
  let s := s.updTrain fun r => { r with tried := [1 - i] }
  if (s.train.slot i).isSome then s.restoreSlot i h else s.stopTraining h

/-- CHRYSALIS_COMMIT (R376, R378, R381): step k + 1 completes and its loss is known; a slot whose rows are all written gets its commit
record, and the next snapshot begins where one is due (log entry 43). A mirror that differs from the slot is code 0xC6. -/
def execChrysalisCommit (loss : Nat) (s : State) : Host.Outcome State Fault Refusal :=
  .next (s.whenB (s.trains && !s.beat.abandoned) fun s =>
    let done := (s.commitSlot (loss % 2 ^ 32)).stepDone (loss % 2 ^ 32)
    match s.mirrorDiffers with
    | some t => (done.event { code := 0xC6, d0 := t }).restoreOlder
    | none => done.startSnapshot)

/-! ### Restores -/

/-- R382: an import: the fields of its commit row, when every check passes. -/
def State.importOf (s : State) (b : Bytes) : Option Chry :=
  let row := slice b 0 512
  let rows := leAt row 32 8
  let state := slice b 512 (512 * rows)
  let nin := leAt row 28 4
  let data := (upTo nin).foldl (fun (t : Tab Nat) i =>
    Tab.put 0 t i (leAt state (512 * (rows - cdiv nin 64) + 8 * i) 8 + 1)) []
  if b.length ≠ 512 + 512 * rows + 132 then none
  else if slice row 0 4 != ascii "CHRY" || leAt row 4 2 != 1 || slice row 504 8 != ascii "CHRYCOMT" then none
  else if !ecdsaVerify (publicOf attestationKey) (sha512 row) (slice b (512 + 512 * rows) 132) then none
  else if slice row 192 64 != devId || slice row 64 64 != s.img.content || sha512 state != slice row 128 64 then none
  else
    some { flags := leAt row 7 1 ||| 2, step := leAt row 8 8, loss := leAt row 16 4, ntensor := leAt row 20 4, nstream := leAt row 24 4,
           ninput := nin, rows := rows, time := leAt row 40 8, handle := leAt row 48 8, image := slice row 64 64, hash := slice row 128 64,
           data := data, state := state }

/-- A restore of slot `i` begins under a new handle. -/
def State.beginRestore (s : State) (k i : Nat) : ARes :=
  let (h, s) := s.issue 5 (s.handlePart k) k
  .ok h ((s.updTrain fun r => { r with tried := [] }).restoreSlot i h)

/-- 0x7800.09 (R379, R380, R382): from slot A, slot B, the newest slot, or the import. Refused where the source is absent, where no
training image is loaded, and while a load or another restore runs. -/
def State.actRestore (k : Nat) (s : State) : ARes :=
  let src := s.setting 0x7800 0x0A
  if s.img.load.isSome then .fail 0x8B
  else if !s.trainOpen || s.train.restoring.isSome then .fail 0
  else if src = 3 then
    match s.importOf (s.blob 0x7800 0x0D) with
    | none => .fail 0xC8
    | some c =>
      let i := s.train.older
      (s.updTrain fun r => r.setSlot i (some c)).beginRestore k i
  else if s.train.st = 4 then .fail 0
  else
    let i := if src = 2 then s.train.newest else if (s.train.slot src).isSome then some src else none
    match i with
    | some i => s.dropSlotWrite.beginRestore k i
    | none => .fail 0

/-- RESTORE. -/
def execRestore (k x : Nat) (s : State) : Host.Outcome State Fault Refusal := .next (s.sessAct k x 0x7800 9 (State.actRestore k))

/-- R380: every stream holds the batch that the restored step takes. -/
def Train.batchesHeld (r : Train) : Bool := r.data.all fun c => r.batches.any fun b => b.1 == c.1 && b.2.1 + 1 == c.2

/-- 0x7800.01: 0 none, 1 running, 2 verifying, 3 restoring, 4 stopped. -/
def State.trainState (s : State) : Nat :=
  if s.train.st = 3 then (if s.train.batchesHeld then 2 else 3) else s.train.st

/-- VERIFICATION_REPLAY (R380, R381): the step after the restored state completes, and its loss decides. -/
def execVerificationReplay (loss : Nat) (s : State) : Host.Outcome State Fault Refusal :=
  .next (match s.train.restoring with
    | none => s
    | some (_, j, h) =>
      if s.trainState ≠ 2 ∨ s.beat.abandoned then s
      else if s.train.lossOf (j + 1) = some (loss % 2 ^ 32) then
        let s := s.updTrain fun r => { r with
          st := 1, restoring := none, replayed := false, tried := [], restores := r.restores + 1, losses := r.losses.filter fun c => decide (c.1 ≤ j) }
        let s := (s.stepDone (loss % 2 ^ 32)).event { code := 0xC3, handle := h }
        (s.finish h 2 0).beginVerify
      else s.restoreFailed)

/-! ### Exports and batches -/

/-- 0x7800.0B (R8, R382): the newest committed slot, signed. Refused where no training image runs under the licence, and where no
slot is committed. -/
def State.actChryExport (k : Nat) (s : State) : ARes :=
  match if s.boot.attOff || !s.trainOpen then none else s.train.newest with
  | none => .fail 0
  | some i =>
    match s.train.slot i with
    | none => .fail 0
    | some c =>
      let row := c.row i
      let (h, s) := s.issue 4 (s.handlePart k) k
      .ok h ((s.updTrain fun r => { r with exportData := row ++ c.state ++ ecdsaSign attestationKey (sha512 row) }).finish h 2 0)

/-- CHRYSALIS_EXPORT. -/
def execChrysalisExport (k x : Nat) (s : State) : Host.Outcome State Fault Refusal := .next (s.sessAct k x 0x7800 0x0B (State.actChryExport k))

/-- R376: a batch of a stream with its index; the device retains it. -/
def State.putBatch (s : State) (st ix : Nat) (data : Bytes) : State :=
  s.updTrain fun r => { r with
    batches := r.batches.filter (fun b => !(b.1 == st && b.2.1 == ix)) ++ [(st, ix, data)],
    data := if Tab.get 0 r.data st = 0 then Tab.put 0 r.data st (ix + 1) else r.data }

/-- BATCH (R376): the effect of a completed transfer to 0x7800.10 by a role that may write it. -/
def execBatch (k x st ix : Nat) (data : Bytes) (s : State) : Host.Outcome State Fault Refusal :=
  .next (match s.sess k with
    | none => s
    | some q =>
      match s.writeGate q 0x7800 0x10 4 with
      | some e => s.failed k x 4 e 0x7800 0x10 0
      | none => if s.trainOpen then (s.putBatch st ix data).respond k x 4 stOk 0x7800 0x10 [] else s.failed k x 4 stRefused 0x7800 0x10 0)

end Sys2Proof.Machine
end

