-- ==== Sys2Proof/Machine/Images.lean ====
section
/-!
DEFINITION. Image loads and unloads (R259 to R264), and the repair of a placement at run time: patches, detour sets and the clean
restart (R267 to R270, R301).
-/

namespace Sys2Proof.Machine

/-! ### Loading -/

/-- A moult of the region is running; phase 0 is one that waits (R372). -/
def State.moults (s : State) (g : Nat) : Bool := (s.region g).moult.any fun m => m.phase != 0

/-- R259: what refuses a load or an unload with 0x8B, a running load apart. -/
def State.busyForLoad (s : State) : Bool :=
  s.anyWork || ((upTo 32).any fun g => s.moults g) || s.flt.retest != 0 || s.train.writing.isSome || s.boot.fwRun.isSome

/-- 0x8000.01 (R259, R260 steps 1 and 2, R261): the header is checked, the previous image released, and sections are awaited. -/
def State.actLoad (k : Nat) (s : State) : ARes :=
  if s.busyForLoad || s.img.load.isSome then .fail 0x8B
  else
    let (h, s) := s.issue 2 (s.handlePart k) k
    let hdr := slice s.img.hdr 0 1024
    match s.hdrCode hdr with
    | some c => .ok h ((s.updHnd h fun x => { x with step := 1 }).finish h 3 c)
    | none =>
      let s := (s.removeImage).updHnd h fun x => { x with step := 3 }
      let l : Load := { handle := h, step := 3, hdr := hdr, bytes := [], got := [], image := none }
      .ok h { s with img := { s.img with load := some l } }

/-- IMAGE_LOAD. -/
def execImageLoad (k x : Nat) (s : State) : Host.Outcome State Fault Refusal := .next (s.sessAct k x 0x8000 1 (State.actLoad k))

/-- The step that the handle of the load names. -/
def State.loadStep (s : State) (n : Nat) : State :=
  match s.img.load with
  | none => s
  | some l => ({ s with img := { s.img with load := some { l with step := n } } } : State).updHnd l.handle fun x => { x with step := n }

/-- R263: what an image compiled at an older instar needs: patches, and a detour set; none where a change is not covered. -/
def State.repairsAt (s : State) (i : Image) : Option (List Patch × Option Detour) :=
  if hInstar i.hdr = s.instar then some ([], none)
  else if s.stackMoved i then none
  else
    let m := s.badRegions i
    let d := if m = 0 then none else i.detours.find? fun d => d.mask == m
    if m ≠ 0 ∧ d.isNone then none
    else (s.patchesAt i (s.badTiles i) []).map fun l => (l, d)

/-- R314: planned HBM weight bytes of a beat: the rows of weight slices that the plan's READs name (log entry 38). -/
def weightBytes (i : Image) : Nat :=
  let held (k a : Nat) : Bool := i.tensors.any fun t => t.slices.any fun x => x.home == 0 && x.stack == k && decide (x.row ≤ a ∧ a < x.row + x.rows)
  512 * (i.all 0x0030).foldl (fun n x => (recordsOf 32 x.2).foldl (fun n b =>
    let w := leNat b
    if dOpc w = 1 then n + ((upTo (dRows w)).filter fun r => held (dStack w) (rowOf w (dHrow w) r)).length else n) n) 0

/-- R314: W_CTX of a model: ⌊2^24 · C · BROODS · 128 / planned bytes⌋. -/
def wctxOf (i : Image) (m : Bytes) : Nat :=
  let c := 2 * mKvHeads m * mHeadDim m * mKvSize m * mLayers m
  let w := weightBytes i
  if w = 0 then Config.wctxNoBytes c % 2 ^ 32 else 2 ^ 24 * c * (hBroods i.hdr * 128) / w

/-- R260 step 6, R226, R227: clock lists, beat length, and what Wenwyn fixes for the image (R290, R313, R314). -/
def State.startImage (s : State) (i : Image) : State :=
  let len := s.setting 0x8000 4
  let s := s.writeClkLists
  let s := { s with beat := { s.beat with len := len, nextMark := if s.time.valid then markAfter s.time.now len else s.beat.nextMark } }
  let s := { s with adm := { s.adm with pps := cdiv (hPPlan i.hdr * 1000) (hBroods i.hdr * 128), book := [] } }
  let wc := i.models.zipIdx.foldl (fun (t : Tab Nat) c => Tab.put 0 t c.2 (wctxOf i c.1)) []
  s.updMeter fun u => { u with wctx := wc, pBase := 0, qualN := 0, qualE := 0, initial := true }

/-- A detour set comes into force (R199, R269). -/
def State.applyDetour (s : State) (d : Detour) : State :=
  let s := s.each (upTo 96) fun s e => if (s.engine e).repl.isEmpty then s else s.updEngine e fun x => { x with repl := [] }
  let s := s.applyWrites true d.writes
  { s with img := { s.img with detour := some d.mask, left := d.left } }

/-- R260 step 7: patches and a detour set that the instar check calls for. -/
def State.repairImage (s : State) (h : Nat) (r : List Patch × Option Detour) : State :=
  let s := r.1.foldl (fun s p => s.applyPatch p h) s
  match r.2 with
  | none => s
  | some d => (s.each ((upTo 32).filter (bitOf d.mask)) fun s g => s.updRegion g fun x => { x with lost := true }).applyDetour d

/-- R376: the training state of an image just loaded; the first step begins a verification period (R381). -/
def State.startTraining (s : State) (i : Image) : State :=
  if bitOf (Machine.imgFlags i.hdr) 1 then ({ s with train := { Train.init with st := 1 } } : State).beginVerify else { s with train := Train.init }

/-- R260 steps 3 to 8 once every section is held. -/
def State.buildImage (s : State) (l : Load) : State :=
  let i := imageOf l.hdr l.secs
  if tableBad l.hdr l.entries || l.strayed || l.padBad then s.endLoad 0x81
  else if l.contentOf != hContent l.hdr then s.endLoad 0x87
  else if s.absentNamed i then s.endLoad 0x83
  else
    match s.repairsAt i with
    | none => s.endLoad 0x85
    | some r =>
      let s := (s.loadStep 4).stageWeights i
      if !s.formsStaged i || !s.parityOk i then s.endLoad 0x89
      else
        let s := s.loadStep 5
        if s.tablesBad i then s.endLoad 0x8D
        else
          let s := (s.installTables i).loadStep 6
          if !(leList (leAt l.hdr 0x02F 1) 4 (slice l.hdr 0x030 16)).contains (s.setting 0x8000 4) then s.endLoad 0x8C
          else
            let s := (s.startImage i).loadStep 7
            let s := { s with img := { s.img with loaded := some i, content := hContent l.hdr, runsAt := s.instar } }
            (((s.repairImage l.handle r).startTraining i).loadStep 8).wakeImage false

/-- LOAD_SECTIONS_HELD (R260, R262 to R264). -/
def execLoadSectionsHeld (s : State) : Host.Outcome State Fault Refusal :=
  .next (match s.img.load with
    | none => s
    | some l => if l.step = 3 ∧ l.allHeld then s.buildImage l else s)

/-- LOAD_COMPLETE (R260): the last wake has brought its region to Stopped. -/
def execLoadComplete (s : State) : Host.Outcome State Fault Refusal :=
  .next (match s.img.load with
    | none => s
    | some l =>
      let up : Bool := (upTo 32).all fun g =>
        let st := (s.region g).st
        !s.inUse g || (s.region g).lost || (st != .dark && st != .moulting)
      if l.step = 8 ∧ up then
        ({ s with img := { s.img with load := none, firstMark := true } } : State).finish l.handle 2 0
      else s)

/-- 0x8000.0E (R259, R261): unload. A running load is abandoned with 0x8A. -/
def State.actUnload (k : Nat) (s : State) : ARes :=
  if s.img.load.isNone && s.busyForLoad then .fail 0x8B
  else
    let s := s.endLoad 0x8A
    let (h, s) := s.issue 2 (s.handlePart k) k
    .ok h (s.removeImage.finish h 2 0)

/-- UNLOAD. -/
def execUnload (k x : Nat) (s : State) : Host.Outcome State Fault Refusal := .next (s.sessAct k x 0x8000 0x0E (State.actUnload k))

/-! ### Repair at run time (R267 to R270) -/

/-- Regions Stopped, the beat abandoned, admission closed, and a slot write given up (R267, R269, R383). -/
def State.repairStop (s : State) : State := (s.stopAll.closeAdm 0x11).dropWaiting.dropSlotWrite

/-- The tile of the image whose place `t` has: itself, or the tile it stands in for as a spare. -/
def State.placeOf (s : State) (t : Nat) : Nat := match s.img.patched.find? (fun p => p.2 == t) with | some p => p.1 | none => t

/-- A clean restart follows. -/
def State.restartDue (s : State) : State := { s with flt := { s.flt with restart := true } }

/-- R257: part of the tensor lies in tile `t`. -/
def Image.holdsOf (i : Image) (t tid : Nat) : Bool :=
  i.tensors.any fun y => y.tid == tid && y.slices.any fun z => z.home != 0 && z.tile == tileCode t

/-- R379: a fence of tile `t` loses a tensor half that no mirror holds. -/
def State.losesTensor (s : State) (i : Image) (t : Nat) : Bool :=
  s.trainTensors.any fun x => i.holdsOf t x.1 && !(s.mirrored x.1 && Tab.get 0 s.train.mirrors x.1 == s.train.step + 1)

/-- R379: the halves of the tensors that tile `t` held return from their mirrors. -/
def State.fromMirrors (s : State) (i : Image) (t : Nat) : State :=
  s.each ((s.trainTensors.map (·.1)).filter (i.holdsOf t)) fun s tid =>
    let b := Tab.get [] s.train.mirrorRows (mirrorKey tid s.train.step)
    s.setRows ((s.halfRows tid s.train.step).zipIdx.map fun c => (c.1, slice b (512 * c.2) 512))

/-- UNIT_FENCE_REPAIR (R267, R379): a fence of a unit that the image uses: the new instar, and the patch of a free spare; with none the
region is lost. -/
def execUnitFenceRepair (t : Nat) (s : State) : Host.Outcome State Fault Refusal :=
  onTile t s fun s =>
    match s.flt.todo.find? fun c => c.2 == .patch t with
    | none => s
    | some c =>
      let s := { s with flt := { s.flt with todo := s.flt.todo.filter (· != c) } }
      let f := s.placeOf t
      match s.img.loaded with
      | none => s.commitIfDue
      | some i =>
        if !i.uses f then s.commitIfDue
        else
          let s := s.repairStop.commitIfDue.restartDue
          let s := if s.losesTensor i f then s.restoreNewest else s.fromMirrors i f
          match s.patchFor i f with
          | some p =>
            let s := { s with img := { s.img with patched := s.img.patched.filter fun x => x.2 != t } }
            s.applyPatch p 0
          | none => s.regionLoss (tileRegion t) c.1

/-- The union of lost regions. -/
def State.lostMask (s : State) : Nat := (upTo 32).foldl (fun m g => if (s.region g).lost then m + 2 ^ g else m) 0

/-- R269: sequences on slots that the placement no longer runs are rebuilt on those that remain. -/
def State.rebuildBeyond (s : State) : State :=
  s.reqList.foldl (fun s c => if c.2.live && !s.slotRuns c.2 then s.rebuild c.1 else s) s

/-- R270: no detour set has the mask: 0x8F, and the placement is lost. -/
def State.losePlacement (s : State) : State :=
  let s := { s with img := { s.img with placementLost := true }, flt := { s.flt with restart := false } }
  ((s.event { code := 0x8F, path := some 7 }).closeAdm 0x10).endAll 0x10

/-- DETOUR_INSTALL (R269, R270, R379). -/
def execDetourInstall (s : State) : Host.Outcome State Fault Refusal :=
  .next (
    let due : Bool := s.flt.todo.any fun c => match c.2 with | .detour _ => true | _ => false
    match due, s.img.loaded with
    | true, some i =>
      let s := { s with flt := { s.flt with todo := s.flt.todo.filter fun c => match c.2 with | .detour _ => false | _ => true } }
      let s := s.repairStop.commitIfDue.restartDue
      let m := s.lostMask
      let s := { s with img := { s.img with lost := m } }
      (match i.detours.find? fun d => d.mask == m with
       | some d => if s.training then (s.applyDetour d).restoreNewest else (s.applyDetour d).rebuildBeyond
       | none => s.losePlacement)
    | _, _ => s)

/-- R268: a tile of a region that restarts: nothing of the abandoned beat survives, and its sequencer stands at index 0. -/
def Tile.restarted (x : Tile) : Tile :=
  { x.atMark with
    stopped := false, seqIx := 0, loop := 0, modeReq := none, mma := none, side := [], stat := none, shadow := none, chain := false, outQ := [],
    pendingUe := false, ringFill := 0, ringUse := 0, ringCnt := 0,
    turn := [], starts := [], posted := false, capture := none, slots := [], eps := [], waitB := none, rcvd := [], recvWait := none,
    leaveWait := false, sends := [], sendQ := [], opBuf := [], inBuf := [], tileIn := [], skew := [], stalls := [], relayQ := [], vpQ := [], tbufs := [] }

/-- R268: a region restarts. -/
def State.restartRegion (s : State) (g : Nat) : State :=
  let s := s.each (regionTiles g) fun s t => s.updTile t fun x => if x == Tile.init then x else x.restarted
  let s := { s with ringOut := s.ringOut.filter fun (c : Nat × List Packet) => tileRegion (c.1 % 4096) != g }
  let s := s.updField (g / 2) fun f => if f.queue.isEmpty then f else { f with queue := f.queue.filter fun q => q.region != g }
  s.updRegion g fun r => { r with st := .active, wakeAt := 0, marked := false, changing := false, cyc := 0, strE := 0, strP := 0, stopNs := 0, lag := 0, reports := [] }

/-- R295, R301, R302: the tokens of the abandoned beat leave by the second mark from now; those of a sequence being rebuilt are late for
its rebuild, or for want of a slot. -/
def State.retimeReplay (s : State) : State :=
  s.each (s.reqList.map (·.1)) fun s r => s.updReq r fun q =>
    let b := s.expectBeat r q
    q.retimeFor (if b ≤ s.beat.count then s.beat.count + 2 else b + 1) (if q.rebuildT = 0 then 0x21 else if s.slotRuns q then 0x22 else 0x23)

/-- R359: admission reopens, unless something else keeps it closed. -/
def State.reopen (s : State) : State :=
  if s.img.loaded.isNone || s.img.load.isSome || s.img.placementLost || s.flt.whole || s.img.firstMark || s.adm.why = 0x10 then s
  else { s with adm := { s.adm with isOpen := true, why := 0 } }

/-- CLEAN_RESTART (R268, R301, R359): at the nominal mark after the repair every Stopped region restarts, and the abandoned beat is
replayed. -/
def execCleanRestart (s : State) : Host.Outcome State Fault Refusal :=
  .next (s.whenB s.img.restart fun s =>
    let s := { s with net := [], flt := { s.flt with restart := false }, img := { s.img with restart := false } }
    let s := s.each ((upTo 32).filter fun g => (s.region g).st == .stopped && !(s.region g).lost) State.restartRegion
    let s := s.each (upTo 96) fun s e =>
      if (s.engine e).planN = 0 then s else s.updEngine e fun x => { x with busy := none, ix := x.planN }
    let s := if s.beat.abandoned then
        { s with beat := { s.beat with abandoned := false, replay := true, replays := s.beat.replays + 1 } }
      else s
    s.seedAll.retimeReplay.reopen)

end Sys2Proof.Machine
end

