-- ==== Sys2Proof/Machine/Reset.lean ====
section
/-!
DEFINITION. Power and reset (R348, R387, R388, R408, R409, R435 to R439): what a reset leaves, the power-up and the power-down, and the
commands that raise an internal reset, the cocoon's and JTAG's apart.
-/

namespace Sys2Proof.Machine

/-! ### What a reset leaves -/

/-- R408: kinds of operation that the flash markers show. -/
def State.flashKinds (s : State) : Nat :=
  (if s.flash.fwMk then 2 ^ 3 else 0) + (if s.flash.moultMk = 0 then 0 else 2 ^ 6) + if s.flash.retestMk = 0 then 0 else 2 ^ 7

/-- R408: ABANDONED after a reset with the power on. -/
def State.abandonedNow (s : State) : Nat := (s.boot.retention ||| s.flashKinds) % 2 ^ 14

/-- R23, R388: the deep store keeps its contents. -/
def deepRowAny (id : Nat) : Bool := decide (2 ^ 27 ≤ id ∧ id < 2 ^ 27 + nTiles * 16384)

/-- The cocoon and the boot stage in reset: the supplies, the cause and what the standby logic holds remain. -/
def Boot.inReset (b : Boot) (cause abandoned : Nat) : Boot :=
  { Boot.init with
    supply := b.supply, latched := b.latched, vinOk := b.vinOk, pg := b.pg, rst := true, cause := cause, abandoned := abandoned,
    causeHeld := b.causeHeld, supplyFault := b.supplyFault }

/-- R210: the weak rows that a controller has reported, until step 4 repairs them, and the spares that repairs have used. -/
def weakOnly (c : Nat × Stack) : Nat × Stack := (c.1, { Stack.init with weakRows := c.2.weakRows, spares := c.2.spares })

/-- R388: the reset of the device: everything volatile stands as after power-on; the flash, the standby logic and the pins do not
change, but THERMTRIP_N is released. `keep` names the rows of memory that survive. -/
def State.inReset (s : State) (b : Boot) (keep : Nat → Bool) : State :=
  let flash := { s.flash with fwMk := false }
  let base : State := { State.reset with
    pending := s.pending, free := s.free, mem := s.mem.filter (fun c => keep (c.1 / 512)), bad := s.bad.filter (fun c => keep c.1),
    flash := flash, boot := b, pins := { s.pins with thermtrip := false }, i2c := s.i2c, jtag := s.jtag,
    stks := (s.stks.map weakOnly).filter fun c => decide (c.2 ≠ Stack.init) }
  let base := base.each (upTo 16) fun s p =>
    let n := s.setting (0x4400 + p) 4
    if (s.part p).bucket = n then s else s.updPart p fun x => { x with bucket := n }
  { base with
    csr := { base.csr with alertMask := base.setting 0x7002 3 % 2 ^ 10 ||| 3 }, pwr := { base.pwr with pcapLim := base.setting 0x2000 2 } }

/-- R388, R408, R409: MRST_N or an internal reset, with its cause. One that meets a power-on still in reset changes neither the cause nor
what is known of the operations abandoned. -/
def State.warmReset (s : State) (cause : Nat) : State :=
  let b := s.boot
  let known := b.rst
  s.inReset (b.inReset (if b.causeHeld then b.cause else cause) (if known then b.abandoned else s.abandonedNow)) deepRowAny

/-! ### Power (R387, R436, R437) -/

/-- R387, R408: power-up starts: the cause of the power-on, with the list of abandoned kinds marked incomplete. -/
def State.powerUp (s : State) : State :=
  let b := s.boot
  let known := b.abandoned % 2 ^ 14
  { s with boot := { b with
    supply := .rising, cause := (if b.supplyFault then 6 else 1), causeHeld := true, supplyFault := false, abandoned := 2 ^ 31 + known } }

/-- R437: the power-down starts: PG deasserted, every region Dark; it runs to its end. -/
def State.startPowerDown (s : State) : State :=
  if s.boot.supply == .off || s.boot.supply == .falling then s
  else
    let b := { s.boot with supply := .falling, pg := false, causeHeld := true }
    s.inReset (b.inReset b.cause s.flashKinds) deepRowAny

/-- What power-up waits for: PWR_EN high, the input at its start threshold, and no latch (R348, R436, R437). -/
def State.mayPowerUp (s : State) : Bool := s.pins.pwrEn && s.boot.vinOk && !s.boot.latched

/-- R408: the standby logic holds the cause while VSB_3V3 is present. -/
def State.holdSupplyFault (s : State) : State := { s with boot := { s.boot with supplyFault := s.pins.vsb } }

/-- PWR_EN_HIGH (R387, R437). -/
def execPwrEnHigh (s : State) : Host.Outcome State Fault Refusal :=
  let s := { s with pins := { s.pins with pwrEn := true } }
  .next (s.whenB (s.boot.supply == .off && s.mayPowerUp) State.powerUp)

/-- POWER_GOOD (R387): the supplies are in regulation and PG is asserted. -/
def execPowerGood (s : State) : Host.Outcome State Fault Refusal :=
  .next (s.whenB (s.boot.supply == .rising) fun s => { s with boot := { s.boot with supply := .on, pg := true } })

/-- PWR_EN_LOW (R437): also what ends the latch of a package-bus fault. -/
def execPwrEnLow (s : State) : Host.Outcome State Fault Refusal :=
  let s := { s with pins := { s.pins with pwrEn := false }, boot := { s.boot with latched := false } }
  .next s.startPowerDown

/-- INPUT_STOP (R436, R437): undervoltage, or overvoltage; both run the same power-down. -/
def execInputStop (_over : Bool) (s : State) : Host.Outcome State Fault Refusal :=
  let s := { s with boot := { s.boot with vinOk := false } }
  .next (s.whenB (s.boot.supply == .on || s.boot.supply == .rising) fun s => s.holdSupplyFault.startPowerDown)

/-- PACKAGE_BUS_FAULT (R348): the power-down, and the module latched off. -/
def execPackageBusFault (s : State) : Host.Outcome State Fault Refusal :=
  .next (s.whenB (s.boot.supply == .on || s.boot.supply == .rising) fun s =>
    let s := s.holdSupplyFault.startPowerDown
    { s with boot := { s.boot with latched := true } })

/-- POWER_DOWN_END (R437): the supplies are off and nothing in memory remains; power-up starts where PWR_EN and the input allow it. -/
def execPowerDownEnd (s : State) : Host.Outcome State Fault Refusal :=
  .next (s.whenB (s.boot.supply == .falling) fun s =>
    let s := { s with mem := [], bad := [], boot := { s.boot with supply := .off } }
    s.whenB s.mayPowerUp State.powerUp)

/-- START_THRESHOLD_MET (R436). -/
def execStartThresholdMet (s : State) : Host.Outcome State Fault Refusal :=
  let s := { s with boot := { s.boot with vinOk := true } }
  .next (s.whenB (s.boot.supply == .off && s.mayPowerUp) State.powerUp)

/-- MRST_N (R388, R438): its level; asserted with the power on it resets the device. -/
def execMrstN (low : Bool) (s : State) : Host.Outcome State Fault Refusal :=
  let s := { s with pins := { s.pins with mrstN := !low } }
  .next (s.whenB (low && s.boot.supply == .on) fun s => s.warmReset 2)

/-- VSB_3V3_LOSS (R408, R435): the supply-fault cause is lost, and with the standby logic the I2C pointer and the JTAG state. -/
def execVsb3v3Loss (s : State) : Host.Outcome State Fault Refusal :=
  .next { s with
    pins := { s.pins with vsb := false }, boot := { s.boot with supplyFault := false }, i2c := State.reset.i2c, jtag := State.reset.jtag }

/-- VSB_3V3_RETURN (R435). -/
def execVsb3v3Return (s : State) : Host.Outcome State Fault Refusal := .next { s with pins := { s.pins with vsb := true } }

/-! ### Internal resets -/

/-- R388: an internal reset, with the power on. -/
def State.internalReset (s : State) (cause : Nat) : State := if s.boot.supply == .on then s.warmReset cause else s

/-- WATCHDOG_EXPIRY (R389): the watchdog is armed and Wenwyn has sent no heartbeat for 1 s. -/
def execWatchdogExpiry (s : State) : Host.Outcome State Fault Refusal := .next (s.whenB s.boot.wd fun s => s.internalReset 4)

/-- 0x1800.05 (R408): the reset action: the present EPOCH, and nothing else. -/
def State.wrResetReq (s : State) (v : Nat) : WRes := if v = s.flash.epoch then .ok (s.internalReset 3) else refusedBy 0

/-- RESET_REQ. -/
def execResetReq (k x v : Nat) (s : State) : Host.Outcome State Fault Refusal := .next (s.numWrite k x 0x1800 5 v State.wrResetReq)

end Sys2Proof.Machine
end

