-- ==== Sys2Proof/Machine/Firmware.lean ====
section
/-!
DEFINITION. Firmware banks and updates (R397 to R399), licences (R400 to R402), and attestation (R403).
-/

namespace Sys2Proof.Machine

/-! ### Banks (R397) -/

def Flash.bank (f : Flash) (i : Nat) : Bank := if i = 0 then f.bankA else f.bankB
def State.updBank (s : State) (i : Nat) (g : Bank → Bank) : State :=
  { s with flash := if i = 0 then { s.flash with bankA := g s.flash.bankA } else { s.flash with bankB := g s.flash.bankB } }

/-- FW_MIN_SVN. -/
def State.minSvn (s : State) : Nat := s.setting 0x9000 5

/-- R397: a bank that verifies, at a security version allowed, in state 2 or 3. -/
def Bank.fit (b : Bank) (svn : Nat) : Bool := (b.st == 2 || b.st == 3) && b.good && decide (b.svn ≥ svn)

/-- R397: the bank with the highest GEN among those fit. -/
def State.bestBank (s : State) : Option Nat :=
  let a := s.flash.bankA
  let b := s.flash.bankB
  match a.fit s.minSvn, b.fit s.minSvn with
  | true, true => some (if a.gen ≥ b.gen then 0 else 1)
  | true, false => some 0
  | false, true => some 1
  | false, false => none

/-- R397: a bank that fails verification is passed over, code 0xE1. -/
def State.verifyBanks (s : State) : State :=
  s.each [0, 1] fun s i =>
    let b := s.flash.bank i
    if (b.st == 2 || b.st == 3) && !b.good then s.event { code := 0xE1, source := 9, d0 := i } else s

/-- R397: a trial bank already tried becomes failed, code 0xE2, and the choice is made again. -/
def State.chooseBank : Nat → State → Option Nat × State
  | 0, s => (none, s)
  | n + 1, s =>
    match s.bestBank with
    | none => (none, s)
    | some i =>
      let b := s.flash.bank i
      if b.st = 2 ∧ b.tried then
        ((s.updBank i fun b => { b with st := 4 }).event { code := 0xE2, source := 9, d0 := i }).chooseBank n
      else (some i, if b.st = 2 then s.updBank i fun b => { b with tried := true } else s)

/-! ### Updates (R398, R399) -/

/-- R398: at most 96 MiB. -/
def fwMax : Nat := 96 * 2 ^ 20

/-- 0x9000.02 (R398): the checks, and the inactive bank in state 1 while the image is written. -/
def State.actFwUpdate (k : Nat) (s : State) : ARes :=
  let b := s.blob 0x9000 1
  if s.img.load.isSome || s.boot.fwRun.isSome || !Config.fwVerifies b || decide (Config.fwSvn b < s.minSvn ∨ b.length > fwMax ∨ b = []) then .fail 0xE3
  else
    let (h, s) := s.issue 3 (s.handlePart k) k
    let s := s.updBank (1 - s.boot.bank) fun x => { x with st := 1, good := false }
    .ok h { s with boot := { s.boot with fwRun := some h }, flash := { s.flash with fwMk := true } }

/-- FW_UPDATE. -/
def execFwUpdate (k x : Nat) (s : State) : Host.Outcome State Fault Refusal := .next (s.sessAct k x 0x9000 2 (State.actFwUpdate k))

/-- FW_UPDATE_COMPLETE (R398): the image read back against its SHA-512: the marker with state 2 and the next GEN, code 0xE4; an image
that does not read back leaves the bank in state 1. -/
def execFwUpdateComplete (ok : Bool) (s : State) : Host.Outcome State Fault Refusal :=
  .next (match s.boot.fwRun with
    | none => s
    | some h =>
      let s := { s with boot := { s.boot with fwRun := none }, flash := { s.flash with fwMk := false } }
      if ok then
        let b := s.blob 0x9000 1
        let gen := (s.flash.bank s.boot.bank).gen + 1
        let s := s.updBank (1 - s.boot.bank) fun _ =>
          { st := 2, gen := gen, tried := false, good := true, svn := Config.fwSvn b, version := Config.fwVersion b, digest := sha512 b }
        (s.event { code := 0xE4, handle := h }).finish h 2 0xE4
      else (s.event { code := 0xE3, handle := h }).finish h 3 0xE3)

/-- 0x9000.05 (R399): FW_MIN_SVN only rises, up to the SVN of the active bank. -/
def State.wrMinSvn (s : State) (v : Nat) : WRes :=
  if s.minSvn ≤ v ∧ v ≤ (s.flash.bank s.boot.bank).svn then .ok (s.putSetting 0x9000 5 v) else refusedBy 0

/-- FW_MIN_SVN_WRITE. -/
def execFwMinSvnWrite (k x v : Nat) (s : State) : Host.Outcome State Fault Refusal := .next (s.numWrite k x 0x9000 5 v State.wrMinSvn)

/-! ### Licences (R400 to R402) -/

/-- R400: the fields of a licence. -/
def licFeature (b : Bytes) : Nat := leAt b 6 1
def licSerial (b : Bytes) : Nat := leAt b 8 8
def licLimit (b : Bytes) : Nat := leAt b 16 4

/-- R400: the licence features that exist, and the bit of FEAT_ALLOWED and LIC_ENABLED of each. -/
def featBit (f : Nat) : Nat := f - 1

/-- R401, checks 1 to 6: those that a licence in the store must still pass (R390). -/
def State.licCheck (s : State) (b : Bytes) : Option Nat :=
  let f := licFeature b
  let n := licLimit b
  if b.length != 512 || slice b 0 4 != ascii "HLIC" || leAt b 4 2 != 1 || !zeroAt b 7 1 || !zeroAt b 20 4 || !zeroAt b 160 220 then some 1
  else if !ecdsaVerify (Config.korhoedKey 2) (sha512 (slice b 0 380)) (slice b 380 132) then some 2
  else if slice b 32 64 != devId then some 3
  else if slice b 96 64 != s.flash.cap.digest then some 4
  else if f < 1 ∨ f > 3 then some 5
  else if !bitOf s.flash.cap.feat (featBit f) || !(if f = 1 then decide (5 ≤ n ∧ n ≤ s.flash.cap.partMax) else n == 1) then some 6
  else none

/-- R401: every check, in order; the answer is the first that fails. -/
def State.licRefused (s : State) (b : Bytes) : Option Nat :=
  match s.licCheck b with
  | some n => some n
  | none =>
    let same (l : Lic) : Bool := l.feature == licFeature b
    if s.flash.lics.any fun l => same l && decide (licSerial b ≤ l.serial) then some 7
    else if decide (s.flash.lics.length ≥ 16) && !s.flash.lics.any same then some 8
    else none

/-- 0x9010.02 (R401, R402): installed at once, in place of any earlier licence for its feature. -/
def State.actLicInstall (k : Nat) (s : State) : ARes :=
  let b := s.blob 0x9010 1
  let (h, s) := s.issue 0x0B (s.handlePart k) k
  match s.licRefused b with
  | some n => .ok h ((s.event { code := 0xE5, handle := h, d0 := n }).finish h 3 0xE5)
  | none =>
    let l : Lic := { feature := licFeature b, serial := licSerial b, limit := licLimit b, valid := true, data := b }
    let s := { s with flash := { s.flash with lics := s.flash.lics.filter (fun (y : Lic) => y.feature != l.feature) ++ [l] } }
    .ok h ((s.event { code := 0xE6, handle := h }).finish h 2 0xE6)

/-- LIC_INSTALL. -/
def execLicInstall (k x : Nat) (s : State) : Host.Outcome State Fault Refusal := .next (s.sessAct k x 0x9010 2 (State.actLicInstall k))

/-- R8, R400, R402: the loaded image uses the feature. -/
def State.featureUsed (s : State) (f : Nat) : Bool :=
  (f == 2 && s.training) || (f == 3 && bitOf s.imgFlags 2)

/-- 0x9010.06 (R402): a serial to remove. -/
def State.wrLicRemove (s : State) (v : Nat) : WRes :=
  match s.flash.lics.find? fun l => l.serial == v with
  | none => refusedBy 0
  | some l =>
    let after := { s with flash := { s.flash with lics := s.flash.lics.filter fun y => y.serial != v } }
    let inUse := ((upTo 16).filter fun p => s.partState p != 0).length
    if (l.feature = 1 ∧ inUse > after.partLimit) ∨ s.featureUsed l.feature then refusedBy 0
    else .ok (after.event { code := 0xE7 })

/-- LIC_REMOVE. -/
def execLicRemove (k x v : Nat) (s : State) : Host.Outcome State Fault Refusal := .next (s.numWrite k x 0x9010 6 v State.wrLicRemove)

/-! ### Attestation (R403) -/

/-- LIC_MASK and LIC_ENABLED. -/
def State.licMask (s : State) : Nat := ([1, 2, 3].filter s.licensed).foldl (fun n f => n + 2 ^ featBit f) 0

def Lic.before (a b : Lic) : Bool := decide (a.serial ≤ b.serial)
def insertLic (x : Lic) : List Lic → List Lic
  | [] => [x]
  | y :: r => if x.before y then x :: y :: r else y :: insertLic x r

/-- The installed licences in ascending SERIAL. -/
def Flash.licSorted (f : Flash) : List Lic := f.lics.foldr insertLic []

/-- R249, R250: the four operator image keys, absent ones as zero. -/
def State.keyBytes (s : State) : Bytes := [6, 7, 8, 9].flatMap fun i => slice (s.blob 0x8000 i) 0 133

/-- R403: bytes 0 to 891. -/
def State.attBody (s : State) (h : Nat) (nonce : Bytes) : Bytes :=
  ascii "HATT" ++ leBytes 2 1 ++ leBytes 2 0 ++ leBytes 8 h ++ leBytes 8 (if s.time.valid then s.time.now else 0) ++ leBytes 1 s.time.st.code ++
  leBytes 1 s.boot.cause ++ leBytes 1 s.boot.bank ++ leBytes 1 (s.setting 0x2000 7) ++ leBytes 4 s.instar ++ leBytes 4 s.flash.epoch ++
  leBytes 4 (s.flash.bank s.boot.bank).svn ++ leBytes 4 s.licMask ++ leBytes 4 0 ++ slice nonce 0 64 ++ devId ++ s.flash.cap.digest ++
  sha512 s.flash.volt.bytes ++ s.fp.digest s.flash.cap ++ slice (s.flash.bank s.boot.bank).digest 0 64 ++
  sha512 (s.flash.licSorted.flatMap fun l => slice l.data 0 512) ++ slice s.img.content 0 64 ++ sha512 s.keyBytes ++
  sha512 (encodePub (Pt.mul meteringKey Pt.base)) ++ List.replicate 204 0

/-- 0x9020.01 (R403): the report of the session's nonce, code 0xE8. -/
def State.actAtt (k : Nat) (s : State) : ARes :=
  match s.sess k with
  | none => .fail 0
  | some q =>
    if q.nonce.length ≠ 64 ∨ s.boot.attOff then .fail 0
    else
      let (h, s) := s.issue 0x0C (s.handlePart k) k
      let b := s.attBody h q.nonce
      let s := s.updSess k fun q => { q with att := b ++ ecdsaSign attestationKey (sha512 b) }
      .ok h ((s.event { code := 0xE8, handle := h }).finish h 2 0xE8)

/-- ATT_REPORT. -/
def execAttReport (k x : Nat) (s : State) : Host.Outcome State Fault Refusal := .next (s.sessAct k x 0x9020 1 (State.actAtt k))

end Sys2Proof.Machine
end

