-- ==== Sys2Proof/Machine/Ports.lean ====
section
/-!
DEFINITION. Front ports (R29, R405), the management lanes (R406) and the operator's retraining of an HBM channel (R212).
-/

namespace Sys2Proof.Machine

/-! ### Port forms (R29, R405) -/

/-- 0x5010.01: the configured width on first lane `l`. -/
def State.cfgWidth (s : State) (l : Nat) : Nat := s.setting (0x5010 + l) 1

/-- Lanes of a width in its 200 Gbit/s form. -/
def lanesOf (w : Nat) : Nat := w / 200

/-- R29: a width that may be configured on first lane `l`. -/
def cfgForm (l w : Nat) : Bool :=
  w == 0 || w == 200 || (w == 400 && l % 2 == 0) || (w == 800 && l % 4 == 0)

/-- A form that came up: first lane, lanes, rate. -/
structure PortForm where
  first : Nat
  n : Nat
  rate : Nat
deriving DecidableEq, Repr

def PortForm.width (f : PortForm) : Nat := f.n * f.rate
def PortForm.mask (f : PortForm) : Nat := (2 ^ f.n - 1) * 2 ^ f.first

/-- R405: the forms of a port's own lanes, the widest first, and at one width those of 200 Gbit/s lanes before those of 100. -/
def formsOf (l w : Nat) : List PortForm :=
  let own (n r : Nat) : List PortForm :=
    ((upTo (lanesOf w)).filter fun i => (l + i) % n == 0 && decide (i + n ≤ lanesOf w)).map fun i => ⟨l + i, n, r⟩
  own 4 200 ++ own 2 200 ++ own 4 100 ++ own 1 200 ++ own 2 100 ++ own 1 100

/-- The lanes of a form are all among those trained at its rate. -/
def PortForm.trained (at200 at100 : List Nat) (f : PortForm) : Bool :=
  (upTo f.n).all fun i => (if f.rate = 200 then at200 else at100).contains (f.first + i)

/-- R405: a port comes up as a form, or is down. -/
def Port.come (p : Port) (f : Option PortForm) : Port :=
  match f with
  | some f => { p with up := true, width := f.width, lanes := f.mask, rate := f.rate, retr := none }
  | none => { p with up := false, width := 0, lanes := 0, rate := 0, retr := none }

/-- R405: code 0xD8 of a port narrower than configured, or down. -/
def State.portNarrow (s : State) (l handle : Nat) : State :=
  if (s.port l).width < s.cfgWidth l then s.event { code := 0xD8, handle := handle, d0 := l } else s

/-- R405, R407: the port differs from the floor-plan record in force. -/
def State.portMoved (s : State) (l : Nat) : Bool := s.portEntry l != Tab.get 0 s.fp.ports l

/-- R405: the configured ports come up from the lanes that trained. -/
def State.bringPorts (s : State) (at200 at100 : List Nat) : State :=
  s.each (upTo 16) fun s l =>
    let w := s.cfgWidth l
    if w = 0 then s
    else (s.updPort l fun p => p.come ((formsOf l w).find? (PortForm.trained at200 at100))).portNarrow l 0

/-- R407: every port that differs is due for the next instar. -/
def State.commitPorts (s : State) : State :=
  s.addCommit 0 (((upTo 16).filter s.portMoved).map fun l => { kind := 9, val := 0, id := l })

/-- 0x5010.06 to 0x501F.06 (R405): retraining takes the link down while it runs. -/
def State.actPortRetrain (k l : Nat) (s : State) : ARes :=
  if s.cfgWidth l = 0 ∨ (s.port l).retr.isSome then .fail 0
  else
    let (h, s) := s.issue 9 (s.handlePart k) k
    .ok h (s.updPort l fun p => { (p.come none) with retr := some h })

/-- FRONT_PORT_RETRAIN. -/
def execFrontPortRetrain (k x l : Nat) (s : State) : Host.Outcome State Fault Refusal :=
  onLane l s fun s => s.sessAct k x (0x5010 + l) 6 (State.actPortRetrain k l)

/-- PORT_RETRAIN_COMPLETE (R405): the port comes up in the form that its lanes and their rate make, or is down; an instar is committed where
this differs from the record in force. -/
def execPortRetrainComplete (l lanes rate : Nat) (s : State) : Host.Outcome State Fault Refusal :=
  onLane l s fun s =>
    match (s.port l).retr with
    | none => s
    | some h =>
      let f := (formsOf l (s.cfgWidth l)).find? fun f => f.mask == lanes && f.rate == rate
      let s := (s.updPort l fun p => p.come f).portNarrow l h
      let s := if s.portMoved l then (s.addCommit 0 [{ kind := 9, val := 0, id := l }]).commitIfDue else s
      s.finish h 2 (if (s.port l).width < s.cfgWidth l then 0xD8 else 0)

/-- FRONT_PORT_DOWN (R274): the link is lost; the bindings on the port are down while it is. -/
def execFrontPortDown (l : Nat) (s : State) : Host.Outcome State Fault Refusal :=
  onLane l s fun s => s.whenB (s.port l).up fun s => s.updPort l fun p => { (p.come none) with retr := p.retr }

/-! ### Management lanes (R224, R406) -/

/-- MGMT_LANE_LOSS (R224, R406): the active lane has been without link for 100 ms; the port moves to the other, code 0xD7, and the time
unit holds over until it has made 16 measurements there. -/
def execMgmtLaneLoss (s : State) : Host.Outcome State Fault Refusal :=
  .next (s.whenB (decide (s.boot.lane < 2)) fun s =>
    let s := { s with boot := { s.boot with lane := 1 - s.boot.lane } }
    let s := s.event { code := 0xD7, d0 := s.boot.lane }
    (s.updTime fun u => { u with newLane := 16, ptpQ := false }).reselect)

/-! ### HBM channels (R212) -/

/-- 0x5400.01 (R212): channel RETRAIN_CH of stack RETRAIN_STACK. -/
def State.actHbmRetrain (k : Nat) (s : State) : ARes :=
  let st := s.setting 0x5400 2
  let ch := s.setting 0x5400 3
  let x := s.stack st
  if st ≥ 24 ∨ x.st ≠ 1 ∨ x.retr.isSome ∨ !bitOf x.live ch then .fail 0
  else
    let (h, s) := s.issue 9 (s.handlePart k) k
    .ok h (s.startRetrain st ch h)

/-- HBM_RETRAIN. -/
def execHbmRetrain (k x : Nat) (s : State) : Host.Outcome State Fault Refusal := .next (s.sessAct k x 0x5400 1 (State.actHbmRetrain k))

end Sys2Proof.Machine
end

