-- ==== Sys2Proof/Machine/BringUp.lean ====
section
/-!
DEFINITION. Bring-up (R389, R390, R392 to R397, R404 to R407, R439): the release edge and the nine steps.
-/

namespace Sys2Proof.Machine

/-- R389: the handle of step `n`. -/
def stepHandle (n : Nat) : Nat := 0x0A * 2 ^ 56 + n

/-- RELEASE_EDGE (R388, R389, R408, R439): PG is asserted and MRST_N is high, or 1 ms has passed since an internal reset: the nine handles are
issued, and step 1 begins. -/
def execReleaseEdge (s : State) : Host.Outcome State Fault Refusal :=
  .next (s.whenB (s.boot.rst && s.boot.pg && s.pins.mrstN && s.boot.supply == .on) fun s =>
    let s := { s with
      boot := { s.boot with rst := false, causeHeld := false, step := 1, hctr := 1, handles := [], retention := 0 },
      pwr := { s.pwr with pcap := !s.pins.pcapN }, therm := { s.therm with coolant := s.pins.coolantOk } }
    s.each (upTo 9) fun s _ => (s.issue 0x0A 16 32).2)

/-! ### Steps ending -/

/-- A step ends, well or with a code. -/
def State.endStep (s : State) (n code : Nat) : State :=
  (s.updHnd (stepHandle n) fun x => { x with step := n }).finish (stepHandle n) (if code = 0 then 2 else 3) code

/-- The next step begins. -/
def State.toStep (s : State) (n : Nat) : State := { s with boot := { s.boot with step := n } }

/-- R390: bring-up halts at step `n`. -/
def State.haltBoot (s : State) (n : Nat) : State :=
  let s := { s with boot := { s.boot with halted := some n, lastCode := 0xD6 } }
  ((s.endStep n 0xD6).event { code := 0xD6, source := 9, d0 := n }).alert 2

/-- Step 1 (R390, R395, R396). -/
def State.stepCocoon (s : State) (selfTest puf met att : Bool) : State :=
  if !selfTest then (s.event { code := 0xD2, source := 9 }).haltBoot 1
  else if !puf then (s.event { code := 0xD1, source := 9 }).haltBoot 1
  else
    let bad (s : State) (which : Nat) : State := s.event { code := 0xD5, source := 9, d0 := which }
    let s := if met then s else ({ s with boot := { s.boot with meterStop := true } } : State)
    let s := if met then s else bad s 0
    let s := if att then s else ({ s with boot := { s.boot with attOff := true } } : State)
    let s := if att then s else bad s 1
    (s.endStep 1 0).toStep 2

/-- R394: the floor-plan record that step 2 finds first: in the area with a valid marker and the higher instar. -/
def Flash.firstFp (f : Flash) : FpRec :=
  if !f.fp0.marker then f.fp1 else if !f.fp1.marker then f.fp0 else if f.fp0.instar < f.fp1.instar then f.fp1 else f.fp0

/-- R392: an invalid record, with its KIND. -/
def State.badRecord (s : State) (ok : Bool) (kind : Nat) : State :=
  if ok then s else s.event { code := 0xD3, source := 9, d0 := kind }

/-- R390, R401: the licences in the store are verified; an invalid one is ignored, code 0xE5. -/
def State.checkLics (s : State) : State :=
  s.flash.lics.foldl (fun s l =>
    match s.licCheck l.data with
    | none => s
    | some n =>
      let off (y : Lic) : Lic := if y = l then { y with valid := false } else y
      ({ s with flash := { s.flash with lics := s.flash.lics.map off } } : State).event { code := 0xE5, source := 9, d0 := n }) s

/-- Step 2 (R325, R390, R392, R394). -/
def State.stepRecords (s : State) : State :=
  let f := s.flash
  let s := s.badRecord f.cap.valid 1
  if !f.cap.valid then s.haltBoot 2
  else
    let s := (s.badRecord f.volt.valid 2).badRecord (f.firstFp.marker && f.firstFp.valid) 3
    let fpOk := f.fp.marker && f.fp.valid
    let older := fpOk && f.fp.instar != f.firstFp.instar
    let s := if older then s.event { code := 0xD4, source := 9, d0 := f.fp.instar } else s
    let s := { s with
      boot := { s.boot with barred := !f.volt.valid || !fpOk }, flash := { s.flash with epoch := (s.flash.epoch + 1) % 2 ^ 32 } }
    (s.checkLics.endStep 2 (if f.volt.valid && fpOk then 0 else 0xD3)).toStep 3

/-- Step 3 (R390, R397). -/
def State.stepBoot (s : State) : State :=
  match s.verifyBanks.chooseBank 3 with
  | (none, s) => s.haltBoot 3
  | (some i, s) => ({ s with boot := { s.boot with bank := i } } : State).endStep 3 0 |>.toStep 4

/-- R210: a stack's weak rows take its spares, in ascending order, while spares remain; the others stay weak. -/
def Stack.repaired (k : Nat) (x : Stack) : Stack :=
  let n := min x.weakRows.length (Config.hbmSpares k - x.spares)
  { Stack.init with weakRows := x.weakRows.drop n, spares := x.spares + n }

/-- R211, R404: stack `k` after training: its channels of the record less those that failed; with more than two retired it is retired whole.
Its weak rows are repaired (R210), and the strike table entries of its engines are cleared where a faulty one had taken it out (R361). -/
def State.trainStack (s : State) (failed : List (Nat × Nat)) (k : Nat) : State :=
  let w := Tab.get 0 s.fp.stks k
  if !bitOf s.flash.cap.stackMask k || w % 256 == 0 then s.updStack k fun _ => Stack.init
  else if w % 256 = 3 then s.updStack k fun x => { x.repaired k with st := 3, live := w / 256 }
  else
    let bad := (upTo 16).filter fun c => bitOf (w / 256) c && failed.contains (k, c)
    let live := ((upTo 16).filter fun c => bitOf (w / 256) c && !bad.contains c).foldl (fun m c => m + 2 ^ c) 0
    let gone := decide (popCount32 live < 14)
    let items : List LogItem := bad.map (fun c => { kind := 4, val := c, id := k }) ++ if gone then [{ kind := 5, val := 0, id := k }] else []
    let units := (upTo 4).map fun i => nTiles + 4 * k + i
    let back := !gone && units.any fun u => (s.strikeOf u).faulty
    let s := if back then s.each units fun s u => s.updStrike u fun _ => Strike.none else s
    let s := s.each bad fun s c => s.event { code := 0x68, source := 4, unit := k, d0 := k + c * 2 ^ 8 }
    (s.updStack k fun x => { x.repaired k with st := (if gone then 3 else 1), live := live }).addCommit 0 items

/-- Step 4 (R195, R211, R390, R404). -/
def State.stepHbm (s : State) (failed : List (Nat × Nat)) : State :=
  let s := s.each (upTo 24) fun s k => s.trainStack failed k
  let up (p : Nat) : Bool := (upTo 24).any fun k => k % 2 == p && (s.stack k).st == 1
  if up 0 && up 1 then (s.endStep 4 0).toStep 5 else s.haltBoot 4

/-- Step 5 (R389, R390): Wenwyn runs and the watchdog is armed, or an internal reset. -/
def State.stepSupervisor (s : State) (started : Bool) : State :=
  if started then (({ s with boot := { s.boot with wd := true } } : State).endStep 5 0).toStep 6 else s.internalReset 4

/-- Step 6 (R390, R406). -/
def State.stepMgmt (s : State) (a b : Bool) : State :=
  let lane := if a then 0 else if b then 1 else 0xFF
  let s := { s with boot := { s.boot with lane := lane } }
  let s := if lane = 0xFF then s.event { code := 0xD7, d0 := lane } else s
  (s.endStep 6 (if lane = 0xFF then 0xD7 else 0)).toStep 8

/-- Step 7 (R405). -/
def State.stepFront (s : State) (at200 at100 : List Nat) : State :=
  let s := (s.bringPorts at200 at100).commitPorts
  let narrow := (upTo 16).any fun l => decide ((s.port l).width < s.cfgWidth l)
  ({ s with boot := { s.boot with s7 := true } } : State).endStep 7 (if narrow then 0xD8 else 0)

/-- R24, R407: a region's state at the end of bring-up. -/
def State.startRegion (s : State) (g : Nat) : State :=
  let code := Tab.get 0 s.fp.region g
  let marked := bitOf s.flash.moultMk g || bitOf s.flash.retestMk g
  let untested := code ≠ 5 ∧ (marked ∨ code = 4)
  let st := if code = 5 then RegSt.unusable else if untested then .untested else .dark
  let s := if untested then { s with flt := { s.flt with retest := setBit s.flt.retest g, queueM := setBit s.flt.queueM g } } else s
  let s := s.putSetting (0x2820 + g) 2 0
  s.updRegion g fun r => { r with st := st, op := 0, railOp := 0, phases := Tab.get 0 s.fp.phases g }

/-- Step 9 (R389, R397, R407, R410, R439): bring-up is complete, code 0xD9. -/
def State.stepFloor (s : State) : State :=
  let s := s.each (upTo 32) State.startRegion
  let s := s.each s.fp.fenced State.fenceTile
  let s := if s.boot.commitDue.isEmpty then s else s.commitNow
  let s := s.updBank s.boot.bank fun b => { b with st := 3, tried := false }
  let s := s.endStep 9 0
  let s := { s with boot := { s.boot with done := true, step := 0x0F, lastCode := 0xD9 } }
  let s := s.event { code := 0xD9 }
  if s.pins.coolantOk then s else s.halt false

/-- A step that is running; 6 and then 8 run beside 7, and 9 follows 7 and 8. -/
def State.stepRuns (s : State) (n : Nat) : Bool :=
  s.boot.halted.isNone && !s.boot.done && !s.boot.rst &&
  (if n = 7 then decide (s.boot.step ≥ 6) && !s.boot.s7 else s.boot.step == n && (n != 9 || s.boot.s7))

/-- The step that a result belongs to. -/
def stepOf : StepRes → Nat
  | .cocoon _ _ _ _ => 1
  | .records => 2
  | .boot => 3
  | .hbm _ => 4
  | .supervisor _ => 5
  | .mgmt _ _ => 6
  | .front _ _ => 7
  | .time => 8
  | .floor => 9

/-- What the end of a step does. -/
def State.stepEnd (s : State) (res : StepRes) : State :=
  match res with
  | .cocoon a b c d => s.stepCocoon a b c d
  | .records => s.stepRecords
  | .boot => s.stepBoot
  | .hbm f => s.stepHbm f
  | .supervisor ok => s.stepSupervisor ok
  | .mgmt a b => s.stepMgmt a b
  | .front a b => s.stepFront a b
  | .time => ((s.loopback 0).endStep 8 0).toStep 9
  | .floor => s.stepFloor

/-- BRINGUP_STEP_END (R389). -/
def execBringupStepEnd (res : StepRes) (s : State) : Host.Outcome State Fault Refusal :=
  .next (s.whenB (s.stepRuns (stepOf res)) fun s => s.stepEnd res)

/-- BRINGUP_STEP_TIMEOUT (R389, R390): the step has failed: 1 to 4 halt, 5 resets, 6 and 7 end with nothing trained. For 8 and 9 the table of
R390 gives no outcome. -/
def execBringupStepTimeout (n : Nat) (s : State) : Host.Outcome State Fault Refusal :=
  .next (s.whenB (s.stepRuns n) fun s =>
    if 1 ≤ n ∧ n ≤ 4 then s.haltBoot n
    else if n = 5 then s.stepSupervisor false
    else if n = 6 then s.stepMgmt false false
    else if n = 7 then s.stepFront [] []
    else s)

/-- 0x1800.03: BRINGUP_STEP. -/
def State.bringupStep (s : State) : Nat := if s.boot.step = 9 ∧ !s.boot.s7 then 7 else s.boot.step

end Sys2Proof.Machine
end

