-- ==== Sys2Proof/Machine/Faults.lean ====
section
/-!
DEFINITION. Faults, disputes, moults and whole-device faults as commands (R358 to R375).
-/

namespace Sys2Proof.Machine

/-! ### Fault stop -/

/-- The class of the first act on the list for which a fault stop is made. -/
def State.stopClass (s : State) : Option Nat := (s.flt.todo.find? fun c => c.2.stops).map (·.1)

/-- FAULT_STOP (R358, R359). -/
def execFaultStop (s : State) : Host.Outcome State Fault Refusal :=
  .next (match s.stopClass with
    | some c => s.faultStop c
    | none => s)

/-! ### Sampled recomputes (R363, R364) -/

/-- R364: the checker core of a region. -/
def State.checkerCore (s : State) (g : Nat) : Option Nat :=
  (s.region g).rg.spares.find? fun u => tileKind u == .m && s.spareFree u

/-- The capture of a region that is recomputed next. -/
def State.nextCapture (s : State) (g : Nat) : Option Capture := (regionTiles g).findSome? fun t => (s.tile t).capture

/-- A capture's rows are free. -/
def State.freeCapture (s : State) (t : Nat) : State := s.updTile t fun x => { x with capture := none }

/-- R365: how a dispute names the pass of a capture: index, JUMP count and step. -/
def Capture.pass (c : Capture) : Nat := c.ix + c.loop * 2 ^ 16 + c.step * 2 ^ 32

/-- CHECKER_RECOMPUTE (R364, R365): the checker core's digest against the captured one. -/
def execCheckerRecompute (g : Nat) (dig : W64) (s : State) : Host.Outcome State Fault Refusal :=
  onRegion g s fun s =>
    match s.checkerCore g, s.nextCapture g with
    | some u, some c =>
      let s := s.freeCapture c.tile
      if dig.toNat = c.dig then
        ({ s with flt := { s.flt with samples := s.flt.samples + 1 } } : State).releaseTokens
      else
        let s := s.event { code := 0x91, region := g, source := 2, tile := some c.tile, d0 := c.dig, d1 := dig.toNat, action := 2 }
        s.openDispute { digest := false, producer := c.tile, noSecond := false, pass := c.pass, checker := u, orig := c.dig,
                        chk := dig.toNat, beat := s.beat.count, age := 0 }
    | _, _ => s

/-- RECOMPUTE_DROP (R364): not finished 200 µs before the next mark, or without a checker core; code 0x9D once per region per beat. -/
def execRecomputeDrop (g : Nat) (s : State) : Host.Outcome State Fault Refusal :=
  onRegion g s fun s =>
    match s.nextCapture g with
    | none => s
    | some c =>
      let late := decide (s.beat.nextMark ≤ s.time.now + 200000)
      if !late && (s.checkerCore g).isSome then s
      else
        let s := s.freeCapture c.tile
        let s := { s with flt := { s.flt with skipped := s.flt.skipped + 1 } }
        let s := if (s.region g).dropSeen = s.beat.count + 1 then s
          else (s.event { code := 0x9D, region := g, source := 2 }).updRegion g fun r => { r with dropSeen := s.beat.count + 1 }
        s.releaseTokens

/-! ### Verdicts (R365 to R369) -/

/-- The oldest dispute is ruled on, and leaves the list. -/
def State.ruleNext (s : State) (f : Dispute → Ruling) : State :=
  match s.flt.disputes with
  | [] => s
  | d :: rest => ({ s with flt := { s.flt with disputes := rest } } : State).rule d (f d)

/-- DISPUTE_VERDICT (R365, R366, R368, R369): in the replay of the disputed beat. -/
def execDisputeVerdict (v : Verdict) (s : State) : Host.Outcome State Fault Refusal :=
  .next (s.whenB (!s.beat.abandoned) fun s => s.ruleNext fun d => ruling d (s.runsOf d v))

/-- DISPUTE_TIMEOUT (R368): no verdict within 4 beats. -/
def execDisputeTimeout (s : State) : Host.Outcome State Fault Refusal :=
  .next (match s.flt.disputes with
    | d :: _ => if d.age ≥ 4 then s.ruleNext fun _ => .unresolved else s
    | [] => s)

/-- INSTAR_COMMIT (R371): where a fence, a retired channel, a port or a supply waits for one. -/
def execInstarCommit (s : State) : Host.Outcome State Fault Refusal := .next s.commitIfDue

/-! ### Moults (R372 to R374) -/

/-- R372: the region holds no work in service. -/
def State.noWork (s : State) (g : Nat) : Bool :=
  !s.inUse g || (!s.active g && (match s.img.detour with | some m => bitOf m g | none => false))

/-- R372: a detour set of the image covers the region, with those already lost. -/
def State.detourCovers (s : State) (g : Nat) : Bool :=
  match s.img.loaded with
  | none => false
  | some i => i.detours.any fun d => d.mask == setBit s.lostMask g

/-- R259, R372: what refuses every moult; an instar commit runs within one command (R371). -/
def State.moultBarred (s : State) : Bool :=
  s.img.load.isSome || s.train.writing.isSome || s.therm.tripped || s.therm.halted || s.flt.whole

/-- R372: one per field and four on the device. -/
def State.moultRoom (s : State) (g : Nat) : Bool :=
  let l := (upTo 32).filter s.moults
  decide (l.length < 4) && !l.any fun h => h / 2 == g / 2

def newMoult (phase h : Nat) : MoultRun := { phase := phase, handle := h, badTiles := [], badPhases := 0, noSpare := [] }

/-- R373, R408: a moult starts: its marker, and the wake into Moulting. A region that holds work is taken out as a loss (R372). -/
def State.startMoult (s : State) (g h : Nat) : State :=
  let again := bitOf s.flt.retest g
  let s := if s.noWork g then s else (s.regionDown g .dark).regionLoss g 0
  let s := if (s.region g).st.code < 2 then s.regionDown g .dark else s
  let s := { s with
    flt := { s.flt with queueM := clearBit s.flt.queueM g },
    flash := { s.flash with
      moultMk := if again then s.flash.moultMk else setBit s.flash.moultMk g,
      retestMk := if again then setBit s.flash.retestMk g else s.flash.retestMk } }
  (s.updRegion g fun r => { r with moult := some (newMoult 1 h) }).beginWake g true

/-- R372: a moult starts where there is room, or waits in the queue. -/
def State.putMoult (s : State) (g h : Nat) : State :=
  if s.moultRoom g then s.startMoult g h
  else
    ({ s with flt := { s.flt with queueM := setBit s.flt.queueM g } } : State).updRegion g fun r => { r with moult := some (newMoult 0 h) }

/-- 0x3400.01 (R372): the operator's moult of MOULT_REGION. -/
def State.actMoult (k : Nat) (s : State) : ARes :=
  let g := s.setting 0x3400 2 % 32
  if s.moultBarred || (s.region g).moult.isSome || !(s.noWork g || (s.active g && s.detourCovers g)) then .fail 0x9C
  else
    let (h, s) := s.issue (if bitOf s.flt.retest g then 7 else 6) (s.handlePart k) k
    .ok h (s.putMoult g h)

/-- R372, R374: Wenwyn starts a queued moult: one the operator asked for, a re-test once bring-up has ended, any other when MOULT_AUTO
is 1; of regions that hold no work in service. -/
def State.wenwynMoult (s : State) (g : Nat) : State :=
  let asked := (s.region g).moult.any fun m => m.phase == 0
  let again := bitOf s.flt.retest g
  if !s.boot.done || s.moultBarred || s.moults g || !bitOf s.flt.queueM g || !s.moultRoom g then s
  else if !(asked && (s.noWork g || s.detourCovers g)) && !(s.noWork g && (again || s.setting 0x3400 3 == 1)) then s
  else
    match (s.region g).moult with
    | some m => s.startMoult g m.handle
    | none =>
      let (h, s) := s.issue (if again then 7 else 6) 16 32
      s.startMoult g h

/-- MOULT (R372): a session's action, or (session 32) Wenwyn's start of a queued moult. -/
def execMoult (k x g : Nat) (s : State) : Host.Outcome State Fault Refusal :=
  onRegion g s fun s => if k = noSession then s.wenwynMoult g else s.sessAct k x 0x3400 1 (State.actMoult k)

/-- MOULT_PHASE_DONE (R159, R373): the phase's failures are noted and the next begins; a short circuit that persists ends the moult. -/
def execMoultPhaseDone (g : Nat) (res : PhaseRes) (s : State) : Host.Outcome State Fault Refusal :=
  onRegion g s fun s =>
    match (s.region g).moult with
    | none => s
    | some m =>
      if (s.region g).st != .moulting || decide (m.phase = 0 ∨ m.phase > 7) then s
      else if m.phase = 1 ∧ res.short then
        (s.regionDown g .unusable).addCommit 0 [{ kind := 8, val := 5, id := g }]
      else
        let own (l : List Nat) : List Nat := l.filter fun t => decide (t < nTiles) && tileRegion t == g
        let m : MoultRun := { m with
          phase := m.phase + 1, badTiles := (own res.tiles).foldl (fun l t => insertSet t l) m.badTiles,
          badPhases := if m.phase = 1 then (res.phases.filter (· < 24)).foldl setBit m.badPhases else m.badPhases,
          noSpare := if m.phase = 7 then (own res.noSpare).foldl (fun l t => insertSet t l) m.noSpare else m.noSpare }
        s.updRegion g fun r => { r with moult := some m }

/-- R374: the fence of a tile that passes is lifted. -/
def State.unfenceTile (s : State) (u : Nat) : State :=
  let s := s.updTile u fun x => { x with selfFenced := false, noClk := false }
  let s := { s with flt := { s.flt with hwFenced := eraseSet u s.flt.hwFenced } }
  s.each [0, 1, 2, 3] fun s p =>
    match neighbour u p with
    | none => s
    | some t => s.updTile t fun x => { x with unitFence := eraseSet (opposite p) x.unitFence }

/-- R374, R451: what a moult's result records: tiles and logic phases readmitted or lost, and a change of the region's state. -/
def State.moultItems (s : State) (g : Nat) (bad : List Nat) (badPhases code : Nat) : List LogItem :=
  let f := s.fp
  let tiles := (regionTiles g).filterMap fun t =>
    let out := f.unusable.contains t || f.fenced.contains t
    if bad.contains t then (if f.unusable.contains t then none else some ({ kind := 3, val := 0, id := t } : LogItem))
    else if out then some { kind := 2, val := 0, id := t } else none
  let was := Tab.get 0 f.phases g
  let phases := (upTo 24).filterMap fun i =>
    if bitOf badPhases i && !bitOf was i then some ({ kind := 6, val := i, id := g } : LogItem)
    else if bitOf was i && !bitOf badPhases i then some { kind := 7, val := i, id := g } else none
  tiles ++ phases ++ if Tab.get 0 f.region g = code then [] else [{ kind := 8, val := code, id := g }]

/-- MOULT_COMPLETE (R159, R361, R371, R374): the units that pass are readmitted, the strikes cleared, and the commit made; the region is
Dark with a usable S-core, else Unusable. -/
def execMoultComplete (g : Nat) (s : State) : Host.Outcome State Fault Refusal :=
  onRegion g s fun s =>
    match (s.region g).moult with
    | none => s
    | some m =>
      if (s.region g).st != .moulting || m.phase != 8 then s
      else
        let bad := m.noSpare.foldl (fun l t => insertSet t l) m.badTiles
        let fit : Bool := (regionTiles g).any fun t => tileKind t == .s && !bad.contains t
        let items := s.moultItems g bad m.badPhases (if fit then 0 else 5)
        let s := s.powerOff g false
        let s := s.each (regionTiles g) fun s t =>
          let s := if bad.contains t then s else if (s.tile t).selfFenced || s.flt.hwFenced.contains t then s.unfenceTile t else s
          let s := if (s.tile t).weak then s.updTile t fun x => { x with weak := false } else s
          s.updStrike t fun _ => Strike.none
        let s := { s with
          boot := { s.boot with commitDue := s.boot.commitDue.filter fun x => !(x.kind == 1 && tileRegion x.id == g && !bad.contains x.id) },
          flt := { s.flt with queueM := clearBit s.flt.queueM g, retest := clearBit s.flt.retest g } }
        let s := s.updRegion g fun r => { r with
          st := (if fit then .dark else .unusable), moult := none, moultLast := s.time.now, phases := m.badPhases,
          moultRes := if !fit then 3 else if bad.isEmpty && m.badPhases == 0 then 1 else 2 }
        let s := ((s.addCommit 0 items).clearMarker g).commitNow
        (s.event { code := 0x9B, region := g, handle := m.handle }).finish m.handle 2 0

/-! ### Whole-device faults (R375) -/

/-- WHOLE_DEVICE_FAULT (R375): `c` 0 both copies of control-core memory or of the page tables, 1 the cocoon's lockstep cores, 2 the time
unit. After the second the meter and the cocoon no longer work. -/
def execWholeDeviceFault (c : Nat) (s : State) : Host.Outcome State Fault Refusal :=
  .next (s.whenB (decide (c < 3)) fun s => s.wholeFault c)

end Sys2Proof.Machine
end

