-- ==== Sys2Proof/Machine/Values.lean ====
section
/-!
DEFINITION. The value that a read of each object returns (R326, R357, R386, R411, R424 and the object tables of the other chapters), as
the bytes of R416.
-/

namespace Sys2Proof.Machine

def i32Bytes (v : Int) : Bytes := leBytes 4 (v % (2 ^ 32 : Nat)).toNat
def i64Bytes (v : Int) : Bytes := leBytes 8 (v % (2 ^ 64 : Nat)).toNat
def boolByte (b : Bool) : Bytes := leBytes 1 (if b then 1 else 0)

/-- A number in the width of its object. -/
def scalar (ix sub v : Nat) : Bytes :=
  match objRow ix sub with
  | some r => leBytes (r.ty.size.getD 0) v
  | none => []

/-! ### Handles (R422) -/

/-- R422: a session sees a handle: a partition its own only. -/
def sees (r : Role) (h : Hnd) : Bool := match r with | .partition p => h.part == p | _ => true

/-- 0x1800.08: the status word of a handle, 0 for one that the session does not know. -/
def State.handleWord (s : State) (q : Sess) : Nat :=
  let h := s.hnd q.hq
  if sees q.role h then h.word else 0

/-- 0x1800.09. -/
def State.handleDone (s : State) (q : Sess) : Nat := match q.role with | .partition p => Tab.get 0 s.boot.partDone p | _ => s.boot.lastDone

/-! ### Values by range -/

/-- 0x1000 (R411). -/
def State.val1000 (s : State) (sub : Nat) : Bytes :=
  let b := s.flash.bank s.boot.bank
  match sub with
  | 1 => devId
  | 2 => slice s.flash.cap.serial 0 16
  | 3 => leBytes 1 s.flash.cap.variant
  | 4 => leBytes 2 s.fp.mUsable
  | 5 => b.version
  | 6 => leBytes 4 b.svn
  | 7 => leBytes 1 s.boot.bank
  | 8 => Config.deviceCert 0 ++ Config.deviceCert 2 ++ Config.deviceCert 1
  | _ => s.flash.cap.bytes

/-- Open sessions. -/
def State.sessions (s : State) : List (Nat × Sess) :=
  s.fordan.sess.filterMap fun c => match c.2 with | some q => some (c.1, q) | none => none

def roleWord : Role → Nat × Nat
  | .operator => (0, 0xFF)
  | .vendor => (1, 0xFF)
  | .partition p => (2, p)

/-- R413: an operator anchor is installed. -/
def State.claimed (s : State) : Bool := [0x11, 0x12, 0x13, 0x14].any fun i => !(s.blob 0x1100 i).isEmpty

/-- 0x1100 (R424): those not stored. -/
def State.val1100 (s : State) (sub : Nat) : Bytes :=
  match sub with
  | 1 => leBytes 1 s.boot.lane
  | 7 => leBytes 2 5914
  | 8 => leBytes 1 s.sessions.length
  | 9 => Config.sessionList (s.sessions.map fun c => ((roleWord c.2.role).1, (roleWord c.2.role).2, c.2.peer, c.2.start))
  | 0x0C => boolByte s.claimed
  | _ => Config.macText 16

/-- 0x1800 (R411, R424). -/
def State.val1800 (s : State) (q : Sess) (sub : Nat) : Bytes :=
  match sub with
  | 1 => leBytes 1 s.boot.cause
  | 2 => leBytes 4 s.boot.abandoned
  | 3 => leBytes 1 s.bringupStep
  | 4 => boolByte s.boot.done
  | 6 => leBytes 4 s.flash.epoch
  | 7 => leBytes 8 q.hq
  | 8 => leBytes 4 (s.handleWord q)
  | _ => leBytes 8 (s.handleDone q)

/-- P_PLAN of the loaded image. -/
def State.pPlan (s : State) : Nat := match s.img.loaded with | some i => hPPlan i.hdr | none => 0

/-- 0x2000 to 0x203F (R357). -/
def State.val2000 (s : State) (ix sub : Nat) : Bytes :=
  if ix = 0x2000 then
    match sub with
    | 3 => boolByte s.pwr.pcap
    | 4 => leBytes 4 s.pwr.pIn
    | 5 => leBytes 4 s.pwr.vIn
    | _ => leBytes 4 s.pPlan
  else if ix < 0x2020 then
    let f := s.field (ix - 0x2010)
    match sub with
    | 1 => leBytes 4 f.i18
    | 2 => leBytes 1 f.queue.length
    | _ => leBytes 8 f.wakeWait
  else
    let g := ix - 0x2020
    let r := s.region g
    match sub with
    | 1 => leBytes 4 r.i10
    | 2 => leBytes 4 r.lim10
    | 3 => leBytes 4 r.lim1m
    | 4 => leBytes 4 r.env
    | 5 => leBytes 1 (popCount32 r.phases)
    | 6 => s.flash.volt.region g
    | 7 => leBytes 4 (s.vNow g)
    | 8 => leBytes 4 r.j
    | 9 => leBytes 2 (s.throttleWord g)
    | _ => boolByte r.crit

/-- 0x2400.04: the highest sensor, of regions, ring and the stacks present. -/
def State.tMax (s : State) : Int :=
  let st := ((upTo 24).filter fun k => (s.stack k).st != 0).map fun k => (s.stack k).temp
  maxOf (((upTo 32).map fun g => (s.region g).temp) ++ s.therm.ring ++ st)

/-- 0x2400 to 0x245F (R357). -/
def State.val2400 (s : State) (ix sub : Nat) : Bytes :=
  if ix = 0x2400 then
    match sub with
    | 1 => boolByte s.therm.coolant
    | 2 => boolByte s.therm.halted
    | 3 => boolByte s.therm.tripped
    | 4 => i32Bytes s.tMax
    | 5 => leBytes 8 s.therm.halts
    | _ => i32Bytes (maxOf s.therm.ring)
  else if ix < 0x2440 then
    let r := s.region (ix - 0x2420)
    match sub with
    | 1 => i32Bytes r.temp
    | 2 => i32Bytes (r.temps.getD 4 0)
    | _ => leBytes 8 r.hotSince
  else leBytes 8 (Tab.get 0 (s.region (ix - 0x2440)).thrDur sub)

/-- 0x2800 to 0x283F (R225, R245). -/
def State.val2800 (s : State) (ix sub : Nat) : Bytes :=
  if ix = 0x2800 then
    match sub with
    | 1 => leBytes 8 s.time.now
    | 2 => leBytes 1 s.time.st.code
    | 3 => boolByte s.time.valid
    | 4 => leBytes 1 s.time.src
    | _ => leBytes 4 s.time.errEst
  else if ix = 0x2808 then
    match sub with
    | 1 => leBytes 4 s.beat.len
    | 2 => leBytes 8 s.beat.count
    | 3 => leBytes 8 s.beat.nextMark
    | 4 => leBytes 8 s.beat.overruns
    | _ => leBytes 8 s.beat.losses
  else
    let r := s.region (ix - 0x2820)
    match sub with
    | 1 => leBytes 1 r.op
    | 3 => leBytes 1 r.opPend
    | 4 => leBytes 8 r.opPendBeat
    | 5 => leBytes 8 r.rep.str
    | 6 => leBytes 8 r.lateLast
    | 7 => i64Bytes r.rep.slack
    | _ => leBytes 8 r.clkSw

/-- Usable M-cores of a region at the instar in force. -/
def State.usableM (s : State) (g : Nat) : Nat :=
  ((regionTiles g).filter fun t => tileKind t == .m && !s.fp.unusable.contains t && !s.fp.fenced.contains t).length

/-- 0x3000 to 0x343F (R386, R424). -/
def State.val3000 (s : State) (ix sub : Nat) : Bytes :=
  if ix = 0x3000 then
    match sub with
    | 1 => leBytes 4 s.instar
    | 2 => s.fp.bytes s.flash.cap
    | 3 => leBytes 4 s.fp.fenced.length
    | _ => (upTo nTiles).flatMap fun t => leBytes 2 (s.clkWord t)
  else if ix < 0x3400 then
    let g := ix - 0x3020
    match sub with
    | 1 => leBytes 1 (s.region g).st.code
    | 2 => leBytes 1 (s.usableM g)
    | _ => leBytes 2 (s.region g).sup
  else if ix = 0x3400 then
    (match sub with
     | 4 => leBytes 4 s.flt.queueM
     | _ => leBytes 4 (((upTo 32).filter s.moults).foldl (fun m g => m + 2 ^ g) 0))
  else
    let g := ix - 0x3420
    match sub with
    | 1 => leBytes 8 (s.region g).moultLast
    | 2 => leBytes 1 (s.region g).moultRes
    | _ => leBytes 4 (((upTo 2784).filter fun u => unitRegion u == g).foldl (fun n u => n + (s.strikeOf u).transients) 0)

/-- 0x4000 to 0x4800 (R307). -/
def State.val4000 (s : State) (ix sub : Nat) : Bytes :=
  if ix < 0x4400 then
    let p := ix - 0x4000
    match sub with
    | 0x0E => boolByte (s.overQuota p)
    | 0x0F => leBytes 4 (s.resident p)
    | 0x10 => leBytes 4 (s.framesUsed p)
    | 0x11 => leBytes 4 (s.committedPower p)
    | _ => leBytes 8 (s.part p).dropped
  else if ix < 0x4800 then leBytes 4 (s.qPowerEff (ix - 0x4400))
  else
    match sub with
    | 1 => boolByte s.adm.isOpen
    | 5 => leBytes 4 s.adm.pps
    | 6 => leBytes 4 s.moduleLimit
    | 8 => leBytes 8 s.adm.admitted
    | 9 => leBytes 8 s.adm.refused
    | 0x0A => leBytes 8 s.adm.late
    | 0x0B => leBytes 8 s.beat.replays
    | _ => leBytes 8 s.adm.rebuilds

/-- R349, R404: the planning rate of a stack, MB/s: 90% of the peak of its live channels, 85% after 85 °C. -/
def Stack.planRate (x : Stack) : Nat := if x.st = 1 then 2 * popCount32 x.live * (if x.hot85 then 32640 else 34560) else 0

/-- 0x5010 to 0x549F (R424). The codewords that the FEC of a link corrects follow from no command: each read is a free value. -/
def State.val5000 (s : State) (ix sub : Nat) : Bytes :=
  if ix < 0x5400 then
    let p := s.port (ix - 0x5010)
    match sub with
    | 2 => boolByte p.up
    | 3 => leBytes 2 p.width
    | 4 => leBytes 2 p.lanes
    | 5 => leBytes 1 p.rate
    | 9 => Config.macText (ix - 0x5010)
    | _ => leBytes 8 (Config.freeValue s.free)
  else if ix < 0x5440 then
    let x := s.stack (ix - 0x5410)
    match sub with
    | 1 => leBytes 1 x.st
    | 2 => leBytes 2 x.live
    | 3 => i32Bytes x.temp
    | 9 => leBytes 4 x.planRate
    | _ => leBytes 8 (Tab.get 0 x.tele (sub - 3))
  else leBytes 8 (Tab.get 0 (s.engine (ix - 0x5440)).tele sub)

/-- 0x6000 to 0x6002 (R326). -/
def State.val6000 (s : State) (q : Sess) (ix sub : Nat) : Bytes :=
  let u := s.meter
  if ix = 0x6001 then leBytes 4 (Tab.get 0 u.wctx (sub - 1))
  else if ix = 0x6002 then
    (match sub with
     | 1 => leBytes 1 q.chain
     | 2 => leBytes 8 q.frm
     | _ => q.exportData)
  else
    match sub with
    | 1 => leBytes 4 s.flash.epoch
    | 2 => leBytes 1 u.st
    | 3 => leBytes 4 u.pBase
    | 4 => i32Bytes u.residLast
    | 5 => leBytes 8 u.residOver
    | 6 => leBytes 8 u.eIn
    | 7 => leBytes 8 u.eUn
    | 8 => leBytes 8 u.eFault
    | 9 => leBytes 4 s.ringFree
    | 0x0A => leBytes 4 u.pend.length
    | 0x0C => Config.deviceCert 1
    | 0x0D => leBytes 4 s.flash.volt.lossPpm
    | _ => leBytes 4 s.flash.volt.pFix

/-- R361: an entry of the strike table. -/
def State.strikeEntry (s : State) (u : Nat) : Bytes :=
  let x := s.strikeOf u
  let engine := decide (u ≥ nTiles)
  let b := boolByte engine ++ boolByte x.faulty ++ leBytes 2 (if engine then u - nTiles else tileCode u) ++ leBytes 1 x.strikes ++
    leBytes 1 x.transients ++ leBytes 1 (if engine then 0 else x.ues) ++ leBytes 1 0
  b ++ leBytes 8 (crc64 b).toNat

/-- 0x7000 to 0x705F (R386, R424). -/
def State.val7000 (s : State) (q : Sess) (ix sub : Nat) : Bytes :=
  let f := s.flt
  if ix = 0x7001 then (upTo 2784).flatMap s.strikeEntry
  else if ix = 0x7002 then leBytes 4 s.csr.alertSrc
  else if ix ≥ 0x7040 then leBytes 8 (Tab.get 0 (s.region (ix - 0x7040)).tele sub)
  else
    match sub with
    | 1 => leBytes 8 f.evNext
    | 2 => leBytes 8 f.evOldest
    | 3 => leBytes 8 f.evLost
    | 4 => leBytes 8 q.evFrom
    | 5 => (f.log.filter fun e => decide (q.evFrom ≤ e.seq)).flatMap Event.bytes
    | 7 => leBytes 8 f.samples
    | 8 => leBytes 8 f.skipped
    | 9 => leBytes 8 f.transients
    | 0x0A => leBytes 8 f.strikes
    | 0x0B => leBytes 8 f.fenced
    | 0x0C => leBytes 8 f.suspect
    | 0x0D => leBytes 8 f.unresolved
    | 0x0E => leBytes 8 f.stops
    | _ => boolByte f.whole

/-- STEP of a slot, all ones for none. -/
def slotStep (c : Option Chry) : Nat := match c with | some x => x.step | none => 2 ^ 64 - 1

/-- 0x7800 (R386). -/
def State.val7800 (s : State) (sub : Nat) : Bytes :=
  let r := s.train
  match sub with
  | 1 => leBytes 1 s.trainState
  | 2 => leBytes 8 r.step
  | 3 => leBytes 4 (match s.img.loaded with | some i => i.snapN | none => 0)
  | 5 => leBytes 8 (slotStep r.slotA)
  | 6 => leBytes 8 (slotStep r.slotB)
  | 7 => leBytes 4 r.lastLoss
  | 0x0C => r.exportData
  | 0x0E => leBytes 8 r.restores
  | _ => leBytes 8 r.fallbacks

/-- 0x8000 (R424). -/
def State.val8000 (s : State) (sub : Nat) : Bytes :=
  match sub with
  | 0x0A => boolByte s.img.loaded.isSome
  | 0x0B => slice s.img.content 0 64
  | 0x0C => leBytes 4 s.imgFlags
  | 0x0D => leBytes 4 s.img.runsAt
  | _ => leBytes 1 (match s.img.load with | some l => l.step | none => 0)

/-- 0x9000 to 0x9020 (R411). -/
def State.val9000 (s : State) (q : Sess) (ix sub : Nat) : Bytes :=
  if ix = 0x9000 then leBytes 1 (if sub = 3 then s.flash.bankA.st else s.flash.bankB.st)
  else if ix = 0x9010 then
    (match sub with
     | 3 => leBytes 4 s.licMask
     | 4 => leBytes 1 s.partLimit
     | _ => s.flash.lics.flatMap fun l => slice l.data 0 512)
  else q.att

/-- The value of an object that is not stored as written: those of access RO or CONST, and a session's copies. -/
def State.liveValue (s : State) (q : Sess) (ix sub : Nat) : Bytes :=
  if ix = 0x1000 then s.val1000 sub
  else if ix = 0x1100 then s.val1100 sub
  else if ix = 0x1800 then s.val1800 q sub
  else if ix < 0x2400 then s.val2000 ix sub
  else if ix < 0x2800 then s.val2400 ix sub
  else if ix < 0x3000 then s.val2800 ix sub
  else if ix < 0x4000 then s.val3000 ix sub
  else if ix < 0x5000 then s.val4000 ix sub
  else if ix < 0x6000 then s.val5000 ix sub
  else if ix < 0x7000 then s.val6000 q ix sub
  else if ix < 0x7800 then s.val7000 q ix sub
  else if ix < 0x8000 then s.val7800 sub
  else if ix < 0x9000 then s.val8000 sub
  else s.val9000 q ix sub

/-- R416, R420, R421: the value that a session reads. Sub-index 0 holds the highest sub-index present. -/
def State.valueOf (s : State) (q : Sess) (ix sub : Nat) : Bytes :=
  if sub = 0 then leBytes 1 ((objTop ix).getD 0)
  else
    match objRow ix sub with
    | none => []
    | some r =>
      if r.acc == .rw && !sessionObj ix sub then
        (match r.ty with
         | .str => s.blob ix sub
         | .blob => s.blob ix sub
         | _ => scalar ix sub (s.setting ix sub))
      else s.liveValue q ix sub

end Sys2Proof.Machine
end

