-- ==== Sys2Proof/Machine/Fordan.lean ====
section
/-!
DEFINITION. The Fordan server (R412 to R422): sessions, the services, segmented transfers and subscriptions.
-/

namespace Sys2Proof.Machine

/-! ### Sessions (R412 to R414) -/

/-- R389, R390, R396: the server offers sessions: step 6 has ended, bring-up is not halted, the attestation key is sound. -/
def State.serving (s : State) : Bool := decide (s.boot.step ≥ 8) && s.boot.halted.isNone && !s.boot.attOff

/-- R413: the certificate verifies under a stored anchor. -/
def State.anchored (s : State) (cert : Bytes) (ix sub : Nat) : Bool :=
  let a := s.blob ix sub
  !a.isEmpty && Config.certVerifies cert a

/-- R413: the role that a certificate has, and the key of the anchor that gives it: operator, partition, vendor in turn. While the
device is unclaimed a self-signed certificate has the operator role. -/
def State.roleOf (s : State) (cert : Bytes) : Option (Role × Nat) :=
  match [0x11, 0x12, 0x13, 0x14].find? fun i => s.anchored cert 0x1100 i with
  | some i => some (.operator, objKey 0x1100 i)
  | none =>
    if !s.claimed && Config.certSelfSigned cert then some (.operator, objKey 0x1100 0x11)
    else
      match (upTo 16).filter fun p => s.anchored cert 0x1101 (p + 1) with
      | [p] => some (.partition p, objKey 0x1101 (p + 1))
      | _ :: _ => none
      | [] => if Config.certVerifies cert (Config.korhoedKey 4) && s.setting 0x1100 0x0B == 1 then some (.vendor, 0) else none

/-- A session as it starts. -/
def newSess (role : Role) (anchor : Nat) (peer : Bytes) (start : Nat) : Sess :=
  { role := role, anchor := anchor, peer := peer, start := start, subs := [], nseq := 0, hq := 0, chain := 0xFF, frm := 1,
    exportH := 0, exportData := [], evFrom := 1, nonce := [], att := [] }

/-- R412: a handshake that fails. -/
def State.handshakeFails (s : State) : State := { s with fordan := { s.fordan with alerts := s.fordan.alerts + 1 } }

/-- FORDAN_HANDSHAKE (R412 to R414). -/
def execFordanHandshake (h : Handshake) (s : State) : Host.Outcome State Fault Refusal :=
  .next (s.whenB s.serving fun s =>
    match if h.supported && !h.cert.isEmpty then s.roleOf h.cert else none with
    | none => s.handshakeFails
    | some (role, anchor) =>
      let l := s.sessions
      if l.length ≥ 32 || (role == .vendor && l.any fun c => c.2.role == .vendor) then s.handshakeFails
      else
        match (upTo 32).find? fun k => (s.sess k).isNone with
        | none => s.handshakeFails
        | some k =>
          let s := if role == .operator && !s.claimed then s.putBlob 0x1100 0x11 h.cert else s
          { s with fordan := { s.fordan with sess := Tab.put none s.fordan.sess k (some (newSess role anchor h.peer s.time.now)) } })

/-- R414: a session ends, with its transfers and subscriptions; an export it reads can no longer be read. -/
def State.endSess (s : State) (k : Nat) : State :=
  match s.sess k with
  | none => s
  | some q =>
    let s := { s with fordan := { s.fordan with
      sess := Tab.put none s.fordan.sess k none, xfers := s.fordan.xfers.filter fun t => t.sess != k } }
    if q.exportH ≠ 0 ∧ (s.hnd q.exportH).st = 1 then s.finish q.exportH 3 0 else s

/-- SESSION_IDLE_TIMEOUT (R414). -/
def execSessionIdleTimeout (k : Nat) (s : State) : Host.Outcome State Fault Refusal := .next (s.endSess k)

/-- MGMT_ADDRESS_CHANGE (R414): a written address or VLAN takes effect, and every session ends. -/
def execMgmtAddressChange (s : State) : Host.Outcome State Fault Refusal :=
  .next (s.whenB s.fordan.addrNew fun s =>
    (s.each (s.sessions.map (·.1)) State.endSess) |> fun s => { s with fordan := { s.fordan with addrNew := false } })

/-- R414: the sessions of an anchor that is removed or rewritten end. -/
def State.anchorGone (s : State) (key : Nat) : State :=
  s.each ((s.sessions.filter fun c => c.2.anchor == key && c.2.role != .vendor).map (·.1)) State.endSess

/-! ### Reads -/

/-- 0x5010.07 and .08, whose values are free at each read. -/
def fecCount (ix sub : Nat) : Bool := decide (0x5010 ≤ ix ∧ ix ≤ 0x501F) && (sub == 7 || sub == 8)

/-- FORDAN_READ (R415, R416, R420). -/
def execFordanRead (k x ix sub : Nat) (s : State) : Host.Outcome State Fault Refusal :=
  .next (match s.sess k with
    | none => s
    | some q =>
      match readGate q ix sub 1 with
      | some st => s.failed k x 1 st ix sub 0
      | none => (s.whenB (fecCount ix sub) fun s => { s with free := s.free + 1 }).respond k x 1 stOk ix sub (s.valueOf q ix sub))

/-! ### Writes -/

/-- A setting within its stated range. -/
def State.inRange (s : State) (ix sub : Nat) (ok : Bool) (v : Nat) : WRes := if ok then .ok (s.putSetting ix sub v) else .fail stRange 0

/-- 0x5010.01 (R29, R424). -/
def State.wrCfgWidth (l : Nat) (s : State) (v : Nat) : WRes :=
  let mine := (upTo (lanesOf v)).map (l + ·)
  let others := (upTo 16).filter fun o => o != l && (upTo (lanesOf (s.cfgWidth o))).any fun i => mine.contains (o + i)
  if !([0, 200, 400, 800].contains v) then .fail stRange 0
  else if !cfgForm l v || !others.isEmpty then refusedBy 0
  else .ok (s.putSetting (0x5010 + l) 1 v)

/-- 0x6002.01 (R422): the chain to export; a partition's own only. -/
def State.wrChain (k : Nat) (s : State) (v : Nat) : WRes :=
  match s.sess k with
  | none => refusedBy 0
  | some q =>
    if !(v < 16 || v == 0xFF) then .fail stRange 0
    else if (match q.role with | .partition p => v != p | _ => false) then .fail stRole 0
    else .ok (s.updSess k fun q => { q with chain := v })

/-- R429: bits of PWR_ALERT_SRC written 1 are cleared; bits 0 and 1 clear only at reset. -/
def State.clearAlerts (s : State) (v : Nat) : State :=
  { s with csr := { s.csr with alertSrc := s.csr.alertSrc - (s.csr.alertSrc &&& (v &&& 0x3FC)) } }

/-- 0x7002.03: the mask, copied into PWR_ALERT_MASK. -/
def State.wrAlertMask (s : State) (v : Nat) : WRes :=
  let s := s.putSetting 0x7002 3 v
  .ok { s with csr := { s.csr with alertMask := v % 2 ^ 10 ||| 3 } }

/-- R363: SAMPLE_RATE is 0 or a power of two from 256 to 65,536. -/
def sampleRateOk (v : Nat) : Bool := v == 0 || ((upTo 9).any fun i => v == 2 ^ (8 + i))

/-- R15, R422: a write of HANDLE_QUERY that names a handle not issued since the reset, or one that the session does not see, is refused
as unknown; 0 names no handle (log entry 105). -/
def State.wrHandleQuery (s : State) (k v : Nat) : WRes :=
  let known : Bool := match s.sess k with
    | some q => (s.hnd v).st != 0 && sees q.role (s.hnd v)
    | none => false
  if v = 0 ∨ known then .ok (s.updSess k fun q => { q with hq := v }) else .fail stUnknownHandle 0

/-- Writes of the 0x1000 ranges: 0x1100 and 0x1800. -/
def State.wr1000 (k ix sub : Nat) (s : State) (v : Nat) : WRes :=
  if ix = 0x1800 then
    if sub = 5 then s.wrResetReq v else s.wrHandleQuery k v
  else
    match sub with
    | 5 => if v ≤ 4094 then .ok { (s.putSetting ix sub v) with fordan := { (s.putSetting ix sub v).fordan with addrNew := true } } else .fail stRange 0
    | 6 => s.inRange ix sub (v == 1500 || v == 9000) v
    | 0x0A => s.inRange ix sub (decide (10 ≤ v ∧ v ≤ 3600)) v
    | _ => .ok (s.putSetting ix sub v)

/-- Writes of the 0x2000 ranges. -/
def State.wr2000 (ix sub : Nat) (s : State) (v : Nat) : WRes :=
  if ix = 0x2000 then
    match sub with
    | 1 => s.wrModuleInMax v
    | 2 => s.wrPcapLimit v
    | _ => s.wrMarginMode v
  else if ix = 0x2800 then s.wrTimeStep v
  else if ix = 0x2801 then
    if sub = 6 then s.wrFreerun v
    else if sub = 5 then .ok (s.putSetting ix sub v)
    else if v ≤ 4 then .ok (s.putSetting ix sub v).reselect
    else .fail stRange 0
  else if ix = 0x2802 then
    s.inRange ix sub (match sub with | 1 => v ≤ 127 | 2 => v ≤ 2 | 3 => v ≤ 1 | _ => true) v
  else if ix = 0x2803 then
    if sub = 1 then s.wrPpsNext v else .ok (s.putSetting ix sub v)
  else s.wrOpCeil (ix - 0x2820) v

/-- Writes of the 0x4000 ranges. -/
def State.wr4000 (ix sub : Nat) (s : State) (v : Nat) : WRes :=
  if ix < 0x4400 then
    let p := ix - 0x4000
    match sub with
    | 1 => s.wrPartState p v
    | 3 => .ok (s.putSetting ix sub v)
    | 0x13 => s.inRange ix sub (decide (576 ≤ v ∧ v ≤ 8192)) v
    | _ => s.wrBinding p sub v
  else if ix < 0x4800 then s.wrQuota (ix - 0x4400) sub v
  else
    s.inRange ix sub (match sub with
      | 2 => v ≤ 8
      | 3 => v ≤ 7
      | 4 => decide (4 ≤ v ∧ v ≤ 4096)
      | _ => decide (10 ≤ v ∧ v ≤ 86400)) v

/-- Writes of the ranges from 0x5000. -/
def State.wr5000 (k ix sub : Nat) (s : State) (v : Nat) : WRes :=
  if ix < 0x5400 then s.wrCfgWidth (ix - 0x5010) v
  else if ix < 0x6000 then s.inRange ix sub (if sub = 2 then v ≤ 23 else v ≤ 15) v
  else if ix < 0x7000 then
    match sub with
    | 1 => s.wrChain k v
    | 2 => .ok (s.updSess k fun q => { q with frm := v })
    | _ => s.wrAckSeq k v
  else if ix = 0x7000 then
    if sub = 4 then .ok (s.updSess k fun q => { q with evFrom := v }) else s.inRange ix sub (sampleRateOk v) v
  else if ix = 0x7002 then
    if sub = 2 then .ok (s.clearAlerts v) else s.wrAlertMask v
  else if ix = 0x7800 then s.inRange ix sub (if sub = 4 then decide (1 ≤ v ∧ v ≤ 1024) else v ≤ 3) v
  else if ix = 0x8000 then s.inRange ix sub (if sub = 4 then decide (2000 ≤ v ∧ v ≤ 50000) else true) v
  else if ix = 0x9000 then s.wrMinSvn v
  else s.wrLicRemove v

/-- A write of a number to any object that takes one. -/
def State.wrNum (k ix sub : Nat) (s : State) (v : Nat) : WRes :=
  if ix < 0x2000 then s.wr1000 k ix sub v
  else if ix < 0x3000 then s.wr2000 ix sub v
  else if ix < 0x4000 then s.inRange ix sub (if sub = 2 then v ≤ 31 else true) v
  else if ix < 0x5000 then s.wr4000 ix sub v
  else s.wr5000 k ix sub v

/-- A write of a string: NAME holds up to 32 bytes; an address of the management port takes effect later (R414). -/
def State.wrStr (ix sub : Nat) (s : State) (v : Bytes) : WRes :=
  if 0x4000 ≤ ix ∧ ix ≤ 0x400F ∧ sub = 2 ∧ v.length > 32 then .fail stRange 0
  else
    let s := s.putBlob ix sub v
    .ok (if ix = 0x1100 ∧ (sub = 2 ∨ sub = 3) then { s with fordan := { s.fordan with addrNew := true } } else s)

/-- The own rules of an object for a WRITE. -/
def State.wrAny (k ix sub : Nat) (s : State) (v : Bytes) : WRes :=
  match objRow ix sub with
  | some r => if r.ty == .str then s.wrStr ix sub v else s.wrNum k ix sub (leNat v)
  | none => .fail stNoObject 0

/-- FORDAN_WRITE (R415, R416, R419, R420). -/
def execFordanWrite (k x ix sub : Nat) (v : Bytes) (s : State) : Host.Outcome State Fault Refusal :=
  .next (s.sessWrite k x ix sub v (State.wrAny k ix sub))

/-! ### Actions -/

/-- The own rules of an action object. -/
def State.actAny (k ix sub : Nat) (s : State) : ARes :=
  if ix = 0x3400 then s.actMoult k
  else if 0x5010 ≤ ix ∧ ix ≤ 0x501F then s.actPortRetrain k (ix - 0x5010)
  else if ix = 0x5400 then s.actHbmRetrain k
  else if ix = 0x6002 then s.actExport k
  else if ix = 0x7800 then (if sub = 8 then s.actCheckpoint k else if sub = 9 then s.actRestore k else s.actChryExport k)
  else if ix = 0x8000 then (if sub = 1 then s.actLoad k else s.actUnload k)
  else if ix = 0x9000 then s.actFwUpdate k
  else if ix = 0x9010 then s.actLicInstall k
  else s.actAtt k

/-- ACTION (R415, R416): no action object states parameters, so any payload has the wrong length. -/
def execAction (k x ix sub : Nat) (v : Bytes) (s : State) : Host.Outcome State Fault Refusal :=
  .next (
    let bad : Bool := match s.sess k with
      | some q => (s.writeGate q ix sub 6).isNone && !v.isEmpty
      | none => false
    if bad then s.failed k x 6 stType ix sub 0 else s.sessAct k x ix sub (State.actAny k ix sub))

/-! ### Segmented transfers (R417) -/

/-- R417: data bytes of one segment at most, and the window in segments. -/
def State.segMax (s : State) : Nat := s.setting 0x1100 6 - 160
def segWindow : Nat := 64

def State.xferOf (s : State) (k x : Nat) : Option Xfer := s.fordan.xfers.find? fun t => t.sess == k && t.txn == x
def State.dropXfer (s : State) (t : Xfer) : State :=
  { s with fordan := { s.fordan with xfers := s.fordan.xfers.filter fun u => !(u.sess == t.sess && u.txn == t.txn) } }
def State.putXfer (s : State) (t : Xfer) : State :=
  { s with fordan := { s.fordan with xfers := (s.dropXfer t).fordan.xfers ++ [t] } }

def imgData (ix sub : Nat) : Bool := ix == 0x8000 && sub == 3

/-- R413, R414: an operator anchor may go only while another remains; the sessions of an anchor rewritten end. -/
def State.wrAnchor (ix sub : Nat) (s : State) (v : Bytes) : WRes :=
  let others := [0x11, 0x12, 0x13, 0x14].any fun i => i != sub && !(s.blob 0x1100 i).isEmpty
  if ix = 0x1100 ∧ v.isEmpty ∧ !(s.blob ix sub).isEmpty ∧ !others then refusedBy 0
  else .ok ((s.putBlob ix sub v).anchorGone (objKey ix sub))

/-- R260: a section transfer that is whole: the section table is checked when it is held, and each section's DIGEST. -/
def State.takeImgData (s : State) (base : Nat) (v : Bytes) : WRes :=
  match s.img.load with
  | none => refusedBy 0x8A
  | some l =>
    if l.step ≠ 3 then refusedBy 0
    else
      let l := { l with bytes := memWrite l.bytes base v, got := addRange l.got base (base + v.length) }
      let s := { s with img := { s.img with load := some l } }
      if l.tableHeld && (tableBad l.hdr l.entries || l.strayed) then .ok (s.endLoad 0x81)
      else if l.digestBad then .ok (s.endLoad 0x87)
      else .ok s

/-- The effect of a write transfer of which every byte is held. -/
def State.wrBlob (k ix sub base : Nat) (s : State) (v : Bytes) : WRes :=
  let sized (n : Nat) (f : State → State) : WRes := if v.length = n then .ok (f s) else .fail stType 0
  if ix = 0x1100 ∨ ix = 0x1101 then s.wrAnchor ix sub v
  else if 0x4000 ≤ ix ∧ ix ≤ 0x400F then sized 64 fun s => s.putKey (ix - 0x4000) (sub - 4) v
  else if ix = 0x7800 ∧ sub = 0x10 then
    if s.trainOpen then .ok (s.putBatch (Config.batchStream v) (Config.batchIndex v) v) else refusedBy 0
  else if ix = 0x8000 ∧ sub = 2 then sized 1024 fun s => { s with img := { s.img with hdr := v } }
  else if ix = 0x8000 ∧ sub = 3 then s.takeImgData base v
  else if ix = 0x8000 then (if v.isEmpty then .ok (s.putBlob ix sub v) else sized 133 fun s => s.putBlob ix sub v)
  else if ix = 0x9020 then sized 64 fun s => s.updSess k fun q => { q with nonce := v }
  else .ok (s.putBlob ix sub v)

/-- R417: a write transfer whose bytes are all held takes effect, and is answered. -/
def State.xferDone (s : State) (t : Xfer) (svc : Nat) : State :=
  let s := s.dropXfer t
  match s.wrBlob t.sess t.ix t.sub t.base (memRead t.bytes 0 t.len) with
  | .ok s' => s'.respond t.sess t.txn svc stOk t.ix t.sub []
  | .fail st d => s.failed t.sess t.txn svc st t.ix t.sub d

/-- R417: the segments that a read sends now: from `frm`, up to 64 beyond what is acknowledged. -/
def State.sendSegs (s : State) (t : Xfer) (frm : Nat) : State :=
  let size := s.segMax
  let top := min t.len (t.nxt + segWindow * size)
  let n := cdiv (top - frm) size
  let l : List FMsg := (upTo n).map fun i =>
    let off := frm + i * size
    { sess := t.sess, svc := 4, status := 0, txn := t.txn, ix := t.ix, sub := t.sub, data := leBytes 8 off ++ slice t.snap off (min size (top - off)) }
  let s := { s with fordan := { s.fordan with out := s.fordan.out ++ l } }
  s.putXfer { t with sent := max t.sent top }

/-- A read of which every byte is acknowledged; one of EXPORT_DATA completes its export. -/
def State.readDone (s : State) (t : Xfer) : State :=
  let s := s.dropXfer t
  match s.sess t.sess with
  | some q =>
    if t.ix = 0x6002 ∧ q.exportH ≠ 0 ∧ (s.hnd q.exportH).st = 1 ∧ t.len = q.exportData.length then s.finish q.exportH 2 0 else s
  | none => s

/-- R417: another write transfer bars this one: one on the object, or for IMG_DATA eight or one whose range it meets. -/
def State.xferBusy (s : State) (m : SegStart) : Bool :=
  let l := s.fordan.xfers.filter fun t => !t.read && t.ix == m.ix && t.sub == m.sub
  if imgData m.ix m.sub then decide (l.length ≥ 8) || l.any fun t => decide (t.base < m.base + m.len ∧ m.base < t.base + t.len)
  else !l.isEmpty

/-- R260: a transfer of IMG_DATA that its load refuses: none at step 3, or a range outside the image (0x81). -/
def State.imgRefused (s : State) (m : SegStart) : Option (Nat × State) :=
  match s.img.load with
  | none => some (0, s)
  | some l => if l.step ≠ 3 then some (0, s) else if l.outside m.base (m.base + m.len) then some (0x81, s.endLoad 0x81) else none

/-- A new transfer. -/
def newXfer (k x : Nat) (m : SegStart) (rd : Bool) (snap : Bytes) : Xfer :=
  { sess := k, txn := x, ix := m.ix, sub := m.sub, read := rd, len := (if rd then snap.length else m.len), base := m.base, got := [], bytes := [],
    snap := snap, nxt := 0, sent := 0 }

/-- SEG_START of a write. -/
def State.startWrite (s : State) (k x : Nat) (q : Sess) (m : SegStart) : State :=
  match s.writeGate q m.ix m.sub 3 with
  | some st => s.failed k x 3 st m.ix m.sub 0
  | none =>
    if m.base ≠ 0 ∧ !imgData m.ix m.sub then s.failed k x 3 stRange m.ix m.sub 0
    else if s.xferBusy m || (s.xferOf k x).isSome then s.failed k x 3 stBusy m.ix m.sub 0
    else
      match if imgData m.ix m.sub then s.imgRefused m else none with
      | some (d, s) => s.failed k x 3 stRefused m.ix m.sub d
      | none =>
        let t := newXfer k x m false []
        if m.len = 0 then s.xferDone t 3 else (s.putXfer t).respond k x 3 stOk m.ix m.sub []

/-- SEG_START of a read: the object is snapshot, and LENGTH bytes of it at most are sent. -/
def State.startRead (s : State) (k x : Nat) (q : Sess) (m : SegStart) : State :=
  match readGate q m.ix m.sub 3 with
  | some st => s.failed k x 3 st m.ix m.sub 0
  | none =>
    if m.base ≠ 0 then s.failed k x 3 stRange m.ix m.sub 0
    else if (s.xferOf k x).isSome then s.failed k x 3 stBusy m.ix m.sub 0
    else
      let t := newXfer k x m true ((s.valueOf q m.ix m.sub).take m.len)
      let s := s.respond k x 3 stOk m.ix m.sub []
      if t.len = 0 then s.readDone t else s.sendSegs t 0

/-- SEG_START (R415, R417). -/
def execSegStart (k x : Nat) (m : SegStart) (s : State) : Host.Outcome State Fault Refusal :=
  .next (match s.sess k with
    | none => s
    | some q =>
      if m.dir = 0 then s.startWrite k x q m
      else if m.dir = 1 then s.startRead k x q m
      else s.failed k x 3 stType m.ix m.sub 0)

/-- The first offset not yet held. -/
def firstGap (got : List (Nat × Nat)) : Nat := match got.find? fun r => r.1 == 0 with | some r => r.2 | none => 0

/-- SEG_DATA (R415, R417): a segment of a write; when the last byte is held the write takes effect. -/
def execSegData (k x off : Nat) (data : Bytes) (s : State) : Host.Outcome State Fault Refusal :=
  .next (match s.sess k with
    | none => s
    | some _ =>
      match s.xferOf k x with
      | none => s.failed k x 4 stSegment 0 0 0
      | some t =>
        if t.read ∨ off + data.length > t.len then s.failed k x 4 stSegment t.ix t.sub 0
        else if data.isEmpty ∨ data.length > s.segMax then s.failed k x 4 stType t.ix t.sub 0
        else
          let before := firstGap t.got
          if off + data.length > before + segWindow * s.segMax then s.respond k x 4 stOk t.ix t.sub []
          else
            let u := { t with got := addRange t.got off (off + data.length), bytes := memWrite t.bytes off data }
            let now := firstGap u.got
            let ack : FMsg := { sess := k, svc := 5, status := 0, txn := x, ix := t.ix, sub := t.sub, data := leBytes 8 now }
            let s := if now > before then { s with fordan := { s.fordan with out := s.fordan.out ++ [ack] } } else s
            if now = t.len then s.xferDone u 4 else (s.putXfer u).respond k x 4 stOk t.ix t.sub [])

/-- SEG_ACK (R415, R417): the client holds every byte below NEXT. -/
def execSegAck (k x nxt : Nat) (s : State) : Host.Outcome State Fault Refusal :=
  .next (match s.xferOf k x with
    | none => s
    | some t =>
      if !t.read ∨ nxt ≤ t.nxt ∨ nxt > t.sent then s
      else
        let u := { t with nxt := nxt }
        if nxt = t.len then s.readDone u else s.sendSegs u t.sent)

/-- SEGMENT_RESEND_TIMEOUT (R417): the device, as the sender of a read, sends again from NEXT. -/
def execSegmentResendTimeout (k x : Nat) (s : State) : Host.Outcome State Fault Refusal :=
  .next (match s.xferOf k x with
    | none => s
    | some t => if t.read then s.sendSegs t t.nxt else s)

/-- TRANSFER_ABANDON (R417): no segment for 10 s; nothing of an abandoned write takes effect. -/
def execTransferAbandon (k x : Nat) (s : State) : Host.Outcome State Fault Refusal :=
  .next (match s.xferOf k x with
    | none => s
    | some t => s.dropXfer t)

/-! ### Subscriptions (R418) -/

def Sess.subOf (q : Sess) (ix sub : Nat) : Option Machine.Sub := q.subs.find? fun u => u.ix == ix && u.sub == sub
def Sess.dropSub (q : Sess) (ix sub : Nat) : Sess := { q with subs := q.subs.filter fun u => !(u.ix == ix && u.sub == sub) }

/-- SUBSCRIBE. -/
def execSubscribe (k x ix sub minMs : Nat) (s : State) : Host.Outcome State Fault Refusal :=
  .next (match s.sess k with
    | none => s
    | some q =>
      match readGate q ix sub 7 with
      | some st => s.failed k x 7 st ix sub 0
      | none =>
        if (q.subOf ix sub).isNone ∧ q.subs.length ≥ 64 then s.failed k x 7 stBusy ix sub 0
        else
          let u : Machine.Sub := { ix := ix, sub := sub, minMs := minMs, last := s.valueOf q ix sub, sentAt := 0, ever := false }
          let new (q : Sess) : Sess := { (q.dropSub ix sub) with subs := (q.dropSub ix sub).subs ++ [u] }
          (s.updSess k new).respond k x 7 stOk ix sub [])

/-- UNSUBSCRIBE. -/
def execUnsubscribe (k x ix sub : Nat) (s : State) : Host.Outcome State Fault Refusal :=
  .next (match s.sess k with
    | none => s
    | some q =>
      match readGate q ix sub 8 with
      | some st => s.failed k x 8 st ix sub 0
      | none => (s.updSess k fun q => q.dropSub ix sub).respond k x 8 stOk ix sub [])

/-- R418: the two objects whose notifications are sent at their events. -/
def sentAtOnce (ix sub : Nat) : Bool := (ix == 0x7000 && sub == 1) || (ix == 0x1800 && sub == 9)

/-- NOTIFY: the value has changed since the last, and MIN_MS has passed. -/
def execNotify (k ix sub : Nat) (s : State) : Host.Outcome State Fault Refusal :=
  .next (match s.sess k with
    | none => s
    | some q =>
      match q.subOf ix sub with
      | none => s
      | some u =>
        let v := s.valueOf q ix sub
        if sentAtOnce ix sub || v == u.last || (u.ever && decide (s.time.now < u.sentAt + u.minMs * 1000000)) then s
        else
          let w : Machine.Sub := { u with last := v, sentAt := s.time.now, ever := true }
          let new (q : Sess) : Sess := { (q.dropSub ix sub) with subs := (q.dropSub ix sub).subs ++ [w] }
          (s.updSess k new).notifyTo k ix sub v)

end Sys2Proof.Machine
end

