-- ==== Sys2Proof/Machine/Csr.lean ====
section
/-!
DEFINITION. The CSR window (R425 to R429, R431): its registers, the alias window, the alert registers and the wide-read mailbox. An address
is absolute.
-/

namespace Sys2Proof.Machine

def State.updCsr (s : State) (f : Csr → Csr) : State := { s with csr := f s.csr }

/-! ### Pins that a register shows (R429, R435) -/

/-- R429: a bit of PWR_ALERT_SRC and of PWR_ALERT_MASK are both 1. -/
def Csr.alerting (c : Csr) : Bool := decide (c.alertSrc &&& c.alertMask ≠ 0)

/-- R441: EXTEST drives an output pin from the boundary-scan chain. -/
def State.outLevel (s : State) (pin : Nat) (level : Bool) : Bool := if s.jtag.drive then Config.boundaryDrive s.jtag.bsr pin else level

/-- The level of PG: released without VSB_3V3. -/
def State.pgLevel (s : State) : Bool := s.outLevel 0 (!s.pins.vsb || s.boot.pg)
/-- The level of ALERT_N: driven low only with VSB_3V3 present and PG asserted. -/
def State.alertN (s : State) : Bool := s.outLevel 1 (!(s.pins.vsb && s.boot.pg && s.csr.alerting))
/-- The level of THERMTRIP_N. -/
def State.thermtripN (s : State) : Bool := s.outLevel 2 (!(s.pins.vsb && s.boot.pg && s.pins.thermtrip))

/-! ### Registers -/

/-- Bits as a number, bit 0 first. -/
def ofBits (l : List Bool) : Nat := l.foldr (fun b n => (if b then 1 else 0) + 2 * n) 0

/-- PWR_SIG_STAT. -/
def State.sigStat (s : State) : Nat :=
  ofBits [s.pins.coolantOk, s.therm.coolant, s.pins.pcapN, s.pwr.pcap, s.pins.pwrEn, s.thermtripN, s.alertN, s.pgLevel, s.time.ppsQ, s.time.refQ]

/-- TIM_STAT. -/
def State.timStat (s : State) : Nat :=
  s.time.st.code + (if s.time.valid then 8 else 0) + 16 * s.time.src + 2 ^ 16 * min 0xFFFF (cdiv s.time.errEst 1000)

/-- FLP_INSTAR. -/
def State.flpInstar (s : State) : Nat := if s.boot.step < 3 then 0 else s.instar % 2 ^ 32

/-- FLP_REGION_STATEn. -/
def State.flpStates (s : State) (n : Nat) : Nat := (upTo 8).foldl (fun v k => v + (s.region (8 * n + k)).st.code * 2 ^ (4 * k)) 0

/-- HBM_STACK_STATs. -/
def State.stackStat (s : State) (k : Nat) : Nat :=
  let x := s.stack k
  x.live % 2 ^ 16 + 2 ^ 16 * min 255 (x.temp / 100).toNat + 2 ^ 30 * (x.st % 4)

/-- MET_STAT. -/
def State.metStat (s : State) : Nat :=
  let u := s.meter
  u.st % 4 + (if u.over16 = 0 then 0 else 4) + (if u.failLast.contains 0 then 8 else 0) + 2 ^ 8 * min 255 u.failLast.length +
    2 ^ 16 * min 0xFFFF (s.ringFree / 64)

/-! ### Mailbox channels (R430, R432): 0 to 7 non-secure, 8 to 11 secure -/

def State.mbx (s : State) (c : Nat) : Mbx := Tab.get Mbx.init s.csr.mbx c
def State.updMbx (s : State) (c : Nat) (f : Mbx → Mbx) : State := s.updCsr fun r => { r with mbx := Tab.upd Mbx.init r.mbx c f }

/-- R430: the control cores send on the even channels, the unit on the odd ones. -/
def coresSend (c : Nat) : Bool := c % 2 == 0

/-- MBX_CTL. -/
def Mbx.ctl (m : Mbx) : Nat := (if m.full then 1 else 0) + (if m.timeout then 2 else 0) + 2 ^ 16 * m.len

/-- Words the message posted holds. -/
def Mbx.words (m : Mbx) : Nat := if m.full then m.len + 1 else 0

/-- R432, R433: a write of MBX_CTL by the sender: TIMEOUT is W1C, LEN is ignored while FULL is 1, and FULL goes from 0 to 1 only. -/
def Mbx.wrCtl (m : Mbx) (v : Nat) : Mbx :=
  let m := if bitOf v 1 then { m with timeout := false } else m
  if m.full then m
  else
    let m := { m with len := bits v 19 16 }
    if bitOf v 0 then { m with full := true, waiting := true } else m

/-- R433: a write of MBX_DATA, ignored while FULL is 1. -/
def Mbx.wrData (m : Mbx) (k v : Nat) : Mbx := if m.full then m else { m with send := putAt m.send (4 * k) (leBytes 4 v) }

/-! ### The register at an offset -/

/-- The registers of R425's table; a channel number, or an index, goes with each block. -/
inductive Reg where
  | sigStat | alertSrc | alertMask | timStat | flpInstar
  | flpStates (n : Nat)
  | stackStat (k : Nat)
  | metStat
  | mbxData (c k : Nat)
  | mbxCtl (c : Nat)
  | mbxTmo (c : Nat)
  | mbxTake (c : Nat)
  | wrmSel | wrmStat
  | wrmData (k : Nat)
  | none
deriving DecidableEq, Repr

/-- A register of a channel. -/
def mbxReg (c o : Nat) : Reg :=
  if o < 0x40 then .mbxData c (o / 4) else if o = 0x40 then .mbxCtl c else if o = 0x44 then .mbxTmo c else if o = 0x48 then .mbxTake c else .none

/-- R425: the register at a CSR byte offset that is a multiple of 4. -/
def regAt (o : Nat) : Reg :=
  if o = 0 then .sigStat
  else if o = 4 then .alertSrc
  else if o = 8 then .alertMask
  else if o = 0x10000 then .timStat
  else if o = 0x20000 then .flpInstar
  else if 0x20010 ≤ o ∧ o < 0x20020 then .flpStates ((o - 0x20010) / 4)
  else if 0x30000 ≤ o ∧ o < 0x30060 then .stackStat ((o - 0x30000) / 4)
  else if o = 0x40000 then .metStat
  else if 0x800000 ≤ o ∧ o < 0x800800 then mbxReg ((o - 0x800000) / 0x100) (o % 0x100)
  else if 0xC00000 ≤ o ∧ o < 0xC00400 then mbxReg (8 + (o - 0xC00000) / 0x100) (o % 0x100)
  else if o = 0xF00000 then .wrmSel
  else if o = 0xF00004 then .wrmStat
  else if 0xF00020 ≤ o ∧ o < 0xF00040 then .wrmData ((o - 0xF00020) / 4)
  else .none

/-- R431: the offsets of the secure window. -/
def secureOff (o : Nat) : Bool := decide (0xC00000 ≤ o ∧ o < 0xC00400)

def State.wrm (s : State) (h : Nat) : Wrm := Tab.get Wrm.init s.csr.wrm h
def State.updWrm (s : State) (h : Nat) (f : Wrm → Wrm) : State := s.updCsr fun r => { r with wrm := Tab.upd Wrm.init r.wrm h f }

/-- What a hart reads, without any side effect (R426, R432: what belongs to the other side of a channel reads 0). -/
def State.regView (s : State) (h : Nat) : Reg → Nat
  | .sigStat => s.sigStat
  | .alertSrc => s.csr.alertSrc
  | .alertMask => s.csr.alertMask
  | .timStat => s.timStat
  | .flpInstar => s.flpInstar
  | .flpStates n => s.flpStates n
  | .stackStat k => s.stackStat k
  | .metStat => s.metStat
  | .mbxData c k => if coresSend c then 0 else leAt (s.mbx c).taken (4 * k) 4
  | .mbxCtl c => (s.mbx c).ctl
  | .mbxTmo c => (s.mbx c).tmo
  | .mbxTake c => if coresSend c then 0 else (s.mbx c).words
  | .wrmSel => (s.wrm h).sel
  | .wrmStat => (if (s.wrm h).valid then 1 else 0) + if (s.wrm h).err then 2 else 0
  | .wrmData k => (s.wrm h).data / 2 ^ (32 * k) % 2 ^ 32
  | .none => 0

/-- The word that an alias write changes: the register's own, and of MBX_DATA the send buffer's. -/
def State.regOwn (s : State) (h : Nat) : Reg → Nat
  | .mbxData c k => leAt (s.mbx c).send (4 * k) 4
  | r => s.regView h r

/-- RW bits. -/
def Reg.rw : Reg → Nat
  | .alertMask => 0x3FC
  | .mbxData _ _ => 0xFFFFFFFF
  | .mbxCtl _ => 0xF0001
  | .mbxTmo _ => 0xFFFFFFFF
  | .wrmSel => 0xF000FFFF
  | _ => 0

/-- W1C bits. -/
def Reg.w1c : Reg → Nat
  | .alertSrc => 0x3FC
  | .mbxCtl _ => 2
  | _ => 0

/-- WRM_SEL (R427, R428): a selection, any before it discarded; the reserved bits keep the value the device holds. -/
def State.wrWrmSel (s : State) (h v : Nat) : State :=
  s.updWrm h fun w => { w with sel := v &&& 0xF000FFFF, valid := false, err := false, pending := true }

/-- R425, R427, R429, R432: a direct write of a register by a hart. RO and RL bits do not change. -/
def State.regWrite (s : State) (h : Nat) (r : Reg) (v : Nat) : State :=
  match r with
  | .alertSrc => s.clearAlerts v
  | .alertMask => s.updCsr fun c => { c with alertMask := v % 2 ^ 10 ||| 3 }
  | .mbxData c k => if coresSend c then s.updMbx c fun m => m.wrData k v else s
  | .mbxCtl c => if coresSend c then s.updMbx c fun m => m.wrCtl v else s
  | .mbxTmo c => if coresSend c then s.updMbx c fun m => { m with tmo := v % 2 ^ 32 } else s
  | .wrmSel => s.wrWrmSel h v
  | _ => s

/-! ### Accesses -/

def csrBase : Nat := 0x40000000
def csrSpan : Nat := 2 ^ 28
def aliasBase : Nat := 0x200000000

/-- R425, R431: an access fault at the hart; the cocoon counts those of R431. -/
def State.accessFault (s : State) (h : Hart) (secure : Bool) : State :=
  s.updCsr fun c => { c with faultHart := some h.hart, secFaults := c.secFaults + if secure then 1 else 0 }

/-- An access at an address, of the register at offset `o`: it faults when it is not aligned, or is not for this hart (R425, R431). -/
def State.access (s : State) (h : Hart) (addr o : Nat) (f : State → State) : State :=
  if addr % 4 ≠ 0 then s.accessFault h false
  else if secureOff o && !h.machine then s.accessFault h true
  else f (s.updCsr fun c => { c with faultHart := none })

/-- An access in the CSR window. -/
def State.csrAccess (s : State) (h : Hart) (addr : Nat) (f : Reg → State → State) : State :=
  if csrBase ≤ addr ∧ addr < csrBase + csrSpan then s.access h addr (addr - csrBase) (f (regAt (addr - csrBase))) else s

/-- An access of word `w` of an alias group (R426); any other address is not this command's. -/
def State.aliasAccess (s : State) (h : Hart) (addr w : Nat) (f : Reg → State → State) : State :=
  let o := (addr - aliasBase) / 16 * 4
  if aliasBase ≤ addr ∧ addr < aliasBase + 4 * csrSpan ∧ addr % 16 / 4 * 4 = w then s.access h addr o (f (regAt o)) else s

/-- CSR_WRITE (R425, R427). -/
def execCsrWrite (h : Hart) (addr : Nat) (v : W32) (s : State) : Host.Outcome State Fault Refusal :=
  .next (s.csrAccess h addr fun r s => s.regWrite h.hart r v.toNat)

/-- R426: an alias write: the RW bits become `rw`, the W1C bits of `w1c` are cleared. -/
def State.aliasWrite (s : State) (h : Nat) (r : Reg) (rw w1c : Nat) : State :=
  if r.rw = 0 ∧ r.w1c = 0 then s else s.regWrite h r (rw &&& r.rw ||| w1c &&& r.w1c)

/-- ALIAS_SET (R426). -/
def execAliasSet (h : Hart) (addr : Nat) (v : W32) (s : State) : Host.Outcome State Fault Refusal :=
  .next (s.aliasAccess h addr 4 fun r s => s.aliasWrite h.hart r (s.regOwn h.hart r ||| v.toNat) 0)

/-- ALIAS_CLEAR (R426). -/
def execAliasClear (h : Hart) (addr : Nat) (v : W32) (s : State) : Host.Outcome State Fault Refusal :=
  .next (s.aliasAccess h addr 8 fun r s => s.aliasWrite h.hart r (s.regOwn h.hart r &&& (0xFFFFFFFF - v.toNat)) v.toNat)

/-- ALIAS_FLIP (R426). -/
def execAliasFlip (h : Hart) (addr : Nat) (v : W32) (s : State) : Host.Outcome State Fault Refusal :=
  .next (s.aliasAccess h addr 0xC fun r s => s.aliasWrite h.hart r (s.regOwn h.hart r ^^^ v.toNat) 0)

/-- ALIAS_VIEW (R426): the value read. -/
def execAliasView (h : Hart) (addr : Nat) (s : State) : Host.Outcome State Fault Refusal :=
  .next (s.aliasAccess h addr 0 fun r s => s.updCsr fun c => { c with rdata := s.regView h.hart r })

/-- PWR_ALERT_SRC_CLEAR (R424, R429): by the register, or by a write of ALERT_CLEAR. -/
def execPwrAlertSrcClear (who : AlertClear) (v : W32) (s : State) : Host.Outcome State Fault Refusal :=
  .next (match who with
    | .csr h => s.csrAccess h (csrBase + 4) fun _ s => s.clearAlerts v.toNat
    | .object k x => s.numWrite k x 0x7002 2 v.toNat fun s v => .ok (s.clearAlerts v))

/-! ### The wide-read mailbox (R428) -/

/-- Two words of a 64-bit value at word `k`. -/
def wide64 (k v : Nat) : Nat := v % 2 ^ 64 * 2 ^ (32 * k)
/-- One word at word `k`. -/
def wide32 (k v : Nat) : Nat := v % 2 ^ 32 * 2 ^ (32 * k)

/-- R428: the value that a selector names, none where it names nothing. -/
def State.wideValue (s : State) (sel : Nat) : Option Nat :=
  let item := sel % 2 ^ 16
  match sel / 2 ^ 28 with
  | 1 => if item = 0 then some (wide64 0 s.time.now + wide64 2 s.beat.count + wide64 4 s.beat.nextMark) else none
  | 2 =>
    let r := s.region item
    if item < 32 then
      some (wide64 0 r.rep.str + wide64 2 r.lateLast + wide64 4 (r.rep.slack % (2 ^ 64 : Nat)).toNat + wide32 6 r.i10 + wide32 7 (s.throttleWord item))
    else none
  | 3 => if item / 16 < 32 ∧ item % 16 < 11 then some (wide64 0 (Tab.get 0 (s.region (item / 16)).thrDur (item % 16 + 1))) else none
  | 4 => if item / 8 < 24 ∧ item % 8 < 5 then some (wide64 0 (Tab.get 0 (s.stack (item / 8)).tele (item % 8 + 1))) else none
  | 5 => if item / 4 < 96 then some (wide64 0 (Tab.get 0 (s.engine (item / 4)).tele (item % 4 + 1))) else none
  | 6 =>
    let u := s.meter
    if item = 0 then
      some (wide64 0 u.eIn + wide64 2 u.eUn + wide64 4 u.eFault + wide32 6 u.pBase + wide32 7 (u.residLast % (2 ^ 32 : Nat)).toNat)
    else none
  | 7 => if item / 32 < 32 ∧ 1 ≤ item % 32 ∧ item % 32 ≤ 21 then some (wide64 0 (Tab.get 0 (s.region (item / 32)).tele (item % 32))) else none
  | _ => none

/-- WRM_SEL. -/
def execWrmSel (h : Hart) (sel : W32) (s : State) : Host.Outcome State Fault Refusal :=
  .next (s.csrAccess h (csrBase + 0xF00000) fun _ s => s.wrWrmSel h.hart sel.toNat)

/-- WRM_COPY_DONE. -/
def execWrmCopyDone (h : Nat) (s : State) : Host.Outcome State Fault Refusal :=
  .next (s.whenB (s.wrm h).pending fun s =>
    match s.wideValue (s.wrm h).sel with
    | some v => s.updWrm h fun w => { w with pending := false, valid := true, data := v }
    | none => s.updWrm h fun w => { w with pending := false, err := true })

end Sys2Proof.Machine
end

