-- ==== Sys2Proof/Machine/Mailbox.lean ====
section
/-!
DEFINITION. The mailboxes and the cocoon's services (R430 to R433). Channels 8 to 11 are the secure channels 0 to 3.
-/

namespace Sys2Proof.Machine

/-! ### The cocoon's requests (R433) -/

/-- The header word of a message: SVC or STATUS, TAG, PART, PARTS. -/
def cocoHeader (svc tag part parts : Nat) : Bytes := leBytes 1 svc ++ leBytes 1 tag ++ leBytes 1 part ++ leBytes 1 parts

/-- The messages of a reply: at most 15 data words each. -/
def replyFrom (st tag parts : Nat) : Nat → Nat → Bytes → List Bytes
  | 0, _, _ => []
  | n + 1, part, b => (cocoHeader st tag part parts ++ b.take 60) :: replyFrom st tag parts n (part + 1) (b.drop 60)

/-- R433: a reply, in whole words. -/
def replyMsgs (st tag : Nat) (b : Bytes) : List Bytes :=
  let b := slice b 0 (4 * cdiv b.length 4)
  let parts := max 1 (cdiv b.length 60)
  replyFrom st tag parts parts 0 b

def CocoReq.whole (q : CocoReq) : Bool := q.got == q.parts

/-- R433: the payload lengths of the services, in bytes: SIGN 68, HEARTBEAT none, SEAL four and a value, UNSEAL a value, RESET four. -/
def cocoLenOk (svc n : Nat) : Bool :=
  match svc with
  | 1 => n == 68
  | 2 => n == 0
  | 3 => decide (n ≥ 4)
  | 4 => true
  | 5 => n == 4
  | _ => false

/-- R433: a message taken on the services channel is a part of the newest request, or begins one. -/
def addPart (l : List CocoReq) (m : Bytes) : List CocoReq :=
  let svc := leAt m 0 1
  let tag := leAt m 1 1
  let part := leAt m 2 1
  let parts := leAt m 3 1
  let data := m.drop 4
  if part = 0 then
    let q : CocoReq := { svc := svc, tag := tag, parts := max 1 parts, got := 1, data := data, bad := parts == 0 || !(1 ≤ svc ∧ svc ≤ 5) }
    l ++ [q]
  else
    match l.getLast? with
    | some q =>
      if !q.whole ∧ q.svc = svc ∧ q.tag = tag ∧ q.parts = parts ∧ part = q.got then l.dropLast ++ [{ q with got := q.got + 1, data := q.data ++ data }]
      else l
    | none => l

/-- R433: a whole request that no service takes is answered in its turn, with STATUS 2. -/
def CocoReq.refusedBad (q : CocoReq) : Bool := q.whole && (q.bad || !cocoLenOk q.svc q.data.length)

/-- Bad requests at the front of the queue are answered. -/
def answerBad : List CocoReq → List CocoReq × List Bytes
  | [] => ([], [])
  | q :: r => if q.refusedBad then (let (l, o) := answerBad r; (l, replyMsgs 2 q.tag [] ++ o)) else (q :: r, [])

def Csr.settle (c : Csr) : Csr := { c with coco := (answerBad c.coco).1, cocoOut := c.cocoOut ++ (answerBad c.coco).2 }

/-- R433: the service of the request at the front, whole and of this service and TAG: `f` gives
the status and the payload. -/
def State.service (s : State) (svc tag : Nat) (f : State → Bytes → Nat × Bytes) : State :=
  match s.csr.coco with
  | [] => s
  | q :: r =>
    if q.whole && !q.refusedBad && q.svc == svc && q.tag == tag then
      let b := f s q.data
      s.updCsr fun c => ({ c with coco := r, cocoOut := c.cocoOut ++ replyMsgs b.1 tag b.2 } : Csr).settle
    else s

/-- R412, R433: SIGN's key and signature: key 0 metering, 1 attestation. -/
def signReply (b : Bytes) : Nat × Bytes :=
  if leAt b 0 1 = 0 then (0, ecdsaSign meteringKey (slice b 4 64))
  else if leAt b 0 1 = 1 then (0, ecdsaSign attestationKey (slice b 4 64))
  else (2, [])

/-- UNSEAL's reply: what does not unseal is refused. -/
def unsealReply (b : Bytes) : Nat × Bytes :=
  match Config.unsealValue b with
  | some v => (0, v)
  | none => (1, [])

/-- SIGN (R412, R433). -/
def execSign (tag : Nat) (s : State) : Host.Outcome State Fault Refusal := .next (s.service 1 tag fun _ b => signReply b)

/-- HEARTBEAT (R389, R433): the second that WATCHDOG_EXPIRY names runs from here; the block counts no time for it. -/
def execHeartbeat (tag : Nat) (s : State) : Host.Outcome State Fault Refusal := .next (s.service 2 tag fun _ _ => (0, []))

/-- SEAL (R421, R433). -/
def execSeal (tag : Nat) (s : State) : Host.Outcome State Fault Refusal :=
  .next (s.service 3 tag fun _ b => (0, Config.sealValue (leAt b 0 4) (b.drop 4)))

/-- UNSEAL (R433). -/
def execUnseal (tag : Nat) (s : State) : Host.Outcome State Fault Refusal := .next (s.service 4 tag fun _ b => unsealReply b)

/-- The EPOCH that a RESET request in turn carries. -/
def State.resetEpoch (s : State) (tag : Nat) : Option Nat :=
  match s.csr.coco with
  | q :: _ => if q.whole && !q.refusedBad && q.svc == 5 && q.tag == tag then some (leAt q.data 0 4) else none
  | [] => none

/-- COCOON_RESET (R388, R408, R433): with the present EPOCH, an internal reset, which clears every channel; with another it is refused. -/
def execCocoonReset (tag : Nat) (s : State) : Host.Outcome State Fault Refusal :=
  .next (if s.resetEpoch tag = some s.flash.epoch then s.internalReset 3 else s.service 5 tag fun _ _ => (1, []))

/-! ### Channels -/

/-- R430: the agent is at the sending side of the channel. -/
def agentSends (who : Agent) (c : Nat) : Bool :=
  match who with
  | .core _ => coresSend c
  | .unit => !coresSend c

/-- R431: an access of a channel by an agent; a hart's of a secure channel is for machine mode. -/
def State.byAgent (s : State) (who : Agent) (c : Nat) (f : State → State) : State :=
  match who with
  | .core h => s.access h 0 (if c < 8 then 0x800000 + 0x100 * c else 0xC00000 + 0x100 * (c - 8)) f
  | .unit => f s

/-- R432: what the sender posts: its words, and MBX_CTL. The cocoon posts the next message of its replies on secure channel 1. -/
def State.toPost (s : State) (who : Agent) (c : Nat) (v : Nat) (data : Bytes) : Option (Nat × Bytes) :=
  if who = .unit ∧ c = 9 then
    match s.csr.cocoOut with
    | m :: _ => some (1 + 2 ^ 16 * (m.length / 4 - 1), m)
    | [] => none
  else some (v, data)

/-- MBX_CTL_POST (R432, R433): the sender fills the send buffer and writes MBX_CTL. -/
def execMbxCtlPost (who : Agent) (c : Nat) (v : W32) (data : Bytes) (s : State) : Host.Outcome State Fault Refusal :=
  onUnit (c < 12) s fun s => s.byAgent who c fun s =>
    if !agentSends who c then s
    else
      match s.toPost who c v.toNat data with
      | none => s
      | some (w, b) =>
        let free := !(s.mbx c).full
        let s := s.updMbx c fun m => (if m.full then m else { m with send := putAt m.send 0 b }).wrCtl w
        s.whenB (free && who == .unit && c == 9) fun s => s.updCsr fun r => { r with cocoOut := r.cocoOut.drop 1 }

/-- R432, R433: the cocoon reads what it takes on secure channel 0. -/
def State.cocoTakes (s : State) (c : Nat) : State :=
  if c = 8 then
    let m := s.mbx 8
    s.updCsr fun r => ({ r with coco := addPart r.coco (slice m.taken 0 (4 * m.takenLen)) } : Csr).settle
  else s

/-- MBX_TAKE (R432, R433): the receiver's read: the taken buffer is filled and FULL cleared; nothing, and 0 read, when FULL is 0. -/
def execMbxTake (who : Agent) (c : Nat) (s : State) : Host.Outcome State Fault Refusal :=
  onUnit (c < 12) s fun s => s.byAgent who c fun s =>
    let n := if agentSends who c then 0 else (s.mbx c).words
    let s := match who with | .core _ => s.updCsr fun r => { r with rdata := n } | .unit => s
    if n = 0 then s
    else
      let s := s.updMbx c fun m => { m with taken := m.send, takenLen := n, full := false, waiting := false }
      s.whenB (who == .unit) fun s => s.cocoTakes c

/-- MBX_TIMEOUT (R433): FULL was not cleared within MBX_TMO of being set; the message stays. -/
def execMbxTimeout (c : Nat) (s : State) : Host.Outcome State Fault Refusal :=
  onUnit (c < 12) s fun s =>
    let m := s.mbx c
    s.whenB (m.full && m.waiting && m.tmo != 0) fun s => s.updMbx c fun m => { m with timeout := true, waiting := false }

end Sys2Proof.Machine
end

