-- ==== Sys2Proof/Machine/Memory.lean ====
section
/-!
DEFINITION. The deep store's vertical port, its tile buffers and its scrubber, and the rows that enter an M-core's stream ring
(R63, R151 to R160).
-/

namespace Sys2Proof.Machine

/-! ### The vertical port -/

/-- R156: the row belongs to a tile still held in a tile buffer. -/
def Tile.rowHeld (x : Tile) (d : Nat) : Bool := x.tbufs.any fun b => decide (b.d ≤ d ∧ d < b.d + xpRows b.xp)

/-- R165: what the tile sends has a place at port 4. -/
def Tile.portRoom (x : Tile) : Bool := x.outQ.isEmpty && decide ((Tab.get [] x.inBuf 4).length < inPackets)

/-- R152: the class of a request. -/
def vpCls : VpReq → Nat
  | .relayWrite _ _ _ => 2
  | .relayRead _ _ _ _ => 2
  | .tile _ _ => 2
  | _ => 1

/-- The request is one that the tile's own core makes, of rows that exist. -/
def vpOwn (t : Nat) : VpReq → Bool
  | .ringFill d => tileKind t == .m && decide (d < 16384)
  | .load d r => decide (d < 16384 ∧ r < (if tileKind t = .m then 512 else spadRows t))
  | .save r d => decide (d < 16384 ∧ r < (if tileKind t = .m then 512 else spadRows t))
  | _ => false

/-- The port can serve the request now: the ring has room (R63), the row is not held in a tile buffer (R156), the router has room for
a packet (R165). -/
def Tile.vpReady (x : Tile) : VpReq → Bool
  | .ringFill d => decide (x.ringCnt < 128) && !x.rowHeld d
  | .load d _ => !x.rowHeld d
  | .accld d _ => !x.rowHeld d
  | .relayRead d _ _ _ => !x.rowHeld d && x.portRoom
  | _ => true

/-- R160: the row staged is uncorrectable: the destination keeps its contents, and the core stops at its next command boundary. -/
def State.stageUe (s : State) (t : Nat) : State :=
  match tileKind t with
  | .m => s.issueFault t 0x08 0
  | .v => s.coreFault t 0x23 0 (s.tile t).seqIx
  | .s => s.coreFault t 0x32 0 (s.tile t).seqIx

/-- R63, R160: a deep-store row into the ring. -/
def State.ringFillFrom (s : State) (t d : Nat) (es : List Ecc) : State :=
  match s.readChk t true d 7 es 0 with
  | (s, none) => s.ringUe t
  | (s, some b) => s.ringAppend t b

/-- R89, R160: deep-store row `d` for accumulator row `a` of the oldest ACCLD that asked for one. -/
def State.accldRow (s : State) (t d a : Nat) (es : List Ecc) : State :=
  match (s.tile t).side.findIdx? fun r => decide (r.asked > 0), s.readChk t true d 1 es 0 with
  | none, _ => s
  | some k, (s, b) =>
    match b, (s.tile t).side[k]? with
    | some b, some r =>
      ((s.setRow (accRow t a) b).updTile t fun x => { x with side := x.side.set k { r with done := r.done + 1 } }).arrayGoes t
    | none, some r => s.coreFault t 8 (fTag r.word) r.ix 0 0 r.later k
    | _, none => s

/-- R155: element (i,k) of a tile of `w`-byte elements goes to (k,i). -/
def transposeTile (w : Nat) (b : Bytes) : Bytes :=
  (upTo 128).flatMap fun i => (upTo 128).flatMap fun k => slice b (128 * w * k + w * i) w

/-- R155, R171: a tile whose rows have all arrived is written, and its rows count toward the notices of its descriptor. -/
def State.tileWrite (s : State) (t d ep : Nat) : State :=
  match (s.tile t).tbufs.find? fun b => b.d == d && b.ep == ep && decide (b.rows.length ≥ xpRows b.xp) with
  | none => s
  | some b =>
    let full := transposeTile (if b.xp = 1 then 1 else 2) b.rows.flatten
    let s := s.updTile t fun x => { x with tbufs := x.tbufs.filter (· != b), vpWrite := true }
    let s := s.setRows ((upTo (xpRows b.xp)).map fun i => (deepRow t (b.d + i), slice full (512 * i) 512))
    s.each (upTo (xpRows b.xp)) fun s _ => s.rowWritten t ep

/-- R152, R153, R160: a granted request takes effect. -/
def State.vpServe (s : State) (t : Nat) (q : VpReq) (es : List Ecc) : State :=
  let dir (s : State) (w : Bool) : State := s.updTile t fun x => { x with vpWrite := w }
  match q with
  | .ringFill d => dir (s.ringFillFrom t d es) false
  | .load d r =>
    match s.readChk t true d 4 es 0 with
    | (s, none) => dir (s.stageUe t) false
    | (s, some b) => dir (s.setSpad t r b) false
  | .save r d =>
    match s.readChk t false r 4 es 0 with
    | (s, none) => s.stageUe t
    | (s, some b) => dir (s.setRow (deepRow t d) b) true
  | .result d row => (dir (s.setRow (deepRow t d) row) true).arrayGoes t
  | .accld d a => (dir s false).accldRow t d a es
  | .tile d ep => s.tileWrite t d ep
  | .relayWrite d row ep => dir ((s.setRow (deepRow t d) row).rowWritten t ep) true
  | .relayRead d rr tag engine =>
    match s.readChk t true d 5 es 0 with
    | (s, none) =>
      let e := Tab.get 0 (s.tile t).droutes rr
      let s := if e < 256 then s else s.stopConsumers [(t, 4, e % 256)]
      dir (s.updTile t fun x => { x with vpQ := x.vpQ.filter fun r => match r with
        | .relayRead _ rr' tag' engine' => !(rr' == rr && tag' == tag && engine' == engine)
        | _ => true }) false
    | (s, some b) => dir (s.inject t rr 0 b) false

/-- The request granted next: the oldest of class 1 while it can be served, else the oldest of class 2. -/
def Tile.vpNext (x : Tile) : Option VpReq :=
  let head (c : Nat) : Option VpReq := (x.vpQ.find? fun q => vpCls q == c).filter x.vpReady
  (head 1).orElse fun _ => head 2

/-- The first occurrence of a request leaves the queue. -/
def vpDrop (q : VpReq) : List VpReq → List VpReq
  | [] => []
  | r :: l => if r = q then l else r :: vpDrop q l

/-- VERTICAL_PORT_GRANT (R152 to R154, R157, R160, R161): the core's new requests arrive, and one row access is granted. -/
def execVerticalPortGrant (t : Nat) (reqs : List VpReq) (es : List Ecc) (s : State) : Host.Outcome State Fault Refusal :=
  onTile t s fun s =>
    s.whenB (s.tileOn t) fun s =>
      let s := s.updTile t fun x => { x with vpQ := x.vpQ ++ reqs.filter (vpOwn t) }
      match (s.tile t).vpNext with
      | none => s
      | some q => (s.updTile t fun x => { x with vpQ := vpDrop q x.vpQ }).vpServe t q es

/-- STREAM_RING_FILL (R63, R144, R152, R160): a weight row at the fill pointer, or held while the ring is full. One from the deep store
follows the requests of its class that wait. -/
def execStreamRingFill (t : Nat) (src : RingSrc) (es : List Ecc) (s : State) : Host.Outcome State Fault Refusal :=
  onM t s fun s =>
    s.whenB (s.tileOn t && decide ((s.tile t).ringCnt < 128)) fun s =>
      match src with
      | .vertical d =>
        s.whenB (decide (d < 16384) && !(s.tile t).rowHeld d && (s.tile t).vpQ.all fun q => vpCls q != 1) fun s => s.ringFillFrom t d es
      | .fabric => s.whenB (!(s.tile t).selfFenced) fun s => s.tilePort t true

/-- TRANSPOSED_WRITE (R152, R155): the port grants the first tile whose rows have all arrived, when its turn has come. -/
def execTransposedWrite (t : Nat) (s : State) : Host.Outcome State Fault Refusal :=
  onTile t s fun s =>
    s.whenB (s.tileOn t) fun s =>
      match (s.tile t).vpNext with
      | some (.tile d ep) => (s.updTile t fun x => { x with vpQ := vpDrop (.tile d ep) x.vpQ }).tileWrite t d ep
      | _ => s

/-! ### The scrubber -/

/-- SCRUB_READ (R152, R157 to R159, R161): the next row in a cycle that grants no other request; a corrected row is written back whole, and is weak when the
pass before corrected it too. -/
def execScrubRead (t : Nat) (es : List Ecc) (s : State) : Host.Outcome State Fault Refusal :=
  onTile t s fun s =>
    let x := s.tile t
    let d := x.scrubRow
    s.whenB (s.tileOn t && x.vpNext.isNone && !x.rowHeld d) fun s =>
      let fixed := match checkOf s (deepRow t d) es 0 with | .corrected m => some m | _ => none
      let (s, b) := (s.count t 11 1).readChk t true d 6 es 0
      let s := match fixed, b with
        | some m, some b =>
          let s := (s.setRow (deepRow t d) b).updTile t fun x => { x with scrubHit := insertSet d x.scrubHit }
          if x.scrubOld.contains d then
            ((s.count t 12 1).memReport t 0x45 true d m 6).updTile t fun x => { x with weak := true }
          else s
        | _, _ => s
      s.updTile t fun x =>
        if d + 1 ≥ 16384 then { x with scrubRow := 0, scrubOld := x.scrubHit, scrubHit := [] } else { x with scrubRow := d + 1 }

end Sys2Proof.Machine
end

