-- ==== Sys2Proof/Machine/Messages.lean ====
section
/-!
DEFINITION. Messages reaching their endpoints, and the replies and retries of their senders (R180 to R184, R187, R200).
-/

namespace Sys2Proof.Machine

/-- R181, R200: the path of a message: a channel's, a relay command's from its ring port, or a control core's. -/
def State.msgPath (s : State) (m : Msg) : List (Nat × Nat) :=
  if m.src < nTiles then s.pathOf m.src m.ch
  else match m.dst with
    | .relay t => relayPath m.ch t
    | .ep t _ => leg false 0 m.ch (tileCol t) (tileRow t)
    | _ => []

/-- The tile at which a sender joins the network: its own, an engine's ring port, a control core's ring port. -/
def Msg.joins (m : Msg) : Nat := if m.src < nTiles then m.src else if m.src < nTiles + 96 then m.ch else tileIx 0 m.ch

/-- R182, R183: what a sender is told. A control core sends again what was not accepted. -/
def State.replyTo (s : State) (m : Msg) (a : RelayReply) : State :=
  if m.src < nTiles then (match a with | .accepted => s.accepted m.src m.ch | _ => s.naked m.src m.ch)
  else if m.src < nTiles + 96 then s.relayReply (m.src - nTiles) a
  else match a with | .nak => s.putMsg { m with reply := none } | _ => s

/-- R188: a message that moves ends the message stalls on its path. -/
def State.msgMoved (s : State) (m : Msg) : State :=
  s.each ((s.msgPath m).map (·.1)) fun s t =>
    if (s.tile t).stalls.isEmpty then s
    else s.updTile t fun x => { x with stalls := x.stalls.filter fun k => decide (k.1 < 8 ∨ 14 ≤ k.1) }

/-- The message is the oldest of its channel on the network (R182). -/
def oldestOf (l : List Msg) (k : Nat) (m : Msg) : Bool := !(l.take k).any fun x => x.src == m.src && x.ch == m.ch

/-- R182, R190: where the endpoint's tile counts a NAK. -/
def State.nakTile (s : State) : Dest → Option Nat
  | .ep t _ => some t
  | .relay t => some t
  | .sup g => tileOfCode (s.region g).sup
  | .control _ => none

/-- R182: a message whose endpoint has answered: the reply sets out on the way back. The words stay with it, for a control core that
sends them again. -/
def State.answered (s : State) (k : Nat) (m : Msg) (ok : Bool) : State :=
  { s with net := s.net.set k { m with reply := some ok } }

/-- R180, R182, R187: a message on its way reaches its endpoint, which takes it whole or not at all, or a fenced port. -/
def State.msgArrives (s : State) (k : Nat) (m : Msg) : State :=
  let out (s : State) : State := { s with net := s.net.eraseIdx k }
  match s.wayOf (s.msgPath m) with
  | .waits _ _ => s
  | .refused t _ => (((out s).count t 15 1).count t 20 1).replyTo m .fenced
  | .breached u p =>
    let s := (out s).breach u p true 0 m.words.length
    if m.src < nTiles then s else s.replyTo m .fenced
  | .open_ =>
    let s := s.msgMoved m
    match s.takeMsg m with
    | some s =>
      let s := s.answered k m true
      (match m.dst with | .ep t _ => if tileKind t == .s then s.takeRecv t else s | _ => s)
    | none => ((match s.nakTile m.dst with | some t => s.count t 20 1 | none => s)).answered k m false

/-- R182, R187: a reply reaches the sender by the way back; at a fence it is lost, and the send returns NAK. -/
def State.replyArrives (s : State) (k : Nat) (m : Msg) (ok : Bool) : State :=
  let out (s : State) : State := { s with net := s.net.eraseIdx k }
  let lost (s : State) : State := if m.src < nTiles then s else s.replyTo m .nak
  match s.wayOf (backOf (s.msgPath m)) with
  | .waits _ _ => s
  | .refused t _ => lost ((out s).count t 15 1)
  | .breached u p => lost ((out s).breach u p true 0 1)
  | .open_ => (out s).replyTo m (if ok then .accepted else .nak)

/-- MESSAGE_DELIVER (R91, R129, R135, R180 to R182, R187, R200): the `k`-th message on the network reaches its endpoint, or its reply the
sender. -/
def execMessageDeliver (k : Nat) (s : State) : Host.Outcome State Fault Refusal :=
  .next <|
    match s.net[k]? with
    | none => s
    | some m =>
      s.whenB (oldestOf s.net k m && (s.region (tileRegion m.joins)).st != .stopped) fun s =>
        match m.reply with
        | none => s.msgArrives k m
        | some ok => s.replyArrives k m ok

/-- SEND_REPLY_TIMEOUT (R182): a SEND whose message or reply is lost returns NAK. -/
def execSendReplyTimeout (t rr : Nat) (s : State) : Host.Outcome State Fault Refusal :=
  onTile t s fun s =>
    s.whenB (!(s.net.any fun m => m.src == t && m.ch == rr)) fun s => s.naked t rr

/-- RETRY_WAIT_EXPIRY (R183, R190): the send is tried again on its channel. -/
def execRetryWaitExpiry (t rr : Nat) (s : State) : Host.Outcome State Fault Refusal :=
  onTile t s fun s =>
    match Tab.get none (s.tile t).sends rr with
    | none => s
    | some x => s.whenB (x.waiting && s.routerOn t) fun s => (s.count t 21 1).launch t rr x

end Sys2Proof.Machine
end

