-- ==== Sys2Proof/Machine/RowBuffer.lean ====
section
/-!
DEFINITION. The row buffer of V-cores and S-cores (R147 to R150).
-/

namespace Sys2Proof.Machine

/-- A row-buffer command runs on a V-core or an S-core that runs, on one of its four slots. -/
def onRb (t slot : Nat) (s : State) (f : State → State) : Host.Outcome State Fault Refusal :=
  onUnit (t < nTiles && tileKind t != .m && decide (slot < 4)) s fun s =>
    s.whenB (s.runs t && (s.tile t).waitB.isNone && (s.tile t).recvWait.isNone && !(s.tile t).leaveWait) f

/-- R150: the misuse fault, 0x22 of a V-core and 0x31 of an S-core. -/
def State.rbMisuse (s : State) (t : Nat) : State := s.coreFault t (if tileKind t == .v then 0x22 else 0x31) 0 (s.tile t).seqIx

/-- The slot, none when it is empty. -/
def Tile.slot (x : Tile) (i : Nat) : Option RowSlot := Tab.get none x.slots i

/-- OPEN (R148, R150): reads the row whole into an empty slot, in a narrow slot of the bank. -/
def execRbOpen (t slot row : Nat) (es : List Ecc) (s : State) : Host.Outcome State Fault Refusal :=
  onRb t slot s fun s =>
    let x := s.tile t
    if row ≥ spadRows t ∨ (x.slot slot).isSome ∨ x.slots.any (fun c => match c.2 with | some r => r.row == row | none => false) then
      s.rbMisuse t
    else
      match (s.count t 13 1).readChk t false row 3 es 0 with
      | (s, none) => s.coreFault t (if tileKind t == .v then 0x23 else 0x32) 0 (s.tile t).seqIx
      | (s, some b) => s.updTile t fun x => { x with slots := Tab.put none x.slots slot (some { row := row, data := b, mask := 0 }) }

/-- An access of `size` bytes at `off` of a slot is allowed (R148, R150). -/
def rbAligned (size off : Nat) : Bool := [1, 2, 4, 8].contains size && decide (off % size = 0 ∧ off + size ≤ 512)

/-- LOAD (R148): the value read, little-endian. -/
def execRbLoad (t size slot off : Nat) (s : State) : Host.Outcome State Fault Refusal :=
  onRb t slot s fun s =>
    match (s.tile t).slot slot with
    | none => s.rbMisuse t
    | some r =>
      if rbAligned size off then s.updTile t fun x => { x with value := BitVec.ofNat 64 (leAt r.data off size) } else s.rbMisuse t

/-- The mask bits of bytes `off` to `off + size - 1`. -/
def maskBits (size off : Nat) : Nat := (2 ^ size - 1) * 2 ^ off

/-- STORE (R148): writes bytes of the slot and sets their mask bits; the row is not written before FLUSH or CLOSE. -/
def execRbStore (t size slot off : Nat) (v : W64) (s : State) : Host.Outcome State Fault Refusal :=
  onRb t slot s fun s =>
    match (s.tile t).slot slot with
    | none => s.rbMisuse t
    | some r =>
      if rbAligned size off then
        let r : RowSlot := { r with data := putAt r.data off (leBytes size v.toNat), mask := r.mask ||| maskBits size off }
        s.updTile t fun x => { x with slots := Tab.put none x.slots slot (some r) }
      else s.rbMisuse t

/-- R148: writes a slot's row back whole if any mask bit is set, and clears the mask. -/
def State.rbWriteBack (s : State) (t slot : Nat) : State :=
  match (s.tile t).slot slot with
  | none => s
  | some r =>
    if r.mask = 0 then s
    else
      ((s.count t 13 1).setRow (spadRow t r.row) r.data).updTile t fun x =>
        { x with slots := Tab.put none x.slots slot (some { r with mask := 0 }) }

/-- FLUSH (R148): the slot stays open. -/
def execRbFlush (t slot : Nat) (s : State) : Host.Outcome State Fault Refusal :=
  onRb t slot s fun s => s.rbWriteBack t slot

/-- R148: the slot is emptied. -/
def State.rbEmpty (s : State) (t slot : Nat) : State :=
  s.updTile t fun x => { x with slots := Tab.put none x.slots slot none }

/-- CLOSE (R148): as FLUSH, then empties the slot. -/
def execRbClose (t slot : Nat) (s : State) : Host.Outcome State Fault Refusal :=
  onRb t slot s fun s => (s.rbWriteBack t slot).rbEmpty t slot

/-- DROP (R148): empties the slot without writing. -/
def execRbDrop (t slot : Nat) (s : State) : Host.Outcome State Fault Refusal :=
  onRb t slot s fun s => s.rbEmpty t slot

end Sys2Proof.Machine
end

