-- ==== Sys2Proof/Machine/Sideband.lean ====
section
/-!
DEFINITION. The I2C identity read-out and the JTAG port (R435, R440, R441).
-/

namespace Sys2Proof.Machine

/-! ### I2C (R440) -/

/-- R435, R440: the module answers while PG is asserted. -/
def State.i2cAnswers (s : State) : Bool := s.pins.vsb && s.boot.pg

/-- R440: a field of `n` bytes, 0xFF throughout while it is not known. -/
def known (ok : Bool) (n : Nat) (b : Bytes) : Bytes := if ok then slice b 0 n else List.replicate n 0xFF

/-- R440: the identity map, 256 bytes. -/
def State.identityMap (s : State) : Bytes :=
  let b := s.boot
  let after (n : Nat) : Bool := decide (b.step > n)
  ascii "HLDI" ++ leBytes 1 1 ++ known (after 2) 1 (leBytes 1 s.flash.cap.variant) ++ leBytes 1 s.bringupStep ++ leBytes 1 b.lastCode ++
  leBytes 1 (b.halted.getD 0) ++ leBytes 1 b.cause ++ leBytes 1 b.lane ++ leBytes 1 s.csr.alertSrc ++ known (after 2) 4 (leBytes 4 s.instar) ++
  known (after 2) 16 s.flash.cap.serial ++ known (after 1) 64 devId ++ slice (Config.macAddr 16) 0 6 ++ List.replicate 26 0 ++
  known (after 3) 32 (s.flash.bank b.bank).version ++ List.replicate 96 0

/-- R440: `n` bytes from the pointer, which wraps. -/
def mapRead (m : Bytes) (p n : Nat) : Bytes := (upTo n).map fun i => m.getD ((p + i) % 256) 0

/-- I2C_POINTER_WRITE (R440). -/
def execI2cPointerWrite (b : Byte) (s : State) : Host.Outcome State Fault Refusal :=
  .next (s.whenB s.i2cAnswers fun s => { s with i2c := { s.i2c with ptr := b.toNat } })

/-- I2C_READ (R440): one read transaction of `n` bytes, its values taken at a single instant. Nothing is read while the module does not
answer. -/
def execI2cRead (n : Nat) (s : State) : Host.Outcome State Fault Refusal :=
  .next (if s.i2cAnswers then { s with i2c := { ptr := (s.i2c.ptr + n) % 256, out := mapRead s.identityMap s.i2c.ptr n } }
    else { s with i2c := { s.i2c with out := [] } })

/-! ### JTAG (R441) -/

/-- The instructions as the instruction register holds them (log entry 10). -/
def irBypass : Nat := 0
def irSample : Nat := 1
def irExtest : Nat := 2
def irIdcode : Nat := 3

/-- R441: the port works whenever VSB_3V3 is present. -/
def State.jtagDo (s : State) (f : Jtag → Jtag) : State := s.whenB s.pins.vsb fun s => { s with jtag := f s.jtag }

/-- BYPASS (R441): the bypass register, one bit, takes the bit shifted in. -/
def execBypass (tdi : Bool) (s : State) : Host.Outcome State Fault Refusal :=
  .next (s.jtagDo fun j => { j with ir := irBypass, dr := (if tdi then 1 else 0), drive := false })

/-- The levels of the sideband pins: PWR_EN, MRST_N, PCAP_N, COOLANT_OK, THERMTRIP_N, ALERT_N, PG. -/
def State.sideband (s : State) : List Bool :=
  [s.pins.pwrEn, s.pins.mrstN, s.pins.pcapN, s.pins.coolantOk, s.thermtripN, s.alertN, s.pgLevel]

/-- SAMPLE_PRELOAD (R441): the chain's capture of the pins is shifted out, and `cells` into it. -/
def execSamplePreload (cells : Nat) (s : State) : Host.Outcome State Fault Refusal :=
  let out := Config.boundaryCapture s.sideband
  .next (s.jtagDo fun j => { j with ir := irSample, dr := out, bsr := cells, drive := false })

/-- EXTEST (R441): the chain's cells drive the pins. -/
def execExtest (s : State) : Host.Outcome State Fault Refusal :=
  .next (s.jtagDo fun j => { j with ir := irExtest, drive := true })

/-- IDCODE (R441). -/
def execIdcode (s : State) : Host.Outcome State Fault Refusal :=
  .next (s.jtagDo fun j => { j with ir := irIdcode, dr := 0x164804B5, drive := false })

/-- JTAG_RESET (R388, R408, R441): an authenticated request raises an internal reset. -/
def execJtagReset (s : State) : Host.Outcome State Fault Refusal := .next (s.whenB s.pins.vsb fun s => s.internalReset 5)

end Sys2Proof.Machine
end

