-- ==== Sys2Proof/Machine/Transc.lean ====
section
/-!
DEFINITION. The transcendental functions of the V-cores (R114). Square root is correctly rounded and special values follow
IEEE 754. Every other result is an encoding that Config leaves open among those whose distance from the reference value lies
within the bound of R114 (log entry 11).
-/

namespace Sys2Proof.Machine

/-- `num / den` as a number with `k` fraction bits kept and a sticky bit below them. -/
def quotNum (neg : Bool) (num den k : Nat) (e : Int) : Num :=
  if den = 0 then .nan
  else
    let q := num * 2 ^ k / den
    let st := if num * 2 ^ k % den = 0 then 0 else 1
    .fin neg (2 * q + st) (e - k - 1)

/-- The square root of `m · 2^e` with a sticky bit. -/
def rootNum (m : Nat) (e : Int) : Num :=
  let (m, e) := if e % 2 = 0 then (m, e) else (2 * m, e - 1)
  let n := m * 2 ^ 128
  let r := isqrt n
  .fin false (2 * r + (if r * r = n then 0 else 1)) (e / 2 - 65)

/-- The factors 2^(2^-k), scaled by 2^96, from `k`, `n` of them. -/
def rootsOfTwo : Nat → Nat → List Nat
  | 0, _ => []
  | n + 1, r => let q := isqrt (r * 2 ^ 96); q :: rootsOfTwo n q

/-- 2^f scaled by 2^96 for a fraction `f` of 64 bits. -/
def expFrac (f : Nat) : Nat :=
  ((rootsOfTwo 64 (2 * 2 ^ 96)).zipIdx).foldl (fun a c => if bitOf f (63 - c.2) then a * c.1 / 2 ^ 96 else a) (2 ^ 96)

/-- 2^(v / 2^64): mantissa scaled by 2^96, and the exponent. -/
def expFix (v : Int) : Nat × Int := (expFrac (v % 2 ^ 64).toNat, v / 2 ^ 64)

/-- A finite number with 64 fraction bits, rounded toward minus infinity. -/
def fix64 : Num → Int
  | .fin s m e =>
    let k := e + 64
    let v : Int := if s then -(m : Int) else m
    if 0 ≤ k then v * 2 ^ k.toNat else v / 2 ^ (-k).toNat
  | _ => 0

/-- Fraction bits of log2 of a mantissa `y` in [1, 2) scaled by 2^160, most significant first. -/
def logBits : Nat → Nat → Nat → Nat
  | 0, _, acc => acc
  | n + 1, y, acc =>
    let z := y * y / 2 ^ 160
    if z ≥ 2 ^ 161 then logBits n (z / 2) (2 * acc + 1) else logBits n z (2 * acc)

/-- log2 e scaled by 2^96. -/
def log2eFix : Nat := 0x171547652b82fe1777d0ffda0

/-- exp2 of a finite number, as a number. -/
def exp2Num (x : Num) : Num :=
  let v := fix64 x
  if v ≥ 2 ^ 72 then .inf false
  else if v ≤ -(2 ^ 72) then .fin false 0 0
  else let (m, i) := expFix v; .fin false m (i - 96)

/-- log2 of a positive finite number. -/
def log2Num (m : Nat) (e : Int) : Num :=
  let l := Nat.log2 m
  let fr := logBits 80 (m * 2 ^ 160 / 2 ^ l) 0
  numOf (((l : Int) + e) * 2 ^ 80 + fr) (-80)

/-- The sigmoid of a finite number. -/
def sigmoidNum (x : Num) : Num :=
  let v := fix64 x
  let v := max (-(200 * 2 ^ 64)) (min (200 * 2 ^ 64) v)
  let z := -(v * log2eFix / 2 ^ 96)
  let (m, i) := expFix z
  if 0 ≤ i then quotNum false (2 ^ 96) (2 ^ 96 + m * 2 ^ i.toNat) 400 0
  else quotNum false (2 ^ (96 + (-i).toNat)) (2 ^ (96 + (-i).toNat) + m) 400 0

/-- π scaled by 2^120. -/
def piFix : Int := 0x3243f6a8885a308d313198a2e037073

/-- Terms of the series of sine and cosine, scaled by 2^120: `t` the term of degree `k`, `th` the angle. -/
def seriesFrom : Nat → Nat → Int → Int → Int → Int
  | 0, _, _, _, acc => acc
  | n + 1, k, t, th, acc =>
    let t' := -(t * th / 2 ^ 120 * th / 2 ^ 120 / (((k + 1) * (k + 2) : Nat) : Int))
    seriesFrom n (k + 2) t' th (acc + t')

def sinFix (th : Int) : Int := seriesFrom 24 1 th th th
def cosFix (th : Int) : Int := seriesFrom 24 0 (2 ^ 120) th (2 ^ 120)

/-- Sine and cosine of the turn fraction `a / 2^64`, scaled by 2^120. -/
def sincosFix (a : Nat) : Int × Int :=
  let q := a / 2 ^ 62 % 4
  let th : Int := ((a % 2 ^ 62 : Nat) : Int) * 2 * piFix / 2 ^ 64
  let s := sinFix th
  let c := cosFix th
  match q with
  | 0 => (s, c)
  | 1 => (c, -s)
  | 2 => (-s, -c)
  | _ => (-c, s)

/-- An FP32 encoding moved by an open offset of at most `2·b` encodings, within its sign and never past an infinity. (Below a
power of two the encodings lie half as far apart, so `2·b` of them span `b` units.) -/
def nudge (code b w x : Nat) : Nat :=
  let o : Int := ((Config.transcOffset code x % (4 * b + 1) : Nat) : Int) - 2 * b
  let sgn := w / 2 ^ 31 * 2 ^ 31
  let mag : Int := ((w % 2 ^ 31 : Nat) : Int) + o
  sgn + (max 0 (min 0x7F800000 mag)).toNat

/-- The value an FP32 encoding stands for in a distance: an infinity stands where the next binade would begin. -/
def placeOf (w : Nat) : Num :=
  match ofF32 w with
  | .inf s => .fin s 1 128
  | n => n

/-- The exponent of one unit in the last place of an FP32 encoding. -/
def unitExp (w : Nat) : Int := (max 1 (min 254 (w / 2 ^ 23 % 256)) : Nat) - 150

/-- Two numbers are at most `b · 2^e` apart. -/
def near (b : Nat) (e : Int) (x y : Num) : Bool := (x.add y.negate).absolute.le (.fin false b e)

/-- R114: the result for an exact value `r`: an open encoding, kept where it lies within `b` units in the last place of `r`. -/
def nudged (code b : Nat) (r : Num) (x : Nat) : Nat :=
  let w := f32 r
  match r with
  | .fin _ _ _ => let c := nudge code b w x; if near b (unitExp w) (placeOf c) r then c else w
  | _ => w

/-- R114: exp2. -/
def tExp2 (x : Nat) : Nat :=
  match ofF32 x with
  | .nan => nan32
  | .inf s => if s then 0 else 0x7F800000
  | .fin _ 0 _ => 0x3F800000
  | n => nudged 1 2 (exp2Num n) x

/-- R114: log2. -/
def tLog2 (x : Nat) : Nat :=
  match ofF32 x with
  | .nan => nan32
  | .inf s => if s then nan32 else 0x7F800000
  | .fin _ 0 _ => 0xFF800000
  | .fin true _ _ => nan32
  | .fin false m e => if x = 0x3F800000 then 0 else nudged 2 2 (log2Num m e) x

/-- R114: reciprocal. -/
def tRecip (x : Nat) : Nat :=
  match ofF32 x with
  | .nan => nan32
  | .inf s => if s then 0x80000000 else 0
  | .fin s 0 _ => if s then 0xFF800000 else 0x7F800000
  | .fin s m e => nudged 3 1 (quotNum s 1 m 64 (-e)) x

/-- R114: reciprocal square root. -/
def tRsqrt (x : Nat) : Nat :=
  match ofF32 x with
  | .nan => nan32
  | .inf s => if s then nan32 else 0
  | .fin s 0 _ => if s then 0xFF800000 else 0x7F800000
  | .fin true _ _ => nan32
  | .fin false m e =>
    match rootNum m e with
    | .fin _ r q => nudged 4 1 (quotNum false 1 r 200 (-q)) x
    | _ => nan32

/-- R114: square root, correctly rounded. -/
def tSqrt (x : Nat) : Nat :=
  match ofF32 x with
  | .nan => nan32
  | .inf s => if s then nan32 else 0x7F800000
  | .fin s 0 _ => if s then 0x80000000 else 0
  | .fin true _ _ => nan32
  | .fin false m e => f32 (rootNum m e)

/-- R114: sigmoid. -/
def tSigmoid (x : Nat) : Nat :=
  match ofF32 x with
  | .nan => nan32
  | .inf s => if s then 0 else 0x3F800000
  | n => nudged 5 4 (sigmoidNum n) x

/-- R114: SiLU, x · sigmoid(x). The manual states no result at −∞: it is left open (log entry 11). -/
def tSilu (x : Nat) : Nat :=
  match ofF32 x with
  | .nan => nan32
  | .inf s => if s then Config.transcOffset 6 x % 2 ^ 32 else 0x7F800000
  | .fin s 0 _ => if s then 0x80000000 else 0
  | n => nudged 6 4 (n.mul (sigmoidNum n)) x

/-- R114: sincos of a turn fraction: sine and cosine, each within 2^−22 absolute. -/
def tSincos (a : Nat) : Nat × Nat :=
  let one (code : Nat) (v : Int) : Nat :=
    let o : Int := ((Config.transcOffset code a % (2 ^ 129 + 1) : Nat) : Int) - 2 ^ 128
    let c := f32 (numOf (v * 2 ^ 30 + o) (-150))
    if near 1 (-22) (ofF32 c) (numOf v (-120)) then c else f32 (numOf v (-120))
  let (s, c) := sincosFix a
  (one 7 s, one 8 c)

end Sys2Proof.Machine
end

