-- ==== Sys2Proof/Machine/VectorCore.lean ====
section
/-!
DEFINITION. The vector core: operands, faults, random streams and the meaning of each of its commands (R111 to R130).
-/

namespace Sys2Proof

/-- R111, R146: a register, or four consecutive scratchpad rows that begin at a multiple of 4. -/
def VLoc.ok : VLoc → Bool
  | .reg v => decide (v < 32)
  | .rows r => decide (r % 4 = 0 ∧ r + 4 ≤ 512)

def VLane.ok (l : VLane) : Bool := decide (l.reg < 32 ∧ l.lane < 512)

def VLane.next (d : VLane) (n : Nat) : VLane := { d with lane := d.lane + n }

/-- The operands an operation uses. -/
def VOp.uses : VOp → VLoc → VLoc → VLoc → List VLoc
  | .abs, a, _, _ => [a]
  | .neg, a, _, _ => [a]
  | .split, a, _, _ => [a]
  | .reserved, _, _, _ => []
  | .fma, a, b, c => [a, b, c]
  | .select, a, b, c => [a, b, c]
  | _, a, b, _ => [a, b]

/-- The one-operand functions of R114. -/
def TFn.apply : TFn → Nat → Nat
  | .exp2, x => Machine.tExp2 x
  | .log2, x => Machine.tLog2 x
  | .recip, x => Machine.tRecip x
  | .rsqrt, x => Machine.tRsqrt x
  | .sqrt, x => Machine.tSqrt x
  | .sigmoid, x => Machine.tSigmoid x
  | .silu, x => Machine.tSilu x
  | _, x => x

/-- The microscaling element format. -/
def VFmt.mx : VFmt → Option Machine.Fmt
  | .mxE4M3 => some Machine.fE4M3
  | .mxE5M2 => some Machine.fE5M2
  | .mxE3M2 => some Machine.fE3M2
  | .mxE2M3 => some Machine.fE2M3
  | .mxE2M1 => some Machine.fE2M1
  | .plain _ => none

/-- The stream a rounding names. -/
def VRound.stream : VRound → Option Nat
  | .rs i => some i
  | _ => none

/-- The rounding mode of element `i`, with the stream's key and counter at the command's start (R48). -/
def VRound.mode (r : VRound) (key : Bytes) (c i : Nat) : Machine.Rm :=
  match r with
  | .rne => .rne
  | .rz => .rz
  | .rs _ => .rs (Machine.streamUnit key (c + i))

end Sys2Proof

namespace Sys2Proof.Machine

/-! ### Operands and faults -/

/-- R130: the V-core faults: the code, its TAG and its command index. -/
def State.vFault (s : State) (t code tag : Nat) : State := s.coreFault t code tag (s.tile t).seqIx

/-- A V-core command completes (R129). -/
def State.vDone (s : State) (t : Nat) : State :=
  s.updTile t fun x => { x with seqIx := (x.seqIx + 1) % 1024, nDone := count8 1 x.nDone }

/-- A register's 2,048 bytes. -/
def State.vreg (s : State) (t v : Nat) : Bytes := ((upTo 4).map fun i => s.row (vregRow t v i)).flatten

def State.setVreg (s : State) (t v : Nat) (b : Bytes) : State :=
  s.setRows ((upTo 4).map fun i => (vregRow t v i, slice b (512 * i) 512))

/-- Read operands in order under check; `none` at an uncorrectable row. -/
def State.readLocs (s : State) (t : Nat) (es : List Ecc) : Nat → List VLoc → State × Option (List Bytes)
  | _, [] => (s, some [])
  | nth, l :: r =>
    let (s, b, n) :=
      match l with
      | .reg v => (s, some (s.vreg t v), nth)
      | .rows a =>
        let (s, b) := s.readRows t false 2 es nth ((upTo 4).map (a + ·))
        (s, b, nth + 4)
    match b with
    | none => (s, none)
    | some b =>
      match State.readLocs s t es n r with
      | (s, none) => (s, none)
      | (s, some c) => (s, some (b :: c))

/-- Write 2,048 bytes to a register or to rows (R149). -/
def State.writeLoc (s : State) (t : Nat) (l : VLoc) (b : Bytes) : State :=
  match l with
  | .reg v => s.setVreg t v b
  | .rows a => s.each (upTo 4) fun s i => s.setSpad t (a + i) (slice b (512 * i) 512)

/-- Lanes of a register: FP32 (4 bytes) or packed BF16 (2 bytes). -/
def lanes (w : Nat) (b : Bytes) : List Nat := (upTo (2048 / w)).map fun i => leAt b (w * i) w
def unlanes (w : Nat) (l : List Nat) : Bytes := (l.map (leBytes w)).flatten

/-- Write one lane of a register. -/
def State.setLane (s : State) (t : Nat) (d : VLane) (v : Nat) : State :=
  s.setVreg t d.reg (putAt (s.vreg t d.reg) (4 * d.lane) (leBytes 4 v))
def State.lane (s : State) (t : Nat) (d : VLane) : Nat := leAt (s.vreg t d.reg) (4 * d.lane) 4

/-- A V-core command: refused by the first code of `bad` (in the order of R130); its operands read under check (0x23);
then its effect. -/
def State.vCmd (s : State) (t tag : Nat) (bad : Option Nat) (locs : List VLoc) (es : List Ecc)
    (f : List Bytes → State → State) : State :=
  if !(s.runs t) then s
  else
    match bad with
    | some c => s.vFault t c tag
    | none =>
      match s.readLocs t es 0 locs with
      | (s, none) => s.vFault t 0x23 tag
      | (s, some d) => f d s

/-- The first cause that holds. -/
def vBad (l : List (Bool × Nat)) : Option Nat :=
  match l.find? (·.1) with
  | some c => some c.2
  | none => none

/-- R169: a command that sends rows over the mesh begins once those of the one before it have entered port 4. -/
def State.meshFree (s : State) (t : Nat) : Bool := (s.tile t).outQ.isEmpty

/-! ### Random streams (R123 to R128) -/

/-- A stream's key and counter, with its row read under check. -/
def State.stream (s : State) (t i : Nat) (es : List Ecc) (nth : Nat) : State × Option (Bytes × Nat) :=
  match s.readChk t false (streamRow (s.tile t) i) 2 es nth with
  | (s, none) => (s, none)
  | (s, some b) => (s, some (slice b (32 * (i % 16)) 16, leAt b (32 * (i % 16) + 16) 8))

/-- R125: write the advanced counter back. -/
def State.setCounter (s : State) (t i c : Nat) : State :=
  let r := streamRow (s.tile t) i
  s.setSpad t r (putAt (s.row (spadRow t r)) (32 * (i % 16) + 16) (leBytes 8 c))

/-- R126: the stream is assigned to this V-core. -/
def State.ownsStream (s : State) (t i : Nat) : Bool := decide (i < 512) && (s.tile t).streamOwn.contains i

/-- A command that draws `n` units: 0x25 when the counter would pass 2^64 − 1 (R128); else its effect on the key and the
counter, the counter written back (R125) and the units counted. -/
def State.drawing (s : State) (t tag i n : Nat) (es : List Ecc) (nth : Nat) (f : Bytes → Nat → State → State) : State :=
  match s.stream t i es nth with
  | (s, none) => s.vFault t 0x23 tag
  | (s, some (key, c)) =>
    if c + n > 2 ^ 64 - 1 then s.vFault t 0x25 tag
    else
      ((f key c s).setCounter t i (c + n)).updTile t fun x => { x with nDrawn := (x.nDrawn + n) % 2 ^ 64 }

/-- Rows that locations read, for numbering what follows them. -/
def rowsRead (l : List VLoc) : Nat := l.foldl (fun n x => match x with | .reg _ => n | .rows _ => n + 4) 0

/-! ### Elementwise (R113) -/

/-- R111: one lane, the result formed exactly and rounded once. A NaN makes min and max NaN, and of equal values the first
is returned; select takes the first operand where the condition lane is not false (log entry 25). -/
def laneOp (op : VOp) (bf : Bool) (a b c : Nat) : Nat :=
  let fmt := if bf then fBF16 else fFP32
  let nan := if bf then nan16 else nan32
  let x := fmt.decode a
  let y := fmt.decode b
  let z := fmt.decode c
  let out := ieeeOf fmt nan
  let test (p : Bool) : Nat := if p then Config.compareTrue bf else Config.compareFalse bf
  match op with
  | .add => out (x.add y)
  | .sub => out (x.add y.negate)
  | .mul => out (x.mul y)
  | .fma => out ((x.mul y).add z)
  | .min => if x.isNaN || y.isNaN then nan else if y.lt x then b else a
  | .max => if x.isNaN || y.isNaN then nan else if x.lt y then b else a
  | .abs => out x.absolute
  | .neg => out x.negate
  | .cmpLt => test (x.lt y)
  | .cmpLe => test (x.le y)
  | .cmpEq => test (x.eqv y)
  | .select => if c = Config.compareFalse bf then b else a
  | _ => a

/-- VEC_ELEMENTWISE (R111, R113); `split` forms the two BF16 parts of R49, hi parts in the lower half of the register. -/
def execVecElementwise (t tag : Nat) (op : VOp) (bf : Bool) (a b c d : VLoc) (es : List Ecc) (s : State) :
    Host.Outcome State Fault Refusal :=
  onV t s fun s =>
    let locs := op.uses a b c
    s.vCmd t tag (vBad [(op == .reserved, 0x21), (!(d.ok && locs.all VLoc.ok), 0x22)]) locs es fun l s =>
      let w := if bf then 2 else 4
      let x := l.getD 0 []
      let out :=
        if op = .split then
          let p := (lanes 4 x).map splitBf16
          unlanes 2 (p.map (·.1) ++ p.map (·.2))
        else
          let xs := lanes w x
          let ys := lanes w (l.getD 1 [])
          let zs := lanes w (l.getD 2 [])
          unlanes w (xs.zipIdx.map fun v => laneOp op bf v.1 (ys.getD v.2 0) (zs.getD v.2 0))
      (s.writeLoc t d out).vDone t

/-- TRANSCENDENTAL (R114). Sincos reads 256 turn fractions of 64 bits and writes 256 sines to `d` and cosines to `d2`,
their other lanes unchanged (log entry 25). -/
def execTranscendental (t tag : Nat) (fn : TFn) (a d d2 : VLoc) (es : List Ecc) (s : State) :
    Host.Outcome State Fault Refusal :=
  onV t s fun s =>
    let locs := if fn = .sincos then [a, d, d2] else [a]
    s.vCmd t tag (vBad [(fn == .reserved, 0x21), (!(d.ok && locs.all VLoc.ok), 0x22)]) locs es fun l s =>
      let x := l.getD 0 []
      if fn = .sincos then
        let p := (lanes 8 x).map tSincos
        ((s.writeLoc t d (putAt (l.getD 1 []) 0 (unlanes 4 (p.map (·.1))))).writeLoc t d2
          (putAt (l.getD 2 []) 0 (unlanes 4 (p.map (·.2))))).vDone t
      else (s.writeLoc t d (unlanes 4 ((lanes 4 x).map fn.apply))).vDone t

/-! ### Reductions (R115) -/

/-- R54: one level of the pairing: 2i with 2i + 1, an unpaired last operand passing up unchanged. -/
def pairUp {α : Type} (f : α → α → α) : List α → List α
  | a :: b :: r => f a b :: pairUp f r
  | l => l

/-- R54: level by level. -/
def pairTree {α : Type} (f : α → α → α) : Nat → List α → Option α
  | _, [] => none
  | _, [a] => some a
  | 0, a :: _ => some a
  | n + 1, l => pairTree f n (pairUp f l)

/-- R115: each register first, then the register results. -/
def reduceRegs {α : Type} (f : α → α → α) (regs : List (List α)) : Option α :=
  pairTree f 64 (regs.filterMap (pairTree f 64))

def sumRegs (regs : List (List Nat)) : Nat := (reduceRegs f32Add regs).getD 0

/-- The larger of two (value, index), the lower index among equal values; a NaN, the first of them, prevails. -/
def maxIx (a b : Nat × Nat) : Nat × Nat :=
  if (ofF32 a.1).isNaN then a
  else if (ofF32 b.1).isNaN then b
  else if (ofF32 a.1).lt (ofF32 b.1) then b else a

/-- Max with its index over registers. -/
def maxRegs (regs : List (List Nat)) : Nat × Nat :=
  let ix := regs.foldl (fun (acc : List (List (Nat × Nat)) × Nat) r =>
    (acc.1 ++ [r.zipIdx.map fun c => (c.1, acc.2 + c.2)], acc.2 + r.length)) ([], 0)
  let m := (reduceRegs maxIx ix.1).getD (0, 0)
  ((if (ofF32 m.1).isNaN then nan32 else m.1), m.2)

/-- The first `n` lanes of registers, register by register. -/
def takeRegs : Nat → List Bytes → List (List Nat)
  | _, [] => []
  | n, b :: r => (lanes 4 b).take n :: takeRegs (n - 512) r

/-- LANE_REDUCTION (R115): sum, max or argmax (an integer index, log entry 25) into one lane. -/
def execLaneReduction (t tag : Nat) (fn : RFn) (src : List VLoc) (d : VLane) (es : List Ecc) (s : State) :
    Host.Outcome State Fault Refusal :=
  onV t s fun s =>
    s.vCmd t tag (vBad [(fn == .reserved, 0x21), (!(d.ok && src.all VLoc.ok && !src.isEmpty), 0x22)]) src es fun l s =>
      let regs := l.map (lanes 4)
      let v :=
        match fn with
        | .sum => sumRegs regs
        | .max => (maxRegs regs).1
        | _ => (maxRegs regs).2
      (s.setLane t d v).vDone t

/-! ### Conversion and store (R37, R45 to R48) -/

/-- Split a list in blocks of `n`. -/
def blocksOf {α : Type} (n : Nat) (l : List α) : List (List α) :=
  (upTo (cdiv l.length n)).map fun i => (l.drop (n * i)).take n

/-- Convert values with the rounding mode of each: bytes, scale bytes, counts. -/
def convertAll (fmt : VFmt) (nsat : Bool) (vals : List (Nat × Rm)) : Bytes × Bytes × Nat × Nat :=
  match fmt.mx with
  | some f =>
    let bl := (blocksOf 32 vals).map fun b => mxEncode f (b.map fun v => (ofF32 v.1, v.2))
    let el := bl.flatMap (·.2)
    (leBytes (el.length * f.width / 8) (packList f.width (el.map (·.w))), bl.map (fun b => BitVec.ofNat 8 b.1),
      satCount el, nanCount el)
  | none =>
    match fmt with
    | .plain o =>
      match cvtOf o with
      | some c =>
        let el := vals.map fun v => convert c v.2 nsat v.1
        ((el.map fun x => leBytes c.size x.w).flatten, [], satCount el, nanCount el)
      | none => ([], [], 0, 0)
    | _ => ([], [], 0, 0)

/-- Bytes as whole rows, the last padded with zero bytes. -/
def packRows (b : Bytes) : List Bytes := (upTo (cdiv b.length 512)).map fun i => slice b (512 * i) 512

/-- Rows that `n` converted elements fill. -/
def fmtRows (fmt : VFmt) (n : Nat) : Nat :=
  match fmt.mx with
  | some f => cdiv (n * f.width) 4096
  | none => match fmt with | .plain o => (match cvtOf o with | some c => cdiv (n * c.size) 512 | none => 0) | _ => 0

/-- Store rows, or send them over the mesh (R169). -/
def State.vStore (s : State) (t : Nat) (dst : VDst) (rows : List Bytes) : State :=
  match dst with
  | .rows r => s.each (upTo rows.length) fun s i => s.setSpad t (r + i) (rows.getD i [])
  | .mesh rr => s.injectAll t rr rows

/-- R111, R146: `n` scratchpad rows from a multiple of 4, within one bank of 256 rows. -/
def rowsOk (r n : Nat) : Bool := decide (r % 4 = 0 ∧ r + n ≤ 512 ∧ (n = 0 ∨ r / 256 = (r + n - 1) / 256))

/-- CONVERSION_AND_STORE (R37, R45 to R48, R113, R146, R169): the scale bytes of a microscaled encoding go to scratchpad rows from
`scales`, one byte a block (log entry 25). -/
def execConversionAndStore (t tag : Nat) (src : List VLoc) (fmt : VFmt) (rm : VRound) (nsat : Bool) (dst : VDst)
    (scales : Nat) (es : List Ecc) (s : State) : Host.Outcome State Fault Refusal :=
  onV t s fun s =>
    let n := 512 * src.length
    let dstOk := match dst with
      | .rows r => rowsOk r (fmtRows fmt n)
      | .mesh rr => decide (rr < 64)
    let mesh := match dst with
      | .rows _ => false
      | .mesh _ => true
    let fmtOk := match fmt with
      | .plain o => (cvtOf o).isSome
      | _ => rowsOk scales (cdiv n 16384)
    let own := match rm.stream with
      | some i => s.ownsStream t i
      | none => true
    s.whenB (!mesh || s.meshFree t) fun s =>
    s.vCmd t tag (vBad [(!(src.all VLoc.ok && dstOk && fmtOk && !src.isEmpty), 0x22), (!own, 0x24)]) src es fun l s =>
      let vals := l.flatMap (lanes 4)
      let run (key : Bytes) (c : Nat) (s : State) : State :=
        let (by_, sc, sat, nan) := convertAll fmt nsat (vals.zipIdx.map fun v => (v.1, rm.mode key c v.2))
        let s := s.vStore t dst (packRows by_)
        let s := if sc.isEmpty then s else s.vStore t (.rows scales) (packRows sc)
        (s.updTile t fun x => { x with nSat := count64 sat x.nSat, nNan := count64 nan x.nNan }).vDone t
      match rm.stream with
      | none => run [] 0 s
      | some i => s.drawing t tag i n es (rowsRead src) run

/-! ### Softmax (R116) -/

/-- log2 e in FP32. -/
def log2e32 : Nat := 0x3FB8AA3B
def negInf : Nat := 0xFF800000

/-- exp2((x − m) × L), the subtraction and the product rounded separately. -/
def expOf (m x : Nat) : Nat := tExp2 (f32Mul (f32Sub x m) log2e32)

/-- The maximum and the sum of a part. A part masked throughout has −∞ and +0 (log entry 25). -/
def softPart (regs : List (List Nat)) : Nat × Nat :=
  let m := (maxRegs regs).1
  if m = negInf then (m, 0) else (m, sumRegs (regs.map fun r => r.map (expOf m)))

/-- Combine two parts: the larger m is kept, the other's s scaled. -/
def softCombine (a b : Nat × Nat) : Nat × Nat :=
  if (ofF32 a.1).isNaN || (ofF32 b.1).isNaN then (nan32, nan32)
  else if a.1 = negInf ∧ b.1 = negInf then (negInf, 0)
  else
    let (hi, lo) := if (ofF32 a.1).lt (ofF32 b.1) then (b, a) else (a, b)
    (hi.1, f32Add hi.2 (f32Mul lo.2 (expOf hi.1 lo.1)))

/-- Outputs of a row from its m and s. -/
def softOut (m s x : Nat) : Nat :=
  if (ofF32 m).isNaN then nan32 else if m = negInf then 0 else f32Mul (expOf m x) (tRecip s)

/-- Write the first `n` results over registers, lanes beyond unchanged. -/
def State.writeOuts (s : State) (t : Nat) : List VLoc → List Bytes → List (List Nat) → State
  | d :: ds, o :: os, r :: rs => (s.writeLoc t d (putAt o 0 (unlanes 4 r))).writeOuts t ds os rs
  | _, _, _ => s

/-- SOFTMAX (R116). `ms` names the lane of m, and the next lane holds s; `ms2` those of the part combined into it. -/
def execSoftmax (t tag : Nat) (form : Part) (src : List VLoc) (n : Nat) (ms ms2 : VLane) (dst : List VLoc)
    (es : List Ecc) (s : State) : Host.Outcome State Fault Refusal :=
  onV t s fun s =>
    let data := form != .combine
    let outs := form == .whole || form == .finish
    let locs := (if data then src else []) ++ (if outs then dst else [])
    let lanesOk := (form == .whole || (ms.next 1).ok) && (form != .combine || (ms2.next 1).ok)
    let sizeOk := !data || decide (0 < n ∧ n ≤ 512 * src.length ∧ 512 * src.length < n + 512)
    let dstOk := !outs || dst.length == src.length
    s.vCmd t tag (vBad [(!(locs.all VLoc.ok && lanesOk && sizeOk && dstOk), 0x22)]) locs es fun l s =>
      let regs := takeRegs n (l.take src.length)
      let old := l.drop src.length
      let at2 (d : VLane) : Nat × Nat := (s.lane t d, s.lane t (d.next 1))
      let put2 (v : Nat × Nat) : State := (s.setLane t ms v.1).setLane t (ms.next 1) v.2
      let s :=
        match form with
        | .piece => put2 (softPart regs)
        | .combine => put2 (softCombine (at2 ms) (at2 ms2))
        | .whole =>
          let p := softPart regs
          s.writeOuts t dst old (regs.map (List.map (softOut p.1 p.2)))
        | .finish =>
          let p := at2 ms
          s.writeOuts t dst old (regs.map (List.map (softOut p.1 p.2)))
      s.vDone t

/-! ### Normalisation (R117) -/

/-- Apply a function to corresponding lanes of registers. -/
def zipRegs (f : Nat → Nat → Nat) (a b : List (List Nat)) : List (List Nat) := List.zipWith (List.zipWith f) a b

/-- R117: r_n, the FP32 value of 1/n under RNE. -/
def recipLen (n : Nat) : Nat := f32 (quotNum false 1 n 64 0)

/-- NORMALISATION (R117). Parts: `piece` sums squares (RMSNorm) or values (LayerNorm) into `sums`; `combine` adds `sums2` to it;
`spread` (LayerNorm only) takes the row's Σx from `sums` and sums a part's squared deviations into `sums2`; `finish` takes Σx² from
`sums` (RMSNorm), or Σx from `sums` and the sum of squared deviations from `sums2`. -/
def execNormalisation (t tag : Nat) (layer : Bool) (form : NormPart) (src : List VLoc) (n : Nat) (par : NormPar)
    (sums sums2 : VLane) (dst : List VLoc) (es : List Ecc) (s : State) : Host.Outcome State Fault Refusal :=
  onV t s fun s =>
    let data := form != .combine
    let outs := form == .whole || form == .finish
    let k := src.length
    let locs := (if data then src else []) ++
      (if outs then par.gamma ++ (if layer then par.beta else []) ++ dst else [])
    let lanesOk := (form == .whole || sums.ok) && ((form != .combine && form != .spread && !(form == .finish && layer)) || sums2.ok)
    let sizeOk := !data || decide (0 < n ∧ n ≤ 512 * k ∧ 512 * k < n + 512)
    let dstOk := !outs || (dst.length == k && par.gamma.length == k && (!layer || par.beta.length == k))
    let lenOk := form == .combine || (if form == .whole then par.len == n else decide (n ≤ par.len))
    let rn := recipLen par.len
    s.vCmd t tag (vBad [(form == .spread && !layer, 0x21), (!(locs.all VLoc.ok && lanesOk && sizeOk && dstOk && lenOk), 0x22)]) locs es fun l s =>
      let x := takeRegs n (l.take k)
      let gam := takeRegs n ((l.drop k).take k)
      let bet := takeRegs n ((l.drop (2 * k)).take k)
      let old := l.drop (if layer then 3 * k else 2 * k)
      let squares (r : List (List Nat)) : Nat := sumRegs (r.map fun c => c.map fun v => f32Mul v v)
      let scale (ss : Nat) : Nat := tRsqrt (f32Add (f32Mul ss rn) par.eps)
      let outRms (ss : Nat) : List (List Nat) :=
        zipRegs f32Mul (x.map fun r => r.map fun v => f32Mul v (scale ss)) gam
      let dev (sum : Nat) : List (List Nat) := x.map fun r => r.map fun v => f32Sub v (f32Mul sum rn)
      let outLayer (sum ss : Nat) : List (List Nat) :=
        zipRegs f32Add (zipRegs f32Mul ((dev sum).map fun r => r.map fun v => f32Mul v (scale ss)) gam) bet
      let s :=
        match form with
        | .piece => s.setLane t sums (if layer then sumRegs x else squares x)
        | .spread => s.setLane t sums2 (squares (dev (s.lane t sums)))
        | .combine => s.setLane t sums (f32Add (s.lane t sums) (s.lane t sums2))
        | .whole =>
          s.writeOuts t dst old (if layer then outLayer (sumRegs x) (squares (dev (sumRegs x))) else outRms (squares x))
        | .finish =>
          s.writeOuts t dst old (if layer then outLayer (s.lane t sums) (s.lane t sums2) else outRms (s.lane t sums))
      s.vDone t

/-! ### Rotary (R118) -/

/-- R118 for one pair. -/
def rotatePair (pos theta x0 x1 : Nat) : Nat × Nat :=
  let (sn, cs) := tSincos (pos * theta % 2 ^ 64)
  (f32 (((ofF32 x0).mul (ofF32 cs)).add (ofF32 (f32Mul x1 sn)).negate), f32Fma x0 sn (f32Mul x1 cs))

/-- R118: `n` lanes of head vectors of dimension `dim`, every pair rotated. -/
def rotateAll (dim pos : Nat) (thetas : List Nat) (halves : Bool) (x : List Nat) : List Nat :=
  (upTo x.length).map fun i =>
    let h := i / dim * dim
    let e := i % dim
    let j := if halves then e % (dim / 2) else e / 2
    let (p, q) := if halves then (h + j, h + j + dim / 2) else (h + 2 * j, h + 2 * j + 1)
    let r := rotatePair pos (thetas.getD j 0) (x.getD p 0) (x.getD q 0)
    if i = p then r.1 else r.2

/-- ROTARY (R118): the head vectors that the operand's lanes hold one after another, register by register, at position `pos`. -/
def execRotary (t tag : Nat) (src : List VLoc) (heads : HeadShape) (pos : Nat) (thetas : List Nat) (halves : Bool) (dst : List VLoc)
    (es : List Ecc) (s : State) : Host.Outcome State Fault Refusal :=
  onV t s fun s =>
    let k := src.length
    let ok := src.all VLoc.ok && dst.all VLoc.ok && dst.length == k &&
      decide (0 < heads.dim ∧ heads.dim % 2 = 0 ∧ heads.n % heads.dim = 0 ∧ thetas.length = heads.dim / 2 ∧ 0 < heads.n ∧
        heads.n ≤ 512 * k ∧ 512 * k < heads.n + 512)
    s.vCmd t tag (vBad [(!ok, 0x22)]) (src ++ dst) es fun l s =>
      let out := rotateAll heads.dim pos thetas halves (takeRegs heads.n (l.take k)).flatten
      (s.writeOuts t dst (l.drop k) (blocksOf 512 out)).vDone t

/-! ### Routing (R119) -/

/-- Insert by a strict order, after its equals. -/
def insertBy {α : Type} (before : α → α → Bool) (a : α) : List α → List α
  | [] => [a]
  | b :: r => if before a b then a :: b :: r else b :: insertBy before a r

/-- Sort, stable. -/
def sortBy {α : Type} (before : α → α → Bool) (l : List α) : List α := l.foldl (fun acc a => insertBy before a acc) []

/-- The k highest scores, the lower index among equals: (expert, score). -/
def topK (k : Nat) (scores : List Nat) : List (Nat × Nat) :=
  let l := scores.zipIdx.map fun c => (c.2, c.1)
  if scores.any (fun v => (ofF32 v).isNaN) then
    (sortBy (fun a b => decide (Config.nanRank scores b.1 < Config.nanRank scores a.1)) l).take k
  else (sortBy (fun a b => (ofF32 b.2).lt (ofF32 a.2)) l).take k

/-- R119 steps 1 to 3 for one sequence: its experts and weights. -/
def routeOf (par : RoutePar) (row : List Nat) : List (Nat × Nat) :=
  let scores :=
    if par.sigmoid then row.map tSigmoid
    else let p := softPart [row]; row.map (softOut p.1 p.2)
  let best := topK par.k scores
  if par.renorm then
    let r := tRecip (sumRegs [best.map (·.2)])
    best.map fun c => (c.1, f32Mul c.2 r)
  else best

/-- ROUTING (R119): per sequence its experts and weights into lanes; then for each expert, in ascending sequence slot, the
rows of the sequences that chose it, and zero rows to the size of its block. -/
def execRouting (t tag : Nat) (par : RoutePar) (seqs : List RouteSeq) (es : List Ecc) (s : State) :
    Host.Outcome State Fault Refusal :=
  onV t s fun s =>
    let ok := decide (0 < par.n ∧ par.n ≤ 256 ∧ 0 < par.k ∧ par.k ≤ 8 ∧ par.k ≤ par.n ∧ par.routes.length = par.n ∧
      seqs.length ≤ 128) && par.routes.all (fun r => decide (r < 64)) &&
      seqs.all (fun q => q.scores.ok && decide (q.row < 512) && q.out.ok && (q.out.next (2 * par.k - 1)).ok)
    let locs := seqs.map (·.scores)
    s.whenB (s.meshFree t) fun s =>
    s.vCmd t tag (vBad [(!ok, 0x22)]) locs es fun l s =>
      match s.readRows t false 2 es (rowsRead locs) (seqs.map (·.row)) with
      | (s, none) => s.vFault t 0x23 tag
      | (s, some rows) =>
        let picks := l.map fun b => routeOf par ((lanes 4 b).take par.n)
        let s := s.each (upTo seqs.length) fun s i =>
          match seqs[i]? with
          | none => s
          | some q =>
            let p := picks.getD i []
            s.each (upTo p.length) fun s j =>
              let c := p.getD j (0, 0)
              (s.setLane t (q.out.next j) c.1).setLane t (q.out.next (par.k + j)) c.2
        let s := s.each (upTo par.n) fun s e =>
          let mine := (upTo seqs.length).filter fun i => (picks.getD i []).any fun c => c.1 == e
          let sent := mine.map fun i => slice rows (512 * i) 512
          s.injectAll t (par.routes.getD e 0) (sent ++ List.replicate (par.blockRows - sent.length) (List.replicate 512 0))
        s.vDone t

/-! ### Sampling (R120, R121) -/

/-- A candidate: token id, z, weight. -/
structure Cand where
  id : Nat
  z : Nat
  w : Nat
  c : Nat
deriving DecidableEq, Repr

/-- R120 step 4: running sums, one candidate at a time. -/
def runningSums : Option Nat → List Cand → List Cand
  | _, [] => []
  | none, c :: r => { c with c := c.w } :: runningSums (some c.w) r
  | some a, c :: r => let v := f32Add a c.w; { c with c := v } :: runningSums (some v) r

/-- R120 step 5: the shortest prefix whose C reaches the bound. -/
def cutAt (bound : Nat) : List Cand → List Cand
  | [] => []
  | c :: r => if (ofF32 bound).le (ofF32 c.c) then [c] else c :: cutAt bound r

/-- ln 2 in FP32. -/
def ln2_32 : Nat := 0x3F317218

/-- R120: two slices, each in candidate order, as one; of equals those of the earlier slice come first. -/
def mergeBy {α : Type} (before : α → α → Bool) (a b : List α) : List α := b.foldl (fun acc x => insertBy before x acc) a

/-- R120 step 3 for one slice: its candidates from token id `base`, in candidate order. -/
def sliceCands (rt base : Nat) (ordered : Bool) (v : List Nat) : List Cand :=
  let all := v.zipIdx.map fun c => ({ id := base + c.2, z := f32Mul c.1 rt, w := 0, c := 0 } : Cand)
  if ordered then sortBy (fun a b => (ofF32 b.z).lt (ofF32 a.z)) all else all

/-- R120: the candidates of every slice, merged in ascending slice index. -/
def mergeSlices (rt : Nat) (ordered : Bool) (slices : List (List Nat)) : List Cand :=
  (slices.foldl (fun (acc : List Cand × Nat) v =>
    let c := sliceCands rt acc.2 ordered v
    (if ordered then mergeBy (fun a b => (ofF32 b.z).lt (ofF32 a.z)) acc.1 c else acc.1 ++ c, acc.2 + v.length)) ([], 0)).1

/-- R120: the token and its log-probability, from the logits of every slice by registers, the settings and the 32-bit draw. -/
def sampleToken (par : SamplePar) (slices : List (List (List Nat))) (u : Nat) : Nat × Nat :=
  let regs := slices.flatten
  match regs.flatten.findIdx? (fun v => (ofF32 v).isNaN) with
  | some i => (i, nan32)
  | none =>
    if (ofF32 par.temp).isZero then ((maxRegs regs).2, 0)
    else
      let noK := par.topK == 0
      let noP := par.topP == 0x3F800000
      let cs := mergeSlices (tRecip par.temp) (!(noK && noP)) (slices.map List.flatten)
      let cs := if noK then cs else cs.take par.topK
      let mz := cs.foldl (fun m c => if (ofF32 m).lt (ofF32 c.z) then c.z else m) (match cs with | c :: _ => c.z | [] => 0)
      let cs := runningSums none (cs.map fun c => { c with w := expOf mz c.z })
      let last (l : List Cand) : Nat := match l.getLast? with | some c => c.c | none => 0
      let cs := if noP then cs else cutAt (f32Mul par.topP (last cs)) cs
      let cl := last cs
      let th := f32 ((Num.fin false u (-32)).mul (ofF32 cl))
      let tok :=
        match cs.find? (fun c => (ofF32 th).lt (ofF32 c.c)) with
        | some c => some c
        | none => cs.getLast?
      match tok with
      | some c => (c.id, f32Mul (f32Sub (f32Mul (f32Sub c.z mz) log2e32) (tLog2 cl)) ln2_32)
      | none => (0, 0)

def LogitSlice.ok (c : LogitSlice) : Bool :=
  isTile .v c.tile && c.locs.all VLoc.ok && decide (0 < c.n ∧ c.n ≤ 512 * c.locs.length ∧ 512 * c.locs.length < c.n + 512)

/-- The slices read in ascending index, each from its V-core under check; `none` at an uncorrectable row. The rows are numbered on. -/
def State.readSlices (s : State) (es : List Ecc) : Nat → List LogitSlice → State × Option (List (List (List Nat)))
  | _, [] => (s, some [])
  | nth, c :: r =>
    match s.readLocs c.tile es nth c.locs with
    | (s, none) => (s, none)
    | (s, some l) =>
      match State.readSlices s es (nth + rowsRead c.locs) r with
      | (s, none) => (s, none)
      | (s, some d) => (s, some (takeRegs c.n l :: d))

/-- SAMPLING (R120, R121): the token id into lane `d`, and under LOGPROB its log-probability into the next lane. The logits stand in one
slice, or in several on V-cores whose exchange the command completes (log entry 102). -/
def execSampling (t tag : Nat) (slices : List LogitSlice) (stream : Nat) (par : SamplePar) (d : VLane) (es : List Ecc)
    (s : State) : Host.Outcome State Fault Refusal :=
  onV t s fun s =>
    let ok := !slices.isEmpty && slices.all LogitSlice.ok && d.ok && (!par.logprob || (d.next 1).ok)
    s.vCmd t tag (vBad [(!ok, 0x22), (!s.ownsStream t stream, 0x24)]) [] es fun _ s =>
      match s.readSlices es 0 slices with
      | (s, none) => s.vFault t 0x23 tag
      | (s, some regs) =>
        s.drawing t tag stream 2 es (slices.foldl (fun n c => n + rowsRead c.locs) 0) fun key c s =>
          let (id, lp) := sampleToken par regs (draw32 key c)
          let s := s.setLane t d id
          (if par.logprob then s.setLane t (d.next 1) lp else s).vDone t

/-! ### Optimiser (R122) -/

/-- Results of the optimiser for every lane: field 0 the weight, 1 the first moment, 2 the second (AdamW only), from the step counter
and the hyperparameters. The rule's order of operations is not given: each result is left open (log entry 12). -/
def optLanes (rule : OptRule) (hyper : List Nat) (fld : Nat) (w g m v : List Nat) : List Nat :=
  let code := match rule with | .adamw => 0 | .sgd => 1
  w.zipIdx.map fun c =>
    Config.optimiser code fld (hyper ++ [c.1, g.getD c.2 0, m.getD c.2 0, v.getD c.2 0]) % 2 ^ 32

/-- R122: stored values as FP32: FP32 lanes, or the BF16 elements in the lower half of the location. -/
def optRead (bf : Bool) (b : Bytes) : List Nat := if bf then ((lanes 2 b).take 512).map (· * 2 ^ 16) else lanes 4 b

/-- R122: the step counter and the hyperparameters of the step in progress, from the image and the training control objects. -/
def State.optHyper (s : State) : List Nat := s.train.step :: Config.trainHyper s.trainSec s.train.step

/-- OPTIMISER (R122): code 0x26 outside an adapter-training image or without the licence. Weight and moments are stored in FP32, or in
BF16 under RS, packed in the lower half of the location. -/
def execOptimiser (t tag : Nat) (rule : OptRule) (par : OptPar) (es : List Ecc) (s : State) :
    Host.Outcome State Fault Refusal :=
  onV t s fun s =>
    let locs := [par.w, par.g, par.m] ++ (if rule = .adamw then [par.v] else [])
    let own := match par.store with
      | some i => s.ownsStream t i
      | none => true
    s.vCmd t tag (vBad [(!locs.all VLoc.ok, 0x22), (!own, 0x24), (!s.trainOpen, 0x26)]) locs es
      fun l s =>
        let bf := par.store.isSome
        let w := optRead bf (l.getD 0 [])
        let g := lanes 4 (l.getD 1 [])
        let m := optRead bf (l.getD 2 [])
        let v := optRead bf (l.getD 3 [])
        let dsts := [par.w, par.m] ++ (if rule = .adamw then [par.v] else [])
        let res := (upTo dsts.length).map fun f => optLanes rule s.optHyper f w g m v
        match par.store with
        | none => (s.each (upTo dsts.length) fun s f => s.writeLoc t (dsts.getD f (.reg 0)) (unlanes 4 (res.getD f []))).vDone t
        | some i =>
          s.drawing t tag i (512 * dsts.length) es (rowsRead locs) fun key c s =>
            (s.each (upTo dsts.length) fun s f =>
              let el := (res.getD f []).zipIdx.map fun x => convert .bf16 (.rs (streamUnit key (c + 512 * f + x.2))) false x.1
              (s.writeLoc t (dsts.getD f (.reg 0)) (slice (unlanes 2 (el.map (·.w))) 0 2048)).updTile t fun y =>
                { y with nSat := count64 (satCount el) y.nSat, nNan := count64 (nanCount el) y.nNan }).vDone t

/-- VCORE_STATUS_REPORT (R129): the status tuple to the cluster's S-core, under the retry convention. -/
def execVcoreStatusReport (t tag : Nat) (s : State) : Host.Outcome State Fault Refusal :=
  onV t s fun s =>
    let x := s.tile t
    s.whenB (s.runs t && (Tab.get none x.sends statusChannel).isNone) fun s =>
      (s.sendOn t statusChannel .vstat
        [BitVec.ofNat 64 (tag % 256 + 256 * x.nDone), BitVec.ofNat 64 x.nSat, BitVec.ofNat 64 x.nNan,
         BitVec.ofNat 64 x.nDrawn] 64).updTile t fun y => { y with seqIx := (y.seqIx + 1) % 1024 }

end Sys2Proof.Machine
end

