-- ==== Sys2Proof/Machine/Dispatch.lean ====
section
/-!
DEFINITION. The dispatch: one arm per row of opcode_table.json.
-/

namespace Sys2Proof.Machine

def exec (i : Instr) (s : State) : Host.Outcome State Fault Refusal :=
  match i with
  | .nop t => Sys2Proof.Machine.execNop t s
  | .mma t es => Sys2Proof.Machine.execMma t es s
  | .drain t es => Sys2Proof.Machine.execDrain t es s
  | .accld t es => Sys2Proof.Machine.execAccld t es s
  | .mode t => Sys2Proof.Machine.execMode t s
  | .modeTakesEffect t => Sys2Proof.Machine.execModeTakesEffect t s
  | .wait t => Sys2Proof.Machine.execWait t s
  | .post t => Sys2Proof.Machine.execPost t s
  | .jump t => Sys2Proof.Machine.execJump t s
  | .arrayStall t => Sys2Proof.Machine.execArrayStall t s
  | .tileSetEnter t es => Sys2Proof.Machine.execTileSetEnter t es s
  | .streamRingFill t src es => Sys2Proof.Machine.execStreamRingFill t src es s
  | .vecElementwise t tag op bf a b c d es => Sys2Proof.Machine.execVecElementwise t tag op bf a b c d es s
  | .transcendental t tag fn a d d2 es => Sys2Proof.Machine.execTranscendental t tag fn a d d2 es s
  | .laneReduction t tag fn src d es => Sys2Proof.Machine.execLaneReduction t tag fn src d es s
  | .conversionAndStore t tag src fmt rm nsat dst scales es => Sys2Proof.Machine.execConversionAndStore t tag src fmt rm nsat dst scales es s
  | .softmax t tag form src n ms ms2 dst es => Sys2Proof.Machine.execSoftmax t tag form src n ms ms2 dst es s
  | .normalisation t tag layer form src n par sums sums2 dst es => Sys2Proof.Machine.execNormalisation t tag layer form src n par sums sums2 dst es s
  | .rotary t tag src heads pos thetas halves dst es => Sys2Proof.Machine.execRotary t tag src heads pos thetas halves dst es s
  | .routing t tag par seqs es => Sys2Proof.Machine.execRouting t tag par seqs es s
  | .sampling t tag slices stream par d es => Sys2Proof.Machine.execSampling t tag slices stream par d es s
  | .optimiser t tag rule par es => Sys2Proof.Machine.execOptimiser t tag rule par es s
  | .vcoreStatusReport t tag => Sys2Proof.Machine.execVcoreStatusReport t tag s
  | .bwait t n => Sys2Proof.Machine.execBwait t n s
  | .leave t arg => Sys2Proof.Machine.execLeave t arg s
  | .leaveEnd t arg => Sys2Proof.Machine.execLeaveEnd t arg s
  | .send t rr words bound => Sys2Proof.Machine.execSend t rr words bound s
  | .recv t ep bound => Sys2Proof.Machine.execRecv t ep bound s
  | .recvBoundExpiry t => Sys2Proof.Machine.execRecvBoundExpiry t s
  | .fence t target => Sys2Proof.Machine.execFence t target s
  | .rbOpen t slot row es => Sys2Proof.Machine.execRbOpen t slot row es s
  | .rbLoad t size slot off => Sys2Proof.Machine.execRbLoad t size slot off s
  | .rbStore t size slot off v => Sys2Proof.Machine.execRbStore t size slot off v s
  | .rbFlush t slot => Sys2Proof.Machine.execRbFlush t slot s
  | .rbClose t slot => Sys2Proof.Machine.execRbClose t slot s
  | .rbDrop t slot => Sys2Proof.Machine.execRbDrop t slot s
  | .faultReport g prod => Sys2Proof.Machine.execFaultReport g prod s
  | .beatReport g => Sys2Proof.Machine.execBeatReport g s
  | .supervisorSilence g => Sys2Proof.Machine.execSupervisorSilence g s
  | .coreRestart t ix => Sys2Proof.Machine.execCoreRestart t ix s
  | .verticalPortGrant t reqs es => Sys2Proof.Machine.execVerticalPortGrant t reqs es s
  | .transposedWrite t => Sys2Proof.Machine.execTransposedWrite t s
  | .scrubRead t es => Sys2Proof.Machine.execScrubRead t es s
  | .packetForward t port => Sys2Proof.Machine.execPacketForward t port s
  | .forkBranchSend t k port => Sys2Proof.Machine.execForkBranchSend t k port s
  | .reductionAdd t u => Sys2Proof.Machine.execReductionAdd t u s
  | .tilePortDeliver t => Sys2Proof.Machine.execTilePortDeliver t s
  | .messageDeliver k => Sys2Proof.Machine.execMessageDeliver k s
  | .sendReplyTimeout t rr => Sys2Proof.Machine.execSendReplyTimeout t rr s
  | .retryWaitExpiry t rr => Sys2Proof.Machine.execRetryWaitExpiry t rr s
  | .fabricStall t port msgNet label unit cycles => Sys2Proof.Machine.execFabricStall t port msgNet label unit cycles s
  | .relayCommand t => Sys2Proof.Machine.execRelayCommand t s
  | .planQueueStart e => Sys2Proof.Machine.execPlanQueueStart e s
  | .descriptorStart e => Sys2Proof.Machine.execDescriptorStart e s
  | .copyRead e es => Sys2Proof.Machine.execCopyRead e es s
  | .copyWrite e => Sys2Proof.Machine.execCopyWrite e s
  | .copyMove e es => Sys2Proof.Machine.execCopyMove e es s
  | .copyPread e es => Sys2Proof.Machine.execCopyPread e es s
  | .copyPappend e es => Sys2Proof.Machine.execCopyPappend e es s
  | .copyRelay e => Sys2Proof.Machine.execCopyRelay e s
  | .wenwynDescriptor e d es => Sys2Proof.Machine.execWenwynDescriptor e d es s
  | .hbmPatrol st es => Sys2Proof.Machine.execHbmPatrol st es s
  | .channelRetrain st ch cause => Sys2Proof.Machine.execChannelRetrain st ch cause s
  | .channelRetrainDone st ok => Sys2Proof.Machine.execChannelRetrainDone st ok s
  | .ptpMessage m => Sys2Proof.Machine.execPtpMessage m s
  | .timePpsEdge m => Sys2Proof.Machine.execTimePpsEdge m s
  | .ppsTimeout => Sys2Proof.Machine.execPpsTimeout s
  | .announceTimeout => Sys2Proof.Machine.execAnnounceTimeout s
  | .ref25Qualify q => Sys2Proof.Machine.execRef25Qualify q s
  | .holdoverLimit => Sys2Proof.Machine.execHoldoverLimit s
  | .timeStepTo k x v => Sys2Proof.Machine.execTimeStepTo k x v s
  | .freerunSet k x v => Sys2Proof.Machine.execFreerunSet k x v s
  | .ppsNextSecond k x v => Sys2Proof.Machine.execPpsNextSecond k x v s
  | .nominalMark => Sys2Proof.Machine.execNominalMark s
  | .regionMark g lateCycles lateNs => Sys2Proof.Machine.execRegionMark g lateCycles lateNs s
  | .timeWordLoss f noClk => Sys2Proof.Machine.execTimeWordLoss f noClk s
  | .clockInputLost t live => Sys2Proof.Machine.execClockInputLost t live s
  | .frequencyChangeRequest gs pt n late => Sys2Proof.Machine.execFrequencyChangeRequest gs pt n late s
  | .frequencyChange g ns => Sys2Proof.Machine.execFrequencyChange g ns s
  | .droopStretch g k => Sys2Proof.Machine.execDroopStretch g k s
  | .imageLoad k x => Sys2Proof.Machine.execImageLoad k x s
  | .loadSectionsHeld => Sys2Proof.Machine.execLoadSectionsHeld s
  | .loadComplete => Sys2Proof.Machine.execLoadComplete s
  | .unload k x => Sys2Proof.Machine.execUnload k x s
  | .unitFenceRepair t => Sys2Proof.Machine.execUnitFenceRepair t s
  | .detourInstall => Sys2Proof.Machine.execDetourInstall s
  | .cleanRestart => Sys2Proof.Machine.execCleanRestart s
  | .submit d => Sys2Proof.Machine.execSubmit d s
  | .prompt d => Sys2Proof.Machine.execPrompt d s
  | .cancel d => Sys2Proof.Machine.execCancel d s
  | .query d => Sys2Proof.Machine.execQuery d s
  | .receiveRingTake => Sys2Proof.Machine.execReceiveRingTake s
  | .promptIncomplete r => Sys2Proof.Machine.execPromptIncomplete r s
  | .tokenSend r tok lp => Sys2Proof.Machine.execTokenSend r tok lp s
  | .completeSend r => Sys2Proof.Machine.execCompleteSend r s
  | .heldMessageSend r => Sys2Proof.Machine.execHeldMessageSend r s
  | .sequenceRebuild r => Sys2Proof.Machine.execSequenceRebuild r s
  | .rateBucketRefill p => Sys2Proof.Machine.execRateBucketRefill p s
  | .retentionExpiry r => Sys2Proof.Machine.execRetentionExpiry r s
  | .partitionStateWrite k x p v => Sys2Proof.Machine.execPartitionStateWrite k x p v s
  | .bindingWrite k x p sub v => Sys2Proof.Machine.execBindingWrite k x p sub v s
  | .keySlotWrite k x p slot key => Sys2Proof.Machine.execKeySlotWrite k x p slot key s
  | .quotaWrite k x p sub v => Sys2Proof.Machine.execQuotaWrite k x p sub v s
  | .monitorSample m => Sys2Proof.Machine.execMonitorSample m s
  | .signingRoundClose => Sys2Proof.Machine.execSigningRoundClose s
  | .epochRecord => Sys2Proof.Machine.execEpochRecord s
  | .meterExport k x => Sys2Proof.Machine.execMeterExport k x s
  | .ackSeq k x v => Sys2Proof.Machine.execAckSeq k x v s
  | .gapRecord => Sys2Proof.Machine.execGapRecord s
  | .leaveGrantEnd g n => Sys2Proof.Machine.execLeaveGrantEnd g n s
  | .leaveQueueServe f => Sys2Proof.Machine.execLeaveQueueServe f s
  | .leaveTimeout f n => Sys2Proof.Machine.execLeaveTimeout f n s
  | .sixteenthBoundary => Sys2Proof.Machine.execSixteenthBoundary s
  | .pcapAssert => Sys2Proof.Machine.execPcapAssert s
  | .pcapRelease => Sys2Proof.Machine.execPcapRelease s
  | .moduleInMaxWrite k x v => Sys2Proof.Machine.execModuleInMaxWrite k x v s
  | .pcapLimitWrite k x v => Sys2Proof.Machine.execPcapLimitWrite k x v s
  | .marginModeWrite k x v => Sys2Proof.Machine.execMarginModeWrite k x v s
  | .wakeStage g => Sys2Proof.Machine.execWakeStage g s
  | .regionWake g => Sys2Proof.Machine.execRegionWake g s
  | .phaseFailure g n cause cur => Sys2Proof.Machine.execPhaseFailure g n cause cur s
  | .logicShortCircuit g cur => Sys2Proof.Machine.execLogicShortCircuit g cur s
  | .storeShortCircuit w => Sys2Proof.Machine.execStoreShortCircuit w s
  | .packageBusFault => Sys2Proof.Machine.execPackageBusFault s
  | .sensorRead m => Sys2Proof.Machine.execSensorRead m s
  | .heatSwitchOff g => Sys2Proof.Machine.execHeatSwitchOff g s
  | .heatRewake g => Sys2Proof.Machine.execHeatRewake g s
  | .coolantLoss => Sys2Proof.Machine.execCoolantLoss s
  | .haltEnd => Sys2Proof.Machine.execHaltEnd s
  | .faultStop => Sys2Proof.Machine.execFaultStop s
  | .checkerRecompute g dig => Sys2Proof.Machine.execCheckerRecompute g dig s
  | .recomputeDrop g => Sys2Proof.Machine.execRecomputeDrop g s
  | .disputeVerdict d => Sys2Proof.Machine.execDisputeVerdict d s
  | .disputeTimeout => Sys2Proof.Machine.execDisputeTimeout s
  | .instarCommit => Sys2Proof.Machine.execInstarCommit s
  | .moult k x g => Sys2Proof.Machine.execMoult k x g s
  | .moultPhaseDone g res => Sys2Proof.Machine.execMoultPhaseDone g res s
  | .moultComplete g => Sys2Proof.Machine.execMoultComplete g s
  | .wholeDeviceFault c => Sys2Proof.Machine.execWholeDeviceFault c s
  | .mirrorCopy tid => Sys2Proof.Machine.execMirrorCopy tid s
  | .mirrorLate tid => Sys2Proof.Machine.execMirrorLate tid s
  | .checkpoint k x => Sys2Proof.Machine.execCheckpoint k x s
  | .chrysalisCommit loss => Sys2Proof.Machine.execChrysalisCommit loss s
  | .restore k x => Sys2Proof.Machine.execRestore k x s
  | .verificationReplay loss => Sys2Proof.Machine.execVerificationReplay loss s
  | .chrysalisExport k x => Sys2Proof.Machine.execChrysalisExport k x s
  | .batch k x st ix data => Sys2Proof.Machine.execBatch k x st ix data s
  | .pwrEnHigh => Sys2Proof.Machine.execPwrEnHigh s
  | .powerGood => Sys2Proof.Machine.execPowerGood s
  | .pwrEnLow => Sys2Proof.Machine.execPwrEnLow s
  | .inputStop above => Sys2Proof.Machine.execInputStop above s
  | .powerDownEnd => Sys2Proof.Machine.execPowerDownEnd s
  | .mrstN low => Sys2Proof.Machine.execMrstN low s
  | .releaseEdge => Sys2Proof.Machine.execReleaseEdge s
  | .bringupStepEnd res => Sys2Proof.Machine.execBringupStepEnd res s
  | .bringupStepTimeout n => Sys2Proof.Machine.execBringupStepTimeout n s
  | .watchdogExpiry => Sys2Proof.Machine.execWatchdogExpiry s
  | .mgmtLaneLoss => Sys2Proof.Machine.execMgmtLaneLoss s
  | .frontPortRetrain k x l => Sys2Proof.Machine.execFrontPortRetrain k x l s
  | .hbmRetrain k x => Sys2Proof.Machine.execHbmRetrain k x s
  | .fwUpdate k x => Sys2Proof.Machine.execFwUpdate k x s
  | .fwMinSvnWrite k x v => Sys2Proof.Machine.execFwMinSvnWrite k x v s
  | .licInstall k x => Sys2Proof.Machine.execLicInstall k x s
  | .licRemove k x v => Sys2Proof.Machine.execLicRemove k x v s
  | .attReport k x => Sys2Proof.Machine.execAttReport k x s
  | .resetReq k x v => Sys2Proof.Machine.execResetReq k x v s
  | .fordanHandshake h => Sys2Proof.Machine.execFordanHandshake h s
  | .sessionIdleTimeout k => Sys2Proof.Machine.execSessionIdleTimeout k s
  | .mgmtAddressChange => Sys2Proof.Machine.execMgmtAddressChange s
  | .fordanRead k x ix sub => Sys2Proof.Machine.execFordanRead k x ix sub s
  | .fordanWrite k x ix sub v => Sys2Proof.Machine.execFordanWrite k x ix sub v s
  | .segStart k x m => Sys2Proof.Machine.execSegStart k x m s
  | .segData k x off data => Sys2Proof.Machine.execSegData k x off data s
  | .segAck k x nxt => Sys2Proof.Machine.execSegAck k x nxt s
  | .segmentResendTimeout k x => Sys2Proof.Machine.execSegmentResendTimeout k x s
  | .transferAbandon k x => Sys2Proof.Machine.execTransferAbandon k x s
  | .action k x ix sub v => Sys2Proof.Machine.execAction k x ix sub v s
  | .subscribe k x ix sub minMs => Sys2Proof.Machine.execSubscribe k x ix sub minMs s
  | .unsubscribe k x ix sub => Sys2Proof.Machine.execUnsubscribe k x ix sub s
  | .notify k ix sub => Sys2Proof.Machine.execNotify k ix sub s
  | .csrWrite h addr v => Sys2Proof.Machine.execCsrWrite h addr v s
  | .aliasSet h addr v => Sys2Proof.Machine.execAliasSet h addr v s
  | .aliasClear h addr v => Sys2Proof.Machine.execAliasClear h addr v s
  | .aliasFlip h addr v => Sys2Proof.Machine.execAliasFlip h addr v s
  | .aliasView h addr => Sys2Proof.Machine.execAliasView h addr s
  | .pwrAlertSrcClear who v => Sys2Proof.Machine.execPwrAlertSrcClear who v s
  | .wrmSel h sel => Sys2Proof.Machine.execWrmSel h sel s
  | .wrmCopyDone hart => Sys2Proof.Machine.execWrmCopyDone hart s
  | .mbxCtlPost who ch v data => Sys2Proof.Machine.execMbxCtlPost who ch v data s
  | .mbxTake who ch => Sys2Proof.Machine.execMbxTake who ch s
  | .mbxTimeout ch => Sys2Proof.Machine.execMbxTimeout ch s
  | .sign tag => Sys2Proof.Machine.execSign tag s
  | .heartbeat tag => Sys2Proof.Machine.execHeartbeat tag s
  | .seal tag => Sys2Proof.Machine.execSeal tag s
  | .unseal tag => Sys2Proof.Machine.execUnseal tag s
  | .cocoonReset tag => Sys2Proof.Machine.execCocoonReset tag s
  | .i2cPointerWrite b => Sys2Proof.Machine.execI2cPointerWrite b s
  | .i2cRead n => Sys2Proof.Machine.execI2cRead n s
  | .bypass tdi => Sys2Proof.Machine.execBypass tdi s
  | .samplePreload cells => Sys2Proof.Machine.execSamplePreload cells s
  | .extest => Sys2Proof.Machine.execExtest s
  | .idcode => Sys2Proof.Machine.execIdcode s
  | .frontPortDown l => Sys2Proof.Machine.execFrontPortDown l s
  | .portRetrainComplete l lanes rate => Sys2Proof.Machine.execPortRetrainComplete l lanes rate s
  | .wakeComplete g => Sys2Proof.Machine.execWakeComplete g s
  | .startThresholdMet => Sys2Proof.Machine.execStartThresholdMet s
  | .vsb3v3Loss => Sys2Proof.Machine.execVsb3v3Loss s
  | .vsb3v3Return => Sys2Proof.Machine.execVsb3v3Return s
  | .jtagReset => Sys2Proof.Machine.execJtagReset s
  | .fwUpdateComplete ok => Sys2Proof.Machine.execFwUpdateComplete ok s

end Sys2Proof.Machine
end

