-- ==== Sys2Proof/WellFormed.lean ====
section
/-!
DEFINITION. Well-formedness of a command: every unit it names is a unit of the device, of the kind the command is for.
-/

namespace Sys2Proof

open Sys2Proof.Machine

/-- The unit a command names exists (R10, R20, R27, R29, R197, R273). -/
def Instr.wf : Instr → Bool
  | .nop t => isTile .m t
  | .mma t _ => isTile .m t
  | .drain t _ => isTile .m t
  | .accld t _ => isTile .m t
  | .mode t => isTile .m t
  | .modeTakesEffect t => isTile .m t
  | .wait t => isTile .m t || isTile .v t
  | .post t => isTile .m t
  | .jump t => isTile .m t
  | .arrayStall t => isTile .m t
  | .tileSetEnter t _ => isTile .m t
  | .streamRingFill t _ _ => isTile .m t
  | .vecElementwise t _ _ _ _ _ _ _ _ => isTile .v t
  | .transcendental t _ _ _ _ _ _ => isTile .v t
  | .laneReduction t _ _ _ _ _ => isTile .v t
  | .conversionAndStore t _ _ _ _ _ _ _ _ => isTile .v t
  | .softmax t _ _ _ _ _ _ _ _ => isTile .v t
  | .normalisation t _ _ _ _ _ _ _ _ _ _ => isTile .v t
  | .rotary t _ _ _ _ _ _ _ _ => isTile .v t
  | .routing t _ _ _ _ => isTile .v t
  | .sampling t _ _ _ _ _ _ => isTile .v t
  | .optimiser t _ _ _ _ => isTile .v t
  | .vcoreStatusReport t _ => isTile .v t
  | .bwait t _ => isTile .s t
  | .leave t _ => isTile .s t
  | .leaveEnd t _ => isTile .s t
  | .send t _ _ _ => isTile .s t
  | .recv t _ _ => isTile .s t
  | .recvBoundExpiry t => isTile .s t
  | .fence t _ => isTile .s t
  | .rbOpen t slot _ _ => (isTile .v t || isTile .s t) && decide (slot < 4)
  | .rbLoad t _ slot _ => (isTile .v t || isTile .s t) && decide (slot < 4)
  | .rbStore t _ slot _ _ => (isTile .v t || isTile .s t) && decide (slot < 4)
  | .rbFlush t slot => (isTile .v t || isTile .s t) && decide (slot < 4)
  | .rbClose t slot => (isTile .v t || isTile .s t) && decide (slot < 4)
  | .rbDrop t slot => (isTile .v t || isTile .s t) && decide (slot < 4)
  | .faultReport g prod => decide (g < 32) && Machine.producerOk prod
  | .beatReport g => g < 32
  | .supervisorSilence g => g < 32
  | .coreRestart t _ => (isTile .m t || isTile .v t)
  | .verticalPortGrant t _ _ => t < nTiles
  | .transposedWrite t => t < nTiles
  | .scrubRead t _ => t < nTiles
  | .packetForward t _ => t < nTiles
  | .forkBranchSend t _ _ => t < nTiles
  | .reductionAdd t _ => t < nTiles
  | .tilePortDeliver t => t < nTiles
  | .messageDeliver _ => true
  | .sendReplyTimeout t _ => t < nTiles
  | .retryWaitExpiry t _ => t < nTiles
  | .fabricStall t _ _ _ _ _ => t < nTiles
  | .relayCommand t => t < nTiles
  | .planQueueStart e => e < 96
  | .descriptorStart e => e < 96
  | .copyRead e _ => e < 96
  | .copyWrite e => e < 96
  | .copyMove e _ => e < 96
  | .copyPread e _ => e < 96
  | .copyPappend e _ => e < 96
  | .copyRelay e => e < 96
  | .wenwynDescriptor e _ _ => e < 96
  | .hbmPatrol s _ => s < 24
  | .channelRetrain s _ _ => s < 24
  | .channelRetrainDone s _ => s < 24
  | .ptpMessage _ => true
  | .timePpsEdge _ => true
  | .ppsTimeout => true
  | .announceTimeout => true
  | .ref25Qualify _ => true
  | .holdoverLimit => true
  | .timeStepTo _ _ _ => true
  | .freerunSet _ _ _ => true
  | .ppsNextSecond _ _ _ => true
  | .nominalMark => true
  | .regionMark g _ _ => g < 32
  | .timeWordLoss f _ => f < 16
  | .clockInputLost t _ => t < nTiles
  | .frequencyChangeRequest gs _ _ _ => gs.all fun g => decide (g < 32)
  | .frequencyChange g _ => g < 32
  | .droopStretch g _ => g < 32
  | .imageLoad _ _ => true
  | .loadSectionsHeld => true
  | .loadComplete => true
  | .unload _ _ => true
  | .unitFenceRepair t => t < nTiles
  | .detourInstall => true
  | .cleanRestart => true
  | .submit _ => true
  | .prompt _ => true
  | .cancel _ => true
  | .query _ => true
  | .receiveRingTake => true
  | .promptIncomplete _ => true
  | .tokenSend _ _ _ => true
  | .completeSend _ => true
  | .heldMessageSend _ => true
  | .sequenceRebuild _ => true
  | .rateBucketRefill p => p < 16
  | .retentionExpiry _ => true
  | .partitionStateWrite _ _ p _ => p < 16
  | .bindingWrite _ _ p _ _ => p < 16
  | .keySlotWrite _ _ p _ _ => p < 16
  | .quotaWrite _ _ p _ _ => p < 16
  | .monitorSample _ => true
  | .signingRoundClose => true
  | .epochRecord => true
  | .meterExport _ _ => true
  | .ackSeq _ _ _ => true
  | .gapRecord => true
  | .leaveGrantEnd g _ => g < 32
  | .leaveQueueServe f => f < 16
  | .leaveTimeout f _ => f < 16
  | .sixteenthBoundary => true
  | .pcapAssert => true
  | .pcapRelease => true
  | .moduleInMaxWrite _ _ _ => true
  | .pcapLimitWrite _ _ _ => true
  | .marginModeWrite _ _ _ => true
  | .wakeStage g => g < 32
  | .regionWake g => g < 32
  | .phaseFailure g _ _ _ => g < 32
  | .logicShortCircuit g _ => g < 32
  | .storeShortCircuit w => (match w with | .store g => g < 32 | .plane f => f < 16)
  | .packageBusFault => true
  | .sensorRead _ => true
  | .heatSwitchOff g => g < 32
  | .heatRewake g => g < 32
  | .coolantLoss => true
  | .haltEnd => true
  | .faultStop => true
  | .checkerRecompute g _ => g < 32
  | .recomputeDrop g => g < 32
  | .disputeVerdict _ => true
  | .disputeTimeout => true
  | .instarCommit => true
  | .moult _ _ g => g < 32
  | .moultPhaseDone g _ => g < 32
  | .moultComplete g => g < 32
  | .wholeDeviceFault _ => true
  | .mirrorCopy _ => true
  | .mirrorLate _ => true
  | .checkpoint _ _ => true
  | .chrysalisCommit _ => true
  | .restore _ _ => true
  | .verificationReplay _ => true
  | .chrysalisExport _ _ => true
  | .batch _ _ _ _ _ => true
  | .pwrEnHigh => true
  | .powerGood => true
  | .pwrEnLow => true
  | .inputStop _ => true
  | .powerDownEnd => true
  | .mrstN _ => true
  | .releaseEdge => true
  | .bringupStepEnd _ => true
  | .bringupStepTimeout _ => true
  | .watchdogExpiry => true
  | .mgmtLaneLoss => true
  | .frontPortRetrain _ _ l => l < 16
  | .hbmRetrain _ _ => true
  | .fwUpdate _ _ => true
  | .fwMinSvnWrite _ _ _ => true
  | .licInstall _ _ => true
  | .licRemove _ _ _ => true
  | .attReport _ _ => true
  | .resetReq _ _ _ => true
  | .fordanHandshake _ => true
  | .sessionIdleTimeout _ => true
  | .mgmtAddressChange => true
  | .fordanRead _ _ _ _ => true
  | .fordanWrite _ _ _ _ _ => true
  | .segStart _ _ _ => true
  | .segData _ _ _ _ => true
  | .segAck _ _ _ => true
  | .segmentResendTimeout _ _ => true
  | .transferAbandon _ _ => true
  | .action _ _ _ _ _ => true
  | .subscribe _ _ _ _ _ => true
  | .unsubscribe _ _ _ _ => true
  | .notify _ _ _ => true
  | .csrWrite _ _ _ => true
  | .aliasSet _ _ _ => true
  | .aliasClear _ _ _ => true
  | .aliasFlip _ _ _ => true
  | .aliasView _ _ => true
  | .pwrAlertSrcClear _ _ => true
  | .wrmSel _ _ => true
  | .wrmCopyDone _ => true
  | .mbxCtlPost _ ch _ _ => ch < 12
  | .mbxTake _ ch => ch < 12
  | .mbxTimeout ch => ch < 12
  | .sign _ => true
  | .heartbeat _ => true
  | .seal _ => true
  | .unseal _ => true
  | .cocoonReset _ => true
  | .i2cPointerWrite _ => true
  | .i2cRead _ => true
  | .bypass _ => true
  | .samplePreload _ => true
  | .extest => true
  | .idcode => true
  | .frontPortDown l => l < 16
  | .portRetrainComplete l _ _ => l < 16
  | .wakeComplete g => g < 32
  | .startThresholdMet => true
  | .vsb3v3Loss => true
  | .vsb3v3Return => true
  | .jtagReset => true
  | .fwUpdateComplete _ => true

end Sys2Proof
end

