-- ==== Sys2Proof/Safety.lean ====
section
/-!
DEFINITION. What counts as a safe run, and the words in which the claims are made: what a command leaves as it was. `{ u with f := s.f } = s`
says that the states `s` and `u` agree in everything but `f`.
-/

namespace Sys2Proof.Machine

/-- The step answers a next state: no command named a unit the device does not have. -/
def Safe (s : State) : Prop := ∃ s', step s = .next s'

/-- Every waiting command is well formed. -/
def QueueWf (s : State) : Prop := ∀ c ∈ s.pending, c.wf = true

/-- Only tile `t` differs. -/
def OnlyTile (s u : State) (t : Nat) : Prop := { u with tiles := s.tiles } = s ∧ ∀ i, i ≠ t → u.tile i = s.tile i

/-- Only region `g` differs. -/
def OnlyRegion (s u : State) (g : Nat) : Prop := { u with regions := s.regions } = s ∧ ∀ i, i ≠ g → u.region i = s.region i

/-- Tiles other than `t` are as they were. -/
def OtherTiles (s u : State) (t : Nat) : Prop := ∀ i, i ≠ t → u.tile i = s.tile i

/-- Regions other than `g` are as they were. -/
def OtherRegions (s u : State) (g : Nat) : Prop := ∀ i, i ≠ g → u.region i = s.region i

/-- Every byte of memory outside the rows of the list reads as before. -/
def OtherRows (s u : State) (rows : List Nat) : Prop := ∀ a, a / 512 ∉ rows → u.byteAt a = s.byteAt a

/-- R157: the rows with these numbers, the first of them the `nth` that the command reads, all read clean. -/
def rowsClean (s : State) (es : List Ecc) : Nat → List Nat → Bool
  | _, [] => true
  | nth, id :: r => decide (checkOf s id es nth = .clean) && rowsClean s es (nth + 1) r

/-- The bytes of rows, one after another. -/
def State.rowsAt (s : State) (ids : List Nat) : Bytes := ids.flatMap s.row

/-- R111, R146: the four rows of memory that hold a V-core operand. -/
def vRows (t : Nat) : VLoc → List Nat
  | .reg v => (upTo 4).map fun i => vregRow t v i
  | .rows a => (upTo 4).map fun i => spadRow t (a + i)

/-- The operand's 2,048 bytes. -/
def State.operand (s : State) (t : Nat) (l : VLoc) : Bytes := s.rowsAt (vRows t l)

/-- R157: the rows of memory that a V-core command reads under check for its operands, in order. -/
def vChecked (t : Nat) : List VLoc → List Nat
  | [] => []
  | .reg _ :: r => vChecked t r
  | .rows a :: r => (upTo 4).map (fun i => spadRow t (a + i)) ++ vChecked t r

/-- Every operand is a legal one and reads clean. -/
def vReads (s : State) (t : Nat) (es : List Ecc) (locs : List VLoc) : Prop :=
  locs.all VLoc.ok = true ∧ rowsClean s es 0 (vChecked t locs) = true

/-- R129: a V-core command of tile `t` that has completed: it is counted, the sequencer is at the next command, and no byte of memory
outside the given rows, no other tile and nothing else has changed. A row-buffer slot on none of the rows stays as it is (R149). -/
def VWrote (s u : State) (t : Nat) (rows : List Nat) : Prop :=
  OtherRows s u rows ∧ OtherTiles s u t ∧ { u with mem := s.mem, bad := s.bad, tiles := s.tiles } = s ∧
  { u.tile t with slots := (s.tile t).slots } =
    { s.tile t with seqIx := ((s.tile t).seqIx + 1) % 1024, nDone := min 255 (1 + (s.tile t).nDone) } ∧
  ((∀ c ∈ (s.tile t).slots, ∀ x, c.2 = some x → spadRow t x.row ∉ rows) → (u.tile t).slots = (s.tile t).slots)

/-- The lanes of register `v` but those named hold what they held. -/
def LanesKept (s u : State) (t v : Nat) (l : List Nat) : Prop :=
  ∀ i < 512, i ∉ l → leAt (u.operand t (.reg v)) (4 * i) 4 = leAt (s.operand t (.reg v)) (4 * i) 4

/-- R115: `n` values fill these registers, the last of them perhaps in part. -/
def RowFits (n : Nat) (src : List VLoc) : Prop := 0 < n ∧ n ≤ 512 * src.length ∧ 512 * src.length < n + 512

/-- No two of the operands share a row. -/
def VDisjoint (t : Nat) (dst : List VLoc) : Prop := dst.Pairwise fun a b => ∀ r ∈ vRows t a, r ∉ vRows t b

/-- The first `n` lanes over registers hold `f register lane`, the lanes beyond what they held. -/
def RowHolds (s u : State) (t n : Nat) (dst : List VLoc) (f : Nat → Nat → Nat) : Prop :=
  ∀ j d, dst[j]? = some d → ∀ i < 512,
    leAt (u.operand t d) (4 * i) 4 = if 512 * j + i < n then f j i % 256 ^ 4 else leAt (s.operand t d) (4 * i) 4

/-- R384: the command wrote a record of this event. -/
def Recorded (s u : State) (code region d0 d1 : Nat) : Prop :=
  ∃ e ∈ u.flt.log, s.flt.evNext ≤ e.seq ∧ e.code = code ∧ e.region = region ∧ e.d0 = d0 ∧ e.d1 = d1

/-- R384: the one record that the command wrote stands last in the log, and the alert bits that R429 gives its code are set. -/
def RecordedLast (s u : State) (code region d0 d1 : Nat) : Prop :=
  u.flt.evNext = s.flt.evNext + 1 ∧ u.csr.alertSrc = s.csr.alertSrc ||| alertOf code ∧
  ∃ e, u.flt.log.getLast? = some e ∧ e.seq = s.flt.evNext ∧ e.code = code ∧ e.region = region ∧ e.d0 = d0 ∧ e.d1 = d1

/-- Only copy engine `e` differs. -/
def OnlyEngine (s u : State) (e : Nat) : Prop := { u with engines := s.engines } = s ∧ ∀ i, i ≠ e → u.engine i = s.engine i

/-- Copy engines other than `e`, and stacks other than `k`, are as they were. -/
def OtherEngines (s u : State) (e : Nat) : Prop := ∀ i, i ≠ e → u.engine i = s.engine i
def OtherStacks (s u : State) (k : Nat) : Prop := ∀ i, i ≠ k → u.stack i = s.stack i

/-- R198, R199: the plan queue of engine `e` has moved one row or packet of the descriptor in progress `r`, and no copy is late:
the row is counted, and the descriptor goes on, or at its last row completes and is counted. -/
def CopyMoved (s u : State) (e : Nat) (r : CopyRun) (last : Bool) : Prop :=
  OtherEngines s u e ∧
  u.engine e = { s.engine e with
    busy := if last then none else some { r with done := r.done + 1 },
    ctr := if last then Tab.upd 0 (Tab.upd 0 (s.engine e).ctr 2 (count48 1)) 1 (count48 1) else Tab.upd 0 (s.engine e).ctr 2 (count48 1) }

/-- R187: a packet can enter the mesh at ring port `port` of tile `t`. -/
def PortTakes (s : State) (t port : Nat) : Prop :=
  (s.tile t).selfFenced = false ∧ s.tileOn t = true ∧ (Tab.get [] (s.tile t).inBuf port).length < 4

/-- The four words of a report. -/
def reportWords (w0 w1 w2 w3 : Nat) : List W64 := [BitVec.ofNat 64 w0, BitVec.ofNat 64 w1, BitVec.ofNat 64 w2, BitVec.ofNat 64 w3]

/-- R140, R183: tile `t` has reported these words to its region supervisor: the message is out, or waits behind the report before it. -/
def Reported (s u : State) (t w0 w1 w2 w3 : Nat) : Prop :=
  let ws := reportWords w0 w1 w2 w3
  match Tab.get none (s.tile t).sends reportChannel with
  | some _ => (u.tile t).sendQ = (s.tile t).sendQ ++ [{ ch := reportChannel, kind := .report, words := ws }] ∧ u.net = s.net
  | none => (u.tile t).sendQ = (s.tile t).sendQ ∧
      u.net = s.net ++ ((tileOfCode (s.region (tileRegion t)).sup).map fun _ =>
        ({ src := t, ch := reportChannel, dst := .sup (tileRegion t), words := ws, reply := none } : Msg)).toList

/-- R92, R130: the core of tile `t` has faulted: what was issued before the command stands (the MMA where `mma` holds, the first `side`
of the DRAINs and ACCLDs), the rest is abandoned, and the fault is reported. -/
def CoreFaulted (s u : State) (t : Nat) (mma : Bool) (side w0 w1 w2 : Nat) : Prop :=
  (Reported (s.updTile t fun x => x.faulted mma side) u t w0 w1 w2 0 ∧
   { u.tile t with sends := ((s.tile t).faulted mma side).sends, sendQ := (s.tile t).sendQ } = (s.tile t).faulted mma side ∧
   OtherTiles s u t) ∧
  { u with tiles := s.tiles, net := s.net, fields := s.fields } = s

/-- R411, R410: `k` is a session of the operator, and bring-up has ended. -/
def OperatorSession (s : State) (k : Nat) : Prop := s.boot.done = true ∧ ∃ q, s.sess k = some q ∧ q.role = .operator

/-- R415: the last message that the server has put out is the response to transaction `x` of session `k`. -/
def Answered (u : State) (k x svc status ix sub : Nat) (data : Bytes) : Prop :=
  u.fordan.out.getLast? = some ⟨k, svc + 128, status, x, ix, sub, data⟩

/-- R14, R15: the command issued the next handle of a kind, running, and answered transaction `x` of session `k` with it. -/
def Invoked (s u : State) (k x ix sub kind : Nat) : Prop :=
  Answered u k x 6 0 ix sub (leBytes 8 (kind * 2 ^ 56 + s.boot.hctr)) ∧ u.boot.hctr = s.boot.hctr + 1 ∧
    (u.hnd (kind * 2 ^ 56 + s.boot.hctr)).st = 1

/-- R419: a write of an object was accepted: the response says so, and carries nothing. -/
def Accepted (u : State) (k x ix sub : Nat) : Prop := Answered u k x 2 0 ix sub []

/-- R277, R297: one message more has been put out: to this peer, of this type, under this handle and CREF, with this body. -/
def Sent (s u : State) (f : From) (type handle cref : Nat) (body : Bytes) : Prop :=
  ∃ d, u.adm.tx = s.adm.tx ++ [d] ∧ d.peer = f.peer ∧ d.peerPort = f.port ∧ beAt d.data 3 1 = type ∧ beAt d.data 16 8 = handle % 2 ^ 64 ∧
    beAt d.data 24 8 = cref % 2 ^ 64 ∧ slice d.data 32 body.length = body ∧ (u.part f.part).txSeq = (s.part f.part).txSeq + 1

/-- Every other request is as it was. -/
def OtherReqs (s u : State) (r : Nat) : Prop := ∀ i, i ≠ r → u.req i = s.req i

/-- R23, R388: what a reset of the device leaves: everything volatile as after power-on, the deep stores, the flash, the standby logic. -/
def WasReset (s u : State) : Prop :=
  u.tiles = [] ∧ u.regions = [] ∧ u.fields = [] ∧ u.engines = [] ∧ u.ports = [] ∧ u.net = [] ∧ u.ctl = [] ∧ u.ringOut = [] ∧ u.reqs = [] ∧
  u.time = .init ∧ u.beat = .init ∧ u.img = .init ∧ u.adm = .init ∧ u.meter = .init ∧ u.therm = .init ∧ u.flt = .init ∧ u.train = .init ∧
  { u.fordan with out := [] } = .init ∧ u.csr.mbx = [] ∧ u.csr.wrm = [] ∧ u.csr.alertSrc = 0 ∧
  u.flash = { s.flash with fwMk := false } ∧ u.i2c = s.i2c ∧ u.jtag = s.jtag ∧ u.pins.thermtrip = false ∧
  u.boot.rst = true ∧ u.boot.done = false ∧ u.boot.step = 0 ∧ u.boot.handles = [] ∧
  ∀ a, u.byteAt a = if deepRowAny (a / 512) then s.byteAt a else 0

/-- R84: the sequencer of M-core `t` issues the word at its index: the core runs, and no POST or MODE of it is waiting. -/
def MIssues (s : State) (t : Nat) : Prop :=
  isTile .m t = true ∧ s.runs t = true ∧ (s.tile t).posted = false ∧ (s.tile t).modeReq = none

/-- R389: bring-up stands at step `n`: no halt, no reset. -/
def StepAt (s : State) (n : Nat) : Prop := s.boot.halted = none ∧ s.boot.done = false ∧ s.boot.rst = false ∧ s.boot.step = n

/-- R389: the handle of step `n` is complete, or with a code failed. -/
def StepEnded (u : State) (n code : Nat) : Prop :=
  (u.hnd (stepHandle n)).st = (if code = 0 then 2 else 3) ∧ (u.hnd (stepHandle n)).step = n ∧ (u.hnd (stepHandle n)).code = code

/-- R390: bring-up has halted at step `n`. -/
def HaltedAt (s u : State) (n : Nat) : Prop :=
  u.boot.halted = some n ∧ u.boot.lastCode = 0xD6 ∧ StepEnded u n 0xD6 ∧ Recorded s u 0xD6 0xFF n 0 ∧ bitOf u.csr.alertSrc 1 = true

end Sys2Proof.Machine
end

