-- ==== Sys2Proof/Certificates/Slice0/Obligations.lean ====
section
/-!
DEFINITION. The statements for the provers. Each says, of the commands it names, that `exec` ANSWERS A NEXT STATE under its hypotheses, what
that state holds, and what it leaves as it was.
-/

open Sys2Proof Sys2Proof.Machine

/-- R84, R90, R91, R66: the words that only move the sequencer, written out by the positions of R90's table. -/
def Obligations.SequencerWordsMoveOnlyTheSequencer : Prop :=
  ∀ (s : State) (t : Nat), isTile .m t = true → s.runs t = true → (s.tile t).posted = false →
    ((s.tile t).modeReq = none → (s.tile t).word = 0 →
      ∃ u, exec (.nop t) s = .next u ∧ OnlyTile s u t ∧
        u.tile t = { s.tile t with seqIx := ((s.tile t).seqIx + 1) % 1024, nDone := min 255 (1 + (s.tile t).nDone) }) ∧
    (∀ (tag : Nat) (w : W64) (r : List W64), tag < 256 → (s.tile t).modeReq = none → (s.tile t).word = 5 * 2 ^ 124 + tag * 2 ^ 40 →
      (s.tile t).starts = w :: r →
      ∃ u, exec (.wait t) s = .next u ∧ OnlyTile s u t ∧
        u.tile t = { s.tile t with seqIx := ((s.tile t).seqIx + 1) % 1024, nDone := min 255 (1 + (s.tile t).nDone), starts := r, chain := false }) ∧
    (∀ (v : Nat) (w : W64) (r : List W64), isTile .v v = true → s.runs v = true → (s.tile v).starts = w :: r →
      ∃ u, exec (.wait v) s = .next u ∧ OnlyTile s u v ∧
        u.tile v = { s.tile v with seqIx := ((s.tile v).seqIx + 1) % 1024, nDone := min 255 (1 + (s.tile v).nDone), starts := r, chain := false }) ∧
    (∀ (m tag : Nat), m < 2 → tag < 256 → (s.tile t).modeReq = none → (s.tile t).arrayEmpty = true →
      (s.tile t).word = 4 * 2 ^ 124 + m * 2 ^ 123 + tag * 2 ^ 40 →
      ∃ u, exec (.mode t) s = .next u ∧ OnlyTile s u t ∧
        u.tile t = { s.tile t with seqIx := ((s.tile t).seqIx + 1) % 1024, modeReq := some (m == 1), chain := false }) ∧
    (∀ m, (s.tile t).modeReq = some m →
      ∃ u, exec (.modeTakesEffect t) s = .next u ∧ OnlyTile s u t ∧
        u.tile t = { s.tile t with wide := m, modeReq := none, nDone := min 255 (1 + (s.tile t).nDone) }) ∧
    (∀ (target n : Nat), target < 1024 → 1 ≤ n → n < 1024 → (s.tile t).modeReq = none →
      (s.tile t).word = 7 * 2 ^ 124 + n * 2 ^ 16 + target →
      ∃ u, exec (.jump t) s = .next u ∧ OnlyTile s u t ∧
        u.tile t =
          if (s.tile t).loop < n then
            { s.tile t with seqIx := target, loop := (s.tile t).loop + 1, nDone := min 255 (1 + (s.tile t).nDone) }
          else
            { s.tile t with seqIx := ((s.tile t).seqIx + 1) % 1024, loop := 0, nDone := min 255 (1 + (s.tile t).nDone) })

/-- R92: the causes of a command fault, and its steps 1 to 4, for a core that is not fenced; log entry 18 gives the layout of the report. -/
def Obligations.RefusedWordStopsTheCoreAndIsReported : Prop :=
  ∀ (s : State) (t : Nat) (es : List Ecc) (c : Instr) (code : Nat), MIssues s t → (s.tile t).selfFenced = false →
    (8 ≤ fOpc (s.tile t).word ∧ code = 1 ∧
        c ∈ [.nop t, .mma t es, .drain t es, .accld t es, .mode t, .wait t, .post t, .jump t] ∨
      fOpc (s.tile t).word = 0 ∧ nopBad (s.tile t).word = some code ∧ c = .nop t ∨
      fOpc (s.tile t).word = 1 ∧ mmaBad (s.tile t).wide s.training (s.licensed 3) (s.tile t).word = some code ∧ c = .mma t es ∨
      fOpc (s.tile t).word = 2 ∧ drainBad (s.tile t).word = some code ∧ c = .drain t es ∨
      fOpc (s.tile t).word = 3 ∧ accldBad (s.tile t).word = some code ∧ c = .accld t es ∨
      fOpc (s.tile t).word = 4 ∧ modeBad (s.tile t).word = some code ∧ c = .mode t ∨
      fOpc (s.tile t).word = 5 ∧ tagOnlyBad (s.tile t).word = some code ∧ c = .wait t ∨
      fOpc (s.tile t).word = 6 ∧ tagOnlyBad (s.tile t).word = some code ∧ c = .post t ∨
      fOpc (s.tile t).word = 7 ∧ jumpBad (s.tile t).word = some code ∧ c = .jump t) →
    ∃ u, exec c s = .next u ∧ (u.tile t).stopped = true ∧ (u.tile t).seqIx = (s.tile t).seqIx ∧ (u.tile t).mma = (s.tile t).mma ∧
      (u.tile t).side = (s.tile t).side ∧ u.mem = s.mem ∧
      CoreFaulted s u t true (s.tile t).side.length
        (code % 256 + fTag (s.tile t).word % 256 * 2 ^ 8 + (s.tile t).seqIx % 1024 * 2 ^ 16) 0 0

/-- R90, R45 to R47, R62, R84, R89, R91, R152: the two commands that move accumulator rows. The MMA in progress, if any, waits for a set. -/
def Obligations.DrainAndAccldMoveAccumulatorRows : Prop :=
  ∀ (s : State) (t : Nat) (es : List Ecc) (w n a : Nat), MIssues s t → (s.tile t).word = w → fNcolRaw w = n → fAccb w = a →
    (s.tile t).side = [] → (∀ d ∈ (s.tile t).turn.head?, d.need ≠ 0) → (∀ i < n, (s.tile t).ownsAcc (a + i) = false) → Memory.wf s.mem = true →
    (fOpc w = 2 → drainBad w = none → rowsClean s es 0 ((upTo n).map fun i => spadRow t (640 + (a + i))) = true →
      ∃ u vals rows, exec (.drain t es) s = .next u ∧
        vals = ((upTo (n * 128)).map fun i => leAt (s.rowsAt ((upTo n).map fun i => spadRow t (640 + (a + i)))) (4 * i) 4) ∧
        rows = rowsOf (convertOut w vals).1 ∧
        (fOut w = 1 → (∀ i (h : i < rows.length), u.row (spadRow t (fOdst w + i)) = rows[i]) ∧
          OtherRows s u ((upTo rows.length).map fun i => spadRow t (fOdst w + i))) ∧
        (fOut w = 2 → u.mem = s.mem ∧ (u.tile t).vpQ = (s.tile t).vpQ ++ rows.zipIdx.map fun c => .result (fOdst w + c.2) c.1) ∧
        (fOut w ≠ 2 → (u.tile t).vpQ = (s.tile t).vpQ) ∧ (fOut w ≠ 3 → (u.tile t).inBuf = (s.tile t).inBuf) ∧
        (fOut w = 3 → 256 ≤ Tab.get 0 (s.tile t).droutes (fRoute w) → (s.tile t).outQ = [] →
          (Tab.get [] (s.tile t).inBuf 4).length + rows.length ≤ 4 →
          u.mem = s.mem ∧ Tab.get [] (u.tile t).inBuf 4 = Tab.get [] (s.tile t).inBuf 4 ++
            rows.map fun r => { label := Tab.get 0 (s.tile t).droutes (fRoute w) % 256, xp := 0, dig := crc64 r, row := r }) ∧
        (fOut w ≠ 3 ∨ (256 ≤ Tab.get 0 (s.tile t).droutes (fRoute w) ∧ (s.tile t).outQ = [] ∧
            (Tab.get [] (s.tile t).inBuf 4).length + rows.length ≤ 4) →
          { u.tile t with inBuf := (s.tile t).inBuf, vpQ := (s.tile t).vpQ } = { s.tile t with
            seqIx := ((s.tile t).seqIx + 1) % 1024, nDone := min 255 (1 + (s.tile t).nDone),
            nSat := min (2 ^ 64 - 1) ((convertOut w vals).2.1 + (s.tile t).nSat),
            nNan := min (2 ^ 64 - 1) ((convertOut w vals).2.2 + (s.tile t).nNan) } ∧
          OtherTiles s u t ∧ { u with mem := s.mem, bad := s.bad, tiles := s.tiles } = s)) ∧
    (fOpc w = 3 → accldBad w = none →
      ∃ u, exec (.accld t es) s = .next u ∧ OtherTiles s u t ∧ { u with mem := s.mem, bad := s.bad, tiles := s.tiles } = s ∧
        (fOut w = 1 → rowsClean s es 0 ((upTo n).map fun i => spadRow t (fOdst w + i)) = true →
          (∀ i < n, u.row (spadRow t (640 + (a + i))) = s.row (spadRow t (fOdst w + i))) ∧
          OtherRows s u ((upTo n).map fun i => spadRow t (640 + (a + i))) ∧
          u.tile t = { s.tile t with seqIx := ((s.tile t).seqIx + 1) % 1024, nDone := min 255 (1 + (s.tile t).nDone) }) ∧
        (fOut w = 2 → u.mem = s.mem ∧ u.tile t = { s.tile t with
          seqIx := ((s.tile t).seqIx + 1) % 1024, vpQ := (s.tile t).vpQ ++ (upTo n).map fun i => .accld (fOdst w + i) (a + i),
          side := [{ word := w, ix := (s.tile t).seqIx, es := es, begun := n, done := 0, buf := [], later := (s.tile t).mma.isSome }] }))

/-- R41, R71, R73, R84, R86, R91, R79: the commands that begin, report and stop the array's work. -/
def Obligations.MmaRunsPostSendsStallStops : Prop :=
  ∀ (s : State) (t : Nat) (es : List Ecc) (w : Nat), isTile .m t = true → (s.tile t).word = w →
    (MIssues s t → fOpc w = 1 → mmaBad (s.tile t).wide s.training (s.licensed 3) w = none → (s.tile t).mma = none → (s.tile t).pendingUe = false →
      ((∀ d ∈ (s.tile t).turn.head?, d.need ≠ 0) → exec (.mma t es) s = .next s) ∧
      (∀ set rest, (s.tile t).turn = set :: rest → set.need = 0 →
        ∃ v, OnlyTile s v t ∧
          v.tile t = { s.tile t with
            seqIx := ((s.tile t).seqIx + 1) % 1024, stat := (if (s.tile t).chain then (s.tile t).stat else none),
            shadow := (if (s.tile t).chain then (s.tile t).shadow else none),
            mma := some { word := w, ix := (s.tile t).seqIx, p := 0, j := 0, out := [], outIm := [], rowsOut := 0, sampled := none } } ∧
          exec (.mma t es) s = .next (v.runArray t es 0 4)) ∧
      (∀ set k, (s.tile t).turn = [set] → set.need = 0 → set.half = false → (s.tile t).chain = false → (s.tile t).wide = false →
        (s.tile t).side = [] → (s.tile t).outQ = [] → (s.tile t).vpQ.any isResult = false → fNstep w = 1 → fPt w ≤ 5 → fOut w = 0 →
        fZobs w = false → s.sampleDue t w = false → Memory.wf s.mem = true → k = subRow (fPt w) (fSbuf w) (fSsb w) →
        rowsClean s es 0 ((upTo (subRows (fPt w))).map (fun i => spadRow t (k + i)) ++
          if fAccin w then (upTo (fNcol w)).map (fun c => accRow t (fAccb w + c)) else []) = true →
        ∃ u, exec (.mma t es) s = .next u ∧ OtherTiles s u t ∧ { u with mem := s.mem, bad := s.bad, tiles := s.tiles } = s ∧
          OtherRows s u ((upTo (fNcol w)).map fun c => accRow t (fAccb w + c)) ∧
          (∀ c < fNcol w, ∀ i < 128, leAt (u.row (accRow t (fAccb w + c))) (4 * i) 4 =
            cellValue false w false [packed (s.rowsAt ((upTo (subRows (fPt w))).map fun i => spadRow t (k + i))), 0, 0, 0] set.tiles
              (if fAccin w then leAt (s.row (accRow t (fAccb w + c))) (4 * i) 4 else 0) i c % 2 ^ 32) ∧
          (u.tile t).mma = none ∧ (u.tile t).turn = [] ∧ (u.tile t).seqIx = ((s.tile t).seqIx + 1) % 1024 ∧
          (u.tile t).nDone = min 255 (1 + (s.tile t).nDone) ∧ (u.tile t).passes = (s.tile t).passes + 1)) ∧
    (MIssues s t → fOpc w = 6 → tagOnlyBad w = none → (s.tile t).arrayEmpty = true → (s.tile t).side = [] → Tab.get none (s.tile t).sends 64 = none →
      ∃ u, exec (.post t) s = .next u ∧
        u.net = s.net ++ [{ src := t, ch := 64, dst := .ep (clusterS t) (Config.statusEndpoint t % 16), reply := none, words :=
          [BitVec.ofNat 64 (fTag w + 256 * (s.tile t).nDone), BitVec.ofNat 64 (s.tile t).nSat, BitVec.ofNat 64 (s.tile t).nNan,
           BitVec.ofNat 64 (Config.freeValue s.free % 2 ^ 64)] }] ∧
        (u.tile t).posted = true ∧ (u.tile t).seqIx = (s.tile t).seqIx ∧ (u.tile t).nDone = (s.tile t).nDone ∧
        OtherTiles s u t ∧ { u with tiles := s.tiles, net := s.net, free := s.free } = s) ∧
    (s.arrayRuns t = true → (s.tile t).selfFenced = false →
      (∀ r, (s.tile t).mma = some r → (∀ d ∈ (s.tile t).side, d.later = true) →
        ∃ u, exec (.arrayStall t) s = .next u ∧ CoreFaulted s u t false 0 (9 + fTag r.word % 256 * 2 ^ 8 + r.ix % 1024 * 2 ^ 16) 0 0 ∧
          (u.tile t).stopped = true ∧ (u.tile t).mma = none ∧ (u.tile t).turn = [] ∧ (u.tile t).side = [] ∧ u.mem = s.mem) ∧
      (∀ d rest, (s.tile t).side = d :: rest → (s.tile t).mma = none →
        ∃ u, exec (.arrayStall t) s = .next u ∧ CoreFaulted s u t false 0 (9 + fTag d.word % 256 * 2 ^ 8 + d.ix % 1024 * 2 ^ 16) 0 0 ∧
          (u.tile t).stopped = true ∧ (u.tile t).side = [] ∧ u.mem = s.mem))

/-- R63, R64, R69, R70, R102: the stream ring's two ends. -/
def Obligations.StreamRingFillsAndFeedsTheTurnBuffer : Prop :=
  ∀ (s : State) (t : Nat) (es : List Ecc), isTile .m t = true →
    (∀ d, s.tileOn t = true → (s.tile t).ringCnt < 128 → d < 16384 → (s.tile t).rowHeld d = false → (∀ q ∈ (s.tile t).vpQ, vpCls q ≠ 1) →
      checkOf s (deepRow t d) es 0 = .clean → Memory.wf s.mem = true →
      ∃ u, exec (.streamRingFill t (.vertical d) es) s = .next u ∧
        u.row (spadRow t (512 + (s.tile t).ringFill)) = s.row (deepRow t d) ∧
        OtherRows s u [spadRow t (512 + (s.tile t).ringFill)] ∧
        u.tile t = { s.tile t with ringFill := ((s.tile t).ringFill + 1) % 128, ringCnt := (s.tile t).ringCnt + 1 } ∧
        OtherTiles s u t ∧ { u with mem := s.mem, bad := s.bad, tiles := s.tiles } = s) ∧
    (∀ w ix now set before s' tiles used, s.arrayRuns t = true → s.feedFor t = some (w, ix, now) →
      ((s.tile t).openSet = some set ∧ before = (s.tile t).turn.dropLast ∨
       (s.tile t).openSet = none ∧ before = (s.tile t).turn ∧
         set = { tiles := [], need := setTiles (s.tile t).wide (fPt w), rows := turnRows (s.tile t).wide w, half := false }) →
      before.length < 2 → before.foldl (fun m d => m + d.rows) 0 + set.rows ≤ 264 →
      s.readSet t w es set.need 0 [] = (s', tiles, used, .waits) → 0 < used →
      ∃ v, exec (.tileSetEnter t es) s = .next (v.runArray t es used 4) ∧
        ((s'.tile t).mma = none → (s'.tile t).side = [] → exec (.tileSetEnter t es) s = .next v) ∧
        v.tile t = { s'.tile t with
          ringUse := ((s'.tile t).ringUse + used) % 128, ringCnt := (s'.tile t).ringCnt - used,
          turn := before ++ [{ set with tiles := set.tiles ++ tiles, need := set.need - tiles.length }] } ∧
        OtherTiles s' v t ∧ { v with tiles := s'.tiles } = s')

/-- R153: the order of the grants. -/
def Obligations.VerticalPortReadReturnsTheRowWrittenBefore : Prop :=
  ∀ (s : State) (t r d r2 : Nat) (es es' : List Ecc), t < 2688 → s.tileOn t = true → (s.tile t).vpQ = [] →
    (s.tile t).rowHeld d = false → d < 16384 → r < (if tileKind t = .m then 512 else spadRows t) →
    r2 < (if tileKind t = .m then 512 else spadRows t) → Memory.wf s.mem = true → checkOf s (spadRow t r) es 0 = .clean →
    ∃ u, exec (.verticalPortGrant t [.save r d] es) s = .next u ∧ u.row (deepRow t d) = s.row (spadRow t r) ∧
      OtherRows s u [deepRow t d] ∧ u.tile t = { s.tile t with vpWrite := true } ∧ OtherTiles s u t ∧
      { u with mem := s.mem, bad := s.bad, tiles := s.tiles } = s ∧
      (checkOf u (deepRow t d) es' 0 = .clean →
        ∃ v, exec (.verticalPortGrant t [.load d r2] es') u = .next v ∧ v.row (spadRow t r2) = s.row (spadRow t r) ∧
          OtherRows u v [spadRow t r2] ∧ (v.tile t).vpWrite = false ∧ OtherTiles u v t ∧
          { v with mem := u.mem, bad := u.bad, tiles := u.tiles } = u)

/-- R158, R155: the scrubber, and the transposing tile buffers. `w` is the bytes of an element. -/
def Obligations.ScrubberAndTransposedWrites : Prop :=
  ∀ (s : State) (t : Nat) (es : List Ecc), t < 2688 → s.tileOn t = true → Memory.wf s.mem = true →
    ((s.tile t).vpNext = none → (s.tile t).rowHeld (s.tile t).scrubRow = false → checkOf s (deepRow t (s.tile t).scrubRow) es 0 = .clean →
      ∃ u, exec (.scrubRead t es) s = .next u ∧ u.mem = s.mem ∧ OtherTiles s u t ∧ { u with tiles := s.tiles } = s ∧
        (u.tile t).scrubRow = (if (s.tile t).scrubRow + 1 ≥ 16384 then 0 else (s.tile t).scrubRow + 1) ∧
        Tab.get 0 (u.tile t).ctr 11 = min (2 ^ 48 - 1) (1 + Tab.get 0 (s.tile t).ctr 11)) ∧
    (∀ m, (s.tile t).vpNext = none → (s.tile t).rowHeld (s.tile t).scrubRow = false →
      checkOf s (deepRow t (s.tile t).scrubRow) es 0 = .corrected m →
      ∃ u, exec (.scrubRead t es) s = .next u ∧ (∀ a, u.byteAt a = s.byteAt a) ∧
        Tab.get 0 u.bad (deepRow t (s.tile t).scrubRow) = 0 ∧ OtherTiles s u t ∧
        ((s.tile t).scrubRow < 16383 → (s.tile t).scrubRow ∈ (u.tile t).scrubHit) ∧
        ((s.tile t).scrubRow ∈ (s.tile t).scrubOld → (u.tile t).weak = true)) ∧
    (∀ d ep b w, (s.tile t).vpNext = some (.tile d ep) →
      (s.tile t).tbufs.find? (fun b => b.d == d && b.ep == ep && decide (b.rows.length ≥ xpRows b.xp)) = some b →
      w = (if b.xp = 1 then 1 else 2) → b.rows.length = xpRows b.xp → (∀ r ∈ b.rows, r.length = 512) →
      ∃ u, exec (.transposedWrite t) s = .next u ∧
        (∀ i k, i < 128 → k < 128 →
          slice (u.rowsAt ((upTo (xpRows b.xp)).map fun j => deepRow t (b.d + j))) (128 * w * k + w * i) w =
            slice b.rows.flatten (128 * w * i + w * k) w) ∧
        OtherRows s u ((upTo (xpRows b.xp)).map fun j => deepRow t (b.d + j)) ∧ OtherTiles s u t ∧
        { u with mem := s.mem, bad := s.bad, tiles := s.tiles, net := s.net } = s ∧
        { u.tile t with epCnt := (s.tile t).epCnt, epNote := (s.tile t).epNote, sends := (s.tile t).sends, sendQ := (s.tile t).sendQ } =
          { s.tile t with tbufs := (s.tile t).tbufs.filter (· != b), vpQ := vpDrop (.tile d ep) (s.tile t).vpQ, vpWrite := true } ∧
        (dscNen ((s.tile t).dsc ep) = false → u.net = s.net ∧ (u.tile t).epNote = (s.tile t).epNote))

/-- R113 to R115: the lane operations. `x`, `y` and `z` are the operands' bytes. -/
def Obligations.LaneOperationsWriteTheirLanes : Prop :=
  ∀ (s : State) (t tag : Nat) (es : List Ecc), isTile .v t = true → s.runs t = true → Memory.wf s.mem = true →
    (∀ op bf a b c d x y z w, op ≠ .reserved → op ≠ .split → d.ok = true → vReads s t es (op.uses a b c) →
      x = ((op.uses a b c).map (s.operand t)).getD 0 [] → y = ((op.uses a b c).map (s.operand t)).getD 1 [] →
      z = ((op.uses a b c).map (s.operand t)).getD 2 [] → w = (if bf then 2 else 4) →
      ∃ u, exec (.vecElementwise t tag op bf a b c d es) s = .next u ∧ VWrote s u t (vRows t d) ∧
        ∀ i < 2048 / w, leAt (u.operand t d) (w * i) w =
          laneOp op bf (leAt x (w * i) w) (if y = [] then 0 else leAt y (w * i) w) (if z = [] then 0 else leAt z (w * i) w) % 256 ^ w) ∧
    (∀ bf a b c d, d.ok = true → vReads s t es [a] →
      ∃ u, exec (.vecElementwise t tag .split bf a b c d es) s = .next u ∧ VWrote s u t (vRows t d) ∧
        ∀ i < 512, leAt (u.operand t d) (2 * i) 2 = (splitBf16 (leAt (s.operand t a) (4 * i) 4)).1 % 256 ^ 2 ∧
          leAt (u.operand t d) (2 * (512 + i)) 2 = (splitBf16 (leAt (s.operand t a) (4 * i) 4)).2 % 256 ^ 2) ∧
    (∀ fn a d d2, fn ≠ .reserved → fn ≠ .sincos → d.ok = true → vReads s t es [a] →
      ∃ u, exec (.transcendental t tag fn a d d2 es) s = .next u ∧ VWrote s u t (vRows t d) ∧
        ∀ i < 512, leAt (u.operand t d) (4 * i) 4 = fn.apply (leAt (s.operand t a) (4 * i) 4) % 256 ^ 4) ∧
    (∀ a d d2, d.ok = true → vReads s t es [a, d, d2] → (∀ r ∈ vRows t d, r ∉ vRows t d2) →
      ∃ u, exec (.transcendental t tag .sincos a d d2 es) s = .next u ∧ VWrote s u t (vRows t d ++ vRows t d2) ∧
        ∀ i < 256, leAt (u.operand t d) (4 * i) 4 = (tSincos (leAt (s.operand t a) (8 * i) 8)).1 % 256 ^ 4 ∧
          leAt (u.operand t d2) (4 * i) 4 = (tSincos (leAt (s.operand t a) (8 * i) 8)).2 % 256 ^ 4) ∧
    (∀ fn src d regs, fn ≠ .reserved → d.ok = true → src ≠ [] → vReads s t es src → regs = src.map (fun l => lanes 4 (s.operand t l)) →
      ∃ u v, exec (.laneReduction t tag fn src d es) s = .next u ∧ VWrote s u t (vRows t (.reg d.reg)) ∧
        (fn = .sum → v = sumRegs regs) ∧ (fn = .max → v = (maxRegs regs).1) ∧ (fn = .argmax → v = (maxRegs regs).2) ∧
        ∀ i < 512, leAt (u.operand t (.reg d.reg)) (4 * i) 4 =
          if i = d.lane then v % 256 ^ 4 else leAt (s.operand t (.reg d.reg)) (4 * i) 4)

/-- R113, R45 to R48, R37: the three uses of a conversion. `vals` are the lanes, `out` what R46 and R37 make of them. -/
def Obligations.ConversionStoresRowsOrPackets : Prop :=
  ∀ (s : State) (t tag : Nat) (es : List Ecc) (src : List VLoc) (fmt : VFmt) (nsat : Bool) (scales : Nat) (vals : List Nat),
    isTile .v t = true → s.runs t = true → Memory.wf s.mem = true → src ≠ [] → vReads s t es src →
    vals = src.flatMap (fun l => lanes 4 (s.operand t l)) →
    (∀ r o rm rows sat nan, fmt = .plain o → o < 6 → rm = .rne ∨ rm = .rz → r + fmtRows fmt (512 * src.length) ≤ 512 →
      rows = packRows (convertAll fmt nsat (vals.map fun v => (v, rm.mode [] 0 0))).1 →
      sat = (convertAll fmt nsat (vals.map fun v => (v, rm.mode [] 0 0))).2.2.1 →
      nan = (convertAll fmt nsat (vals.map fun v => (v, rm.mode [] 0 0))).2.2.2 →
      ∃ u, exec (.conversionAndStore t tag src fmt rm nsat (.rows r) scales es) s = .next u ∧
        (∀ i (h : i < rows.length), u.row (spadRow t (r + i)) = rows[i]) ∧
        OtherRows s u ((upTo rows.length).map fun i => spadRow t (r + i)) ∧ OtherTiles s u t ∧
        { u with mem := s.mem, bad := s.bad, tiles := s.tiles } = s ∧
        { u.tile t with slots := (s.tile t).slots } = { s.tile t with
          seqIx := ((s.tile t).seqIx + 1) % 1024, nDone := min 255 (1 + (s.tile t).nDone),
          nSat := min (2 ^ 64 - 1) (sat + (s.tile t).nSat), nNan := min (2 ^ 64 - 1) (nan + (s.tile t).nNan) }) ∧
    (∀ rr o rm rows, fmt = .plain o → o < 6 → rm = .rne ∨ rm = .rz → rr < 64 → 256 ≤ Tab.get 0 (s.tile t).droutes rr →
      rows = packRows (convertAll fmt nsat (vals.map fun v => (v, rm.mode [] 0 0))).1 →
      ∃ u, exec (.conversionAndStore t tag src fmt rm nsat (.mesh rr) scales es) s = .next u ∧ u.mem = s.mem ∧ OtherTiles s u t ∧
        { u with tiles := s.tiles } = s ∧
        Tab.get [] (u.tile t).inBuf 4 = Tab.get [] (s.tile t).inBuf 4 ++
          rows.map fun r => { label := Tab.get 0 (s.tile t).droutes rr % 256, xp := 0, dig := crc64 r, row := r }) ∧
    (∀ r f rm bl, fmt.mx = some f → rm = .rne ∨ rm = .rz → r + fmtRows fmt (512 * src.length) ≤ 512 →
      scales + cdiv (512 * src.length) 16384 ≤ 512 →
      r + fmtRows fmt (512 * src.length) ≤ scales ∨ scales + cdiv (512 * src.length) 16384 ≤ r →
      bl = (blocksOf 32 vals).map (fun b => mxEncode f (b.map fun v => (ofF32 v, rm.mode [] 0 0))) →
      ∃ u, exec (.conversionAndStore t tag src fmt rm nsat (.rows r) scales es) s = .next u ∧ OtherTiles s u t ∧
        (∀ i, i < fmtRows fmt (512 * src.length) → u.row (spadRow t (r + i)) =
          slice (leBytes (64 * src.length * f.width) (packList f.width (bl.flatMap fun b => b.2.map (·.w)))) (512 * i) 512) ∧
        (∀ i, i < 16 * src.length → (u.row (spadRow t (scales + i / 512))).getD (i % 512) 0 = BitVec.ofNat 8 (bl.getD i (0, [])).1) ∧
        OtherRows s u ((upTo (fmtRows fmt (512 * src.length))).map (fun i => spadRow t (r + i)) ++
          (upTo (cdiv (512 * src.length) 16384)).map fun i => spadRow t (scales + i))) ∧
    (∀ r o i key c srow n, fmt = .plain o → o < 6 → r + fmtRows fmt (512 * src.length) ≤ 512 → i ∈ (s.tile t).streamOwn → i < 512 →
      n = 512 * src.length → srow = spadRow t ((s.tile t).streamBase + i / 16) →
      checkOf s srow es (vChecked t src).length = .clean → key = slice (s.row srow) (32 * (i % 16)) 16 →
      c = leAt (s.row srow) (32 * (i % 16) + 16) 8 → c + n ≤ 2 ^ 64 - 1 →
      r + fmtRows fmt n ≤ (s.tile t).streamBase + i / 16 ∨ (s.tile t).streamBase + i / 16 < r → 
      ∃ u, exec (.conversionAndStore t tag src fmt (.rs i) nsat (.rows r) scales es) s = .next u ∧ OtherTiles s u t ∧
        (∀ j, j < fmtRows fmt n → u.row (spadRow t (r + j)) = slice
          (convertAll fmt nsat (vals.zipIdx.map fun v => (v.1, .rs (streamUnit key (c + v.2))))).1 (512 * j) 512) ∧
        leAt (u.row srow) (32 * (i % 16) + 16) 8 = c + n ∧ slice (u.row srow) (32 * (i % 16)) 16 = key ∧
        (u.tile t).nDrawn = ((s.tile t).nDrawn + n) % 2 ^ 64)

/-- R116 to R118. `x` are the values of the row, register by register. -/
def Obligations.RowReductionsAndRotaryWriteTheirResults : Prop :=
  ∀ (s : State) (t tag : Nat) (es : List Ecc), isTile .v t = true → s.runs t = true → Memory.wf s.mem = true →
    (∀ form src dst n ms ms2 x m sm, form = .whole ∧ softPart x = (m, sm) ∨
        form = .finish ∧ ms.reg < 32 ∧ ms.lane + 1 < 512 ∧ m = s.lane t ms ∧ sm = s.lane t (ms.next 1) →
      RowFits n src → dst.length = src.length → VDisjoint t dst → vReads s t es (src ++ dst) → x = takeRegs n (src.map (s.operand t)) →
      ∃ u, exec (.softmax t tag form src n ms ms2 dst es) s = .next u ∧ VWrote s u t (dst.flatMap (vRows t)) ∧
        RowHolds s u t n dst fun j i => softOut m sm ((x.getD j []).getD i 0)) ∧
    (∀ form src dst n ms ms2 m sm, ms.reg < 32 → ms.lane + 1 < 512 →
      form = .piece ∧ RowFits n src ∧ vReads s t es src ∧ softPart (takeRegs n (src.map (s.operand t))) = (m, sm) ∨
        form = .combine ∧ ms2.reg < 32 ∧ ms2.lane + 1 < 512 ∧
          softCombine (s.lane t ms, s.lane t (ms.next 1)) (s.lane t ms2, s.lane t (ms2.next 1)) = (m, sm) →
      ∃ u, exec (.softmax t tag form src n ms ms2 dst es) s = .next u ∧ VWrote s u t (vRows t (.reg ms.reg)) ∧
        LanesKept s u t ms.reg [ms.lane, ms.lane + 1] ∧ u.lane t ms = m % 256 ^ 4 ∧ u.lane t (ms.next 1) = sm % 256 ^ 4) ∧
    (∀ form src dst n par sums sums2 x w ss sc, form = .whole ∧ par.len = n ∧ ss = sumRegs (x.map fun r => r.map fun v => f32Mul v v) ∨
        form = .finish ∧ n ≤ par.len ∧ sums.ok = true ∧ ss = s.lane t sums →
      RowFits n src → dst.length = src.length → par.gamma.length = src.length → VDisjoint t dst →
      vReads s t es (src ++ par.gamma ++ dst) → x = takeRegs n (src.map (s.operand t)) → w = takeRegs n (par.gamma.map (s.operand t)) →
      sc = tRsqrt (f32Add (f32Mul ss (recipLen par.len)) par.eps) →
      ∃ u, exec (.normalisation t tag false form src n par sums sums2 dst es) s = .next u ∧ VWrote s u t (dst.flatMap (vRows t)) ∧
        RowHolds s u t n dst fun j i => f32Mul (f32Mul ((x.getD j []).getD i 0) sc) ((w.getD j []).getD i 0)) ∧
    (∀ form src dst n par sums sums2 x w z sum ss mean sc,
      form = .whole ∧ par.len = n ∧ sum = sumRegs x ∧ ss = sumRegs (x.map fun r => (r.map fun v => f32Sub v mean).map fun v => f32Mul v v) ∨
        form = .finish ∧ n ≤ par.len ∧ sums.ok = true ∧ sums2.ok = true ∧ sum = s.lane t sums ∧ ss = s.lane t sums2 →
      mean = f32Mul sum (recipLen par.len) → RowFits n src → dst.length = src.length → par.gamma.length = src.length →
      par.beta.length = src.length → VDisjoint t dst → vReads s t es (src ++ (par.gamma ++ par.beta ++ dst)) →
      x = takeRegs n (src.map (s.operand t)) → w = takeRegs n (par.gamma.map (s.operand t)) →
      z = takeRegs n (par.beta.map (s.operand t)) → sc = tRsqrt (f32Add (f32Mul ss (recipLen par.len)) par.eps) →
      ∃ u, exec (.normalisation t tag true form src n par sums sums2 dst es) s = .next u ∧ VWrote s u t (dst.flatMap (vRows t)) ∧
        RowHolds s u t n dst fun j i =>
          f32Add (f32Mul (f32Mul (f32Sub ((x.getD j []).getD i 0) mean) sc) ((w.getD j []).getD i 0)) ((z.getD j []).getD i 0)) ∧
    (∀ layer form src dst n par sums sums2 v, sums.ok = true →
      form = .piece ∧ RowFits n src ∧ n ≤ par.len ∧ vReads s t es src ∧ v = sumRegs ((takeRegs n (src.map (s.operand t))).map fun r =>
          if layer then r else r.map fun v => f32Mul v v) ∨
        form = .combine ∧ sums2.ok = true ∧ v = f32Add (s.lane t sums) (s.lane t sums2) →
      ∃ u, exec (.normalisation t tag layer form src n par sums sums2 dst es) s = .next u ∧
        VWrote s u t (vRows t (.reg sums.reg)) ∧ LanesKept s u t sums.reg [sums.lane] ∧ u.lane t sums = v % 256 ^ 4) ∧
    (∀ src dst n par sums sums2 v, sums.ok = true → sums2.ok = true → RowFits n src → n ≤ par.len → vReads s t es src →
      v = sumRegs ((takeRegs n (src.map (s.operand t))).map fun r =>
        (r.map fun v => f32Sub v (f32Mul (s.lane t sums) (recipLen par.len))).map fun v => f32Mul v v) →
      ∃ u, exec (.normalisation t tag true .spread src n par sums sums2 dst es) s = .next u ∧
        VWrote s u t (vRows t (.reg sums2.reg)) ∧ LanesKept s u t sums2.reg [sums2.lane] ∧ u.lane t sums2 = v % 256 ^ 4) ∧
    (∀ src dst n dim pos thetas halves x, RowFits n src → dst.length = src.length → VDisjoint t dst → vReads s t es (src ++ dst) →
      0 < dim → dim % 2 = 0 → n % dim = 0 → thetas.length = dim / 2 → x = (takeRegs n (src.map (s.operand t))).flatten →
      ∃ (u : State) (y : Nat → Nat), exec (.rotary t tag src ⟨n, dim⟩ pos thetas halves dst es) s = .next u ∧ VWrote s u t (dst.flatMap (vRows t)) ∧
        RowHolds s u t n dst (fun j i => y (512 * j + i)) ∧
        ∀ h j p q, h < n / dim → j < dim / 2 → p = dim * h + (if halves then j else 2 * j) →
          q = (if halves then p + dim / 2 else p + 1) →
          (y p, y q) = rotatePair pos (thetas.getD j 0) (x.getD p 0) (x.getD q 0))

/-- R119 to R122, R125, R129. The optimiser's results are open values (log entry 12). -/
def Obligations.RoutingSamplingOptimiserAndStatusReport : Prop :=
  ∀ (s : State) (t tag : Nat) (es : List Ecc), isTile .v t = true → s.runs t = true →
    (∀ par seqs picks, Memory.wf s.mem = true → (s.tile t).outQ = [] → 0 < par.n → par.n ≤ 256 → 0 < par.k → par.k ≤ 8 → par.k ≤ par.n →
      par.routes.length = par.n → (∀ r ∈ par.routes, r < 64 ∧ 256 ≤ Tab.get 0 (s.tile t).droutes r) → seqs.length ≤ 128 →
      (∀ q ∈ seqs, q.row < 512 ∧ q.out.reg < 32 ∧ q.out.lane + 2 * par.k ≤ 512) → (seqs.map (·.out.reg)).Nodup →
      vReads s t es (seqs.map (·.scores)) →
      rowsClean s es (vChecked t (seqs.map (·.scores))).length (seqs.map fun q => spadRow t q.row) = true →
      picks = seqs.map (fun q => routeOf par ((lanes 4 (s.operand t q.scores)).take par.n)) →
      ∃ u, exec (.routing t tag par seqs es) s = .next u ∧ OtherTiles s u t ∧
        OtherRows s u (seqs.flatMap fun q => vRows t (.reg q.out.reg)) ∧
        (∀ i q, seqs[i]? = some q → ∀ j < par.k,
          u.lane t (q.out.next j) = ((picks.getD i []).getD j (0, 0)).1 % 256 ^ 4 ∧
          u.lane t (q.out.next (par.k + j)) = ((picks.getD i []).getD j (0, 0)).2 % 256 ^ 4) ∧
        Tab.get [] (u.tile t).inBuf 4 ++ (u.tile t).outQ = Tab.get [] (s.tile t).inBuf 4 ++ (upTo par.n).flatMap fun e =>
          let sent := ((upTo seqs.length).filter fun i => (picks.getD i []).any fun c => c.1 == e).map fun i =>
            s.row (spadRow t ((seqs.map (·.row)).getD i 0))
          (sent ++ List.replicate (par.blockRows - sent.length) (List.replicate 512 0)).map fun r =>
            { label := Tab.get 0 (s.tile t).droutes (par.routes.getD e 0) % 256, xp := 0, dig := crc64 r, row := r }) ∧
    (∀ slices stream par d rows srow key c id lp, Memory.wf s.mem = true → slices ≠ [] → slices.all LogitSlice.ok = true →
      rows = slices.flatMap (fun c => vChecked c.tile c.locs) → rowsClean s es 0 rows = true →
      d.reg < 32 → d.lane + (if par.logprob then 1 else 0) < 512 →
      stream ∈ (s.tile t).streamOwn → stream < 512 → srow = spadRow t ((s.tile t).streamBase + stream / 16) →
      (s.tile t).streamBase + stream / 16 < 512 → checkOf s srow es rows.length = .clean →
      key = slice (s.row srow) (32 * (stream % 16)) 16 → c = leAt (s.row srow) (32 * (stream % 16) + 16) 8 →
      c + 2 ≤ 2 ^ 64 - 1 → 
      sampleToken par (slices.map fun c => takeRegs c.n (c.locs.map (s.operand c.tile))) (draw32 key c) = (id, lp) →
      ∃ u, exec (.sampling t tag slices stream par d es) s = .next u ∧ OtherTiles s u t ∧
        OtherRows s u (srow :: vRows t (.reg d.reg)) ∧ u.lane t d = id % 256 ^ 4 ∧
        (par.logprob = true → u.lane t (d.next 1) = lp % 256 ^ 4) ∧
        LanesKept s u t d.reg (if par.logprob then [d.lane, d.lane + 1] else [d.lane]) ∧
        leAt (u.row srow) (32 * (stream % 16) + 16) 8 = c + 2 ∧ slice (u.row srow) (32 * (stream % 16)) 16 = key ∧
        (u.tile t).nDrawn = ((s.tile t).nDrawn + 2) % 2 ^ 64 ∧ { u with mem := s.mem, bad := s.bad, tiles := s.tiles } = s) ∧
    (∀ rule par dsts locs res, Memory.wf s.mem = true → s.training = true → s.licensed 2 = true →
      dsts = [par.w, par.m] ++ (if rule = .adamw then [par.v] else []) →
      locs = [par.w, par.g, par.m] ++ (if rule = .adamw then [par.v] else []) → vReads s t es locs → VDisjoint t dsts →
      res = (fun f => optLanes rule s.optHyper f (optRead par.store.isSome (s.operand t par.w)) (lanes 4 (s.operand t par.g))
        (optRead par.store.isSome (s.operand t par.m))
        (optRead par.store.isSome (if rule = .adamw then s.operand t par.v else []))) →
      (par.store = none →
        ∃ u, exec (.optimiser t tag rule par es) s = .next u ∧ VWrote s u t (dsts.flatMap (vRows t)) ∧
          RowHolds s u t (512 * dsts.length) dsts fun f i => (res f).getD i 0) ∧
      ∀ i srow key c, par.store = some i → i ∈ (s.tile t).streamOwn → i < 512 →
        srow = spadRow t ((s.tile t).streamBase + i / 16) → (s.tile t).streamBase + i / 16 < 512 → srow ∉ dsts.flatMap (vRows t) →
        checkOf s srow es (vChecked t locs).length = .clean → key = slice (s.row srow) (32 * (i % 16)) 16 →
        c = leAt (s.row srow) (32 * (i % 16) + 16) 8 → c + 512 * dsts.length ≤ 2 ^ 64 - 1 →
        ∃ u, exec (.optimiser t tag rule par es) s = .next u ∧ OtherRows s u (srow :: dsts.flatMap (vRows t)) ∧ OtherTiles s u t ∧
          { u with mem := s.mem, bad := s.bad, tiles := s.tiles } = s ∧
          (∀ f d, dsts[f]? = some d → ∀ k < 512, leAt (u.operand t d) (2 * k) 2 =
            (convert .bf16 (.rs (streamUnit key (c + 512 * f + k))) false ((res f).getD k 0)).w % 256 ^ 2) ∧
          leAt (u.row srow) (32 * (i % 16) + 16) 8 = c + 512 * dsts.length ∧
          (u.tile t).nDrawn = ((s.tile t).nDrawn + 512 * dsts.length) % 2 ^ 64 ∧ (u.tile t).seqIx = ((s.tile t).seqIx + 1) % 1024) ∧
    (Tab.get none (s.tile t).sends statusChannel = none →
      ∃ u, exec (.vcoreStatusReport t tag) s = .next u ∧ OtherTiles s u t ∧ { u with tiles := s.tiles, net := s.net } = s ∧
        { u.tile t with sends := (s.tile t).sends } = { s.tile t with seqIx := ((s.tile t).seqIx + 1) % 1024 } ∧
        u.net = s.net ++ [⟨t, statusChannel, .ep (clusterS t) (Config.statusEndpoint t % 16),
          [BitVec.ofNat 64 (tag % 256 + 256 * (s.tile t).nDone), BitVec.ofNat 64 (s.tile t).nSat,
            BitVec.ofNat 64 (s.tile t).nNan, BitVec.ofNat 64 (s.tile t).nDrawn], none⟩])

/-- R148: one slot `k`; `x` is the tile before. -/
def Obligations.RowBufferCommands : Prop :=
  ∀ (s : State) (t k : Nat) (x : Tile), t < 2688 → tileKind t ≠ .m → k < 4 → s.runs t = true → x = s.tile t → x.waitB = none →
    x.recvWait = none → x.leaveWait = false →
    (∀ r es, r < spadRows t → x.slot k = none → (∀ c ∈ x.slots, ∀ y, c.2 = some y → y.row ≠ r) → checkOf s (spadRow t r) es 0 = .clean →
      ∃ u, exec (.rbOpen t k r es) s = .next u ∧ OnlyTile s u t ∧
        { u.tile t with slots := x.slots, ctr := x.ctr } = x ∧ (u.tile t).slot k = some ⟨r, s.row (spadRow t r), 0⟩ ∧
        (∀ j, j ≠ k → (u.tile t).slot j = x.slot j) ∧
        Tab.get 0 (u.tile t).ctr 13 = min (2 ^ 48 - 1) (1 + Tab.get 0 x.ctr 13) ∧ ∀ j, j ≠ 13 → Tab.get 0 (u.tile t).ctr j = Tab.get 0 x.ctr j) ∧
    (∀ y n off, x.slot k = some y → n ∈ [1, 2, 4, 8] → off % n = 0 → off + n ≤ 512 →
      (∃ u, exec (.rbLoad t n k off) s = .next u ∧ OnlyTile s u t ∧ u.tile t = { x with value := BitVec.ofNat 64 (leAt y.data off n) }) ∧
      ∀ v, ∃ u z, exec (.rbStore t n k off v) s = .next u ∧ OnlyTile s u t ∧ { u.tile t with slots := x.slots } = x ∧
        (u.tile t).slot k = some z ∧ (∀ j, j ≠ k → (u.tile t).slot j = x.slot j) ∧ z.row = y.row ∧
        (y.data.length = 512 → ∀ i < 512, z.data.getD i 0 =
          if off ≤ i ∧ i < off + n then BitVec.ofNat 8 (v.toNat / 256 ^ (i - off)) else y.data.getD i 0) ∧
        ∀ i < 512, bitOf z.mask i = (bitOf y.mask i || decide (off ≤ i ∧ i < off + n))) ∧
    (∀ y, x.slot k = some y → y.mask = 0 →
      exec (.rbFlush t k) s = .next s ∧
      ∃ u, exec (.rbClose t k) s = .next u ∧ OnlyTile s u t ∧ { u.tile t with slots := x.slots } = x ∧ (u.tile t).slot k = none ∧
        ∀ j, j ≠ k → (u.tile t).slot j = x.slot j) ∧
    (∀ y, x.slot k = some y → y.mask ≠ 0 → Memory.wf s.mem = true → y.data.length = 512 →
      ∀ c z, c = Instr.rbFlush t k ∧ z = some { y with mask := 0 } ∨ c = Instr.rbClose t k ∧ z = none →
      ∃ u, exec c s = .next u ∧ u.row (spadRow t y.row) = y.data ∧ OtherRows s u [spadRow t y.row] ∧ OtherTiles s u t ∧
        { u with mem := s.mem, bad := s.bad, tiles := s.tiles } = s ∧ { u.tile t with slots := x.slots, ctr := x.ctr } = x ∧
        (u.tile t).slot k = z ∧ (∀ j, j ≠ k → (u.tile t).slot j = x.slot j) ∧
        Tab.get 0 (u.tile t).ctr 13 = min (2 ^ 48 - 1) (1 + Tab.get 0 x.ctr 13) ∧ ∀ j, j ≠ 13 → Tab.get 0 (u.tile t).ctr j = Tab.get 0 x.ctr j) ∧
    ∃ u, exec (.rbDrop t k) s = .next u ∧ OnlyTile s u t ∧ { u.tile t with slots := x.slots } = x ∧ (u.tile t).slot k = none ∧
      ∀ j, j ≠ k → (u.tile t).slot j = x.slot j

/-- R134, R337 to R340; `g` and `f` are the region and the field of the S-core. -/
def Obligations.LeaveIsGrantedQueuedAndEnded : Prop :=
  ∀ (s : State) (t g f : Nat), isTile .s t = true → s.sFree t = true → g = tileRegion t → f = tileField t →
    (∀ e l, (s.field f).leave.find? (fun l => l.entry == e) = some l → l.region = g → l.kind ≠ 2 → (s.region g).committed + l.inc ≤ (s.region g).j →
      ∃ u, exec (.leave t (.planned e)) s = .next u ∧
        { u with tiles := s.tiles, regions := s.regions, fields := s.fields } = s ∧ OtherTiles s u t ∧ OtherRegions s u g ∧
        u.tile t = { s.tile t with result := rGranted, value := BitVec.ofNat 64 (s.field f).nextN, leaveWait := false } ∧
        u.region g = { s.region g with grants := (s.region g).grants ++ [⟨(s.field f).nextN, t, l.inc, some e, l.start⟩] } ∧
        u.field f = { s.field f with nextN := (s.field f).nextN + 1 } ∧ ∀ i, i ≠ f → u.field i = s.field i) ∧
    (∀ e, (s.field f).leave.find? (fun l => l.entry == e) = none ∨
        (∃ l, (s.field f).leave.find? (fun l => l.entry == e) = some l ∧
          (l.region ≠ g ∨ l.kind ≠ 2 ∧ (s.region g).j < (s.region g).committed + l.inc)) →
      ∃ u, exec (.leave t (.planned e)) s = .next u ∧ OnlyTile s u t ∧
        u.tile t = { s.tile t with result := rRefused, value := 0, leaveWait := false }) ∧
    (∀ e l, (s.field f).leave.find? (fun l => l.entry == e) = some l → l.region = g → l.kind = 2 → (s.field f).queue = [] →
      ∃ u, exec (.leave t (.planned e)) s = .next u ∧ OtherTiles s u t ∧ OtherRegions s u g ∧ (∀ i, i ≠ f → u.field i = s.field i) ∧
        (s.fitsInrush g l.inc = true → (u.tile t).result = rGranted ∧ (u.tile t).value = BitVec.ofNat 64 (s.field f).nextN ∧
          (u.region g).grants = (s.region g).grants ++ [⟨(s.field f).nextN, t, l.inc, some e, 0⟩]) ∧
        (s.fitsInrush g l.inc = false → u.regions = s.regions ∧ u.tile t = { s.tile t with leaveWait := true } ∧
          (u.field f).queue = [⟨(s.field f).nextN, g, t, l.inc, 0, 0, 0, true⟩])) ∧
    (∀ a us bound, 0 < a → a ≤ 440 → 0 < us → us ≤ 1000 → (s.field f).queue = [] → s.fitsUnplanned g (10 * a) = true →
      ∃ u, exec (.leave t (.unplanned a us bound)) s = .next u ∧
        { u with tiles := s.tiles, regions := s.regions, fields := s.fields } = s ∧ OtherTiles s u t ∧ OtherRegions s u g ∧
        u.tile t = { s.tile t with result := rGranted, value := BitVec.ofNat 64 ((s.field f).nextN + 1), leaveWait := false } ∧
        u.region g = { s.region g with grants := (s.region g).grants ++ [⟨(s.field f).nextN + 1, t, 10 * a, none, 0⟩] } ∧
        (u.field f).queue = []) ∧
    (∀ a us bound, 0 < a → a ≤ 440 → 0 < us → us ≤ 1000 → (s.field f).queue = [] → s.fitsUnplanned g (10 * a) = false →
      ∃ u, exec (.leave t (.unplanned a us bound)) s = .next u ∧ { u with tiles := s.tiles, fields := s.fields } = s ∧ OtherTiles s u t ∧
        u.tile t = { s.tile t with leaveWait := true } ∧
        u.field f = { s.field f with queue := [⟨(s.field f).nextN, g, t, 10 * a, us, bound, 0, false⟩], nextN := (s.field f).nextN + 1 } ∧
        ∀ i, i ≠ f → u.field i = s.field i) ∧
    (∀ a us bound, a = 0 ∨ 440 < a ∨ us = 0 ∨ 1000 < us →
      ∃ u, exec (.leave t (.unplanned a us bound)) s = .next u ∧ OtherTiles s u t ∧ u.regions = s.regions ∧ u.fields = s.fields ∧
        u.tile t = { s.tile t with result := rRefused, value := 0, leaveWait := false } ∧ RecordedLast s u 0xB4 g (10 * a) us) ∧
    (∀ n, ∃ u, exec (.leaveEnd t (.grant n)) s = .next u ∧ OnlyRegion s u g ∧
      u.region g = { s.region g with grants := (s.region g).grants.filter fun x => !(x.n == n) }) ∧
    (∀ e, ∃ u, exec (.leaveEnd t (.entry e)) s = .next u ∧ OnlyRegion s u g ∧
      u.region g = { s.region g with grants := (s.region g).grants.filter fun x => !(x.entry == some e) }) ∧
    (∀ i n, i < 32 → ∃ u, exec (.leaveGrantEnd i n) s = .next u ∧ OnlyRegion s u i ∧
      u.region i = { s.region i with grants := (s.region i).grants.filter fun x => !(x.n == n) }) ∧
    (∀ k q, k < 16 → s.nextServed (s.field k).queue = some q → q.region / 2 = k →
      ∃ u, exec (.leaveQueueServe k) s = .next u ∧
        { u with tiles := s.tiles, regions := s.regions, fields := s.fields } = s ∧
        u.tile q.tile = { s.tile q.tile with result := rGranted, value := BitVec.ofNat 64 (s.field k).nextN, leaveWait := false } ∧
        u.region q.region = { s.region q.region with
          grants := (s.region q.region).grants ++ [⟨(s.field k).nextN, q.tile, q.inc, none, 0⟩] } ∧
        u.field k = { s.field k with queue := (s.field k).queue.filter fun p => p != q, nextN := (s.field k).nextN + 1 } ∧
        OtherTiles s u q.tile ∧ OtherRegions s u q.region ∧ ∀ i, i ≠ k → u.field i = s.field i) ∧
    (∀ k n q, k < 16 → (s.field k).queue.find? (fun q => q.n == n && !q.inrush) = some q →
      ∃ u, exec (.leaveTimeout k n) s = .next u ∧ OtherTiles s u q.tile ∧ u.regions = s.regions ∧
        u.tile q.tile = { s.tile q.tile with result := rTimedOut, value := 0, leaveWait := false } ∧
        u.field k = { s.field k with queue := (s.field k).queue.filter fun p => p != q } ∧ (∀ i, i ≠ k → u.field i = s.field i) ∧
        RecordedLast s u 0xB4 (tileRegion q.tile) q.inc q.us)

/-- R133, R136, R137, R185. The code of a FENCE that may not be is open (log entry 26), so nothing is said of it. -/
def Obligations.BwaitFenceAndCoreRestart : Prop :=
  ∀ (s : State) (t g : Nat), isTile .s t = true → g = tileRegion t →
    (∀ n, s.sFree t = true → (s.region g).marked = false ∨ (s.region g).markOf < n → s.beat.count ≤ n →
      ∃ u, exec (.bwait t n) s = .next u ∧ { u with tiles := s.tiles, regions := s.regions } = s ∧ OtherTiles s u t ∧ OtherRegions s u g ∧
        u.tile t = { s.tile t with waitB := some n, bres := 0, late := 0 } ∧
        u.region g = { s.region g with workEnd := (s.region g).cyc, workNs := s.stamp g - (s.region g).markNs }) ∧
    (∀ late ns why, s.sFree t = true → (s.region g).marked = true → late = (s.region g).lateCyc + (s.region g).cyc →
      ns = s.stamp g - (s.region g).markNs → why = (if (s.region g).inputSeen then 0x27 else 0x20) →
      ∃ u, exec (.bwait t (s.region g).markOf) s = .next u ∧ OtherTiles s u t ∧ u.tile t = { s.tile t with bres := 2, late := late } ∧
        u.mem = s.mem ∧ u.regions = s.regions ∧ u.beat = { s.beat with overruns := s.beat.overruns + 1 } ∧
        u.time = s.time.reach (s.beat.mark + ns) ∧
        RecordedLast s u 0x71 g ((s.region g).causes |||
          ((if (s.region g).strE > 0 then 1 else 0) + if (s.region g).stopNs > 0 then 2 else 0)) late ∧
        ∀ r q, s.req r = some q → u.req r = some (if q.owes > 0 then
          q.retimeAt q.nextIx (s.beat.count + cdiv ns (s.beat.len * 1000)) why else q)) ∧
    (∀ n, s.sFree t = true → (s.tile t).selfFenced = false →
      ((s.region g).marked = true ∧ n < (s.region g).markOf) ∨
        (((s.region g).marked = false ∨ (s.region g).markOf < n) ∧ n < s.beat.count) →
      ∃ u, exec (.bwait t n) s = .next u ∧ CoreFaulted s u t false 0 0x72 n 0) ∧
    (∀ v, s.sFree t = true → (s.region g).sup = tileCode t → v < 2688 → tileRegion v = g →
      ∃ u, exec (.fence t v) s = .next u ∧ (u.tile v).selfFenced = true ∧ (v ∉ s.flt.hwFenced → v ∈ u.flt.hwFenced) ∧ (u.tile t).result = rDone ∧ u.mem = s.mem ∧
        ∀ p w, p < 4 → neighbour v p = some w → opposite p ∈ (u.tile w).unitFence) ∧
    (∀ v, s.sFree t = true → (s.region g).sup ≠ tileCode t ∨ 2688 ≤ v ∨ tileRegion v ≠ g →
      ∃ u, exec (.fence t v) s = .next u ∧ (u.tile t).stopped = true ∧ OtherTiles s u t ∧ u.free = s.free + 1 ∧ u.mem = s.mem) ∧
    ∀ c ix, isTile .m c = true ∨ isTile .v c = true → (s.tile c).stopped = true → s.supRuns (tileRegion c) = true → s.usable c = true →
      ix < 1024 →
      ∃ u, exec (.coreRestart c ix) s = .next u ∧ OtherTiles s u c ∧ { u with tiles := s.tiles, net := s.net } = s ∧
        { u.tile c with sends := (s.tile c).sends, sendQ := (s.tile c).sendQ } =
          { s.tile c with stopped := false, seqIx := ix, posted := false } ∧
        (∀ k x, Tab.get none (u.tile c).sends k = some x → x.dropped = false) ∧
        ((s.tile c).sendQ = [] → u.net = s.net ∧ (u.tile c).sendQ = [])

/-- R180 to R183, R135. -/
def Obligations.MessagesAreTakenWholeOrRetried : Prop :=
  ∀ (s : State) (t : Nat), isTile .s t = true →
    (∀ rr words bound d, s.sFree t = true → rr < 64 → 1 ≤ words.length → words.length ≤ 4 → 1 ≤ bound → bound ≤ 1023 →
      Tab.get none (s.tile t).sends rr = none → s.destOf t rr = d →
      ∃ u, exec (.send t rr words bound) s = .next u ∧ OtherTiles s u t ∧ { u with tiles := s.tiles, net := s.net } = s ∧
        u.net = s.net ++ (d.map fun d => (⟨t, rr, d, words, none⟩ : Msg)).toList ∧ { u.tile t with sends := (s.tile t).sends } = s.tile t ∧
        Tab.get none (u.tile t).sends rr = some ⟨.core, d, words, 1, bound, false, false⟩ ∧
        ∀ k, k ≠ rr → Tab.get none (u.tile t).sends k = Tab.get none (s.tile t).sends k) ∧
    (∀ k e c rr words m, m = ⟨c, rr, .ep t e, words, none⟩ → s.net[k]? = some m → c < 2688 → oldestOf s.net k m = true →
      (s.region (tileRegion c)).st ≠ .stopped → s.wayOf (s.msgPath m) = .open_ →
      (wordsHeld (Tab.get [] (s.tile t).eps e) + words.length ≤ 16 →
        ∃ u, exec (.messageDeliver k) s = .next u ∧ u.net = s.net.set k { m with reply := some true } ∧ u.mem = s.mem ∧
          ((s.tile t).recvWait ≠ some e → Tab.get [] (u.tile t).eps e = Tab.get [] (s.tile t).eps e ++ [words]) ∧
          ((s.tile t).recvWait = some e → Tab.get [] (s.tile t).eps e = [] →
            (u.tile t).rcvd = words ∧ (u.tile t).result = rMessage ∧ (u.tile t).recvWait = none ∧ Tab.get [] (u.tile t).eps e = [])) ∧
      (16 < wordsHeld (Tab.get [] (s.tile t).eps e) + words.length →
        ∃ u, exec (.messageDeliver k) s = .next u ∧ u.net = s.net.set k { m with reply := some false } ∧ (u.tile t).eps = (s.tile t).eps ∧
          Tab.get 0 (u.tile t).ctr 20 = min (2 ^ 48 - 1) (1 + Tab.get 0 (s.tile t).ctr 20) ∧ u.mem = s.mem)) ∧
    (∀ k c rr d words ok m x, m = ⟨c, rr, d, words, some ok⟩ → s.net[k]? = some m → c < 2688 → oldestOf s.net k m = true →
      (s.region (tileRegion c)).st ≠ .stopped → s.wayOf (backOf (s.msgPath m)) = .open_ →
      Tab.get none (s.tile c).sends rr = some x → x.kind = .core → x.waiting = false → x.stalled = false →
      (ok = true →
        ∃ u, exec (.messageDeliver k) s = .next u ∧ OtherTiles s u c ∧ { u with tiles := s.tiles, net := s.net } = s ∧
          (u.tile c).result = rAccepted ∧
          u.net = s.net.eraseIdx k ++ (((s.tile c).sendQ.find? fun q => q.ch == rr).bind fun q =>
            (s.destOf c rr).map fun d => (⟨c, rr, d, q.words, none⟩ : Msg)).toList ∧
          (((s.tile c).sendQ.find? fun q => q.ch == rr) = none → Tab.get none (u.tile c).sends rr = none)) ∧
      (ok = false → x.n ≤ x.bound →
        ∃ u, exec (.messageDeliver k) s = .next u ∧ OtherTiles s u c ∧ { u with tiles := s.tiles, net := s.net } = s ∧
          u.net = s.net.eraseIdx k ∧ Tab.get none (u.tile c).sends rr = some { x with n := x.n + 1, waiting := true } ∧
          (u.tile c).result = rNak)) ∧
    (∀ c rr x, c < 2688 → (∀ m ∈ s.net, ¬ (m.src = c ∧ m.ch = rr)) → Tab.get none (s.tile c).sends rr = some x →
      (x.waiting = true ∨ x.stalled = true → exec (.sendReplyTimeout c rr) s = .next s) ∧
      (x.waiting = false → x.stalled = false → x.n ≤ x.bound →
        ∃ u, exec (.sendReplyTimeout c rr) s = .next u ∧ OnlyTile s u c ∧
          Tab.get none (u.tile c).sends rr = some { x with n := x.n + 1, waiting := true } ∧
          (u.tile c).result = (if x.kind = .core then rNak else (s.tile c).result)) ∧
      (x.waiting = false → x.stalled = false → x.bound < x.n → x.kind = .core → rr ≠ reportChannel → (s.tile c).selfFenced = false →
        ∃ u, exec (.sendReplyTimeout c rr) s = .next u ∧ OtherTiles s u c ∧ (u.tile c).stopped = true ∧ (u.tile c).result = rNak ∧
          Tab.get none (u.tile c).sends rr = some { x with stalled := true } ∧
          Reported s u c (fabWord c 0x54 7 true 0 15) (count64 1 (Tab.get 0 (s.tile c).occ 0x54)) 0 0)) ∧
    (∀ c rr x, c < 2688 → Tab.get none (s.tile c).sends rr = some x → x.waiting = true → s.routerOn c = true →
      ∃ u, exec (.retryWaitExpiry c rr) s = .next u ∧ OtherTiles s u c ∧ { u with tiles := s.tiles, net := s.net } = s ∧
        u.net = s.net ++ (x.dst.map fun d => (⟨c, rr, d, x.words, none⟩ : Msg)).toList ∧
        Tab.get none (u.tile c).sends rr = some { x with waiting := false } ∧
        Tab.get 0 (u.tile c).ctr 21 = min (2 ^ 48 - 1) (1 + Tab.get 0 (s.tile c).ctr 21)) ∧
    (∀ e bound m r, s.sFree t = true → e < 16 → Tab.get [] (s.tile t).eps e = m :: r →
      ∃ u, exec (.recv t e bound) s = .next u ∧ OnlyTile s u t ∧
        { u.tile t with eps := (s.tile t).eps } = { s.tile t with recvWait := none, rcvd := m, result := rMessage } ∧
        Tab.get [] (u.tile t).eps e = r ∧ ∀ i, i ≠ e → Tab.get [] (u.tile t).eps i = Tab.get [] (s.tile t).eps i) ∧
    (∀ e bound, s.sFree t = true → e < 16 → Tab.get [] (s.tile t).eps e = [] →
      ∃ u, exec (.recv t e bound) s = .next u ∧ OnlyTile s u t ∧ u.tile t = { s.tile t with recvWait := some e }) ∧
    (∀ e, (s.tile t).recvWait = some e →
      ∃ u, exec (.recvBoundExpiry t) s = .next u ∧ OnlyTile s u t ∧ u.tile t = { s.tile t with recvWait := none, rcvd := [], result := rEmpty })

/-- R137 to R139, R358. -/
def Obligations.SupervisorsReportAndAreReplaced : Prop :=
  ∀ (s : State) (g : Nat), g < 32 →
    (∀ k c words m, m = ⟨c, reportChannel, .sup g, words, none⟩ → s.net[k]? = some m → c < 2688 → oldestOf s.net k m = true →
      (s.region (tileRegion c)).st ≠ .stopped → s.wayOf (s.msgPath m) = .open_ →
      ∃ u, exec (.messageDeliver k) s = .next u ∧ u.mem = s.mem ∧ OtherRegions s u g ∧
        (u.region g = if (s.region g).reports.length < 4 then
          { s.region g with reports := (s.region g).reports ++ [reportOf c words] } else s.region g) ∧
        u.net = s.net.set k { m with reply := some (decide ((s.region g).reports.length < 4)) }) ∧
    (∀ p r rest, producerOk p = true → (s.region g).reports = r :: rest → s.canForward g r = true →
      ∃ u, exec (.faultReport g p) s = .next u ∧ (u.region g).reports = rest ∧ Recorded s u r.code g r.w0 r.w1 ∧ u.mem = s.mem ∧ OtherRegions s u g ∧
        (classOf r.code ≠ some 1 → ¬ ((r.code = 0x31 ∨ r.code = 0x32) ∧ (s.region g).sup = tileCode r.tile) → u.tiles = s.tiles ∧ u.net = s.net) ∧
       
        (classOf r.code = none → u.flt.todo = s.flt.todo ∧ u.flt.disputes = s.flt.disputes) ∧
        (classOf r.code = some 1 → (1, Repair.dispute) ∈ u.flt.todo ∧ u.flt.disputes = s.flt.disputes ++
          [⟨true, producerUnit p, producerAlone p, r.w0, r.tile, r.w2, r.w3, s.beat.count, 0⟩]) ∧
        (r.code = 0x42 ∨ r.code = 0x44 → (2, Repair.rewrite (reportRow r)) ∈ u.flt.todo) ∧
        (r.code = 0x0A ∨ r.code = 0x0B → (2, Repair.restage r.tile) ∈ u.flt.todo) ∧
        (classOf r.code = some 3 → nearest r = true → s.lateRegion (unitRegion (producerUnit p)) = false →
          (3, if r.code = 0x27 ∨ r.code = 0x54 then Repair.chan r.tile else Repair.strike r.tile) ∈ u.flt.todo) ∧
        (classOf r.code = some 4 → (s.region g).sup ≠ tileCode r.tile → s.beat.replay = true → s.flt.progSeen = some (progKey r) →
          (4, Repair.declare r.tile) ∈ u.flt.todo) ∧
        (classOf r.code = some 4 → (s.region g).sup ≠ tileCode r.tile → s.flt.progSeen ≠ some (progKey r) →
          (4, Repair.rewrite 0) ∈ u.flt.todo ∧ u.flt.progSeen = some (progKey r)) ∧
        (classOf r.code = some 5 → (s.region g).sup ≠ tileCode r.tile → (5, Repair.fence r.tile) ∈ u.flt.todo) ∧
        (classOf r.code = some 5 → (s.region g).sup = tileCode r.tile → (5, Repair.promote g) ∈ u.flt.todo) ∧
        (classOf r.code = some 6 → (6, Repair.replay) ∈ u.flt.todo)) ∧
    (s.supRuns g = true → (s.region g).repDue = true →
      ∃ u, exec (.beatReport g) s = .next u ∧ u.mem = s.mem ∧ u.tiles = s.tiles ∧ OtherRegions s u g ∧
        { u.region g with tele := (s.region g).tele } = { s.region g with
          sums := (s.region g).gathered, gathered := [], rep := (s.region g).figs, repDue := false, sentRep := true, silent := 0 } ∧
        (∀ k, 1 ≤ k → k ≤ 21 → Tab.get 0 (u.region g).tele k = (Tab.get 0 (s.region g).tele k + Tab.get 0 (s.region g).gathered k) % 2 ^ 64) ∧
        ((s.region g).figs.strP * 100 ≤ (s.region g).figs.cyc → u.flt = s.flt) ∧
        ((s.region g).figs.cyc < (s.region g).figs.strP * 100 → RecordedLast s u 0x76 g 0 0)) ∧
    (∀ t v, s.active g = true → 2 ≤ (s.region g).silent → tileOfCode (s.region g).sup = some t → tileOfCode (s.region g).standby = some v →
      s.usable v = true → v ≠ t → s.img.load = none → s.boot.commitDue = [] →
      (∀ c ∈ s.flt.todo, ∀ k, c.2 ≠ .stack k) →
      ∃ u, exec (.supervisorSilence g) s = .next u ∧ (u.region g).sup = (s.region g).standby ∧ (u.region g).standby = noTile ∧
        (u.region g).silent = 0 ∧ (u.tile t).selfFenced = true ∧ u.mem = s.mem ∧
        (s.boot.done = true → u.instar = s.instar + 1 ∧ t ∈ u.fp.fenced ∧ u.boot.commitDue = []) ∧
        (s.boot.done = false → ⟨1, 0, t⟩ ∈ u.boot.commitDue))

/-- R164 to R179, R188; `x` is the tile before, `p` its oldest packet there, whose route entries are those of port `ip`. After a packet has
left port 4, what the tile sends moves up. -/
def Obligations.PacketsFollowTheirRoutes : Prop :=
  ∀ (s : State) (t : Nat) (x : Tile), t < 2688 → s.routerOn t = true → x = s.tile t →
    (∀ port ip p rest e fin, port < 6 ∨ (port = 6 ∧ isCorner t = true) → ip = entryPort port → Tab.get [] x.inBuf port = p :: rest →
      e = x.entry ip p.label → ip * 256 + p.label ∉ x.blocked → fin = (fun v : State => if port = 4 then v.portFreed t else v) →
      (∀ o u, eValid e = true → eOp e = 0 → eOut e = [o] → o < 4 → (eDchk e = true → p.good = true) → neighbour t o = some u → s.fence t o = .normal →
        (s.fence u (opposite o)).closed = false → u ≠ t → (Tab.get [] (s.tile u).inBuf (opposite o)).length < 4 →
        ∃ v, exec (.packetForward t port) s = .next (fin v) ∧ { v with tiles := s.tiles } = s ∧ (∀ i, i ≠ t → i ≠ u → v.tile i = s.tile i) ∧
          v.tile t = { x with inBuf := Tab.put [] x.inBuf port rest, stalls := x.stalls.filter fun k => k.1 != o } ∧
          v.tile u = { s.tile u with inBuf := Tab.upd [] (s.tile u).inBuf (opposite o) (· ++ [{ p with label := eLabel e }]) }) ∧
      (eValid e = true → eOp e = 0 → eOut e = [5] → onEdge t = true → p.good = true → ∀ k,
        k = ringKey t (if isCorner t && Config.cornerPort t (eLabel e) then 6 else 5) → (Tab.get [] s.ringOut k).length < 4 →
        ∃ v, exec (.packetForward t port) s = .next (fin v) ∧ { v with tiles := s.tiles, ringOut := s.ringOut } = s ∧ OtherTiles s v t ∧
          v.ringOut = Tab.upd [] s.ringOut k (· ++ [{ p with label := eLabel e }]) ∧
          v.tile t = { x with inBuf := Tab.put [] x.inBuf port rest, stalls := x.stalls.filter fun k => k.1 != 5 }) ∧
      (eValid e = true → eOp e = 0 → eOut e = [4] → p.good = true → x.tileIn.length < 4 → s.fence t 4 = .normal →
        ∃ v, exec (.packetForward t port) s = .next (fin v) ∧ OnlyTile s v t ∧
          v.tile t = { x with inBuf := Tab.put [] x.inBuf port rest, tileIn := x.tileIn ++ [(eEpd e, { p with label := eLabel e })],
                              stalls := x.stalls.filter fun k => k.1 != 4 }) ∧
      (∀ i, eValid e = true → 1 ≤ eOp e → eOp e ≤ 4 → i = eOp e - 1 → uValid (x.unit (i / 2)) = true → unitKey (i / 2) ∉ x.blocked →
        (Tab.get [] x.opBuf i).length < 4 →
        ∃ v, exec (.packetForward t port) s = .next (fin v) ∧ OnlyTile s v t ∧
          v.tile t = { x with inBuf := Tab.put [] x.inBuf port rest, opBuf := Tab.upd [] x.opBuf i (· ++ [⟨port, p⟩]) }) ∧
      (eValid e = true → eOp e = 0 → 2 ≤ (eOut e).length → portsExist t (eOut e) = true →
        (eDchk e = true ∨ 4 ∈ eOut e ∨ 5 ∈ eOut e → p.good = true) → x.skew = [] →
        ∃ v, exec (.packetForward t port) s = .next (fin v) ∧ OnlyTile s v t ∧ { v.tile t with skew := x.skew } =
            { x with inBuf := Tab.put [] x.inBuf port rest } ∧
          Tab.get none (v.tile t).skew 0 = some ⟨ip, p.label, [{ p with label := eLabel e }], (eOut e).map fun o => (o, 0)⟩) ∧
      (eValid e = false ∨ 5 ≤ eOp e ∨ (eOp e = 0 ∧ portsExist t (eOut e) = false) → ip * 256 + p.label ∉ x.labelSeen →
        ∃ v, exec (.packetForward t port) s = .next (fin v) ∧ v.mem = s.mem ∧ OtherTiles s v t ∧
          Tab.get [] (v.tile t).inBuf port = rest ∧ Tab.get 0 (v.tile t).ctr 18 = min (2 ^ 48 - 1) (4 + Tab.get 0 x.ctr 18) ∧
          Reported s v t (fabWord t 0x57 ip false p.label 15) (count64 1 (Tab.get 0 x.occ 0x57)) 0 0)) ∧
    (∀ port p rest fin, port < 6 ∨ (port = 6 ∧ isCorner t = true) → Tab.get [] x.inBuf port = p :: rest →
      entryPort port * 256 + p.label ∈ x.blocked → fin = (fun v : State => if port = 4 then v.portFreed t else v) →
      ∃ v, exec (.packetForward t port) s = .next (fin v) ∧ OnlyTile s v t ∧
        v.tile t = { x with inBuf := Tab.put [] x.inBuf port rest, ctr := Tab.upd 0 x.ctr 17 (count48 1) }) ∧
    (∀ k w n p cfg, k < 8 → Tab.get none x.skew k = some w → w.sent.find? (fun c => c.1 == 4) = some (4, n) → w.held[n]? = some p →
      s.fence t 4 = .normal → x.tileIn.length < 4 → x.forkCfg w = cfg →
      ∃ v, exec (.forkBranchSend t k 4) s = .next v ∧ OnlyTile s v t ∧ (v.tile t).tileIn = x.tileIn ++ [(cfg.2, { p with label := cfg.1 })] ∧
        Tab.get none (v.tile t).skew k = Skew.retire { w with sent := w.sent.map fun d => if d.1 = 4 then (4, d.2 + 1) else d } ∧
        ∀ j, j ≠ k → Tab.get none (v.tile t).skew j = Tab.get none x.skew j) ∧
    (∀ i a b ra rb w c, i < 2 → Tab.get [] x.opBuf (2 * i) = a :: ra → Tab.get [] x.opBuf (2 * i + 1) = b :: rb → c = x.unit i →
      unitKey i ∉ x.blocked → uValid c = true → a.pkt.good = true → b.pkt.good = true → uChain c = false → uOut c = [4] →
      s.fence t 4 = .normal → x.tileIn.length < 4 → w = (if uBf16 c then 2 else 4) →
      ∃ v row, exec (.reductionAdd t i) s = .next v ∧ OnlyTile s v t ∧
        (v.tile t).tileIn = x.tileIn ++ [(uEpd c, ⟨uLabel c, 0, crc64 row, row⟩)] ∧ row.length = 512 ∧
        (∀ j < 512 / w, leAt row (w * j) w = treeAdd (uBf16 c) (leAt a.pkt.row (w * j) w) (leAt b.pkt.row (w * j) w) % 256 ^ w) ∧
        Tab.get [] (v.tile t).opBuf (2 * i) = ra ∧ Tab.get [] (v.tile t).opBuf (2 * i + 1) = rb) ∧
    (∀ ep p rest w n note, x.tileIn = (ep, p) :: rest → tilePortKey ep p.label ∉ x.blocked → p.good = true → w = x.dsc ep →
      dscValid w = true → x.portStalled = false → n = (Tab.get 0 x.epNote ep + 1) % 2 ^ 16 →
      note = (fun v : State => (dscNen w = false → v.net = s.net) ∧
        (x.noticeDue ep = true → Tab.get none x.sends (dscNrr w) = none → v.net = s.net ++
          ((s.destOf t (dscNrr w)).map fun d => (⟨t, dscNrr w, d, [BitVec.ofNat 64 (ep + n * 2 ^ 8)], none⟩ : Msg)).toList)) →
      (dscKind w = 1 → p.xp = 0 → x.ptr ep < min 512 (spadRows t) → Memory.wf s.mem = true → p.row.length = 512 →
        ∃ v, exec (.tilePortDeliver t) s = .next v ∧ v.row (spadRow t (x.ptr ep)) = p.row ∧ OtherRows s v [spadRow t (x.ptr ep)] ∧
          OtherTiles s v t ∧ (v.tile t).tileIn = rest ∧ note v ∧
          Tab.get 0 (v.tile t).epPtr ep = (if x.ptr ep + 1 = dscBase w + dscCount w then dscBase w else x.ptr ep + 1)) ∧
      (dscKind w = 0 → p.xp = 0 → tileKind t = .m → x.ringCnt < 128 → Memory.wf s.mem = true → p.row.length = 512 →
        ∃ v, exec (.tilePortDeliver t) s = .next v ∧ v.row (spadRow t (512 + x.ringFill)) = p.row ∧
          OtherRows s v [spadRow t (512 + x.ringFill)] ∧ OtherTiles s v t ∧ (v.tile t).tileIn = rest ∧ note v ∧
          (v.tile t).ringCnt = x.ringCnt + 1 ∧ (v.tile t).ringFill = (x.ringFill + 1) % 128) ∧
      (dscKind w = 2 → p.xp = 0 → x.ptr ep < 16384 → relayWaiting x.vpQ < 4 →
        ∃ v, exec (.tilePortDeliver t) s = .next v ∧ OnlyTile s v t ∧ (v.tile t).tileIn = rest ∧
          (v.tile t).vpQ = x.vpQ ++ [.relayWrite (x.ptr ep) p.row ep]) ∧
      (∀ l, dscKind w = 2 → p.xp ≠ 0 → x.ptr ep < 16384 → x.xpTake p.xp ep (x.ptr ep) p.row = .into l →
        ∃ v, exec (.tilePortDeliver t) s = .next v ∧ OnlyTile s v t ∧ (v.tile t).tileIn = rest ∧ (v.tile t).tbufs = l ∧
          (v.tile t).vpQ = x.vpQ ++ ((l.filter fun b => b.ep == ep && decide (xpRows b.xp ≤ b.rows.length) &&
            b.d + b.rows.length == x.ptr ep + 1).map fun b => .tile b.d b.ep))) ∧
    (∀ port msg label unit cycles key, 65536 ≤ cycles → port < 8 → label < 256 → unit < 16 →
      key = ((if unit < 15 then 16 * (unit + 1) + 7 else port + (if msg then 8 else 0)), label) → key ∉ x.stalls →
      s.holding t port msg unit = true →
      ∃ v, exec (.fabricStall t port msg label unit cycles) s = .next v ∧ v.mem = s.mem ∧ OtherTiles s v t ∧ key ∈ (v.tile t).stalls ∧
        Tab.get 0 (v.tile t).ctr 19 = min (2 ^ 48 - 1) (1 + Tab.get 0 x.ctr 19) ∧
        Reported s v t (fabWord t 0x53 port msg label unit) (count64 1 (Tab.get 0 x.occ 0x53)) cycles 0)

/-- R198, R199: `k` is the engine's stack, `r` the descriptor in progress, of a pass of the present beat. -/
def Obligations.PlanQueuesMoveRows : Prop :=
  ∀ (s : State) (e k : Nat) (x : Engine), e < 96 → k = e / 4 → x = s.engine e →
    (s.img.loaded ≠ none → x.busy = none → x.planN ≤ x.ix → x.passBeat < s.beat.count → s.beat.abandoned = false →
      ∃ u, exec (.planQueueStart e) s = .next u ∧ OnlyEngine s u e ∧ u.engine e = { x with ix := 0, passBeat := s.beat.count }) ∧
    (∀ d, x.busy = none → x.ix < x.planN → s.beat.abandoned = false → d = Tab.get 0 x.plan x.ix → s.dCutOff d = false → s.dHeld d = false →
      s.triggered e d = true → s.beat.count ≤ x.passBeat →
      (s.dRefused e d false = false → dOpc d ≠ 0 →
        ∃ u, exec (.descriptorStart e) s = .next u ∧ OnlyEngine s u e ∧ u.engine e = { x with ix := x.ix + 1, busy := some ⟨d, x.ix, 0, []⟩ }) ∧
      (s.dRefused e d false = false → dOpc d = 0 →
        ∃ u, exec (.descriptorStart e) s = .next u ∧ OnlyEngine s u e ∧
          u.engine e = { x with ix := x.ix + 1, busy := none, ctr := Tab.upd 0 x.ctr 1 (count48 1) }) ∧
      (s.dRefused e d false = true →
        ∃ u, exec (.descriptorStart e) s = .next u ∧ OtherEngines s u e ∧ u.mem = s.mem ∧
          u.engine e = { x with ix := x.ix + 1, busy := none, ctr := Tab.upd 0 x.ctr 4 (count48 1) } ∧
          RecordedLast s u 0x65 0xFF (k + channelOf (s.stack k).live (dHrow d) * 2 ^ 8) (dHrow d))) ∧
    (∀ r a, x.busy = some r → s.dHeld r.d = false → s.beat.count ≤ x.passBeat → a = rowOf r.d (dHrow r.d) r.done →
      (∀ es t port q, dOpc r.d = 1 → s.chanHeld k a = false → q = ⟨dLabel r.d, dXp r.d, crc64 (s.row (hbmRow k a)), s.row (hbmRow k a)⟩ → checkOf s (hbmRow k a) es 0 = .clean → t = dPortTile r.d (r.done % dNport r.d) →
        port = dPortNo r.d (r.done % dNport r.d) → PortTakes s t port →
        ∃ u, exec (.copyRead e es) s = .next u ∧ { u with engines := s.engines, tiles := s.tiles } = s ∧ OtherTiles s u t ∧
          CopyMoved s u e r (decide (dRows r.d ≤ r.done + 1)) ∧
          u.tile t = { s.tile t with inBuf := Tab.upd [] (s.tile t).inBuf port (· ++ [q]) }) ∧
      (∀ p t, dOpc r.d = 2 → s.chanHeld k a = false →
        t = ringKey (dPortTile r.d (r.done % dNport r.d)) (dPortNo r.d (r.done % dNport r.d)) → (Tab.get [] s.ringOut t).find? (fun p => p.label == dLabel r.d) = some p →
        p.row.length = 512 → Memory.wf s.mem = true →
        ∃ u, exec (.copyWrite e) s = .next u ∧ u.row (hbmRow k a) = p.row ∧ OtherRows s u [hbmRow k a] ∧
          { u with engines := s.engines, mem := s.mem, bad := s.bad, ringOut := s.ringOut } = s ∧
          CopyMoved s u e r (decide (dRows r.d ≤ r.done + 1)) ∧ Tab.get [] u.ringOut t = (Tab.get [] s.ringOut t).erase p ∧
          ∀ i, i ≠ t → Tab.get [] u.ringOut i = Tab.get [] s.ringOut i) ∧
      (∀ es, dOpc r.d = 3 → s.anyHeld [(k, a), (k, dMoveTo r.d + r.done)] = false → checkOf s (hbmRow k a) es 0 = .clean → Memory.wf s.mem = true →
        ∃ u, exec (.copyMove e es) s = .next u ∧ u.row (hbmRow k (dMoveTo r.d + r.done)) = s.row (hbmRow k a) ∧
          OtherRows s u [hbmRow k (dMoveTo r.d + r.done)] ∧ { u with engines := s.engines, mem := s.mem, bad := s.bad } = s ∧
          CopyMoved s u e r (decide (dRows r.d ≤ r.done + 1))))

/-- R197 to R206; `r` is the descriptor in progress of engine `e`, of a pass of the present beat. -/
def Obligations.PagedCopiesRelaysAndWenwynDescriptors : Prop :=
  ∀ (s : State) (e k : Nat) (x : Engine), e < 96 → k = e / 4 → x = s.engine e → s.beat.count ≤ x.passBeat →
    (∀ r es t port p m y s' b all, x.busy = some r → s.dHeld r.d = false → dOpc r.d = 4 → s.poolOf r.d = some (p, m) →
      all = s.pPackets x.passBeat r.d m → all[r.done]? = some y → s.anyHeld (s.pRows p m r.d y) = false →
      s.pTake p m (pLayer r.d) y es 0 (pTokens r.d m y) = (s', .ok b) → t = dPortTile r.d (r.done % dNport r.d) →
      port = dPortNo r.d (r.done % dNport r.d) → PortTakes s' t port →
      ∃ u, exec (.copyPread e es) s = .next u ∧ u.mem = s'.mem ∧ CopyMoved s' u e r (decide (all.length ≤ r.done + 1)) ∧
        OtherTiles s' u t ∧ ∀ q, q = ⟨dLabel r.d, if y.value then 0 else dXp r.d, crc64 (slice b 0 512), slice b 0 512⟩ →
          u.tile t = { s'.tile t with inBuf := Tab.upd [] (s'.tile t).inBuf port (· ++ [q]) }) ∧
    (∀ r es p m t live slot len pk np, x.busy = some r → s.dHeld r.d = false → dOpc r.d = 5 → s.poolOf r.d = some (p, m) →
      np = tokenPackets m → 0 < np → live = s.liveSlots x.passBeat (pBrood r.d) → live[r.done / np]? = some (slot, len) →
      s.anyHeld (s.tokenRows p m r.d slot len) = false →
      t = ringKey (dPortTile r.d (r.done % dNport r.d)) (dPortNo r.d (r.done % dNport r.d)) →
      (Tab.get [] s.ringOut t).find? (fun p => p.label == dLabel r.d) = some pk →
      ((r.done + 1) % np ≠ 0 →
        ∃ u, exec (.copyPappend e es) s = .next u ∧ u.mem = s.mem ∧ OtherEngines s u e ∧
          u.engine e = { x with busy := some { r with done := r.done + 1, buf := r.buf ++ pk.row } } ∧
          Tab.get [] u.ringOut t = (Tab.get [] s.ringOut t).erase pk) ∧
      (∀ (loc : Nat × Bool → Nat × Nat) (off z : Nat) (addr : Nat × Bool → Nat), (r.done + 1) % np = 0 → z = vecBytes m → 0 < z → off = len % 64 * z →
        (∀ c ∈ dSegments r.d, s.blockAt p m (pLayer r.d) slot (len / 64) c.1 c.2 = some (loc c)) →
        addr = (fun c : Nat × Bool => 512 * hbmRow (loc c).1 (loc c).2 + off) →
        (dSegments r.d).Pairwise (fun c d => addr c + z ≤ addr d ∨ addr d + z ≤ addr c) →
        rowsClean s es 0 ((dSegments r.d).flatMap fun c => (upTo ((off + z - 1) / 512 - off / 512 + 1)).map fun i =>
          hbmRow (loc c).1 ((loc c).2 + off / 512 + i)) = true → Memory.wf s.mem = true →
        ∃ u, exec (.copyPappend e es) s = .next u ∧
          (∀ c ∈ dSegments r.d, ∀ i < z, u.byteAt (addr c + i) = (r.buf ++ pk.row).getD ((2 * c.1 + (if c.2 then 1 else 0)) * z + i) 0) ∧
          (∀ j, (∀ c ∈ dSegments r.d, j < addr c ∨ addr c + z ≤ j) → u.byteAt j = s.byteAt j) ∧
          (live.length ≤ (r.done + 1) / np → (u.engine e).busy = none) ∧
          ((r.done + 1) / np < live.length → (u.engine e).busy = some { r with done := r.done + 1, buf := [] }))) ∧
    (∀ r c, x.busy = some r → s.dHeld r.d = false → dOpc r.d = 6 → r.done % 2 = 0 → r.done / 2 ≤ 64 → c = dPortTile r.d 0 →
      (s.tile c).selfFenced = false → s.tileOn c = true →
      ∃ u, exec (.copyRelay e) s = .next u ∧ { u with engines := s.engines, net := s.net } = s ∧ OtherEngines s u e ∧
        u.engine e = { x with busy := some { r with done := r.done + 1 } } ∧
        u.net = s.net ++ [⟨2688 + e, c, .relay (rTile r.d),
          [BitVec.ofNat 64 (bits r.d 83 70 + dRows r.d % 16384 * 2 ^ 16 + bits r.d 69 64 * 2 ^ 32 + dTag r.d * 2 ^ 40), BitVec.ofNat 64 e], none⟩]) ∧
    (∀ t c rest, t < 2688 → s.routerOn t = true → (s.tile t).relayQ = c :: rest →
      ∃ u, exec (.relayCommand t) s = .next u ∧ OnlyTile s u t ∧ u.tile t = { s.tile t with
        relayQ := rest, vpQ := (s.tile t).vpQ ++ ((upTo c.rows).filter fun i => decide (c.d + i < 16384)).map fun i => .relayRead (c.d + i) c.rr c.tag c.engine }) ∧
    (∀ d es r, d ≠ 0 → d < 2 ^ 256 → x.busy = some r → x.wq.length < 64 →
      ∃ u, exec (.wenwynDescriptor e d es) s = .next u ∧ OnlyEngine s u e ∧ u.engine e = { x with wq := x.wq ++ [d] }) ∧
    (∀ d es, d < 2 ^ 256 → x.busy = none → x.wBusy = none → x.wq = [] → dOpc d = 3 → s.dRefused e d true = false → s.dCutOff d = false →
      s.dHeld d = false → s.anyHeld [(k, rowOf d (dHrow d) 0), (k, dMoveTo d)] = false →
      checkOf s (hbmRow k (rowOf d (dHrow d) 0)) es 0 = .clean → Memory.wf s.mem = true →
      ∃ u, exec (.wenwynDescriptor e d es) s = .next u ∧ u.row (hbmRow k (dMoveTo d)) = s.row (hbmRow k (rowOf d (dHrow d) 0)) ∧
        OtherRows s u [hbmRow k (dMoveTo d)] ∧ { u with engines := s.engines, mem := s.mem, bad := s.bad } = s ∧ OtherEngines s u e ∧
        u.engine e = { x with
          wBusy := if dRows d ≤ 1 then none else some ⟨d, 8192, 1, []⟩,
          ctr := if dRows d ≤ 1 then Tab.upd 0 (Tab.upd 0 x.ctr 2 (count48 1)) 1 (count48 1) else Tab.upd 0 x.ctr 2 (count48 1) })

/-- R207, R210, R212, R213; `x` is the stack before. -/
def Obligations.PatrolAndRetrainingOfTheStacks : Prop :=
  ∀ (s : State) (k : Nat) (x : Stack), k < 24 → x = s.stack k → x.st = 1 →
    (∀ es, x.selfRef = false → 0 < stackRows x.live → s.chanHeld k x.patrol = false → checkOf s (hbmRow k x.patrol) es 0 = .clean →
      ∃ u, exec (.hbmPatrol k es) s = .next u ∧ { u with stks := s.stks } = s ∧ OtherStacks s u k ∧
        (x.patrol + 1 < stackRows x.live → u.stack k = { x with patrol := x.patrol + 1, ctr := Tab.upd 0 x.ctr 3 (count48 1) }) ∧
        (stackRows x.live ≤ x.patrol + 1 →
          u.stack k = { x with patrol := 0, patrolOld := x.patrolHit, patrolHit := [], ctr := Tab.upd 0 x.ctr 3 (count48 1) })) ∧
    (∀ es m, x.selfRef = false → x.patrol + 1 < stackRows x.live → s.chanHeld k x.patrol = false → checkOf s (hbmRow k x.patrol) es 0 = .corrected m → Memory.wf s.mem = true →
      ∃ u, exec (.hbmPatrol k es) s = .next u ∧ (∀ a, u.byteAt a = s.byteAt a) ∧ OtherStacks s u k ∧ (u.stack k).patrol = x.patrol + 1 ∧
        (u.stack k).patrolHit = insertSet x.patrol x.patrolHit ∧
        (x.patrol ∈ x.patrolOld → (u.stack k).weakRows = insertSet x.patrol x.weakRows ∧
          Recorded s u 0x69 0xFF (k + channelOf x.live x.patrol * 2 ^ 8) x.patrol) ∧
        (x.patrol ∉ x.patrolOld → (u.stack k).weakRows = x.weakRows)) ∧
    (∀ es m id, x.selfRef = false → 0 < stackRows x.live → s.chanHeld k x.patrol = false → id = hbmRow k x.patrol →
      checkOf s id es 0 = .bad m → Memory.wf s.mem = true →
      ∃ u, exec (.hbmPatrol k es) s = .next u ∧
        match s.contentAt k x.patrol with
        | .parity l => u.row id = s.parityRow l ∧ OtherRows s u [id]
        | .reserved i _ => i = .staging ∨ i = .chrysalis ∨
            ∀ w, s.twinRow k x.patrol = some w → Tab.get 0 s.bad w = 0 → u.row id = s.row w ∧ OtherRows s u [id]
        | _ => u.mem = s.mem ∧ OtherStacks s u k ∧ Tab.get 0 (u.stack k).ctr 2 = min (2 ^ 48 - 1) (1 + Tab.get 0 x.ctr 2) ∧
            (2, Repair.rewrite id) ∈ u.flt.todo) ∧
    (∀ ch c, x.retr = none → bitOf x.live ch = true → c = .errors ∨ ch ∈ x.drift →
      ∃ u, exec (.channelRetrain k ch c) s = .next u ∧ { u with stks := s.stks } = s ∧ OtherStacks s u k ∧
        u.stack k = { x with retr := some ch, tries := 1, handle := 0, drift := x.drift.filter (· != ch), ctr := Tab.upd 0 x.ctr 5 (count48 1) }) ∧
    (∀ j tx ch, OperatorSession s j → s.setting 0x5400 2 = k → s.setting 0x5400 3 = ch → x.retr = none → bitOf x.live ch = true →
      ∃ u, exec (.hbmRetrain j tx) s = .next u ∧ Invoked s u j tx 0x5400 1 9 ∧ OtherStacks s u k ∧ u.mem = s.mem ∧
        u.stack k = { x with
          retr := some ch, tries := 1, handle := 9 * 2 ^ 56 + s.boot.hctr, drift := x.drift.filter (· != ch),
          ctr := Tab.upd 0 x.ctr 5 (count48 1) }) ∧
    (∀ ch, x.retr = some ch →
      (∃ u, exec (.channelRetrainDone k true) s = .next u ∧ u.mem = s.mem ∧ OtherStacks s u k ∧ Recorded s u 0x67 0xFF (k + ch * 2 ^ 8) 0 ∧
        u.stack k = { x with retr := none, tries := 0, trainT := x.temp, handle := 0 }) ∧
      (x.tries < 3 →
        ∃ u, exec (.channelRetrainDone k false) s = .next u ∧ { u with stks := s.stks } = s ∧ OtherStacks s u k ∧
          u.stack k = { x with tries := x.tries + 1, ctr := Tab.upd 0 x.ctr 5 (count48 1) }) ∧
      (3 ≤ x.tries → s.img.loaded = none → s.img.load = none →
        ∃ u, exec (.channelRetrainDone k false) s = .next u ∧ (u.stack k).retr = none ∧ Recorded s u 0x68 0xFF (k + ch * 2 ^ 8) 0 ∧
          (u.stack k).st ≠ 1 ∧ (8, Repair.stack k) ∈ u.flt.todo ∧ OtherStacks s u k ∧
          ∀ a, Memory.wf s.mem = true → a / 512 < hbmRow k 0 ∨ hbmRow (k + 1) 0 ≤ a / 512 → u.byteAt a = s.byteAt a))

/-- R217 to R227: `z` is the time unit before. The three writes are those of an operator session. -/
def Obligations.TimeUnitFollowsItsReferences : Prop :=
  ∀ (s : State) (z : TimeUnit), s.timeUp = true → z = s.time →
    (∀ m, s.ptpTakes m.head = false → exec (.ptpMessage m) s = .next s) ∧
    (∀ m, s.ptpTakes m.head = true → m.head.logInt < m.low → exec (.ptpMessage m) s = .next { s with time := { z with dropped := z.dropped + 1 } }) ∧
    (∀ (h : PtpHead) (origin sub : Nat) (ref offs : Int), s.ptpTakes h = true → -7 ≤ h.logInt → z.master = some h.src → z.newLane ≤ 1 → s.setting 0x2801 1 = 2 →
      ref = origin + z.pathDelay + toI32 (s.setting 0x2802 4) → offs = ref - z.phase sub →
      (z.st = .acquiring → z.good ≥ 15 → offs.natAbs ≤ 100 →
        ∃ u, exec (.ptpMessage (.sync h origin sub)) s = .next u ∧ u.time.st = .locked ∧ u.time.untaken = false ∧ u.time.ptpQ = true ∧
          u.time.src = 2 ∧ RecordedLast s u 0x75 0xFF 0 0 ∧ u.tiles = s.tiles ∧ u.mem = s.mem ∧
          (z.untaken = true → u.time.now = (ref - (sub % 1000 : Nat)).toNat ∧ u.time.valid = true ∧
            u.beat.nextMark = markAfter (ref - (sub % 1000 : Nat)).toNat s.beat.len) ∧
          (z.untaken = false → u.time.now = z.now ∧ u.beat = s.beat)) ∧
      (z.st = .locked → z.far = 3 → 1000 < offs.natAbs →
        ∃ u, exec (.ptpMessage (.sync h origin sub)) s = .next u ∧ u.time.st = .acquiring ∧ u.time.now = z.now ∧ u.beat = s.beat ∧
          u.time.good = 0 ∧ u.time.far = 0 ∧ RecordedLast s u 0x75 0xFF 0 0) ∧
      (z.st = .locked → z.far < 3 →
        ∃ u, exec (.ptpMessage (.sync h origin sub)) s = .next u ∧ { u with time := z } = s ∧ u.time.st = .locked ∧ u.time.now = z.now ∧
          u.time.offs = (offs :: z.offs).take 16 ∧ u.time.far = (if 1000 < offs.natAbs then z.far + 1 else 0) ∧
          (z.untaken = false → u.time.slew = max (-100000) (min 100000 offs)))) ∧
    (∀ h data utc, s.ptpTakes h = true → -3 ≤ h.logInt →
      ∃ u, exec (.ptpMessage (.announce h data utc)) s = .next u ∧ u.time.src = u.chooseSrc ∧ u.time.now = z.now ∧
        (z.masters.any (fun c => c.1 == h.src) = true ∨ z.masters.length < 8 → (h.src, data, utc) ∈ u.time.masters) ∧
        (∀ i c, Config.bestMaster (u.time.masters.map fun c => (c.1, c.2.1)) = some i → u.time.masters[i]? = some c →
          u.time.master = some c.1 ∧ u.time.utc = c.2.2 ∧ u.time.ptpQ = (z.ptpQ && some c.1 == z.master)) ∧
        (Config.bestMaster (u.time.masters.map fun c => (c.1, c.2.1)) = none → u.time.master = none ∧ u.time.ptpQ = false)) ∧
    (∀ h p2p mean, s.ptpTakes h = true → -7 ≤ h.logInt → s.setting 0x2802 3 = (if p2p then 1 else 0) →
      exec (.ptpMessage (.delay h p2p mean)) s = .next { s with time := { z with pathDelay := mean } }) ∧
    (∀ (m : PpsEdge) (p ref : Int), s.setting 0x2801 1 = 4 → m.expected = true → m.spaced = true → z.ppsGood ≥ 3 → z.st = .acquiring → z.good ≥ 15 →
      p = (if z.valid then nearSecond (z.now + (m.sub % 1000 : Nat)) else match z.ppsNext with
        | some n => (n : Int) * 1000000000
        | none => nearSecond (z.phase m.sub)) →
      ref = p + toI32 (s.setting 0x2803 2) → (ref - z.phase m.sub).natAbs ≤ 100 → z.untaken = true →
      (z.valid = true ∨ z.ppsNext ≠ none →
        ∃ u, exec (.timePpsEdge m) s = .next u ∧ u.time.st = .locked ∧ u.time.now = (ref - (m.sub % 1000 : Nat)).toNat ∧ u.time.valid = true ∧
          u.time.ppsQ = true ∧ u.time.src = 4 ∧ u.time.ppsNext = z.ppsNext.map (· + 1)) ∧
      (z.valid = false → z.ppsNext = none →
        ∃ u, exec (.timePpsEdge m) s = .next u ∧ u.time.st = .acquiring ∧ u.time.valid = false ∧ u.time.ppsQ = true)) ∧
    (∀ q c, c = Instr.ppsTimeout ∨ c = Instr.announceTimeout ∨ c = Instr.ref25Qualify q →
      ∃ u, exec c s = .next u ∧ u.time.src = u.chooseSrc ∧ u.time.now = z.now ∧ u.mem = s.mem ∧ u.tiles = s.tiles ∧ u.beat = s.beat ∧
        (c = .ppsTimeout → u.time.ppsQ = false ∧ u.time.ppsGood = 0) ∧
        (c = .announceTimeout → u.time.ptpQ = false ∧ u.time.masters = z.masters.filter fun c => some c.1 != z.master) ∧
        (c = .ref25Qualify q → u.time.refQ = q) ∧
        (z.st = .locked → u.chooseSrc = 0 → u.time.st = .holdover ∧ RecordedLast s u 0x75 0xFF 0 0) ∧
        (z.st = .locked → u.chooseSrc ≠ 0 → u.time.st = .locked ∧ u.flt = s.flt) ∧
        (z.st = .acquiring → u.chooseSrc = 0 → u.time.st = if z.valid then .holdover else .unset)) ∧
    (z.st = .holdover →
      ∃ u, exec .holdoverLimit s = .next u ∧ u.time.st = .freerun ∧ u.time.now = z.now ∧ 1000000 < u.time.errEst ∧ RecordedLast s u 0x75 0xFF 0 0) ∧
    (∀ k x v, OperatorSession s k → v < 2 ^ 64 → z.valid = true → s.anyWork = false →
      ∃ u, exec (.timeStepTo k x v) s = .next u ∧ Accepted u k x 0x2800 6 ∧ { u.time with now := z.now } = z ∧ u.time.now = v ∧
        u.beat = { s.beat with nextMark := markAfter v s.beat.len } ∧
        { u with time := z, beat := s.beat, fordan := s.fordan, fields := s.fields } = s ∧
        ∀ f < 16, u.field f = if (s.field f).wordLost then { s.field f with tcOff := (s.field f).tcOff - ((v : Int) - z.now) } else s.field f) ∧
    (∀ k x v, OperatorSession s k → v < 2 ^ 64 → z.valid = false ∨ s.anyWork = true →
      ∃ u, exec (.timeStepTo k x v) s = .next u ∧ { u with fordan := s.fordan } = s ∧ Answered u k x 2 0x0A 0x2800 6 (leBytes 4 0)) ∧
    (∀ k x v, OperatorSession s k → v < 2 ^ 64 → s.setting 0x2801 5 = 1 → z.st = .unset →
      ∃ u, exec (.freerunSet k x v) s = .next u ∧ Accepted u k x 0x2801 6 ∧ u.time.st = .freerun ∧ u.time.now = v ∧ u.time.valid = true ∧
        u.time.byHand = true ∧ u.time.untaken = true ∧ u.beat.nextMark = markAfter v s.beat.len ∧ RecordedLast s u 0x75 0xFF 0 0) ∧
    (∀ k x v, OperatorSession s k → v < 2 ^ 64 →
      ∃ u, exec (.ppsNextSecond k x v) s = .next u ∧ Accepted u k x 0x2803 1 ∧ u.time = { z with ppsNext := some v } ∧
        { u with time := z, fordan := s.fordan } = s)

/-- R227, R230, R244 and what hangs on the marks. `y` is the region before its mark. -/
def Obligations.MarksBeginBeats : Prop :=
  ∀ (s : State),
    (s.time.valid = true →
      ∃ u, exec .nominalMark s = .next u ∧ u.beat.count = (s.beat.count + 1) % 2 ^ 64 ∧ u.beat.mark = s.beat.nextMark ∧
        u.beat.nextMark = s.beat.nextMark + s.beat.len * 1000 ∧ u.beat.len = s.beat.len ∧ u.beat.sixteenth = 0 ∧ u.beat.work = false ∧
        u.time.now = max s.time.now s.beat.nextMark ∧ u.ctl = [] ∧
        ((∀ c ∈ s.reqList, c.2.rebuildT = 0) → u.mem = s.mem) ∧
        (∀ g < 32, (u.region g).silent =
          if (s.region g).st ≠ .active ∨ (s.region g).sentRep = true then 0 else (s.region g).silent + 1) ∧
        u.flt.disputes = s.flt.disputes.map (fun d => { d with age := d.age + 1 }) ∧
        (∀ k < 24, (u.stack k).ctr = []) ∧ (∀ e < 96, (u.engine e).ctr = []) ∧
        (∀ e < 96, ∀ i, Tab.wf 0 (s.engine e).ctr = true → Tab.get 0 (s.engine e).tele i < 2 ^ 64 →
          Tab.get 0 (u.engine e).tele i = (Tab.get 0 (s.engine e).tele i + Tab.get 0 (s.engine e).ctr i) % 2 ^ 64) ∧
        (s.img.firstMark = true → s.boot.barred = false → u.img.firstMark = false ∧ u.adm.isOpen = true ∧ u.adm.why = 0)) ∧
    (s.time.valid = false → exec .nominalMark s = .next s) ∧
    (∀ g y late ns, g < 32 → s.markDue g = true → s.woken g = false → y = s.region g →
      ∃ u, exec (.regionMark g late ns) s = .next u ∧ OtherRegions s u g ∧ u.mem = s.mem ∧ (∀ t, t ∉ regionTiles g → u.tile t = s.tile t) ∧
        u.beat.work = true ∧ u.beat.count = s.beat.count ∧
        (∀ t ∈ regionTiles g, (u.tile t).blocked = [] ∧ (u.tile t).epNote = [] ∧ (u.tile t).labelSeen = [] ∧ (u.tile t).breachSeen = [] ∧
          (u.tile t).ceSeen = false ∧ (∀ e < 16, (u.tile t).ptr e = epdBase (Tab.get 0 (s.tile t).epd e)) ∧
          (u.tile t).routes = (s.tile t).routes ∧ (u.tile t).store = (s.tile t).store ∧ (u.tile t).seqIx = (s.tile t).seqIx ∧
          (u.tile t).mma = (s.tile t).mma ∧ (u.tile t).inBuf = (s.tile t).inBuf) ∧
        (∀ t ∈ s.sCores g, (s.tile t).waitB.isSome = true → if s.changeDue g then (u.tile t).waitB = (s.tile t).waitB else
          (u.tile t).waitB = none ∧ (u.tile t).bres = (if late = 0 then 1 else 2) ∧ (u.tile t).late = late) ∧
        (u.region g).marked = true ∧ (u.region g).markOf = s.beat.count ∧ (u.region g).markNs = s.beat.mark ∧ (u.region g).cyc = 0 ∧
        (u.region g).lateCyc = late ∧ (u.region g).lateLast = late ∧ (u.region g).strE = 0 ∧ (u.region g).strP = 0 ∧ (u.region g).causes = 0 ∧
        (u.region g).figs = ⟨y.workEnd, y.strE, y.strP, y.cyc, y.stopNs, (s.beat.len * 1000 : Nat) - (y.workNs : Int)⟩ ∧
        (u.region g).repDue = true ∧ (u.region g).st = (if s.changeDue g then .stopped else y.st) ∧
        (s.changeDue g = true → (u.region g).changing = true) ∧
        (∀ k, 1 ≤ k → k ≤ 21 → Tab.get 0 (u.region g).gathered k = Tab.get 0 y.gathered k +
          s.sumOf (((regionTiles g).filter fun t => tileKind t == .s && s.runs t).flatMap clusterTiles) k) ∧
        (∀ t ∈ regionTiles g, tileKind t = .s → s.runs t = true → ∀ i ∈ clusterTiles t, (u.tile i).ctr = []) ∧
        (late = 0 → u.beat.overruns = s.beat.overruns ∧ u.flt = s.flt ∧ u.reqs = s.reqs) ∧
        (0 < late → u.beat.overruns = s.beat.overruns + 1 ∧ 
          Recorded s u 0x71 g (y.causes ||| ((if y.strE > 0 then 1 else 0) + if y.stopNs > 0 then 2 else 0)) late)) ∧
    (∀ g late ns, g < 32 → s.markDue g = true → s.woken g = true →
      ∃ u, exec (.regionMark g late ns) s = .next u ∧ (u.region g).st = (if s.changeDue g then .stopped else .active) ∧ (u.region g).markOf = s.beat.count ∧ OtherRegions s u g ∧
        u.mem = s.mem) ∧
    (s.beat.sixteenth < 15 →
      ∃ u, exec .sixteenthBoundary s = .next u ∧ u.beat = { s.beat with sixteenth := s.beat.sixteenth + 1 } ∧ u.mem = s.mem ∧
        u.tiles = s.tiles ∧ u.time = s.time ∧ u.pwr.pcapLim = s.setting 0x2000 2 ∧ u.pwr.releaseDue = false ∧
        ∀ g < 32, (u.region g).crit = bitOf (s.region g).rg.crit (s.beat.sixteenth + 1))

/-- R229, R235 to R242. -/
def Obligations.ClocksSwitchChangeAndStretch : Prop :=
  ∀ (s : State),
    (∀ t g live c l x, t < 2688 → g = tileRegion t → s.active g = true → s.usable t = true → x = s.tile t → x.selfFenced = false →
      l = clkInputs (s.clkWord t) → (l.drop (x.clkIn + 1) ++ l.take x.clkIn).find? (fun c => live.contains c) = some c →
      ∃ u, exec (.clockInputLost t live) s = .next u ∧ { u with tiles := s.tiles, regions := s.regions, net := s.net } = s ∧ OtherTiles s u t ∧
        OtherRegions s u g ∧ { u.tile t with sends := x.sends, sendQ := x.sendQ } = { x with clkIn := l.idxOf c } ∧
        u.region g = { s.region g with clkSw := (s.region g).clkSw + 1, causes := (s.region g).causes ||| 16 } ∧ Reported s u t 0x73 0 0 0) ∧
    (∀ t g live x, t < 2688 → g = tileRegion t → s.active g = true → s.usable t = true → x = s.tile t → x.selfFenced = false →
      (∀ c ∈ clkInputs (s.clkWord t), c ∉ live) →
      ∃ u, exec (.clockInputLost t live) s = .next u ∧ u.mem = s.mem ∧ OtherTiles s u t ∧ (u.tile t).stopped = true ∧ (u.tile t).noClk = true ∧
        Reported (s.updTile t fun x => x.faulted false 0) u t (0x74 + x.seqIx % 1024 * 2 ^ 16) 0 0 0) ∧
    (∀ f, f < 16 → ∃ u, exec (.timeWordLoss f false) s = .next u ∧ RecordedLast s u 0x78 0xFF 0 0 ∧ u.regions = s.regions ∧ u.tiles = s.tiles ∧
      u.mem = s.mem ∧ u.field f = { s.field f with wordLost := true } ∧ ∀ i, i ≠ f → u.field i = s.field i) ∧
    (∀ f, f < 16 → (s.field f).noClk = false →
      ∃ u, exec (.timeWordLoss f true) s = .next u ∧ Recorded s u 0x78 0xFF 0 0 ∧ (u.field f).noClk = true ∧
        2 ≤ (u.region (2 * f)).st.code ∧ 2 ≤ (u.region (2 * f + 1)).st.code ∧
        (s.inUse (2 * f) = true → (u.region (2 * f)).lost = true ∧ u.adm.isOpen = false)) ∧
    (∀ (g pt n : Nat) (y : Region) (clash : Nat → Prop), g < 32 → y = s.region g → y.st = .active → pt ≤ 5 → s.beat.count + 2 ≤ n → s.opCeil g ≤ pt → s.pointFits g pt = true →
      clash = (fun i => ∃ c ∈ (s.region (if g % 2 = 0 then g + 1 else g - 1)).changes, c.1 = i ∧ c.2 ≠ pt) →
      (∃ u m, exec (.frequencyChangeRequest [g] pt n false) s = .next u ∧ n ≤ m ∧ ¬ clash m ∧ (∀ i, n ≤ i → i < m → clash i) ∧ OtherRegions s u g ∧
        u.region g = y.setChanges (y.changes.filter (fun c => decide (c.1 < m)) ++ [(m, pt)]) ∧ u.tiles = s.tiles ∧ u.mem = s.mem ∧
        (m = n → OnlyRegion s u g) ∧ (m ≠ n → RecordedLast s u 0x77 g (g + pt * 2 ^ 8 + 2 ^ 24) n)) ∧
      (∃ u m, exec (.frequencyChangeRequest [g] pt n true) s = .next u ∧ n + 1 ≤ m ∧ ¬ clash m ∧ (∀ i, n + 1 ≤ i → i < m → clash i) ∧
        OtherRegions s u g ∧ u.tiles = s.tiles ∧ u.mem = s.mem ∧
        u.region g = y.setChanges (y.changes.filter (fun c => decide (c.1 < m)) ++ [(m, pt)]) ∧ Recorded s u 0x77 g (g + pt * 2 ^ 8) n)) ∧
    (∀ g pt n late, g < 32 → (s.region g).st ≠ .active ∨ 5 < pt ∨ n < s.beat.count + 2 ∨ pt < s.opCeil g ∨ s.pointFits g pt = false →
      exec (.frequencyChangeRequest [g] pt n late) s = .next s) ∧
    (∀ g gs pt n late v, g < 32 → exec (.frequencyChangeRequest [g] pt n late) s = .next v → gs.all (fun g => decide (g < 32)) = true →
      exec (.frequencyChangeRequest (g :: gs) pt n late) s = exec (.frequencyChangeRequest gs pt n late) v) ∧
    (∀ g ns y, g < 32 → y = s.region g → y.changing = true → 128 ≤ ns → ns ≤ 512 →
      ∃ u, exec (.frequencyChange g ns) s = .next u ∧ (u.region g).op = y.opPend ∧ (u.region g).stopNs = ns ∧ (u.region g).st = .active ∧
        (u.region g).changing = false ∧ u.mem = s.mem ∧ u.beat = s.beat ∧ (∀ i, i ≠ g → (u.region i).op = (s.region i).op) ∧
        (∀ t, t ∉ regionTiles g → u.tile t = s.tile t) ∧
        ∀ t ∈ (s.updRegion g fun r => { r with st := .active }).sCores g, (s.tile t).waitB.isSome = true →
          u.tile t = { s.tile t with waitB := none, bres := if y.lateCyc = 0 then 1 else 2, late := y.lateCyc }) ∧
    (∀ g k y, g < 32 → y = s.region g → y.st = .active → 1 ≤ k → k ≤ 8 →
      ∃ u, exec (.droopStretch g k) s = .next u ∧ OnlyRegion s u g ∧
        u.region g = { y with strE := y.strE + k, strP := y.strP + 1, lag := y.lag + k, droop := true })

/-- R259 to R264. In the third and fourth clauses `l` is the load that awaits sections and `i` the image that its bytes make. -/
def Obligations.ImagesLoadAndUnload : Prop :=
  ∀ (s : State),
    (∀ k x hdr h, OperatorSession s k → s.busyForLoad = false → s.img.load = none → hdr = slice s.img.hdr 0 1024 →
      h = 2 * 2 ^ 56 + s.boot.hctr → s.hdrCode hdr = none → Memory.wf s.mem = true → s.train.snapReq ≠ some h →
      (∀ r, s.train.restoring = some r → r.2.2 ≠ h) →
      ∃ u, exec (.imageLoad k x) s = .next u ∧ Invoked s u k x 0x8000 1 2 ∧
        u.img = { Img.init with hdr := s.img.hdr, load := some ⟨h, 3, hdr, [], [], none⟩ } ∧ u.adm.isOpen = false ∧
        (∀ g < 32, (u.region g).rg = RegRec.none ∧ (u.region g).sup = noTile ∧
          (u.region g).st = (if (s.region g).st.code < 2 then .dark else (s.region g).st)) ∧
        (∀ f < 16, (u.field f).leave = []) ∧ (∀ e < 96, (u.engine e).planN = 0 ∧ (u.engine e).busy = none) ∧
        (∀ a, (∀ g < 32, logicRowOf g (a / 512) = false) → u.byteAt a = s.byteAt a) ∧
        u.flash = s.flash ∧ u.reqs = s.reqs ∧ u.parts = s.parts ∧ u.stks = s.stks ∧ u.time = s.time ∧ u.train = Train.init ∧
        u.meter = { s.meter with pBase := 0, qualN := 0, qualE := 0, wctx := [], initial := false }) ∧
    (∀ k x c, OperatorSession s k → s.busyForLoad = false → s.img.load = none → s.hdrCode (slice s.img.hdr 0 1024) = some c →
      ∃ u, exec (.imageLoad k x) s = .next u ∧ { u with boot := s.boot, fordan := s.fordan } = s ∧
        Answered u k x 6 0 0x8000 1 (leBytes 8 (2 * 2 ^ 56 + s.boot.hctr)) ∧
        u.hnd (2 * 2 ^ 56 + s.boot.hctr) = ⟨3, 1, c, s.handlePart k, k⟩ ∧ u.boot.hctr = s.boot.hctr + 1) ∧
    (∀ k x, OperatorSession s k → s.busyForLoad = true ∨ s.img.load.isSome = true →
      ∃ u, exec (.imageLoad k x) s = .next u ∧ { u with fordan := s.fordan } = s ∧ Answered u k x 6 0x0A 0x8000 1 (leBytes 4 0x8B)) ∧
    (∀ l i v (whole staged : Prop), s.img.load = some l → l.step = 3 → l.allHeld = true → i = imageOf l.hdr l.secs → v = s.stageWeights i →
      whole = (tableBad l.hdr l.entries = false ∧ l.strayed = false ∧ l.padBad = false) →
      staged = (whole ∧ l.contentOf = hContent l.hdr ∧ s.absentNamed i = false ∧ s.repairsAt i ≠ none) →
      (∀ c n, (c = 0x81 ∧ n = 3 ∧ ¬ whole) ∨ (c = 0x87 ∧ n = 3 ∧ whole ∧ l.contentOf ≠ hContent l.hdr) ∨
          (c = 0x83 ∧ n = 3 ∧ whole ∧ l.contentOf = hContent l.hdr ∧ s.absentNamed i = true) ∨
          (c = 0x85 ∧ n = 3 ∧ whole ∧ l.contentOf = hContent l.hdr ∧ s.absentNamed i = false ∧ s.repairsAt i = none) ∨
          (c = 0x89 ∧ n = 4 ∧ staged ∧ (v.formsStaged i = false ∨ v.parityOk i = false)) ∨
          (c = 0x8D ∧ n = 5 ∧ staged ∧ v.formsStaged i = true ∧ v.parityOk i = true ∧ v.tablesBad i = true) ∨
          (c = 0x8C ∧ n = 6 ∧ staged ∧ v.formsStaged i = true ∧ v.parityOk i = true ∧ v.tablesBad i = false ∧
            s.setting 0x8000 4 ∉ leList (leAt l.hdr 0x02F 1) 4 (slice l.hdr 0x030 16)) →
        ∃ u, exec .loadSectionsHeld s = .next u ∧ u.img.load = none ∧ u.img.loaded = none ∧
          u.hnd l.handle = { s.hnd l.handle with st := 3, step := n, code := c }) ∧
      (staged → hInstar l.hdr = s.instar → v.formsStaged i = true → v.parityOk i = true → v.tablesBad i = false →
        s.setting 0x8000 4 ∈ leList (leAt l.hdr 0x02F 1) 4 (slice l.hdr 0x030 16) →
        ∃ u, exec .loadSectionsHeld s = .next u ∧ u.img.loaded = some i ∧ u.img.load = some { l with step := 8 } ∧
          u.img.content = hContent l.hdr ∧ u.img.runsAt = s.instar ∧ u.hnd l.handle = { s.hnd l.handle with step := 8 } ∧
          u.mem = (v.installTables i).mem ∧ u.bad = (v.installTables i).bad ∧ u.engines = (v.installTables i).engines ∧
          u.fields = (v.installTables i).fields ∧ (∀ t, { u.tile t with clk := none } = { (v.installTables i).tile t with clk := none }) ∧
          (∀ g < 32, (u.region g).rg = i.region g ∧ (u.region g).sup = (i.region g).sup ∧ (u.region g).st = (s.region g).st ∧
            (((i.region g).work || (i.region g).reserve) = true → s.mayWake g = true → (u.region g).waking = true ∧ (u.region g).wakeK = 0)) ∧
          u.beat.len = s.setting 0x8000 4 ∧ u.train.st = (if bitOf (Machine.imgFlags l.hdr) 1 then 1 else 0) ∧ u.flash = s.flash ∧
          u.reqs = s.reqs ∧ u.parts = s.parts ∧ u.flt = s.flt)) ∧
    (∀ l, s.img.load = some l → l.step = 8 →
      (∀ g < 32, s.inUse g = true → (s.region g).lost = true ∨ (s.region g).st ≠ .dark ∧ (s.region g).st ≠ .moulting) →
      ∃ u, exec .loadComplete s = .next u ∧ { u with img := s.img, boot := s.boot, fordan := s.fordan } = s ∧
        u.img = { s.img with load := none, firstMark := true } ∧ u.hnd l.handle = { s.hnd l.handle with st := 2, code := 0 }) ∧
    (∀ k x, OperatorSession s k → s.busyForLoad = false → s.img.load = none →
      ∃ u, exec (.unload k x) s = .next u ∧ Answered u k x 6 0 0x8000 0x0E (leBytes 8 (2 * 2 ^ 56 + s.boot.hctr)) ∧
        u.hnd (2 * 2 ^ 56 + s.boot.hctr) = ⟨2, 0, 0, s.handlePart k, k⟩ ∧ u.img = { Img.init with hdr := s.img.hdr } ∧
        u.train = Train.init ∧ u.adm.isOpen = false ∧
        (∀ g < 32, (u.region g).rg = RegRec.none ∧
          (u.region g).st = (if (s.region g).st.code < 2 then .dark else (s.region g).st)) ∧
        u.flash = s.flash ∧ u.reqs = s.reqs ∧ u.parts = s.parts ∧ u.stks = s.stks)

/-- R267 to R270, R359. -/
def Obligations.PlacementsAreRepaired : Prop :=
  ∀ (s : State) (still : Prop),
    still = (∀ g < 32, s.active g = true ∨ (s.region g).changing = true → (s.region g).waking = false ∧ (s.region g).st ≠ .moulting) →
    (∀ t, t < 2688 → (∀ c ∈ s.flt.todo, c.2 ≠ .patch t) → exec (.unitFenceRepair t) s = .next s) ∧
    (∀ t c i f p, t < 2688 → s.flt.todo.find? (fun c => c.2 == .patch t) = some c → s.img.loaded = some i → f = s.placeOf t →
      i.uses f = true → s.boot.commitDue = [] → s.trainTensors = [] → s.patchFor i f = some p →
      ∃ u, exec (.unitFenceRepair t) s = .next u ∧ u.img.patched = (s.img.patched.filter fun x => x.2 != t) ++ [(p.failed, p.spare)] ∧
        u.img.runsAt = s.instar ∧ u.img.loaded = some i ∧ c ∉ u.flt.todo ∧ u.flt.restart = true ∧ u.adm.isOpen = false ∧
        u.beat.abandoned = true ∧ (∀ g < 32, (u.region g).st = if s.active g then .stopped else (s.region g).st) ∧
        Recorded s u 0x8E p.region (tileCode p.failed + tileCode p.spare * 2 ^ 16 + s.instar * 2 ^ 32) p.writes.length ∧
        (still → u.mem = s.mem) ∧ u.flash = s.flash ∧ u.stks = s.stks ∧ u.time = s.time) ∧
    (∀ t c i f g, t < 2688 → s.flt.todo.find? (fun c => c.2 == .patch t) = some c → s.img.loaded = some i → f = s.placeOf t →
      i.uses f = true → s.boot.commitDue = [] → s.trainTensors = [] → s.patchFor i f = none → g = tileRegion t → s.inUse g = true →
      ∃ u, exec (.unitFenceRepair t) s = .next u ∧ (u.region g).lost = true ∧ (c.1, Repair.detour g) ∈ u.flt.todo ∧ c ∉ u.flt.todo ∧
        bitOf u.flt.queueM g = true ∧ bitOf u.csr.alertSrc 8 = true ∧ u.adm.isOpen = false ∧ u.beat.abandoned = true ∧
        (s.active g = true → (u.region g).st = .stopped) ∧ u.img = s.img ∧ (still → u.mem = s.mem) ∧ u.flash = s.flash) ∧
    (∀ i, (∃ c g, (c, Repair.detour g) ∈ s.flt.todo) → s.img.loaded = some i → s.boot.commitDue = [] → s.training = false →
      (∀ d, i.detours.find? (fun d => d.mask == s.lostMask) = some d →
        ∃ u, exec .detourInstall s = .next u ∧ u.img = { s.img with lost := s.lostMask, detour := some d.mask, left := d.left } ∧
          u.flt.restart = true ∧ (∀ c g, (c, Repair.detour g) ∉ u.flt.todo) ∧ u.adm.isOpen = false ∧ u.beat.abandoned = true ∧
          (∀ g < 32, (u.region g).st = if s.active g then .stopped else (s.region g).st) ∧
          (∀ r q, u.req r = some q → q.live = true → q.phase ≠ .cancelling → u.slotRuns q = false → q.phase = .rebuilding) ∧
          (still → u.mem = s.mem) ∧ u.flash = s.flash) ∧
      (i.detours.find? (fun d => d.mask == s.lostMask) = none →
        ∃ u, exec .detourInstall s = .next u ∧ u.img = { s.img with lost := s.lostMask, placementLost := true } ∧ u.flt.restart = false ∧
          Recorded s u 0x8F 0xFF 0 0 ∧ u.adm.isOpen = false ∧ u.adm.why = 0x10 ∧ bitOf u.csr.alertSrc 7 = true ∧
          (∀ r q, s.req r = some q → q.live = true → ∃ p, u.req r = some p ∧ p.phase = .cancelling ∧ p.due = false ∧ p.wait = [] ∧
            (let e := (if q.yielded = true ∧ q.wait ≠ [] then q.unend else q).endR; p.endR = if e = 0 then 0x10 else e) ∧ p.cut = s.beat.count + 1) ∧
          (still → u.mem = s.mem) ∧ u.flash = s.flash)) ∧
    (s.img.restart = true → (∀ c ∈ s.reqList, c.2.live = true → s.slotRuns c.2 = false) →
      ∃ u, exec .cleanRestart s = .next u ∧ u.net = [] ∧ u.flt = { s.flt with restart := false } ∧ u.img = { s.img with restart := false } ∧
        (∀ g < 32, u.region g = if (s.region g).st = .stopped ∧ (s.region g).lost = false then
            { s.region g with st := .active, wakeAt := 0, marked := false, changing := false, cyc := 0, strE := 0, strP := 0, stopNs := 0, lag := 0, reports := [] }
          else s.region g) ∧
        (∀ g < 32, (s.region g).st = .stopped → (s.region g).lost = false → ∀ t ∈ regionTiles g,
          (u.tile t).stopped = false ∧ (u.tile t).seqIx = 0 ∧ (u.tile t).mma = none ∧ (u.tile t).side = [] ∧ (u.tile t).stat = none ∧ (u.tile t).inBuf = [] ∧ (u.tile t).eps = [] ∧
          (u.tile t).waitB = none ∧ (u.tile t).slots = [] ∧ (u.tile t).store = (s.tile t).store ∧ (u.tile t).routes = (s.tile t).routes ∧
          (u.tile t).unitFence = (s.tile t).unitFence) ∧
        (∀ g < 32, (s.region g).st ≠ .stopped → ∀ t ∈ regionTiles g, u.tile t = s.tile t) ∧
        (∀ e < 96, (s.engine e).planN ≠ 0 → u.engine e = { s.engine e with busy := none, ix := (s.engine e).planN }) ∧
        (s.beat.abandoned = true → u.beat = { s.beat with abandoned := false, replay := true, replays := s.beat.replays + 1 }) ∧
        (s.beat.abandoned = false → u.beat = s.beat) ∧
        (s.img.loaded.isSome = true → s.img.load = none → s.img.placementLost = false → s.flt.whole = false → s.img.firstMark = false →
          s.adm.why ≠ 0x10 → u.adm = { s.adm with isOpen := true, why := 0 }) ∧
        u.mem = s.mem ∧ u.bad = s.bad ∧ u.stks = s.stks ∧ u.time = s.time ∧ u.flash = s.flash) ∧
    (∀ r q c t, s.img.restart = true → s.reqList = [(r, q)] → q.live = true → s.slotRuns q = true →
      c = Config.slotStream s.img.content (if s.img.detour.isSome then s.img.lost else 0) q.slot → t = s.standIn c.1 → isTile .v t = true →
      c.2 < 512 → Tab.get 0 s.bad (spadRow t (streamRow (s.tile t) c.2)) = 0 → (s.tile t).slots = [] →
      ∃ u, exec .cleanRestart s = .next u ∧ OtherRows s u [spadRow t (streamRow (s.tile t) c.2)] ∧
        u.row (spadRow t (streamRow (s.tile t) c.2)) = putAt (s.row (spadRow t (streamRow (s.tile t) c.2))) (32 * (c.2 % 16))
          (slice q.key 0 16 ++ leBytes 8 (2 * (q.nextIx + q.owes)) ++ List.replicate 8 0)) ∧
    (s.img.restart = false → exec .cleanRestart s = .next s)

/-- R274 to R280, R288; `c` is a message of type `ty` in datagram `d`, which arrives on binding `n` of partition `p`. -/
def Obligations.HostMessagesEnterTheRing : Prop :=
  (∀ (s : State) (d : Datagram) (c : Instr) (ty : Nat),
    (c, ty) ∈ [(Instr.submit d, 1), (Instr.cancel d, 2), (Instr.query d, 3), (Instr.prompt d, 4)] →
    (∀ p n off w, s.bindingOf d = some (p, n) → d.frag = false → s.verifies p ty d.data = true → (s.part p).place (8 + d.data.length) = some off →
      w = Tab.get winInit (s.part p).win (beAt d.data 7 1) →
      ∃ u, exec c s = .next u ∧ { u with parts := s.parts } = s ∧ (∀ i, i ≠ p → u.part i = s.part i) ∧
        u.part p = { s.part p with
          lastKey := beAt d.data 7 1
          win := (u.part p).win
          ring := (s.part p).ring ++ [⟨off, 8 + d.data.length, d.data, d.peer, d.peerPort, n, s.time.now⟩]
          tail := (off + (8 + d.data.length)) % 4194304 } ∧
        Tab.get winInit (u.part p).win (beAt d.data 7 1) = w.take (beAt d.data 8 8) ∧
        u.verifies p ty d.data = false) ∧
    (∀ p n, s.bindingOf d = some (p, n) → d.frag = false → s.verifies p ty d.data = true → (s.part p).place (8 + d.data.length) = none →
      ∃ u, exec c s = .next u ∧ { u with parts := s.parts, adm := s.adm } = s ∧ (∀ i, i ≠ p → u.part i = s.part i) ∧
        (u.part p).ring = (s.part p).ring ∧ (u.part p).tail = (s.part p).tail ∧
        Sent s u ⟨p, n, d.peer, d.peerPort⟩ 0x82 (beAt d.data 16 8) (beAt d.data 24 8) (refuseBody 0x0D 0)) ∧
    (∀ p n, s.bindingOf d = some (p, n) → d.frag = false → s.verifies p ty d.data = false →
      ∃ u, exec c s = .next u ∧ { u with parts := s.parts } = s ∧ (∀ i, i ≠ p → u.part i = s.part i) ∧
        u.part p = { s.part p with dropped := (s.part p).dropped + 1 }) ∧
    (s.bindingOf d = none ∨ d.frag = true → exec c s = .next s)) ∧
  (∀ (w : Win) (q : Nat), w.accepts q = true → (w.take q).accepts q = false)

/-- R281, R286 to R293, R298; `x` is the record taken, of partition `p`, and `v` the state without it. -/
def Obligations.RingRecordsAreTaken : Prop :=
  ∀ (s v : State) (p : Nat) (x : RingRec) (rest : List RingRec), s.nextRing = some p → (s.part p).ring = x :: rest → s.bindUp p x.bind = true →
    v = { (s.updPart p fun y => { y with ring := rest }) with adm := { s.adm with turn := (p + 1) % 16 } } →
    (beAt x.data 3 1 = 1 → v.findReq p (fun q => q.cref == beAt x.data 24 8) = none →
      ∀ (r : Nat) (q : Req) (w : State), r = s.adm.reqN → q = (newReq p x).addTokens 0 (tokensOf x.data 112) →
      w = { v with reqs := Tab.put none s.reqs r (some q), adm := { v.adm with reqN := r + 1 } } →
      (q.refuse ≠ 6 → q.segs ≤ subSegs q.sub → q.complete = false → exec .receiveRingTake s = .next w ∧ w.req r = some q ∧ q.phase = .assembling) ∧
      (∀ c, (q.refuse = 6 ∧ c = (6, 0)) ∨ (q.refuse ≠ 6 ∧ q.complete = true ∧ q.segs = subSegs q.sub ∧ w.admitCode q = some c) →
        ∃ u, exec .receiveRingTake s = .next u ∧ { u with adm := s.adm, parts := s.parts, reqs := s.reqs } = s ∧ OtherReqs s u r ∧
          u.req r = some { q with phase := .refused, refuse := c.1, detail := c.2, doneAt := s.time.now } ∧ u.adm.refused = s.adm.refused + 1 ∧
          Sent s u ⟨p, x.bind, x.src, x.srcPort⟩ 0x82 0 q.cref (refuseBody c.1 c.2)) ∧
      (∀ i c k, q.refuse ≠ 6 → q.complete = true → q.segs = subSegs q.sub → w.admitCode q = none → s.img.loaded = some i →
        w.bestSlot r (subP q.sub) (i.buckets.filter fun b => b.model == subModel q.sub && decide (subP q.sub + subN q.sub ≤ b.ctx)) = some c →
        k = cdiv (subP q.sub + subN q.sub) 64 → w.framesUsed p + k ≤ w.quota p 2 → (w.framesFree i (subModel q.sub) k).length = k →
        journalNeed q.sub ≤ s.adm.jFree → w.ringFree ≠ 0 → c.bf ≤ s.beat.count + s.setting 0x4800 4 →
        ∃ u t, exec .receiveRingTake s = .next u ∧ u.req r = some t ∧ OtherReqs s u r ∧ t.phase = .prefill ∧
          t.handle = 2 ^ 56 + s.boot.hctr ∧ t.slot = c.slot ∧ t.bucket = c.bucket ∧ t.frames = w.framesFree i (subModel q.sub) k ∧ t.bf = c.bf ∧
          t.ba = s.beat.count ∧ t.guard = s.setting 0x4800 2 ∧ t.tAdmit = s.time.now ∧ t.sub = q.sub ∧ t.toks = q.toks ∧
          t.key = (if bitOf (subFlags q.sub) 1 then subSeed q.sub else leBytes 16 (Config.freeValue s.free % 2 ^ 128)) ∧
          u.adm.book = c.book ∧ u.adm.jFree = s.adm.jFree - journalNeed q.sub ∧ u.adm.admitted = s.adm.admitted + 1 ∧
          (u.part p).bucket = (if s.quota p 3 = 0 then (s.part p).bucket else (s.part p).bucket - 1) ∧
          u.hnd t.handle = ⟨1, 0, 0, p, 32⟩ ∧ u.boot.hctr = s.boot.hctr + 1 ∧
          Sent s u ⟨p, x.bind, x.src, x.srcPort⟩ 0x81 t.handle q.cref t.admB ∧
          u.time = s.time ∧ u.flash = s.flash ∧
          (∀ d y id, d = Config.slotStream s.img.content (if s.img.detour.isSome then s.img.lost else 0) c.slot → y = s.standIn d.1 →
            id = spadRow y (streamRow (s.tile y) d.2) → OtherRows s u [id] ∧ OtherTiles s u y ∧
            (isTile .v y = true → d.2 < 512 → Tab.get 0 s.bad id = 0 → (s.tile y).slots = [] →
              u.row id = putAt (s.row id) (32 * (d.2 % 16)) (slice t.key 0 16 ++ List.replicate 16 0) ∧
              u.net = s.net ∧ u.regions = s.regions)))) ∧
    (beAt x.data 3 1 = 4 →
      (v.findReq p (fun q => q.phase == .assembling && q.cref == beAt x.data 24 8) = none → exec .receiveRingTake s = .next v) ∧
      (∀ r q t, v.findReq p (fun q => q.phase == .assembling && q.cref == beAt x.data 24 8) = some (r, q) → s.req r = some q →
        t = { (q.addTokens (beAt x.data 32 4) (tokensOf x.data 40)) with
          segs := q.segs + 1, bad := q.bad || !zeroAt x.data 36 4 || beAt x.data 16 8 != 0 } →
        t.refuse ≠ 6 → t.segs ≤ subSegs t.sub → t.complete = false →
        ∃ u, exec .receiveRingTake s = .next u ∧ { u with reqs := s.reqs } = v ∧ u.req r = some t ∧ OtherReqs s u r)) ∧
    (∀ h, beAt x.data 3 1 = 2 ∨ beAt x.data 3 1 = 3 → h = beAt x.data 16 8 → v.reqOf p h = none →
      ∃ u, exec .receiveRingTake s = .next u ∧ { u with adm := s.adm, parts := s.parts } = s ∧
        Sent s u ⟨p, x.bind, x.src, x.srcPort⟩ 0x82 h (beAt x.data 24 8) (refuseBody 0x12 0)) ∧
    (∀ r q, beAt x.data 3 1 = 2 → v.reqOf p (beAt x.data 16 8) = some (r, q) → s.req r = some q → q.phase ≠ .complete → q.phase ≠ .cancelling →
      s.ended q = false →
      ∃ u b, exec .receiveRingTake s = .next u ∧ { u with adm := s.adm, parts := s.parts, reqs := s.reqs } = s ∧ OtherReqs s u r ∧
        u.req r = some { q with phase := .cancelling, cut := s.cutOf, endR := 0x43, endBeat := s.cutOf - 1 } ∧
        u.adm.book = (s.adm.book.filter fun c => c.2 != r + 1 || decide (c.1 / 64 ≤ s.cutOf - 1)) ∧ beAt b 0 1 = 5 ∧
        Sent s u ⟨p, x.bind, x.src, x.srcPort⟩ 0x85 q.handle q.cref b) ∧
    (∀ r q, beAt x.data 3 1 = 3 → v.reqOf p (beAt x.data 16 8) = some (r, q) → beAt x.data 32 1 = 0 → 1 ≤ beAt x.data 40 4 → beAt x.data 40 4 ≤ 64 →
      zeroAt x.data 33 3 = true → zeroAt x.data 44 4 = true →
      ∃ u b, exec .receiveRingTake s = .next u ∧ { u with adm := s.adm, parts := s.parts } = s ∧ beAt b 0 1 = s.stateCode q ∧
        Sent s u ⟨p, x.bind, x.src, x.srcPort⟩ 0x85 q.handle q.cref b)

/-- R281, R294 to R297, R302. `q` is request `r`. -/
def Obligations.TokensLeave : Prop :=
  ∀ (s : State) (r : Nat) (q : Req), s.req r = some q →
    (q.phase = .assembling →
      ∃ u, exec (.promptIncomplete r) s = .next u ∧ { u with adm := s.adm, parts := s.parts, reqs := s.reqs } = s ∧ OtherReqs s u r ∧
        u.req r = some { q with phase := .refused, refuse := 0x0E, detail := 0, doneAt := s.time.now } ∧ u.adm.refused = s.adm.refused + 1 ∧
        (s.bindUp q.part q.bind = true → Sent s u q.origin 0x82 0 q.cref (refuseBody 0x0E 0))) ∧
    (∀ tok lp, q.due = true → q.owes = 0 → s.beat.abandoned = false → s.withheld = true →
      ∃ u p, exec (.tokenSend r tok lp) s = .next u ∧ { u with reqs := s.reqs } = s ∧ OtherReqs s u r ∧ u.req r = some p ∧
        p.wait = q.wait ++ [(tok, lp)] ∧ p.out = q.out ∧ p.due = false ∧ p.yielded = true ∧ p.phase = q.phase ∧
        p.endR = (if q.endR = 0 then
            if (subStops q.sub).contains tok then 0x40 else if subN q.sub ≤ q.out.length + q.wait.length + 1 then 0x41 else 0
          else q.endR)) ∧
    (∀ tok lp, q.due = true → q.owes = 0 → s.beat.abandoned = false → s.withheld = false → q.wait = [] → s.bindUp q.part q.bind = true →
      q.held = [] →
      ∃ u p k, exec (.tokenSend r tok lp) s = .next u ∧ { u with reqs := s.reqs, adm := s.adm, parts := s.parts } = s ∧ OtherReqs s u r ∧
        u.req r = some p ∧ p.out = q.out ++ [k] ∧ p.due = false ∧ p.yielded = true ∧ p.held = [] ∧ p.phase = q.phase ∧
        p.why = (if k.late = 0 then q.whyAfter q.out.length else q.why) ∧
        k.id = tok ∧ k.lp = q.logProb lp ∧ k.promised = s.promiseOf q q.out.length ∧ k.sent = s.time.now ∧
        k.retimes = q.retimes ∧
        (bitOf k.flags 0 = true ↔ (subStops q.sub).contains tok = true ∨ subN q.sub ≤ q.out.length + 1) ∧
        k.late = (if q.susp then 0x24 else if s.time.now ≤ k.promised then 0 else if q.why = 0 then 0x20 else q.why) ∧
        p.lateN = q.lateN + (if k.late = 0 then 0 else 1) ∧ u.adm.late = s.adm.late + (if k.late = 0 then 0 else 1) ∧
        p.endR = (if q.endR = 0 then
            if (subStops q.sub).contains tok then 0x40 else if subN q.sub ≤ q.out.length + 1 then 0x41 else 0
          else q.endR) ∧
        Sent s u q.origin 0x83 q.handle q.cref (tokenBody q.out.length k false)) ∧
    (∀ tok lp, 0 < q.owes → s.flt.disputes = [] → q.wait = [] → s.bindUp q.part q.bind = true → q.held = [] →
      ∃ u p k, exec (.tokenSend r tok lp) s = .next u ∧ { u with reqs := s.reqs, adm := s.adm, parts := s.parts } = s ∧ OtherReqs s u r ∧
        u.req r = some p ∧ p.out = q.out ++ [k] ∧ p.yielded = q.yielded ∧ k.id = tok ∧ k.promised = s.promiseOf q q.out.length ∧
        (p.endR = 0 → p.owes = q.owes - 1 ∧ p.due = q.due) ∧ Sent s u q.origin 0x83 q.handle q.cref (tokenBody q.out.length k false)) ∧
    (∀ tok lp, q.due = true → q.owes = 0 → s.beat.abandoned = false → s.withheld = false → q.wait = [] →
      s.bindFor q.part q.bind q.src = none →
      ∃ u p, exec (.tokenSend r tok lp) s = .next u ∧ { u with reqs := s.reqs, adm := s.adm } = s ∧ u.adm.tx = s.adm.tx ∧ OtherReqs s u r ∧
        u.req r = some p ∧ q.out.length ∈ p.held ∧ (p.out.map fun k => k.id) = (q.out.map fun k => k.id) ++ [tok]) ∧
    (∀ tok lp, q.owes = 0 → q.due = false ∨ s.beat.abandoned = true → exec (.tokenSend r tok lp) s = .next s) ∧
    (q.phase = .complete → q.compDone = false → q.recB ≠ [] → q.held = [] → q.wait = [] → s.bindUp q.part q.bind = true →
      ∃ u, exec (.completeSend r) s = .next u ∧ OtherReqs s u r ∧ u.req r = some { q with compDone := true, doneAt := s.time.now } ∧
        Sent s u q.origin 0x84 q.handle q.cref (completeBody q) ∧ u.mem = s.mem ∧ u.tiles = s.tiles ∧ u.flash = s.flash) ∧
    (q.phase ≠ .complete ∨ q.compDone = true ∨ q.recB = [] ∨ q.held ≠ [] ∨ q.wait ≠ [] → exec (.completeSend r) s = .next s) ∧
    (∀ i t, q.held = [i] → q.out[i]? = some t → q.phase ≠ .complete → s.bindUp q.part q.bind = true →
      ∃ u p k, exec (.heldMessageSend r) s = .next u ∧ { u with reqs := s.reqs, adm := s.adm, parts := s.parts } = s ∧ OtherReqs s u r ∧
        u.req r = some p ∧ p.out = q.out.set i k ∧ p.held = [] ∧ k.id = t.id ∧ k.sent = s.time.now ∧
        k.late = (if q.susp then 0x24 else if s.time.now ≤ s.promiseOf q i then 0 else firstWhy q.why 0x25) ∧
        Sent s u q.origin 0x83 q.handle q.cref (tokenBody i k false)) ∧
    (q.live = true → q.phase ≠ .cancelling →
      ∃ u p, exec (.sequenceRebuild r) s = .next u ∧ OtherReqs s u r ∧ u.req r = some p ∧
        p.phase = .rebuilding ∧ p.fed = 0 ∧ p.cached = 0 ∧ p.wait = [] ∧ p.due = false ∧ p.owes = 0 ∧ p.rebuildT = s.beat.count + 1 ∧ p.out = q.out ∧
        p.slot = q.slot ∧ p.handle = q.handle ∧ bitOf p.flags 3 = true ∧ u.adm.rebuilds = s.adm.rebuilds + 1 ∧
        u.adm.book = (s.adm.book.filter fun c => c.2 != r + 1 || decide (c.1 / 64 ≤ s.beat.count)) ∧ u.flash = s.flash ∧ u.time = s.time ∧
        (s.slotRuns q = false → { u with reqs := s.reqs, adm := s.adm } = s ∧ p.why = firstWhy q.why 0x23) ∧
        (∀ d y id, s.slotRuns q = true → d = Config.slotStream s.img.content (if s.img.detour.isSome then s.img.lost else 0) q.slot →
          y = s.standIn d.1 → id = spadRow y (streamRow (s.tile y) d.2) → OtherRows s u [id] ∧ OtherTiles s u y ∧
          (isTile .v y = true → d.2 < 512 → Tab.get 0 s.bad id = 0 →
            u.row id = putAt (s.row id) (32 * (d.2 % 16)) (slice q.key 0 16 ++ leBytes 8 (2 * q.out.length) ++ List.replicate 8 0)))) ∧
    (q.live = false ∨ q.phase = .cancelling → exec (.sequenceRebuild r) s = .next s)

/-- R273 to R275, R287, R300, R304 to R306; `k` is the operator's session, `x` the transaction. -/
def Obligations.PartitionsAreWritten : Prop :=
  ∀ (s : State) (k x p : Nat), OperatorSession s k → p < 16 →
    (∀ v, v ≤ 2 → (v = 0 → s.hasWork p = false) →
      (v ≠ 0 → s.partState p = 0 → ((upTo 16).filter fun o => o != p && s.partState o != 0).length + 1 ≤ s.partLimit) →
      ∃ u, exec (.partitionStateWrite k x p v) s = .next u ∧ Accepted u k x (0x4000 + p) 1 ∧ u.partState p = v ∧
        { u with flash := s.flash, fordan := s.fordan, parts := s.parts } = s ∧ (∀ i < 16, i ≠ p → u.partState i = s.partState i ∧ u.part i = s.part i)) ∧
    (∀ v, (v = 0 ∧ s.hasWork p = true) ∨ (0 < v ∧ v ≤ 2 ∧ s.partState p = 0 ∧
        s.partLimit < ((upTo 16).filter fun o => o != p && s.partState o != 0).length + 1) →
      ∃ u, exec (.partitionStateWrite k x p v) s = .next u ∧ { u with fordan := s.fordan } = s ∧ Answered u k x 2 0x0A (0x4000 + p) 1 (leBytes 4 0)) ∧
    (∀ n v, 1 ≤ n → n ≤ 4 → v < 2 ^ 33 → bindVlan v ≤ 4094 → (bindOn v = true → 1 ≤ bindPort v) →
      ((∀ o < 16, o ≠ p → ∀ m, 1 ≤ m → m ≤ 4 → bindOn (s.bindWord o m) = true → bindOn v = true →
          bindLane (s.bindWord o m) ≠ bindLane v ∨ bindVlan (s.bindWord o m) ≠ bindVlan v) → bindOn v = true ∨ s.hasWork p = false →
        ∃ u, exec (.bindingWrite k x p (n + 5) v) s = .next u ∧ Accepted u k x (0x4000 + p) (n + 5) ∧ u.bindWord p n = v ∧
          { u with flash := s.flash, fordan := s.fordan } = s ∧ (∀ o < 16, ∀ m < 5, o ≠ p ∨ m ≠ n → u.bindWord o m = s.bindWord o m)) ∧
      (∀ o m, o < 16 → o ≠ p → 1 ≤ m → m ≤ 4 → bindOn (s.bindWord o m) = true → bindOn v = true → bindLane (s.bindWord o m) = bindLane v →
        bindVlan (s.bindWord o m) = bindVlan v →
        ∃ u, exec (.bindingWrite k x p (n + 5) v) s = .next u ∧ { u with fordan := s.fordan } = s ∧
          Answered u k x 2 0x0A (0x4000 + p) (n + 5) (leBytes 4 0))) ∧
    (∀ slot key, slot < 2 → key.length = 64 →
      ∃ u, exec (.keySlotWrite k x p slot key) s = .next u ∧ Answered u k x 4 0 (0x4000 + p) (4 + slot) [] ∧ u.blob (0x4000 + p) (4 + slot) = key ∧
        Tab.get winInit (u.part p).win slot = winInit ∧ { u with flash := s.flash, fordan := s.fordan, parts := s.parts } = s ∧
        (∀ i, i ≠ p → u.part i = s.part i) ∧ { u.part p with win := [] } = { s.part p with win := [] }) ∧
    (∀ sub v, 1 ≤ sub → sub ≤ 5 → v < 2 ^ 32 → (sub = 4 → 1 ≤ v ∧ v ≤ 65535) → (sub = 5 → s.committedPower p ≤ v * 1000) →
      Tab.wf none s.reqs = true →
      ∃ u, exec (.quotaWrite k x p sub v) s = .next u ∧ Accepted u k x (0x4400 + p) sub ∧ u.quota p sub = v ∧
        { u with flash := s.flash, fordan := s.fordan, parts := s.parts, reqs := s.reqs } = s ∧
        (u.part p).bucket = (if sub = 4 then min v (s.part p).bucket else (s.part p).bucket) ∧
        (∀ r q, s.req r = some q → q.live = true → ∃ t, u.req r = some t ∧ t.out = q.out ∧ t.slot = q.slot ∧ t.phase = q.phase ∧
          (t.susp = true ↔ u.qPowerEff q.part * 1000 < s.committedPower q.part))) ∧
    (∀ v, v * 1000 < s.committedPower p → v < 2 ^ 32 →
      ∃ u, exec (.quotaWrite k x p 5 v) s = .next u ∧ { u with fordan := s.fordan } = s ∧ Answered u k x 2 0x0A (0x4400 + p) 5 (leBytes 4 0)) ∧
    (s.quota p 3 ≠ 0 → ∃ u, exec (.rateBucketRefill p) s = .next u ∧ { u with parts := s.parts } = s ∧ (∀ i, i ≠ p → u.part i = s.part i) ∧
      u.part p = { s.part p with bucket := min (s.quota p 4) ((s.part p).bucket + 1) }) ∧
    (s.quota p 3 = 0 → exec (.rateBucketRefill p) s = .next s) ∧
    (∀ r q, s.req r = some q → (q.phase = .complete ∧ q.compDone = true) ∨ q.phase = .refused →
      ∃ u, exec (.retentionExpiry r) s = .next u ∧ { u with reqs := s.reqs, adm := s.adm, boot := s.boot } = s ∧ u.req r = none ∧ OtherReqs s u r ∧
        (q.handle ≠ 0 → u.hnd q.handle = hndNone ∧ u.adm.jFree = s.adm.jFree + journalNeed q.sub)) ∧
    (∀ r q, s.req r = some q → q.phase ≠ .refused → q.compDone = false → exec (.retentionExpiry r) s = .next s)

/-- R308, R309, R318 to R326, R329. -/
def Obligations.TheMeterSamplesSealsAndExports : Prop :=
  ∀ (s : State),
    (∀ m, ∃ u, exec (.monitorSample m) s = .next u ∧ u.time = { s.time with now := s.time.now + 1000, track := s.time.track + 1000, errAge := s.time.errAge + 1 } ∧
      u.mem = s.mem ∧ u.tiles = s.tiles ∧ u.beat = s.beat ∧ u.flash = s.flash ∧ u.reqs = s.reqs ∧
      (s.boot.meterStop = false → ∀ p < 90, Tab.get 0 u.meter.acc p =
        if p ∈ m.missing ∨ p ∉ s.points then Tab.get 0 s.meter.acc p else Tab.get 0 s.meter.acc p + m.v.getD p 0 * m.i.getD p 0 / 1000) ∧
      (s.boot.meterStop = true → u.meter = s.meter) ∧
      (∀ g < 32, (u.region g).i10 = m.logic10.getD g 0 ∧ (u.region g).i1m = m.logic1m.getD g 0 ∧ (u.region g).iPrev = m.i.getD (1 + g) 0 ∧
        (u.region g).iStore10 = m.store10.getD g 0 ∧ (u.region g).iStore1m = m.store1m.getD g 0 ∧ (u.region g).st = (s.region g).st ∧
        (s.active g = true → (s.region g).marked = true → (u.region g).cyc =
          (s.region g).cyc + (mhz (s.region g).op * 8 - min (s.region g).lag (mhz (s.region g).op * 8)) / (8 + (s.region g).stretch)) ∧
        (640 < m.store10.getD g 0 → 1 ∈ (u.region g).railSeen)) ∧
      (∀ k < 24, (u.stack k).st = (s.stack k).st ∧ (u.stack k).p1m = if k ∈ s.populated then m.stack1m.getD k 0 else (s.stack k).p1m) ∧
      u.pwr.pIn = m.in1m ∧ u.pwr.vIn = m.v.getD 0 0 ∧ u.pwr.pRing = m.ring1m ∧ (s.setting 0x2000 1 < m.in1m → u.pwr.inCut = true)) ∧
    (s.meter.begun = true → s.boot.meterStop = false → roundBeats s.beat.len ≤ s.meter.round →
      ∃ u l, exec .signingRoundClose s = .next u ∧ u.meter.pend = [] ∧ u.meter.round = 0 ∧ u.meter.ring = s.meter.ring ++ l ∧
        l.map (fun x => (x.kind, x.chain, x.beat, x.handle, x.body)) = (sortRecs s.meter.pend).map (fun x => (x.kind, x.chain, x.beat, x.handle, x.body)) ∧
        (∀ x ∈ l, x.hash = sha512 x.signed ∧ x.tSeal = s.time.now ∧ x.seq ≤ x.cover ∧
          x.sig = (if x.cover = x.seq then ecdsaSign meteringKey x.hash else List.replicate 132 0)) ∧
        (∀ c, Tab.get 0 u.meter.seqs c = Tab.get 0 s.meter.seqs c + (s.meter.pend.filter fun x => x.chain == c).length) ∧
        (s.meter.pend.length ≤ roundBeats s.beat.len * sigsPerBeat s.beat.len → ∀ x ∈ l, x.cover = x.seq) ∧
        (roundBeats s.beat.len * sigsPerBeat s.beat.len < s.meter.pend.length → ∀ x ∈ l, x.cover = Tab.get 0 u.meter.seqs x.chain) ∧
        u.mem = s.mem ∧ u.tiles = s.tiles ∧ u.regions = s.regions ∧ u.time = s.time ∧ u.flash = s.flash) ∧
    (s.meter.begun = false → s.boot.meterStop = false → 1 ≤ s.beat.count →
      ∃ u x, exec .epochRecord s = .next u ∧ { u with meter := s.meter } = s ∧ u.meter.ring = s.meter.ring ++ [x] ∧ x.kind = 3 ∧ x.chain = 0xFF ∧
        x.seq = Tab.get 0 s.meter.seqs 0xFF + 1 ∧ x.cover = x.seq ∧ x.epoch = s.flash.epoch ∧ x.hash = sha512 x.signed ∧
        x.sig = ecdsaSign meteringKey x.hash ∧ u.meter.epochHash = x.hash ∧ u.meter.begun = true ∧ u.meter.pend = s.meter.pend ∧
        u.meter.st = (if s.meter.st = 0 then 1 else s.meter.st)) ∧
    (∀ g, s.meter.missed = some g → s.beatPlace = true →
      ∃ u x, exec .gapRecord s = .next u ∧ { u with meter := s.meter } = s ∧ u.meter = { s.meter with missed := none, pend := s.meter.pend ++ [x] } ∧
        x.kind = 4 ∧ x.chain = 0xFF ∧ slice x.body 0 8 = beBytes 8 g.first ∧ slice x.body 8 8 = beBytes 8 g.last ∧ slice x.body 16 8 = beBytes 8 g.eIn) ∧
    (s.meter.missed = none ∨ s.beatPlace = false → exec .gapRecord s = .next s) ∧
    (∀ k x q data, OperatorSession s k → s.sess k = some q → q.chain < 16 ∨ q.chain = 0xFF → q.exportH = 0 →
      data = (s.meter.chainFrom q.chain q.frm).flatMap MRec.bytes →
      ∃ u t, exec (.meterExport k x) s = .next u ∧ { u with boot := s.boot, fordan := s.fordan } = s ∧ u.boot.hctr = s.boot.hctr + 1 ∧
        Answered u k x 6 0 0x6002 3 (leBytes 8 (0xD * 2 ^ 56 + s.boot.hctr)) ∧ (u.hnd (0xD * 2 ^ 56 + s.boot.hctr)).st = (if data = [] then 2 else 1) ∧
        u.sess k = some t ∧ t.exportData = data ∧ t.exportH = 0xD * 2 ^ 56 + s.boot.hctr) ∧
    (∀ k x v q, OperatorSession s k → s.sess k = some q → v ≤ Tab.get 0 s.meter.seqs q.chain → v < 2 ^ 64 →
      ∃ u, exec (.ackSeq k x v) s = .next u ∧ Accepted u k x 0x6002 5 ∧
        Tab.get 0 u.meter.ackd q.chain = max v (Tab.get 0 s.meter.ackd q.chain) ∧
        u.meter.ring = (s.meter.ring.filter fun y => !(decide (y.seq ≤ Tab.get 0 u.meter.ackd y.chain) && (y.kind != 1 || y.sent))) ∧
        u.meter.pend = s.meter.pend ∧ u.meter.seqs = s.meter.seqs ∧ u.mem = s.mem ∧ u.tiles = s.tiles ∧ u.regions = s.regions ∧ u.flash = s.flash)

/-- R306, R334, R342 to R345; `k` is the operator's session, `x` the transaction. -/
def Obligations.PowerLimitsAreSet : Prop :=
  ∀ (s : State),
    (s.pwr.pcap = false → Tab.wf none s.reqs = true →
      ∃ u, exec .pcapAssert s = .next u ∧ u.pins = { s.pins with pcapN := false } ∧
        u.pwr = { s.pwr with pcap := true, pcapLim := s.setting 0x2000 2, releaseDue := false } ∧
        ((∀ g < 32, (s.region g).opNext.length ≤ 1000) → Recorded s u 0xB5 0xFF 0 0) ∧
        bitOf u.csr.alertSrc 5 = true ∧
        (∀ g < 32, (u.region g).j ≤ (s.region g).lim1m ∧ (u.region g).st = (s.region g).st ∧ (u.region g).op = (s.region g).op ∧
          (s.pwr.inCut = false → (s.img.loaded.map fun i => hPPlan i.hdr).getD 0 ≤ s.setting 0x2000 2 →
            (s.img.loaded.map fun i => hPPlan i.hdr).getD 0 ≤ s.setting 0x2000 1 → (u.region g).j = (s.region g).lim1m)) ∧
        (∀ r q, s.req r = some q → q.live = true → ∃ t, u.req r = some t ∧ t.out = q.out ∧ t.slot = q.slot ∧
          (t.susp = true ↔ u.qPowerEff q.part * 1000 < s.committedPower q.part)) ∧
        u.mem = s.mem ∧ u.tiles = s.tiles ∧ u.flash = s.flash ∧ u.time = s.time ∧ u.meter = s.meter) ∧
    (s.pwr.pcap = true → exec .pcapAssert s = .next { s with pins := { s.pins with pcapN := false } }) ∧
    (s.pwr.pcap = true →
      ∃ u, exec .pcapRelease s = .next u ∧ u.pins = { s.pins with pcapN := true } ∧ u.pwr = { s.pwr with pcap := false, releaseDue := true } ∧
        RecordedLast s u 0xB5 0xFF 0 0 ∧ { u with pins := s.pins, pwr := s.pwr, flt := s.flt, csr := s.csr, fordan := s.fordan } = s) ∧
    (s.pwr.pcap = false → exec .pcapRelease s = .next { s with pins := { s.pins with pcapN := true } }) ∧
    (∀ k x v, OperatorSession s k →
      (6000 ≤ v → v ≤ 13000 → s.moduleCommitted ≤ v * 1000 →
        ∃ u, exec (.moduleInMaxWrite k x v) s = .next u ∧ Accepted u k x 0x2000 1 ∧ u.setting 0x2000 1 = v ∧ u.mem = s.mem ∧ u.tiles = s.tiles ∧
          u.reqs = s.reqs ∧ u.time = s.time ∧ (v < s.pwr.pIn → u.pwr.inCut = true) ∧
          (s.pwr.pIn ≤ v → s.pwr.inCut = false → u.pwr = s.pwr ∧ u.regions = s.regions)) ∧
      (6000 ≤ v → v ≤ 13000 → v * 1000 < s.moduleCommitted →
        ∃ u, exec (.moduleInMaxWrite k x v) s = .next u ∧ { u with fordan := s.fordan } = s ∧ Answered u k x 2 0x0A 0x2000 1 (leBytes 4 0)) ∧
      (v < 2 ^ 32 → v < 6000 ∨ 13000 < v →
        (∃ u, exec (.moduleInMaxWrite k x v) s = .next u ∧ { u with fordan := s.fordan } = s ∧
          ∃ st d, Answered u k x 2 st 0x2000 1 d ∧ (st = 0x05 ∨ st = 0x06)) ∧
        (∃ u, exec (.pcapLimitWrite k x v) s = .next u ∧ { u with fordan := s.fordan } = s ∧
          ∃ st d, Answered u k x 2 st 0x2000 2 d ∧ (st = 0x05 ∨ st = 0x06))) ∧
      (6000 ≤ v → v ≤ 13000 →
        ∃ u, exec (.pcapLimitWrite k x v) s = .next u ∧ Accepted u k x 0x2000 2 ∧ u.setting 0x2000 2 = v ∧ u.setting 0x2000 1 = s.setting 0x2000 1 ∧
          { u with flash := s.flash, fordan := s.fordan } = s) ∧
      (v ≤ 1 →
        ∃ u, exec (.marginModeWrite k x v) s = .next u ∧ Accepted u k x 0x2000 7 ∧ u.setting 0x2000 7 = v ∧
          u.pwr = { s.pwr with legacyReq := some (v == 1) } ∧ { u with pwr := s.pwr, flash := s.flash, fordan := s.fordan } = s))

/-- R23, R24, R335, R336, R354. `v` is the state once the stage's grant before has ended. -/
def Obligations.RegionsWake : Prop :=
  ∀ (s v : State) (g : Nat), g < 32 → v = s.endGrant g (fun x => x.tile == 2688) →
    (s.mayWake g = true →
      ∃ u, exec (.regionWake g) s = .next u ∧ OnlyRegion s u g ∧
        u.region g = { s.region g with waking := true, wakeK := 0, wakeMoult := false, wakeTurn := false, wakePt := s.opCeil g }) ∧
    (s.mayWake g = false → exec (.regionWake g) s = .next s) ∧
    ((s.region g).waking = true → (s.region g).wakeK < 8 → s.wakeTurnOf g = true → v.stageReady g = true →
      ∃ u, exec (.wakeStage g) s = .next u ∧ { u with regions := s.regions, fields := s.fields } = s ∧ OtherRegions s u g ∧
        (∀ i, i ≠ g / 2 → u.field i = s.field i) ∧ u.field (g / 2) = { s.field (g / 2) with nextN := (s.field (g / 2)).nextN + 1 } ∧
        u.region g = { s.region g with
          wakeK := (s.region g).wakeK + 1
          grants := ((s.region g).grants.filter fun x => x.tile != 2688) ++ [⟨(s.field (g / 2)).nextN, 2688, 250, none, 0⟩] }) ∧
    ((s.region g).waking = true → (s.region g).wakeK < 8 → s.wakeTurnOf g = true → v.stageReady g = false → exec (.wakeStage g) s = .next v) ∧
    ((s.region g).waking = false ∨ 8 ≤ (s.region g).wakeK ∨ s.wakeTurnOf g = false → exec (.wakeStage g) s = .next s) ∧
    (s.wakeTurnOf g = false ↔ (s.region g).wakeTurn = true ∧ ∃ h < 32, h / 2 < g / 2 ∧ (s.region h).waking = true ∧ (s.region h).wakeTurn = true) ∧
    ((s.region g).waking = true → (s.region g).wakeK = 8 → (s.region g).wakeMoult = false →
      ∃ u, exec (.wakeComplete g) s = .next u ∧ OtherRegions s u g ∧
        u.region g = { s.region g with
          st := .stopped, waking := false, wakeK := 0, wakeTurn := false, op := (s.region g).wakePt, railOp := (s.region g).wakePt, wakeAt := s.time.now + 50000,
          marked := false, cyc := 0, strE := 0, strP := 0, stopNs := 0, lag := 0, trim := 0, grants := (s.region g).grants.filter fun x => x.tile != 2688 } ∧
        u.mem = (s.restage g).mem ∧ u.bad = (s.restage g).bad ∧ (∀ t, { u.tile t with clk := none } = { (s.restage g).tile t with clk := none }) ∧
        (∀ t, tileRegion t ≠ g → t < 2688 → { u.tile t with clk := none } = { s.tile t with clk := none }) ∧
        { u with regions := s.regions, tiles := s.tiles, mem := s.mem, bad := s.bad } = s) ∧
    ((s.region g).waking = true → (s.region g).wakeK = 8 → (s.region g).wakeMoult = true →
      ∃ u, exec (.wakeComplete g) s = .next u ∧ OtherRegions s u g ∧ (u.region g).st = .moulting ∧ (u.region g).waking = false ∧
        (u.region g).moult = (s.region g).moult ∧ u.tiles = s.tiles ∧ u.mem = s.mem ∧ RecordedLast s u 0x9A g 0 0) ∧
    ((s.region g).waking = false ∨ (s.region g).wakeK ≠ 8 → exec (.wakeComplete g) s = .next s)

/-- R346 to R348; `y` is the region before. -/
def Obligations.SupplyFailuresTakeRegionsDown : Prop :=
  ∀ (s : State) (g : Nat) (y : Region), g < 32 → y = s.region g →
    (∀ i cause cur n, i < 24 → cause < 4 → bitOf y.phases i = false → n = popCount32 (y.phases + 2 ^ i) →
      (∀ i < 32, (s.region i).opNext.length ≤ 1000) →
      ∃ u, exec (.phaseFailure g i cause cur) s = .next u ∧ (u.region g).phases = y.phases + 2 ^ i ∧
        Recorded s u 0xB6 g (i + cause * 2 ^ 8 + n * 2 ^ 16) cur ∧ ⟨6, i, g⟩ ∈ u.boot.commitDue ∧ bitOf u.flt.queueM g = true ∧
        (n = 1 → u.regions = (s.updRegion g fun r => { r with phases := y.phases + 2 ^ i }).regions ∧ u.mem = s.mem ∧ u.tiles = s.tiles) ∧
        (n = 2 → Recorded s u 0xB7 g 0 0 ∧ (u.region g).derated = true ∧ (u.region g).st = y.st ∧ (u.region g).j ≤ 3660 ∧ u.mem = s.mem ∧ u.tiles = s.tiles) ∧
        (n = 3 → Recorded s u 0xB8 g 0 0 ∧ (u.region g).st = .unusable ∧ ⟨8, 5, g⟩ ∈ u.boot.commitDue ∧
          (s.inUse g = true → (u.region g).lost = true ∧ u.adm.isOpen = false ∧ (7, Repair.detour g) ∈ u.flt.todo))) ∧
    (∀ i cause cur, bitOf y.phases i = true ∨ 24 ≤ i → exec (.phaseFailure g i cause cur) s = .next s) ∧
    (∀ cur, 8800 < cur →
      ∃ u, exec (.logicShortCircuit g cur) s = .next u ∧ (u.region g).st = .unusable ∧ Recorded s u 0xB9 g 0 0 ∧ ⟨8, 5, g⟩ ∈ u.boot.commitDue ∧
        (s.inUse g = true → (u.region g).lost = true ∧ (7, Repair.detour g) ∈ u.flt.todo) ∧ (∀ i, i ≠ g → (u.region i).st = (s.region i).st) ∧
        u.time = s.time ∧ u.pins = s.pins) ∧
    (∀ cur, cur ≤ 8800 → exec (.logicShortCircuit g cur) s = .next s) ∧
    (Memory.wf s.mem = true →
      ∃ u, exec (.storeShortCircuit (.store g)) s = .next u ∧ (u.region g).st = .unusable ∧ Recorded s u 0xBA g 0 0 ∧ ⟨8, 5, g⟩ ∈ u.boot.commitDue ∧
        (∀ a, (logicRowOf g (a / 512) || deepRowOf g (a / 512)) = true → u.byteAt a = 0) ∧
        (∀ a, (logicRowOf g (a / 512) || deepRowOf g (a / 512)) = false → u.byteAt a = s.byteAt a)) ∧
    (∀ f, f < 16 →
      ∃ u, exec (.storeShortCircuit (.plane f)) s = .next u ∧ (u.field f).planeOff = true ∧ (u.region (2 * f)).st = .unusable ∧
        (u.region (2 * f + 1)).st = .unusable ∧ (∀ i, i / 2 ≠ f → (u.region i).st = (s.region i).st)) ∧
    (s.boot.supply = .on ∨ s.boot.supply = .rising → ∃ u, exec .packageBusFault s = .next u ∧ u.boot.latched = true ∧ u.boot.supply = .falling) ∧
    (s.boot.supply = .off ∨ s.boot.supply = .falling → exec .packageBusFault s = .next s)

/-- R349 to R354. Degrees are counted in 0.01 °C. -/
def Obligations.HeatIsJudged : Prop :=
  ∀ (s : State),
    (∀ m, ∃ u, exec (.sensorRead m) s = .next u ∧ u.mem.length ≤ s.mem.length ∧ u.time = s.time ∧ u.meter = s.meter ∧
      (∀ g < 32, (u.region g).temps = (upTo 5).map fun i => (m.regions.getD g []).getD i 0) ∧
      (u.therm.ring = (upTo 4).map fun i => m.ring.getD i 0) ∧
      (∀ k < 24, (s.stack k).st ≠ 0 → (u.stack k).temp = m.stks.getD k 0) ∧
      (s.therm.tripped = false →
        (∃ g < 32, ∃ i < 5, 12000 ≤ (m.regions.getD g []).getD i 0) ∨ (∃ i < 4, 12000 ≤ m.ring.getD i 0) ∨
          (∃ k < 24, (s.stack k).st ≠ 0 ∧ 10500 ≤ m.stks.getD k 0) →
        u.therm.tripped = true ∧ u.pins.thermtrip = true ∧ Recorded s u 0xBD 0xFF 0 0 ∧ bitOf u.csr.alertSrc 3 = true ∧ u.adm.isOpen = false ∧
          u.beat.abandoned = true ∧ ∀ g < 32, 2 ≤ (u.region g).st.code) ∧
      ((∀ g < 32, ∀ i < 5, (m.regions.getD g []).getD i 0 < 12000) → (∀ i < 4, m.ring.getD i 0 < 12000) → (∀ k < 24, m.stks.getD k 0 < 9500) →
        u.therm.tripped = s.therm.tripped ∧ u.therm.halted = s.therm.halted ∧ u.adm = s.adm ∧ u.mem = s.mem ∧ u.tiles = s.tiles ∧
          ∀ g < 32, (u.region g).st = (s.region g).st)) ∧
    (s.therm.tripped = false → s.therm.halted = false →
      ∃ u, exec .coolantLoss s = .next u ∧ u.pins.coolantOk = false ∧ u.therm.coolant = false ∧ u.therm.halted = true ∧
        u.therm.halts = s.therm.halts + 1 ∧ Recorded s u 0xBE 0xFF 0 0 ∧ bitOf u.csr.alertSrc 4 = true ∧ u.adm.isOpen = false ∧
        u.beat.abandoned = true ∧ (∀ g < 32, 2 ≤ (u.region g).st.code) ∧ (∀ k < 24, (s.stack k).st ≠ 0 → (u.stack k).selfRef = true) ∧
        u.time = s.time) ∧
    (s.therm.tripped = true → exec .coolantLoss s =
      .next { s with pins := { s.pins with coolantOk := false }, therm := { s.therm with coolant := false } }) ∧
    (s.therm.halted = true → s.therm.tripped = false → s.coolEnough = true →
      ∃ u, exec .haltEnd s = .next u ∧ u.therm = { s.therm with halted := false, hbmHalt := false, coolant := true } ∧
        u.pins = { s.pins with coolantOk := true } ∧ Recorded s u 0xBE 0xFF 0 0 ∧ (s.img.loaded.isSome = true → u.flt.restart = true) ∧
        (∀ k < 24, u.stack k = { s.stack k with selfRef := false }) ∧
        (∀ g < 32, (u.region g).st = (s.region g).st ∧ (u.region g).hotThr = false ∧ (u.region g).thPt = 0) ∧ u.mem = s.mem ∧ u.tiles = s.tiles ∧
        (∀ g < 32, s.img.loaded.isSome = true → (s.region g).rg.work = true ∨ (s.region g).rg.reserve = true → (s.region g).st = .dark → (s.region g).waking = false →
          (s.region g).heatOff = false → s.boot.barred = false → s.flt.whole = false → (s.field (g / 2)).planeOff = false →
          (u.region g).waking = true ∧ (u.region g).wakeTurn = true ∧ (u.region g).wakeK = 0 ∧ (u.region g).wakePt = s.opCeil g)) ∧
    (s.therm.halted = false ∨ s.therm.tripped = true ∨ s.coolEnough = false → exec .haltEnd s = .next s) ∧
    (∀ g y, g < 32 → y = s.region g → 11000 ≤ y.temp → y.hotSince ≠ 0 → y.st.code ≤ 3 → y.heatOff = false →
      ∃ u, exec (.heatSwitchOff g) s = .next u ∧ (u.region g).heatOff = true ∧
        (u.region g).st = (if y.st = .moulting then .untested else .dark) ∧ Recorded s u 0xBC g 0 0 ∧
        (s.inUse g = true → (u.region g).lost = true ∧ u.adm.isOpen = false ∧ (7, Repair.detour g) ∈ u.flt.todo) ∧ bitOf u.flt.queueM g = true ∧
        (∀ i, i ≠ g → (u.region i).st = (s.region i).st) ∧ u.time = s.time) ∧
    (∀ g y, g < 32 → y = s.region g → y.heatOff = true → y.temp < 9000 →
      ∃ u, exec (.heatRewake g) s = .next u ∧ OnlyRegion s u g ∧
        u.region g = (if (s.updRegion g fun r => { r with heatOff := false }).mayWake g then
            { y with heatOff := false, waking := true, wakeK := 0, wakeMoult := false, wakeTurn := false, wakePt := s.opCeil g }
          else { y with heatOff := false })) ∧
    (∀ g, g < 32 → (s.region g).temp < 11000 ∨ (s.region g).hotSince = 0 → exec (.heatSwitchOff g) s = .next s) ∧
    (∀ g, g < 32 → (s.region g).heatOff = false ∨ 9000 ≤ (s.region g).temp → exec (.heatRewake g) s = .next s)

/-- R358, R359, R363 to R369. In the clauses on verdicts `d` is the oldest dispute, and `rest` those that stay. -/
def Obligations.FaultsStopAndDisputesAreRuled : Prop :=
  ∀ (s : State) (calm : Prop), calm = (s.flt.todo = [] ∧ ∀ g < 32, (s.region g).opNext.length ≤ 1000) →
    (∀ c, s.stopClass = some c →
      ∃ u, exec .faultStop s = .next u ∧ u.flt.stops = s.flt.stops + 1 ∧ u.flt.restart = true ∧ u.adm.isOpen = false ∧ u.beat.abandoned = true ∧
        ((∀ a ∈ s.flt.todo, a.2 = .replay ∨ a.2 = .dispute ∨ a.2.stops = false) → Recorded s u 0x97 0xFF 0 0) ∧ (∀ a ∈ u.flt.todo, a.2.stops = false) ∧
        ((∀ a ∈ s.flt.todo, ∀ id, a.2 ≠ .rewrite id) → (∀ a ∈ s.flt.todo, a.2.stops = false → a ∈ u.flt.todo) ∧
          (∀ g < 32, (u.region g).st = if s.active g then .stopped else (s.region g).st)) ∧
        (∀ t k, (k, Repair.declare t) ∈ s.flt.todo → t < 2688 → (u.tile t).selfFenced = true ∧ (u.strikeOf t).faulty = true)) ∧
    (s.stopClass = none → exec .faultStop s = .next s) ∧
    (∀ g c v dig, g < 32 → s.checkerCore g = some v → s.nextCapture g = some c →
      (dig.toNat = c.dig →
        ∃ u, exec (.checkerRecompute g dig) s = .next u ∧ u.flt = { s.flt with samples := s.flt.samples + 1 } ∧
          u.tile c.tile = { s.tile c.tile with capture := none } ∧ OtherTiles s u c.tile ∧ u.regions = s.regions ∧ u.mem = s.mem) ∧
      (dig.toNat ≠ c.dig →
        ∃ u, exec (.checkerRecompute g dig) s = .next u ∧ Recorded s u 0x91 g c.dig dig.toNat ∧
          u.tile c.tile = { s.tile c.tile with capture := none } ∧ OtherTiles s u c.tile ∧ u.regions = s.regions ∧ u.mem = s.mem ∧
          u.flt.disputes = s.flt.disputes ++ [⟨false, c.tile, false, c.ix + c.loop * 2 ^ 16 + c.step * 2 ^ 32, v, c.dig, dig.toNat, s.beat.count, 0⟩] ∧
          (1, Repair.dispute) ∈ u.flt.todo)) ∧
    (∀ g c, g < 32 → s.nextCapture g = some c → s.beat.nextMark ≤ s.time.now + 200000 ∨ s.checkerCore g = none →
      ∃ u, exec (.recomputeDrop g) s = .next u ∧ u.tile c.tile = { s.tile c.tile with capture := none } ∧ OtherTiles s u c.tile ∧
        u.flt.skipped = s.flt.skipped + 1 ∧ u.mem = s.mem ∧ ((s.region g).dropSeen ≠ s.beat.count + 1 → Recorded s u 0x9D g 0 0) ∧
        ((s.region g).dropSeen = s.beat.count + 1 → u.flt.log = s.flt.log)) ∧
    (∀ d rest v o, s.flt.disputes = d :: rest → s.beat.abandoned = false → o = v.r.toNat →
      (∃ u, exec (.disputeVerdict v) s = .next u ∧ u.flt.disputes = rest) ∧
      (d.noSecond = false → o ≠ d.orig → v.s = some v.r → 1 ≤ (s.repeatCores d).length →
        ∃ u, exec (.disputeVerdict v) s = .next u ∧ Recorded s u 0x92 (unitRegion d.producer) 0 0 ∧
          (u.strikeOf d.producer).transients = min 255 (1 + (s.strikeOf d.producer).transients) ∧ u.flt.stops = s.flt.stops ∧ u.mem = s.mem) ∧
      (∀ x, d.noSecond = false → o ≠ d.orig → v.s = some x → x.toNat = d.orig → 1 ≤ (s.repeatCores d).length →
        ∃ u, exec (.disputeVerdict v) s = .next u ∧ (calm → Recorded s u 0x92 (unitRegion d.producer) 0 0) ∧
          u.flt.stops = s.flt.stops + 1 ∧ u.flt.transients = s.flt.transients + 1) ∧
      (d.noSecond = false → o = d.orig → d.digest = false → v.s = some v.r → 1 ≤ (s.repeatCores d).length →
        ∃ u, exec (.disputeVerdict v) s = .next u ∧ Recorded s u 0x95 (unitRegion d.producer) 0 0 ∧ u.flt.suspect = s.flt.suspect + 1 ∧
          u.flt.stops = s.flt.stops) ∧
      (∀ x, d.noSecond = false → o = d.orig → d.digest = false → v.s = some x → v.t = some x → x.toNat ≠ d.orig → 2 ≤ (s.repeatCores d).length →
        ∃ u, exec (.disputeVerdict v) s = .next u ∧ (calm → Recorded s u 0x93 (unitRegion d.producer) 0 0) ∧
          u.flt.stops = s.flt.stops + 1 ∧ s.flt.strikes < u.flt.strikes) ∧
      (d.noSecond = false → o ≠ d.orig → v.s = none ∨ s.secondCore d = none →
        ∃ u, exec (.disputeVerdict v) s = .next u ∧ (calm → Recorded s u 0x96 (unitRegion d.producer) 0 0) ∧
          u.flt.unresolved = s.flt.unresolved + 1 ∧ u.flt.stops = s.flt.stops + 1)) ∧
    (s.flt.disputes = [] ∨ s.beat.abandoned = true → ∀ v, exec (.disputeVerdict v) s = .next s) ∧
    (∀ d rest, s.flt.disputes = d :: rest →
      (4 ≤ d.age → ∃ u, exec .disputeTimeout s = .next u ∧ u.flt.disputes = rest ∧ (calm → Recorded s u 0x96 (unitRegion d.producer) 0 0) ∧
        u.flt.unresolved = s.flt.unresolved + 1) ∧
      (d.age < 4 → exec .disputeTimeout s = .next s))

/-- R371 to R375. -/
def Obligations.InstarsMoultsAndDeviceFaults : Prop :=
  ∀ (s : State),
    (s.boot.done = true → s.boot.commitDue ≠ [] →
      ∃ u, exec .instarCommit s = .next u ∧ u.instar = s.instar + 1 ∧ u.fp.valid = true ∧ u.boot.commitDue = [] ∧ u.img.load = none ∧
        u.boot.hctr = s.boot.hctr + 1 ∧ u.hnd (8 * 2 ^ 56 + s.boot.hctr) = ⟨2, 0, 0, 16, 32⟩ ∧ Recorded s u 0x98 0xFF 0 0 ∧
        (∀ t, s.boot.commitDue = [⟨1, 0, t⟩] → t ∈ u.fp.fenced ∧ ∀ i, i ≠ t → (i ∈ u.fp.fenced ↔ i ∈ s.fp.fenced)) ∧
        (s.img.load = none → s.train.writing = none → (∀ c ∈ s.flt.todo, ∀ j, c.2 ≠ .stack j) → u.regions = s.regions ∧ u.mem = s.mem ∧ u.reqs = s.reqs ∧ u.engines = s.engines)) ∧
    (s.boot.done = false ∨ s.boot.commitDue = [] → exec .instarCommit s = .next s) ∧
    (∀ k x g i kd, OperatorSession s k → k ≠ 32 → i < 32 → g = s.setting 0x3400 2 % 32 → kd = (if bitOf s.flt.retest g then 7 else 6) →
      s.moultBarred = false → (s.region g).moult = none → s.noWork g = true →
      (s.moultRoom g = true →
        ∃ u, exec (.moult k x i) s = .next u ∧ Invoked s u k x 0x3400 1 kd ∧ OtherRegions s u g ∧
          (u.region g).moult = some ⟨1, kd * 2 ^ 56 + s.boot.hctr, [], 0, []⟩ ∧ (u.region g).waking = true ∧ (u.region g).wakeMoult = true ∧
          (u.region g).st = (if (s.region g).st.code < 2 then .dark else (s.region g).st) ∧
          (kd = 6 → bitOf u.flash.moultMk g = true) ∧ (kd = 7 → bitOf u.flash.retestMk g = true) ∧ u.time = s.time ∧ u.reqs = s.reqs) ∧
      (s.moultRoom g = false →
        ∃ u, exec (.moult k x i) s = .next u ∧ Invoked s u k x 0x3400 1 kd ∧ OnlyRegion { s with boot := u.boot, fordan := u.fordan, flt := u.flt } u g ∧
          u.region g = { s.region g with moult := some ⟨0, kd * 2 ^ 56 + s.boot.hctr, [], 0, []⟩ } ∧ bitOf u.flt.queueM g = true)) ∧
    (∀ k x g i, OperatorSession s k → k ≠ 32 → i < 32 → g = s.setting 0x3400 2 % 32 →
      s.moultBarred = true ∨ (s.region g).moult.isSome = true →
      ∃ u, exec (.moult k x i) s = .next u ∧ { u with fordan := s.fordan } = s ∧ Answered u k x 6 0x0A 0x3400 1 (leBytes 4 0x9C)) ∧
    (∀ g x, g < 32 → s.boot.done = true → s.moultBarred = false → (s.region g).moult = none → bitOf s.flt.queueM g = true → s.moultRoom g = true →
      s.noWork g = true → s.setting 0x3400 3 = 1 → bitOf s.flt.retest g = false →
      ∃ u, exec (.moult 32 x g) s = .next u ∧ (u.region g).moult = some ⟨1, 6 * 2 ^ 56 + s.boot.hctr, [], 0, []⟩ ∧ (u.region g).waking = true ∧
        bitOf u.flt.queueM g = false ∧ bitOf u.flash.moultMk g = true ∧ OtherRegions s u g) ∧
    (∀ g res m, g < 32 → (s.region g).moult = some m → (s.region g).st = .moulting → 1 ≤ m.phase → m.phase ≤ 7 →
      (m.phase ≠ 1 ∨ res.short = false →
        ∃ u n, exec (.moultPhaseDone g res) s = .next u ∧ OnlyRegion s u g ∧ u.region g = { s.region g with moult := some n } ∧
          n.phase = m.phase + 1 ∧ n.handle = m.handle ∧
          (∀ t, t ∈ n.badTiles ↔ t ∈ m.badTiles ∨ (t ∈ res.tiles ∧ t < 2688 ∧ tileRegion t = g)) ∧ (m.phase ≠ 1 → n.badPhases = m.badPhases)) ∧
      (m.phase = 1 → res.short = true →
        ∃ u, exec (.moultPhaseDone g res) s = .next u ∧ (u.region g).st = .unusable ∧ (u.region g).moult = none ∧ (u.region g).moultRes = 3 ∧
          OtherRegions s u g ∧ Recorded s u 0x9C g 0 0 ∧ ⟨8, 5, g⟩ ∈ u.boot.commitDue ∧ (m.handle ≠ 0 → (u.hnd m.handle).st = 3 ∧ (u.hnd m.handle).code = 0x9C))) ∧
    (∀ g m, g < 32 → (s.region g).moult = some m → (s.region g).st = .moulting → m.phase = 8 →
      ∃ u, exec (.moultComplete g) s = .next u ∧ (u.region g).moult = none ∧ (u.region g).moultLast = s.time.now ∧ Recorded s u 0x9B g 0 0 ∧
        (u.hnd m.handle).st = 2 ∧ u.instar = s.instar + 1 ∧ (∀ t ∈ regionTiles g, u.strikeOf t = Strike.none) ∧
        bitOf u.flash.moultMk g = false ∧ bitOf u.flash.retestMk g = false ∧ bitOf u.flt.queueM g = false ∧
        ((∃ t ∈ regionTiles g, tileKind t = .s ∧ t ∉ m.badTiles ∧ t ∉ m.noSpare) → (u.region g).st = .dark ∧
          (u.region g).moultRes = (if m.badTiles = [] ∧ m.noSpare = [] ∧ m.badPhases = 0 then 1 else 2)) ∧
        ((∀ t ∈ regionTiles g, tileKind t = .s → t ∈ m.badTiles ∨ t ∈ m.noSpare) → (u.region g).st = .unusable ∧ (u.region g).moultRes = 3)) ∧
    (∀ c, c < 3 → s.flt.whole = false →
      ∃ u, exec (.wholeDeviceFault c) s = .next u ∧ u.flt.whole = true ∧ ((∀ g < 32, (s.region g).opNext.length ≤ 1000) → Recorded s u 0x9E 0xFF c 0) ∧ bitOf u.csr.alertSrc 0 = true ∧
        u.adm.isOpen = false ∧ u.beat.abandoned = true ∧ (∀ g < 32, 2 ≤ (u.region g).st.code) ∧
        (∀ r q, s.req r = some q → q.live = true → ∃ p, u.req r = some p ∧ p.phase = .cancelling ∧ p.endR = if q.endR = 0 then 0x45 else q.endR) ∧
        (c = 1 → u.boot.meterStop = true ∧ u.boot.attOff = true) ∧ (c ≠ 1 → u.boot.meterStop = s.boot.meterStop) ∧ u.flash.fp0 = s.flash.fp0) ∧
    (s.flt.whole = true → ∀ c, exec (.wholeDeviceFault c) s = .next s)

/-- R272, R376 to R378, R381; `k` is the operator's session, `x` the transaction. -/
def Obligations.TrainingStepsAndSnapshots : Prop :=
  ∀ (s : State),
    (∀ tid, s.trains = true → s.mirrored tid = true →
      ((∃ id ∈ s.halfRows tid s.train.step, Tab.get 0 s.bad id ≠ 0) →
        ∃ u, exec (.mirrorCopy tid) s = .next u ∧ u.train = s.train ∧ u.mem = s.mem ∧ u.img = s.img) ∧
      ((∀ id ∈ s.halfRows tid s.train.step, Tab.get 0 s.bad id = 0) → ∃ u, exec (.mirrorCopy tid) s = .next u ∧ { u with train := s.train } = s ∧ Tab.get 0 u.train.mirrors tid = s.train.step + 1 ∧
        { u.train with mirrors := [], mirrorRows := [], late := [] } = { s.train with mirrors := [], mirrorRows := [], late := [] } ∧
        Tab.get [] u.train.mirrorRows (mirrorKey tid s.train.step) = s.halfBytes tid s.train.step ∧
        (∀ i, i ≠ tid → Tab.get 0 u.train.mirrors i = Tab.get 0 s.train.mirrors i)) ∧
      (Tab.get 0 s.train.mirrors tid ≠ s.train.step + 1 → tid ∉ s.train.late →
        ∃ u, exec (.mirrorLate tid) s = .next u ∧ RecordedLast s u 0xC7 0xFF tid 0 ∧ tid ∈ u.train.late ∧ Tab.get 0 u.train.mirrors tid = 0 ∧
          { u with train := s.train, flt := s.flt, csr := s.csr, fordan := s.fordan } = s)) ∧
    (∀ tid, s.trains = false ∨ s.mirrored tid = false → exec (.mirrorCopy tid) s = .next s ∧ exec (.mirrorLate tid) s = .next s) ∧
    (∀ k x st ix data, OperatorSession s k → s.trainOpen = true →
      ∃ u, exec (.batch k x st ix data) s = .next u ∧ { u with train := s.train, fordan := s.fordan } = s ∧ Answered u k x 4 0 0x7800 0x10 [] ∧
        (st, ix, data) ∈ u.train.batches ∧ (∀ b ∈ u.train.batches, b.1 = st → b.2.1 = ix → b.2.2 = data) ∧
        (∀ b ∈ s.train.batches, b.1 ≠ st ∨ b.2.1 ≠ ix → b ∈ u.train.batches) ∧
        Tab.get 0 u.train.data st = (if Tab.get 0 s.train.data st = 0 then ix + 1 else Tab.get 0 s.train.data st)) ∧
    (∀ k x, OperatorSession s k →
      (s.img.load = none → s.trainOpen = true → s.trains = true → s.train.snapReq = none →
        ∃ u, exec (.checkpoint k x) s = .next u ∧ Invoked s u k x 0x7800 8 4 ∧
          u.train = { s.train with snapReq := some (4 * 2 ^ 56 + s.boot.hctr) } ∧ { u with train := s.train, boot := s.boot, fordan := s.fordan } = s) ∧
      (s.img.load.isSome = true →
        ∃ u, exec (.checkpoint k x) s = .next u ∧ { u with fordan := s.fordan } = s ∧ Answered u k x 6 0x0A 0x7800 8 (leBytes 4 0x8B))) ∧
    (∀ loss, s.trains = true → s.beat.abandoned = false → loss < 2 ^ 32 → s.mirrorDiffers = none →
      (∃ u, exec (.chrysalisCommit loss) s = .next u ∧ u.train.step = s.train.step + 1 ∧ u.train.lastLoss = loss ∧
        (s.train.step + 1, loss) ∈ u.train.losses ∧ u.train.verifyLeft = s.train.verifyLeft - 1 ∧ u.train.late = [] ∧ u.train.st = 1 ∧
        u.mem = s.mem ∧ u.time = s.time ∧
        (s.train.writing = none → u.tiles = s.tiles ∧ u.regions = s.regions ∧ u.train.slotA = s.train.slotA ∧ u.train.slotB = s.train.slotB ∧
          (∀ h, s.train.snapReq = some h → u.train.writing = some (s.train.older, h) ∧ u.train.snapReq = none))) ∧
      (∀ i h b, s.train.writing = some (i, h) → i < 2 → h ≠ 4 * 2 ^ 56 + s.boot.hctr → s.stateRows s.train.step s.train.data = (s, some b) →
        ∃ u c, exec (.chrysalisCommit loss) s = .next u ∧ u.train.slot i = some c ∧ u.train.slot (1 - i) = s.train.slot (1 - i) ∧
          c.step = s.train.step ∧ c.loss = loss ∧ c.handle = h ∧ c.time = s.time.now ∧ c.image = s.img.content ∧
          c.state = b ∧ c.hash = sha512 c.state ∧ bitOf c.flags 0 = s.train.verifying ∧
          Recorded s u 0xC1 0xFF 0 0 ∧ (u.hnd h).st = 2) ∧
      (∀ i h, s.train.writing = some (i, h) → i < 2 → (s.stateRows s.train.step s.train.data).2 = none →
        ∃ u, exec (.chrysalisCommit loss) s = .next u ∧ u.train.slot i = none ∧ u.train.slot (1 - i) = s.train.slot (1 - i) ∧
          Recorded s u 0xC2 0xFF 0 0 ∧ u.train.writing = some (u.train.older, h))) ∧
    (∀ loss i h t c b, s.trains = true → s.beat.abandoned = false → s.mirrorDiffers = some t → s.train.writing = some (i, h) → i < 2 →
      h ≠ 5 * 2 ^ 56 + s.boot.hctr → s.stateRows s.train.step s.train.data = (s, some b) → s.train.slot (1 - i) = some c → c.step < s.train.step →
      ∃ u, exec (.chrysalisCommit loss) s = .next u ∧ Recorded s u 0xC1 0xFF 0 0 ∧ Recorded s u 0xC6 0xFF t 0 ∧ u.train.st = 3 ∧
        u.train.step = c.step ∧ u.train.restoring = some (1 - i, c.step, 5 * 2 ^ 56 + s.boot.hctr) ∧ u.train.slot (1 - i) = some c ∧
        (u.train.slot i).isSome = true ∧ u.train.mirrors = [] ∧ (u.hnd h).st = 2 ∧ u.mem = (s.putStateRows c).mem ∧ u.time = s.time) ∧
    (∀ loss, s.trains = false ∨ s.beat.abandoned = true → exec (.chrysalisCommit loss) s = .next s)

/-- R379 to R382; `k` is the operator's session, `x` the transaction. -/
def Obligations.TrainingRestoresAreVerified : Prop :=
  ∀ (s : State) (h : Nat),
    (∀ k x i c, OperatorSession s k → h = 5 * 2 ^ 56 + s.boot.hctr → s.img.load = none → s.trainOpen = true → s.train.restoring = none →
      s.train.st ≠ 4 → s.train.writing = none →
      (s.setting 0x7800 0x0A = i ∧ i < 2) ∨ (s.setting 0x7800 0x0A = 2 ∧ s.train.newest = some i) → s.train.slot i = some c →
      ∃ u, exec (.restore k x) s = .next u ∧ Invoked s u k x 0x7800 9 5 ∧ u.train.st = 3 ∧ u.train.step = c.step ∧
        u.train.restoring = some (i, c.step, h) ∧ u.train.replayed = false ∧ i ∈ u.train.tried ∧ u.train.mirrors = [] ∧ u.train.data = c.data ∧
        u.train.slotA = s.train.slotA ∧ u.train.slotB = s.train.slotB ∧ u.mem = (s.putStateRows c).mem ∧ u.bad = (s.putStateRows c).bad ∧
        u.regions = s.regions ∧ u.flash = s.flash ∧ u.time = s.time ∧ u.reqs = s.reqs ∧ u.img = s.img ∧
        (s.trainStreams = [] → { u with train := s.train, boot := s.boot, fordan := s.fordan, mem := s.mem, bad := s.bad } = s)) ∧
    (∀ k x, OperatorSession s k → s.img.load = none → s.trainOpen = true → s.train.restoring = none → s.setting 0x7800 0x0A = 3 →
      s.importOf (s.blob 0x7800 0x0D) = none →
      ∃ u, exec (.restore k x) s = .next u ∧ { u with fordan := s.fordan } = s ∧ Answered u k x 6 0x0A 0x7800 9 (leBytes 4 0xC8)) ∧
    (∀ i j loss, s.train.restoring = some (i, j, h) → s.trainState = 2 → s.beat.abandoned = false → loss < 2 ^ 32 →
      (s.train.lossOf (j + 1) = some loss →
        ∃ u, exec (.verificationReplay loss) s = .next u ∧ u.train.st = 1 ∧ u.train.restoring = none ∧ u.train.restores = s.train.restores + 1 ∧
          u.train.step = s.train.step + 1 ∧ u.train.lastLoss = loss ∧ Recorded s u 0xC3 0xFF 0 0 ∧ (u.hnd h).st = 2 ∧
          u.mem = s.mem ∧ u.tiles = s.tiles ∧ u.regions = s.regions) ∧
      (∀ l c, s.train.lossOf (j + 1) ≠ some loss → l < 2 → s.train.slot l = some c → l ∉ s.train.tried →
        (1 - l ∈ s.train.tried ∨ s.train.slot (1 - l) = none) →
        ∃ u, exec (.verificationReplay loss) s = .next u ∧ Recorded s u 0xC4 0xFF 0 0 ∧ u.train.restoring = some (l, c.step, h) ∧
          u.train.fallbacks = s.train.fallbacks + 1 ∧ u.mem = (s.putStateRows c).mem ∧ u.train.step = c.step) ∧
      (s.train.lossOf (j + 1) ≠ some loss → (∀ l < 2, s.train.slot l = none ∨ l ∈ s.train.tried) → h ≠ 0 →
        ∃ u, exec (.verificationReplay loss) s = .next u ∧ Recorded s u 0xC4 0xFF 0 0 ∧ Recorded s u 0xC5 0xFF 0 0 ∧ u.train.st = 4 ∧
          u.train.restoring = none ∧ (u.hnd h).st = 3 ∧ (u.hnd h).code = 0xC5 ∧ u.mem = s.mem)) ∧
    (∀ loss, s.train.restoring = none ∨ s.trainState ≠ 2 ∨ s.beat.abandoned = true → exec (.verificationReplay loss) s = .next s) ∧
    (∀ k x i c, OperatorSession s k → s.boot.attOff = false → s.trainOpen = true → s.train.newest = some i → s.train.slot i = some c →
      ∃ u, exec (.chrysalisExport k x) s = .next u ∧ { u with train := s.train, boot := s.boot, fordan := s.fordan } = s ∧
        u.train = { s.train with exportData := c.row i ++ c.state ++ ecdsaSign attestationKey (sha512 (c.row i)) } ∧
        Answered u k x 6 0 0x7800 0x0B (leBytes 8 (4 * 2 ^ 56 + s.boot.hctr)) ∧ (u.hnd (4 * 2 ^ 56 + s.boot.hctr)).st = 2) ∧
    (∀ k x, OperatorSession s k → s.train.newest = none ∨ s.trainOpen = false ∨ s.boot.attOff = true →
      ∃ u, exec (.chrysalisExport k x) s = .next u ∧ { u with fordan := s.fordan } = s ∧ Answered u k x 6 0x0A 0x7800 0x0B (leBytes 4 0))

/-- R387, R408, R436, R437. -/
def Obligations.PowerComesAndGoes : Prop :=
  ∀ (s : State), Memory.wf s.mem = true →
    (s.boot.supply = .off → s.boot.vinOk = true → s.boot.latched = false →
      ∃ u, exec .pwrEnHigh s = .next u ∧ { u with pins := s.pins, boot := s.boot } = s ∧ u.pins = { s.pins with pwrEn := true } ∧
        u.boot = { s.boot with
          supply := .rising, cause := (if s.boot.supplyFault then 6 else 1), causeHeld := true, supplyFault := false
          abandoned := 2 ^ 31 + s.boot.abandoned % 2 ^ 14 }) ∧
    (s.boot.supply ≠ .off ∨ s.boot.vinOk = false ∨ s.boot.latched = true →
      exec .pwrEnHigh s = .next { s with pins := { s.pins with pwrEn := true } }) ∧
    (s.boot.supply = .off → s.pins.pwrEn = true → s.boot.latched = false →
      ∃ u, exec .startThresholdMet s = .next u ∧ { u with boot := s.boot } = s ∧ u.boot.supply = .rising ∧ u.boot.vinOk = true ∧
        u.boot.cause = (if s.boot.supplyFault then 6 else 1) ∧ u.boot.supplyFault = false) ∧
    (s.boot.supply ≠ .off ∨ s.pins.pwrEn = false ∨ s.boot.latched = true →
      exec .startThresholdMet s = .next { s with boot := { s.boot with vinOk := true } }) ∧
    (s.boot.supply = .rising → exec .powerGood s = .next { s with boot := { s.boot with supply := .on, pg := true } }) ∧
    (s.boot.supply ≠ .rising → exec .powerGood s = .next s) ∧
    (s.boot.supply = .on ∨ s.boot.supply = .rising →
      (∃ u, exec .pwrEnLow s = .next u ∧ WasReset s u ∧ u.boot.supply = .falling ∧ u.boot.pg = false ∧ u.boot.latched = false ∧
        u.pins = { s.pins with pwrEn := false, thermtrip := false } ∧ u.boot.cause = s.boot.cause ∧ u.boot.abandoned = s.flashKinds ∧
        u.boot.supplyFault = s.boot.supplyFault) ∧
      (∀ o, ∃ u, exec (.inputStop o) s = .next u ∧ WasReset s u ∧ u.boot.supply = .falling ∧ u.boot.pg = false ∧ u.boot.vinOk = false ∧
        u.boot.supplyFault = s.pins.vsb ∧ u.pins = { s.pins with thermtrip := false })) ∧
    (s.boot.supply = .off ∨ s.boot.supply = .falling →
      exec .pwrEnLow s = .next { s with pins := { s.pins with pwrEn := false }, boot := { s.boot with latched := false } } ∧
      ∀ o, exec (.inputStop o) s = .next { s with boot := { s.boot with vinOk := false } }) ∧
    (s.boot.supply = .falling →
      ∃ u, exec .powerDownEnd s = .next u ∧ { u with mem := s.mem, bad := s.bad, boot := s.boot } = s ∧ u.mem = [] ∧ u.bad = [] ∧
        (s.mayPowerUp = false → u.boot = { s.boot with supply := .off }) ∧ (s.mayPowerUp = true → u.boot.supply = .rising)) ∧
    (s.boot.supply ≠ .falling → exec .powerDownEnd s = .next s)

/-- R388, R389, R408, R435, R438, R439, R441. -/
def Obligations.ResetsAndTheReleaseEdge : Prop :=
  ∀ (s : State), Memory.wf s.mem = true →
    (∀ c n, s.boot.supply = .on → (c, n) ∈ [(Instr.mrstN true, 2), (Instr.watchdogExpiry, 4), (Instr.jtagReset, 5)] →
      (n = 4 → s.boot.wd = true) → (n = 5 → s.pins.vsb = true) →
      ∃ u, exec c s = .next u ∧ WasReset s u ∧ u.boot.supply = .on ∧ u.boot.cause = (if s.boot.causeHeld then s.boot.cause else n) ∧
        u.boot.abandoned = (if s.boot.rst then s.boot.abandoned else (s.boot.retention ||| s.flashKinds) % 2 ^ 14) ∧
        u.pins = { s.pins with thermtrip := false, mrstN := if n = 2 then false else s.pins.mrstN }) ∧
    (exec (.mrstN false) s = .next { s with pins := { s.pins with mrstN := true } }) ∧
    (s.boot.supply ≠ .on → exec (.mrstN true) s = .next { s with pins := { s.pins with mrstN := false } } ∧ exec .watchdogExpiry s = .next s ∧
      exec .jtagReset s = .next s) ∧
    (∀ k x, OperatorSession s k → s.boot.supply = .on → s.flash.epoch < 2 ^ 32 →
      ∃ u, exec (.resetReq k x s.flash.epoch) s = .next u ∧ WasReset s u ∧ Accepted u k x 0x1800 5 ∧
        u.boot.cause = if s.boot.causeHeld then s.boot.cause else 3) ∧
    (∀ k x v, OperatorSession s k → v ≠ s.flash.epoch → v < 2 ^ 32 →
      ∃ u, exec (.resetReq k x v) s = .next u ∧ { u with fordan := s.fordan } = s ∧ Answered u k x 2 0x0A 0x1800 5 (leBytes 4 0)) ∧
    (s.boot.rst = true → s.boot.pg = true → s.pins.mrstN = true → s.boot.supply = .on →
      ∃ u, exec .releaseEdge s = .next u ∧ { u with boot := s.boot, pwr := s.pwr, therm := s.therm } = s ∧ u.boot.rst = false ∧ u.boot.step = 1 ∧
        u.boot.causeHeld = false ∧ u.boot.cause = s.boot.cause ∧ u.boot.hctr = 10 ∧ u.boot.retention = 2 ^ 10 ∧
        (∀ n, 1 ≤ n → n ≤ 9 → u.hnd (0x0A * 2 ^ 56 + n) = ⟨1, 0, 0, 16, 32⟩) ∧ u.pwr = { s.pwr with pcap := !s.pins.pcapN } ∧
        u.therm = { s.therm with coolant := s.pins.coolantOk }) ∧
    (s.boot.rst = false ∨ s.boot.pg = false ∨ s.pins.mrstN = false → exec .releaseEdge s = .next s) ∧
    (exec .vsb3v3Loss s = .next { s with
      pins := { s.pins with vsb := false }, boot := { s.boot with supplyFault := false }, i2c := State.reset.i2c, jtag := State.reset.jtag }) ∧
    (exec .vsb3v3Return s = .next { s with pins := { s.pins with vsb := true } })

/-- R389, R390, R392, R395 to R397, R404. -/
def Obligations.BringUpStepsOneToFive : Prop :=
  ∀ (s : State),
    (∀ selfTest puf met att, StepAt s 1 →
      ∃ u, exec (.bringupStepEnd (.cocoon selfTest puf met att)) s = .next u ∧
        { u with boot := s.boot, flt := s.flt, csr := s.csr, fordan := s.fordan } = s ∧
        (selfTest = false → HaltedAt s u 1 ∧ Recorded s u 0xD2 0xFF 0 0) ∧
        (selfTest = true → puf = false → HaltedAt s u 1 ∧ Recorded s u 0xD1 0xFF 0 0) ∧
        (selfTest = true → puf = true → StepEnded u 1 0 ∧ u.boot.step = 2 ∧ u.boot.halted = none ∧
          u.boot.meterStop = (s.boot.meterStop || !met) ∧ u.boot.attOff = (s.boot.attOff || !att) ∧
          (met = false → Recorded s u 0xD5 0xFF 0 0) ∧ (att = false → Recorded s u 0xD5 0xFF 1 0))) ∧
    (StepAt s 2 →
      ∃ u, exec (.bringupStepEnd .records) s = .next u ∧
        { u with boot := s.boot, flash := s.flash, flt := s.flt, csr := s.csr, fordan := s.fordan } = s ∧
        (s.flash.cap.valid = false → HaltedAt s u 2 ∧ Recorded s u 0xD3 0xFF 1 0 ∧ u.flash = s.flash) ∧
        (s.flash.cap.valid = true →
          let ok := s.flash.volt.valid && s.fp.marker && s.fp.valid
          u.boot.step = 3 ∧ u.boot.halted = none ∧ u.boot.barred = !ok ∧ StepEnded u 2 (if ok then 0 else 0xD3) ∧
          u.flash = { s.flash with
            epoch := (s.flash.epoch + 1) % 2 ^ 32, lics := s.flash.lics.map fun l => if (s.licCheck l.data).isSome then { l with valid := false } else l } ∧
          (s.flash.lics = [] → s.flash.volt.valid = false → Recorded s u 0xD3 0xFF 2 0))) ∧
    (StepAt s 3 →
      ∃ u, exec (.bringupStepEnd .boot) s = .next u ∧
        { u with boot := s.boot, flash := s.flash, flt := s.flt, csr := s.csr, fordan := s.fordan } = s ∧
        (∀ i < 2, (s.flash.bank i).st = 2 ∨ (s.flash.bank i).st = 3 → (s.flash.bank i).good = false → Recorded s u 0xE1 0xFF i 0) ∧
        (s.bestBank = none → HaltedAt s u 3 ∧ u.flash = s.flash) ∧
        (∀ i, s.bestBank = some i → (s.flash.bank i).st = 2 → (s.flash.bank i).tried = true → (u.flash.bank i).st = 4 ∧ Recorded s u 0xE2 0xFF i 0) ∧
        (∀ i, s.bestBank = some i → (s.flash.bank i).st ≠ 2 ∨ (s.flash.bank i).tried = false →
          u.boot.bank = i ∧ u.boot.step = 4 ∧ u.boot.halted = none ∧ StepEnded u 3 0 ∧
          u.flash.bank i = { s.flash.bank i with tried := (s.flash.bank i).tried || decide ((s.flash.bank i).st = 2) })) ∧
    (∀ failed, StepAt s 4 →
      ∃ u, exec (.bringupStepEnd (.hbm failed)) s = .next u ∧
        { u with boot := s.boot, stks := s.stks, flash := s.flash, flt := s.flt, csr := s.csr, fordan := s.fordan } = s ∧
        { u.flash with strikes := s.flash.strikes } = s.flash ∧
        (∀ k < 24, let w := Tab.get 0 s.fp.stks k; let y := s.stack k; let n := min y.weakRows.length (Config.hbmSpares k - y.spares)
          (bitOf s.flash.cap.stackMask k = true → w % 256 ≠ 0 → { u.stack k with st := 0, live := 0 } =
            { Stack.init with st := 0, live := 0, weakRows := y.weakRows.drop n, spares := y.spares + n }) ∧
          (bitOf s.flash.cap.stackMask k = false ∨ w % 256 = 0 → u.stack k = Stack.init) ∧
          (bitOf s.flash.cap.stackMask k = true → w % 256 ≠ 0 → w % 256 ≠ 3 →
            (∀ c < 16, bitOf (u.stack k).live c = (bitOf (w / 256) c && !failed.contains (k, c))) ∧
            (u.stack k).st = if popCount32 (u.stack k).live < 14 then 3 else 1)) ∧
        (((∃ k < 24, k % 2 = 0 ∧ (u.stack k).st = 1) ∧ (∃ k < 24, k % 2 = 1 ∧ (u.stack k).st = 1)) →
          u.boot.step = 5 ∧ u.boot.halted = none ∧ StepEnded u 4 0) ∧
        ((∀ k < 24, k % 2 = 0 → (u.stack k).st ≠ 1) ∨ (∀ k < 24, k % 2 = 1 → (u.stack k).st ≠ 1) → HaltedAt s u 4)) ∧
    (StepAt s 5 →
      (∃ u, exec (.bringupStepEnd (.supervisor true)) s = .next u ∧ { u with boot := s.boot, fordan := s.fordan } = s ∧ u.boot.wd = true ∧
        u.boot.step = 6 ∧ u.boot.halted = none ∧ StepEnded u 5 0) ∧
      (Memory.wf s.mem = true → s.boot.supply = .on →
        ∃ u, exec (.bringupStepEnd (.supervisor false)) s = .next u ∧ WasReset s u ∧ u.boot.cause = if s.boot.causeHeld then s.boot.cause else 4)) ∧
    (∀ n, 1 ≤ n → n ≤ 4 → StepAt s n → ∃ u, exec (.bringupStepTimeout n) s = .next u ∧ HaltedAt s u n ∧
      { u with boot := s.boot, flt := s.flt, csr := s.csr, fordan := s.fordan } = s) ∧
    (∀ res, s.boot.halted ≠ none ∨ s.boot.done = true ∨ s.boot.rst = true → exec (.bringupStepEnd res) s = .next s) ∧
    (∀ n, s.boot.halted ≠ none ∨ s.boot.done = true ∨ s.boot.rst = true → exec (.bringupStepTimeout n) s = .next s)

/-- R389, R390, R405 to R407. -/
def Obligations.BringUpStepsSixToNine : Prop :=
  ∀ (s : State),
    (∀ a b, StepAt s 6 →
      ∃ u, exec (.bringupStepEnd (.mgmt a b)) s = .next u ∧ { u with boot := s.boot, flt := s.flt, csr := s.csr, fordan := s.fordan } = s ∧
        u.boot.step = 8 ∧ u.boot.lane = (if a then 0 else if b then 1 else 0xFF) ∧ StepEnded u 6 (if a || b then 0 else 0xD7) ∧
        (a = false → b = false → Recorded s u 0xD7 0xFF 0xFF 0 ∧ bitOf u.csr.alertSrc 2 = true)) ∧
    (∀ at200 at100, s.boot.halted = none → s.boot.done = false → s.boot.rst = false → 6 ≤ s.boot.step → s.boot.s7 = false →
      ∃ u, exec (.bringupStepEnd (.front at200 at100)) s = .next u ∧
        { u with boot := s.boot, ports := s.ports, flt := s.flt, csr := s.csr, fordan := s.fordan } = s ∧
        u.boot.s7 = true ∧ u.boot.step = s.boot.step ∧ u.boot.done = false ∧
        (∀ l < 16,
          (s.cfgWidth l = 0 → u.port l = s.port l) ∧
          (cfgForm l (s.cfgWidth l) = true → s.cfgWidth l ≠ 0 → (∀ i < s.cfgWidth l / 200, l + i ∈ at200) →
            u.port l = { s.port l with
              up := true, width := s.cfgWidth l, lanes := (2 ^ (s.cfgWidth l / 200) - 1) * 2 ^ l, rate := 200, retr := none }) ∧
          (s.cfgWidth l ≠ 0 → (∀ i < s.cfgWidth l / 200, l + i ∉ at200 ∧ l + i ∉ at100) →
            u.port l = { s.port l with up := false, width := 0, lanes := 0, rate := 0, retr := none } ∧ Recorded s u 0xD8 0xFF l 0) ∧
          (s.cfgWidth l ≠ 0 → u.portEntry l ≠ Tab.get 0 s.fp.ports l → (⟨9, 0, l⟩ : LogItem) ∈ u.boot.commitDue)) ∧
        StepEnded u 7 (if ((upTo 16).any fun l => decide ((u.port l).width < s.cfgWidth l)) then 0xD8 else 0)) ∧
    (StepAt s 8 →
      ∃ u, exec (.bringupStepEnd .time) s = .next u ∧ { u with boot := s.boot, fordan := s.fordan, fields := s.fields } = s ∧ u.boot.step = 9 ∧
        StepEnded u 8 0 ∧ ∀ f < 16, u.field f = { s.field f with delay := Config.branchDelay f 0 }) ∧
    (StepAt s 9 → s.boot.s7 = true → s.img.load = none → s.pins.coolantOk = true →
      (∀ c ∈ s.flt.todo, ∀ j, c.2 ≠ .stack j) →
      ∃ u, exec (.bringupStepEnd .floor) s = .next u ∧ u.mem = s.mem ∧ u.parts = s.parts ∧ u.reqs = s.reqs ∧ u.ports = s.ports ∧ u.time = s.time ∧
        u.boot.done = true ∧ u.boot.step = 0x0F ∧ u.boot.lastCode = 0xD9 ∧ u.boot.commitDue = [] ∧ StepEnded u 9 0 ∧ Recorded s u 0xD9 0xFF 0 0 ∧
        u.flash.bank s.boot.bank = { s.flash.bank s.boot.bank with st := 3, tried := false } ∧
        (∀ t ∈ s.fp.fenced, (u.tile t).selfFenced = true) ∧
        (∀ g < 32, let code := Tab.get 0 s.fp.region g
          let marked := bitOf s.flash.moultMk g || bitOf s.flash.retestMk g
          (u.region g).op = 0 ∧ (u.region g).phases = Tab.get 0 s.fp.phases g ∧ u.setting (0x2820 + g) 2 = 0 ∧
          (u.region g).st = (if code = 5 then .unusable else if code = 4 ∨ marked = true then .untested else .dark) ∧
          (code ≠ 5 → code = 4 ∨ marked = true → bitOf u.flt.retest g = true ∧ bitOf u.flt.queueM g = true))) ∧
    (∀ n, n = 8 ∨ n = 9 → exec (.bringupStepTimeout n) s = .next s) ∧
    exec (.bringupStepTimeout 5) s = exec (.bringupStepEnd (.supervisor false)) s ∧
    exec (.bringupStepTimeout 6) s = exec (.bringupStepEnd (.mgmt false false)) s ∧
    exec (.bringupStepTimeout 7) s = exec (.bringupStepEnd (.front [] [])) s

/-- R29, R212, R224, R405, R406. -/
def Obligations.PortsLanesAndChannels : Prop :=
  ∀ (s : State),
    (∀ k x l, OperatorSession s k → l < 16 → s.boot.hctr < 2 ^ 56 →
      (s.cfgWidth l ≠ 0 → (s.port l).retr = none →
        ∃ u, exec (.frontPortRetrain k x l) s = .next u ∧ { u with boot := s.boot, ports := s.ports, fordan := s.fordan } = s ∧
          Invoked s u k x (0x5010 + l) 6 9 ∧ (∀ i, i ≠ l → u.port i = s.port i) ∧
          u.port l = ⟨false, 0, 0, 0, some (9 * 2 ^ 56 + s.boot.hctr)⟩) ∧
      (s.cfgWidth l = 0 ∨ (s.port l).retr.isSome = true →
        ∃ u, exec (.frontPortRetrain k x l) s = .next u ∧ { u with fordan := s.fordan } = s ∧
          Answered u k x 6 0x0A (0x5010 + l) 6 (leBytes 4 0))) ∧
    (∀ k x, OperatorSession s k → s.boot.hctr < 2 ^ 56 →
      let st := s.setting 0x5400 2
      let ch := s.setting 0x5400 3
      (st < 24 → (s.stack st).st = 1 → (s.stack st).retr = none → bitOf (s.stack st).live ch = true →
        ∃ u, exec (.hbmRetrain k x) s = .next u ∧ { u with boot := s.boot, stks := s.stks, fordan := s.fordan } = s ∧
          Invoked s u k x 0x5400 1 9 ∧ OtherStacks s u st ∧ (u.stack st).retr = some ch ∧ (u.stack st).tries = 1 ∧
          (u.stack st).handle = 9 * 2 ^ 56 + s.boot.hctr ∧ (u.stack st).live = (s.stack st).live ∧ (u.stack st).st = 1) ∧
      (24 ≤ st ∨ (s.stack st).st ≠ 1 ∨ (s.stack st).retr.isSome = true ∨ bitOf (s.stack st).live ch = false →
        ∃ u, exec (.hbmRetrain k x) s = .next u ∧ { u with fordan := s.fordan } = s ∧ Answered u k x 6 0x0A 0x5400 1 (leBytes 4 0))) ∧
    (∀ l < 16,
      ((s.port l).retr = none → ∀ lanes rate, exec (.portRetrainComplete l lanes rate) s = .next s) ∧
      (∀ h lanes rate, (s.port l).retr = some h →
        ∃ u, exec (.portRetrainComplete l lanes rate) s = .next u ∧ (∀ i, i ≠ l → u.port i = s.port i) ∧
          (∀ n, (n, rate) ∈ [(4, 200), (2, 200), (1, 200), (4, 100), (2, 100), (1, 100)] →
            ∀ i, i + n ≤ s.cfgWidth l / 200 → (l + i) % n = 0 → s.cfgWidth l ≤ 800 → lanes = (2 ^ n - 1) * 2 ^ (l + i) →
              u.port l = ⟨true, n * rate, lanes, rate, none⟩) ∧
          (lanes = 0 → u.port l = ⟨false, 0, 0, 0, none⟩) ∧
          (u.hnd h).st = 2 ∧ (u.hnd h).code = (if (u.port l).width < s.cfgWidth l then 0xD8 else 0) ∧
          (s.img.load = none → (u.port l).width < s.cfgWidth l → Recorded s u 0xD8 0xFF l 0) ∧
          (s.img.load = none → (∀ c ∈ s.flt.todo, ∀ j, c.2 ≠ .stack j) → u.mem = s.mem ∧ u.regions = s.regions ∧ u.reqs = s.reqs ∧ u.img = s.img ∧ u.parts = s.parts ∧ u.time = s.time ∧ u.pins = s.pins) ∧
          (u.portEntry l ≠ Tab.get 0 s.fp.ports l →
            (s.boot.done = true → u.boot.commitDue = []) ∧ (s.boot.done = false → (⟨9, 0, l⟩ : LogItem) ∈ u.boot.commitDue))) ∧
      ((s.port l).up = true →
        ∃ u, exec (.frontPortDown l) s = .next u ∧ { u with ports := s.ports } = s ∧ (∀ i, i ≠ l → u.port i = s.port i) ∧
          u.port l = ⟨false, 0, 0, 0, (s.port l).retr⟩) ∧
      ((s.port l).up = false → exec (.frontPortDown l) s = .next s)) ∧
    (s.boot.lane < 2 →
      ∃ u, exec .mgmtLaneLoss s = .next u ∧ { u with boot := s.boot, time := s.time, flt := s.flt, csr := s.csr, fordan := s.fordan } = s ∧
        u.boot = { s.boot with lane := 1 - s.boot.lane } ∧ Recorded s u 0xD7 0xFF (1 - s.boot.lane) 0 ∧ bitOf u.csr.alertSrc 2 = true ∧
        u.time.newLane = 16 ∧ u.time.ptpQ = false ∧ u.time.now = s.time.now) ∧
    (2 ≤ s.boot.lane → exec .mgmtLaneLoss s = .next s)

/-- R398, R399. What an image's signature and its SVN are is the model's open value (log entry 15). -/
def Obligations.FirmwareUpdates : Prop :=
  ∀ (s : State),
    (∀ k x q, s.boot.done = true → s.sess k = some q → q.role = .operator ∨ q.role = .vendor → s.boot.hctr < 2 ^ 56 →
      let b := s.blob 0x9000 1
      let bad := s.img.load.isSome = true ∨ s.boot.fwRun.isSome = true ∨ Config.fwVerifies b = false ∨ Config.fwSvn b < s.setting 0x9000 5 ∨
        96 * 2 ^ 20 < b.length ∨ b = []
      ∃ u, exec (.fwUpdate k x) s = .next u ∧ { u with boot := s.boot, flash := s.flash, fordan := s.fordan } = s ∧
        (bad → u.boot = s.boot ∧ u.flash = s.flash ∧ Answered u k x 6 0x0A 0x9000 2 (leBytes 4 0xE3)) ∧
        (¬ bad → Invoked s u k x 0x9000 2 3 ∧ u.boot.fwRun = some (3 * 2 ^ 56 + s.boot.hctr) ∧ u.flash.fwMk = true ∧
          { u.flash with fwMk := s.flash.fwMk, bankA := s.flash.bankA, bankB := s.flash.bankB } = s.flash ∧
          u.flash.bank s.boot.bank = s.flash.bank s.boot.bank ∧
          u.flash.bank (1 - s.boot.bank) = { s.flash.bank (1 - s.boot.bank) with st := 1, good := false })) ∧
    (∀ h, s.boot.fwRun = some h →
      (∃ u, exec (.fwUpdateComplete true) s = .next u ∧
        { u with boot := s.boot, flash := s.flash, flt := s.flt, csr := s.csr, fordan := s.fordan } = s ∧
        u.boot.fwRun = none ∧ (u.hnd h).st = 2 ∧ (u.hnd h).code = 0xE4 ∧ RecordedLast s u 0xE4 0xFF 0 0 ∧
        { u.flash with fwMk := s.flash.fwMk, bankA := s.flash.bankA, bankB := s.flash.bankB } = s.flash ∧ u.flash.fwMk = false ∧
        u.flash.bank s.boot.bank = s.flash.bank s.boot.bank ∧
        let b := s.blob 0x9000 1
        u.flash.bank (1 - s.boot.bank) =
          ⟨2, (s.flash.bank s.boot.bank).gen + 1, false, true, Config.fwSvn b, Config.fwVersion b, sha512 b⟩) ∧
      (∃ u, exec (.fwUpdateComplete false) s = .next u ∧
        { u with boot := s.boot, flash := s.flash, flt := s.flt, csr := s.csr, fordan := s.fordan } = s ∧
        u.boot.fwRun = none ∧ (u.hnd h).st = 3 ∧ (u.hnd h).code = 0xE3 ∧ RecordedLast s u 0xE3 0xFF 0 0 ∧
        u.flash = { s.flash with fwMk := false })) ∧
    (s.boot.fwRun = none → ∀ ok, exec (.fwUpdateComplete ok) s = .next s) ∧
    (∀ k x v, OperatorSession s k → v < 2 ^ 32 →
      (s.setting 0x9000 5 ≤ v → v ≤ (s.flash.bank s.boot.bank).svn →
        ∃ u, exec (.fwMinSvnWrite k x v) s = .next u ∧ { u with flash := s.flash, fordan := s.fordan } = s ∧ Accepted u k x 0x9000 5 ∧
          u.setting 0x9000 5 = v ∧ { u.flash with objs := s.flash.objs } = s.flash) ∧
      (v < s.setting 0x9000 5 ∨ (s.flash.bank s.boot.bank).svn < v →
        ∃ u, exec (.fwMinSvnWrite k x v) s = .next u ∧ { u with fordan := s.fordan } = s ∧ Answered u k x 2 0x0A 0x9000 5 (leBytes 4 0)))

/-- R400 to R403. -/
def Obligations.LicencesAndAttestation : Prop :=
  ∀ (s : State),
    (∀ k x q, s.boot.done = true → s.sess k = some q → q.role = .operator ∨ q.role = .vendor → s.boot.hctr < 2 ^ 56 →
      let b := s.blob 0x9010 1
      let h := 0x0B * 2 ^ 56 + s.boot.hctr
      ∃ u, exec (.licInstall k x) s = .next u ∧ { u with boot := s.boot, flash := s.flash, flt := s.flt, csr := s.csr, fordan := s.fordan } = s ∧
        Answered u k x 6 0 0x9010 2 (leBytes 8 h) ∧
        (∀ n, s.licRefused b = some n →
          u.flash = s.flash ∧ RecordedLast s u 0xE5 0xFF n 0 ∧ (u.hnd h).st = 3 ∧ (u.hnd h).code = 0xE5) ∧
        (b.length ≠ 512 ∨ leAt b 4 2 ≠ 1 → u.flash = s.flash ∧ RecordedLast s u 0xE5 0xFF 1 0) ∧
        (s.licRefused b = none →
          u.flash = { s.flash with
            lics := s.flash.lics.filter (fun y => y.feature != licFeature b) ++ [⟨licFeature b, licSerial b, licLimit b, true, b⟩] } ∧
          u.licensed (licFeature b) = true ∧ RecordedLast s u 0xE6 0xFF 0 0 ∧ (u.hnd h).st = 2 ∧ (u.hnd h).code = 0xE6)) ∧
    (∀ k x v q, s.boot.done = true → s.sess k = some q → q.role = .vendor → v < 2 ^ 64 →
      ((∀ l ∈ s.flash.lics, l.serial ≠ v) →
        ∃ u, exec (.licRemove k x v) s = .next u ∧ { u with fordan := s.fordan } = s ∧ Answered u k x 2 0x0A 0x9010 6 (leBytes 4 0)) ∧
      (∀ l, s.flash.lics.find? (fun y => y.serial == v) = some l → (l.feature = 2 ∧ s.training = true) ∨
          (l.feature = 1 ∧ 4 < ((upTo 16).filter fun p => s.partState p != 0).length ∧ ∀ y ∈ s.flash.lics, y.serial ≠ v → y.feature ≠ 1) →
        ∃ u, exec (.licRemove k x v) s = .next u ∧ { u with fordan := s.fordan } = s ∧ Answered u k x 2 0x0A 0x9010 6 (leBytes 4 0)) ∧
      (∀ l, s.flash.lics.find? (fun y => y.serial == v) = some l → s.featureUsed l.feature = false →
          (l.feature = 1 → ((upTo 16).filter fun p => s.partState p != 0).length ≤ 4) →
          (∀ y ∈ s.flash.lics, y.feature = 1 → 4 ≤ y.limit) →
        ∃ u, exec (.licRemove k x v) s = .next u ∧ { u with flash := s.flash, flt := s.flt, csr := s.csr, fordan := s.fordan } = s ∧
          Accepted u k x 0x9010 6 ∧ RecordedLast s u 0xE7 0xFF 0 0 ∧
          u.flash = { s.flash with lics := s.flash.lics.filter fun y => y.serial != v })) ∧
    (∀ k x v, OperatorSession s k →
      ∃ u, exec (.licRemove k x v) s = .next u ∧ { u with fordan := s.fordan } = s ∧ Answered u k x 2 0x04 0x9010 6 (leBytes 4 0)) ∧
    (∀ k x q, s.sess k = some q → q.role ≠ .vendor → s.boot.hctr < 2 ^ 56 →
      (q.nonce.length = 64 → s.boot.attOff = false →
        ∃ u v, exec (.attReport k x) s = .next u ∧ { u with boot := s.boot, flt := s.flt, csr := s.csr, fordan := s.fordan } = s ∧
          Answered u k x 6 0 0x9020 1 (leBytes 8 (0x0C * 2 ^ 56 + s.boot.hctr)) ∧ RecordedLast s u 0xE8 0xFF 0 0 ∧
          (u.hnd (0x0C * 2 ^ 56 + s.boot.hctr)).st = 2 ∧ u.sess k = some v ∧ v.att.length = 1024 ∧ slice v.att 0 4 = ascii "HATT" ∧
          leAt v.att 8 8 = 0x0C * 2 ^ 56 + s.boot.hctr ∧ leAt v.att 28 4 = s.instar % 2 ^ 32 ∧ slice v.att 48 64 = q.nonce ∧
          slice v.att 112 64 = devId ∧ slice v.att 176 64 = s.flash.cap.digest ∧
          v.att.drop 892 = ecdsaSign attestationKey (sha512 (v.att.take 892))) ∧
      (q.nonce.length ≠ 64 ∨ s.boot.attOff = true →
        ∃ u, exec (.attReport k x) s = .next u ∧ { u with fordan := s.fordan } = s ∧ Answered u k x 6 0x0A 0x9020 1 (leBytes 4 0)))

/-- R412 to R414. What a certificate's signature answers is the model's open value (log entry 13). -/
def Obligations.FordanSessions : Prop :=
  ∀ (s : State),
    (∀ h, s.serving = true →
      ∃ u, exec (.fordanHandshake h) s = .next u ∧ { u with fordan := s.fordan, flash := s.flash } = s ∧
        (h.supported = false ∨ h.cert = [] ∨ s.roleOf h.cert = none ∨ 32 ≤ s.sessions.length →
          u = { s with fordan := { s.fordan with alerts := s.fordan.alerts + 1 } }) ∧
        (∀ a, s.roleOf h.cert = some (.vendor, a) → (∃ c ∈ s.sessions, c.2.role = .vendor) →
          u = { s with fordan := { s.fordan with alerts := s.fordan.alerts + 1 } }) ∧
        (∀ r a k, h.supported = true → h.cert ≠ [] → s.roleOf h.cert = some (r, a) → s.sessions.length < 32 →
            (r = .vendor → ∀ c ∈ s.sessions, c.2.role ≠ .vendor) → k < 32 → s.sess k = none → (∀ j < k, s.sess j ≠ none) →
          u.sess k = some ⟨r, a, h.peer, s.time.now, [], 0, 0, 0xFF, 1, 0, [], 1, [], []⟩ ∧ (∀ j, j ≠ k → u.sess j = s.sess j) ∧
          { u.fordan with sess := s.fordan.sess } = s.fordan ∧
          ((r ≠ .operator ∨ s.claimed = true) → u.flash = s.flash) ∧
          (r = .operator → s.claimed = false → u.blob 0x1100 0x11 = h.cert ∧ u.claimed = true ∧ { u.flash with blobs := s.flash.blobs } = s.flash))) ∧
    (∀ cert, s.claimed = false → Config.certSelfSigned cert = true → ∃ a, s.roleOf cert = some (.operator, a)) ∧
    (∀ cert i, 0x11 ≤ i → i ≤ 0x14 → s.blob 0x1100 i ≠ [] → Config.certVerifies cert (s.blob 0x1100 i) = true →
      ∃ a, s.roleOf cert = some (.operator, a)) ∧
    (∀ cert p, s.claimed = true → p < 16 → (∀ i, 0x11 ≤ i → i ≤ 0x14 → Config.certVerifies cert (s.blob 0x1100 i) = false) →
      s.blob 0x1101 (p + 1) ≠ [] → Config.certVerifies cert (s.blob 0x1101 (p + 1)) = true →
      s.roleOf cert = if ((upTo 16).any fun j => j != p && !(s.blob 0x1101 (j + 1)).isEmpty && Config.certVerifies cert (s.blob 0x1101 (j + 1)))
        then none else some (.partition p, 0x1101 * 256 + (p + 1))) ∧
    (s.boot.halted ≠ none ∨ s.boot.step < 8 ∨ s.boot.attOff = true → ∀ h, exec (.fordanHandshake h) s = .next s) ∧
    (∀ k q, s.sess k = some q →
      ∃ u, exec (.sessionIdleTimeout k) s = .next u ∧ { u with fordan := s.fordan, boot := s.boot } = s ∧ u.sess k = none ∧
        (∀ x, u.xferOf k x = none) ∧ (∀ j x, j ≠ k → u.xferOf j x = s.xferOf j x) ∧
        (q.exportH = 0 ∨ (s.hnd q.exportH).st ≠ 1 → u.boot = s.boot ∧ ∀ j, j ≠ k → u.sess j = s.sess j) ∧
        (q.exportH ≠ 0 → (s.hnd q.exportH).st = 1 → (u.hnd q.exportH).st = 3)) ∧
    (∀ k, s.sess k = none → exec (.sessionIdleTimeout k) s = .next s) ∧
    (s.fordan.addrNew = true → Tab.wf none s.fordan.sess = true →
      ∃ u, exec .mgmtAddressChange s = .next u ∧ { u with fordan := s.fordan, boot := s.boot } = s ∧ u.fordan.addrNew = false ∧
        ∀ k, u.sess k = none ∧ ∀ x, s.sess k ≠ none → u.xferOf k x = none) ∧
    (s.fordan.addrNew = false → exec .mgmtAddressChange s = .next s)

/-- R415, R416, R419 to R422, R424. -/
def Obligations.ObjectsReadWriteAction : Prop :=
  ∀ (s : State),
    (∀ k x q ix sub v, s.sess k = some q → q.role = .operator →
      (ix, sub, v) ∈ [(0x1000, 0, leBytes 1 9), (0x1100, 1, leBytes 1 s.boot.lane), (0x1100, 0x0B, leBytes 1 (s.setting 0x1100 0x0B)),
        (0x1800, 1, leBytes 1 s.boot.cause), (0x1800, 2, leBytes 4 s.boot.abandoned), (0x1800, 6, leBytes 4 s.flash.epoch),
        (0x1800, 7, leBytes 8 q.hq), (0x2000, 4, leBytes 4 s.pwr.pIn), (0x2800, 1, leBytes 8 s.time.now), (0x2808, 2, leBytes 8 s.beat.count),
        (0x2820, 1, leBytes 1 (s.region 0).op), (0x3000, 1, leBytes 4 s.instar), (0x3020, 1, leBytes 1 (s.region 0).st.code),
        (0x4400, 3, leBytes 4 (s.setting 0x4400 3)), (0x4800, 8, leBytes 8 s.adm.admitted), (0x5010, 3, leBytes 2 (s.port 0).width),
        (0x5410, 2, leBytes 2 (s.stack 0).live), (0x6000, 2, leBytes 1 s.meter.st), (0x7000, 1, leBytes 8 s.flt.evNext),
        (0x7002, 1, leBytes 4 s.csr.alertSrc), (0x7800, 2, leBytes 8 s.train.step), (0x8000, 0x0D, leBytes 4 s.img.runsAt),
        (0x9000, 3, leBytes 1 s.flash.bankA.st)] →
      ∃ u, exec (.fordanRead k x ix sub) s = .next u ∧ { u with fordan := s.fordan } = s ∧ Answered u k x 1 0 ix sub v) ∧
    (∀ k x q p ix sub, s.sess k = some q → q.role = .partition p → p < 16 →
      (ix, sub) ∈ [(0x7000, 1), (0x9000, 3), (0x2000, 4), (0x4000 + (p + 1) % 16, 1), (0x4000 + p, 4)] →
      ∃ u, exec (.fordanRead k x ix sub) s = .next u ∧ { u with fordan := s.fordan } = s ∧ Answered u k x 1 3 ix sub (leBytes 4 0)) ∧
    (∀ k x ix sub v status, OperatorSession s k →
      (ix, sub, v, status) ∈ [(0x1001, 1, [0], 1), (0x7000, 1, List.replicate 8 0, 2), (0x9010, 6, List.replicate 8 0, 4), (0x4800, 2, List.replicate 2 0, 5),
        (0x8000, 1, List.replicate 8 0, 5), (0x4000, 2, [0xFF], 5), (0x4800, 2, [9], 6), (0x8000, 4, leBytes 4 1999, 6), (0x1100, 5, leBytes 2 4095, 6),
        (0x5010, 1, leBytes 2 300, 6)] →
      ∃ u, exec (.fordanWrite k x ix sub v) s = .next u ∧ { u with fordan := s.fordan } = s ∧ Answered u k x 2 status ix sub (leBytes 4 0)) ∧
    (∀ k x q v, s.sess k = some q → q.role = .operator → s.boot.done = false →
      ∃ u, exec (.fordanWrite k x 0x4800 2 v) s = .next u ∧ { u with fordan := s.fordan } = s ∧ Answered u k x 2 0x0B 0x4800 2 (leBytes 4 0)) ∧
    (∀ k x ix sub n v, OperatorSession s k →
      (ix, sub, n) ∈ [(0x1100, 6, 2), (0x1100, 0x0A, 2), (0x1100, 0x0B, 1), (0x2803, 2, 4), (0x3400, 2, 1), (0x4000, 0x13, 2), (0x4800, 2, 1),
        (0x4800, 3, 1), (0x4800, 4, 2), (0x4800, 7, 4), (0x5400, 2, 1), (0x5400, 3, 1), (0x7000, 6, 4), (0x7800, 4, 2), (0x7800, 0x0A, 1),
        (0x8000, 4, 4), (0x8000, 5, 1)] →
      (ix, sub, v) ∈ [(0x1100, 6, 9000), (0x1100, 0x0A, 10), (0x1100, 0x0A, 3600), (0x1100, 0x0B, 1), (0x2803, 2, 7), (0x3400, 2, 31),
        (0x4000, 0x13, 576), (0x4000, 0x13, 8192), (0x4800, 2, 8), (0x4800, 3, 7), (0x4800, 4, 4096), (0x4800, 7, 86400), (0x5400, 2, 23),
        (0x5400, 3, 15), (0x7000, 6, 0), (0x7000, 6, 65536), (0x7800, 4, 1024), (0x7800, 0x0A, 3), (0x8000, 4, 50000), (0x8000, 5, 1)] →
      ∃ u, exec (.fordanWrite k x ix sub (leBytes n v)) s = .next u ∧ { u with flash := s.flash, fordan := s.fordan } = s ∧ Accepted u k x ix sub ∧
        u.setting ix sub = v ∧ { u.flash with objs := s.flash.objs } = s.flash ∧
        (∀ i j, i < 2 ^ 16 → j < 256 → (i, j) ≠ (ix, sub) → u.setting i j = s.setting i j) ∧
        ∃ w, exec (.fordanRead k x ix sub) u = .next w ∧ Answered w k x 1 0 ix sub (leBytes n v)) ∧
    (∀ k x v, k < 32 →
      (v < 2 ^ 32 → exec (.fordanWrite k x 0x1800 5 (leBytes 4 v)) s = exec (.resetReq k x v) s ∧
        exec (.fordanWrite k x 0x2000 1 (leBytes 4 v)) s = exec (.moduleInMaxWrite k x v) s ∧
        exec (.fordanWrite k x 0x2000 2 (leBytes 4 v)) s = exec (.pcapLimitWrite k x v) s ∧
        exec (.fordanWrite k x 0x9000 5 (leBytes 4 v)) s = exec (.fwMinSvnWrite k x v) s ∧
        ∀ p < 16, ∀ j, 1 ≤ j → j ≤ 5 → exec (.fordanWrite k x (0x4400 + p) j (leBytes 4 v)) s = exec (.quotaWrite k x p j v) s) ∧
      (v < 2 ^ 64 → exec (.fordanWrite k x 0x2800 6 (leBytes 8 v)) s = exec (.timeStepTo k x v) s ∧
        exec (.fordanWrite k x 0x2801 6 (leBytes 8 v)) s = exec (.freerunSet k x v) s ∧
        exec (.fordanWrite k x 0x2803 1 (leBytes 8 v)) s = exec (.ppsNextSecond k x v) s ∧
        exec (.fordanWrite k x 0x6002 5 (leBytes 8 v)) s = exec (.ackSeq k x v) s ∧
        exec (.fordanWrite k x 0x9010 6 (leBytes 8 v)) s = exec (.licRemove k x v) s ∧
        ∀ p < 16, ∀ j, 6 ≤ j → j ≤ 9 → exec (.fordanWrite k x (0x4000 + p) j (leBytes 8 v)) s = exec (.bindingWrite k x p j v) s) ∧
      (v < 256 → exec (.fordanWrite k x 0x2000 7 (leBytes 1 v)) s = exec (.marginModeWrite k x v) s ∧
        ∀ p < 16, exec (.fordanWrite k x (0x4000 + p) 1 (leBytes 1 v)) s = exec (.partitionStateWrite k x p v) s)) ∧
    (∀ k x, k < 32 →
      exec (.action k x 0x5400 1 []) s = exec (.hbmRetrain k x) s ∧ exec (.action k x 0x6002 3 []) s = exec (.meterExport k x) s ∧
      exec (.action k x 0x7800 8 []) s = exec (.checkpoint k x) s ∧ exec (.action k x 0x7800 9 []) s = exec (.restore k x) s ∧
      exec (.action k x 0x7800 0x0B []) s = exec (.chrysalisExport k x) s ∧ exec (.action k x 0x8000 1 []) s = exec (.imageLoad k x) s ∧
      exec (.action k x 0x8000 0x0E []) s = exec (.unload k x) s ∧ exec (.action k x 0x9000 2 []) s = exec (.fwUpdate k x) s ∧
      exec (.action k x 0x9010 2 []) s = exec (.licInstall k x) s ∧ exec (.action k x 0x9020 1 []) s = exec (.attReport k x) s ∧
      (∀ l < 16, exec (.action k x (0x5010 + l) 6 []) s = exec (.frontPortRetrain k x l) s) ∧
      ∀ g < 32, exec (.action k x 0x3400 1 []) s = exec (.moult k x g) s) ∧
    (∀ k x l, OperatorSession s k → l < 16 → s.boot.hctr < 2 ^ 56 → s.cfgWidth l ≠ 0 → (s.port l).retr = none →
      ∃ u, exec (.action k x (0x5010 + l) 6 []) s = .next u ∧ Invoked s u k x (0x5010 + l) 6 9 ∧ (u.port l).up = false) ∧
    (∀ k x b v, OperatorSession s k →
      ∃ u, exec (.action k x 0x5400 1 (b :: v)) s = .next u ∧ { u with fordan := s.fordan } = s ∧ Answered u k x 6 5 0x5400 1 (leBytes 4 0))

/-- R415, R417. -/
def Obligations.SegmentedTransfers : Prop :=
  ∀ (s : State) (k x : Nat), OperatorSession s k →
    (∀ ix sub n, (ix, sub) ∈ [(0x1100, 0x12), (0x4000, 4), (0x8000, 2), (0x8000, 6), (0x9000, 1), (0x9010, 1), (0x9020, 2)] →
      (0 < n → s.xferOf k x = none → (∀ t ∈ s.fordan.xfers, t.read = false → ¬ (t.ix = ix ∧ t.sub = sub)) →
        ∃ u, exec (.segStart k x ⟨ix, sub, 0, n, 0⟩) s = .next u ∧ { u with fordan := s.fordan } = s ∧ Answered u k x 3 0 ix sub [] ∧
          u.xferOf k x = some ⟨k, x, ix, sub, false, n, 0, [], [], [], 0, 0⟩ ∧ u.fordan.xfers.length = s.fordan.xfers.length + 1) ∧
      ((∃ t ∈ s.fordan.xfers, t.read = false ∧ t.ix = ix ∧ t.sub = sub) →
        ∃ u, exec (.segStart k x ⟨ix, sub, 0, n, 0⟩) s = .next u ∧ { u with fordan := s.fordan } = s ∧ u.fordan.xfers = s.fordan.xfers ∧
          Answered u k x 3 8 ix sub (leBytes 4 0)) ∧
      (∀ b, b ≠ 0 → ∃ u, exec (.segStart k x ⟨ix, sub, 0, n, b⟩) s = .next u ∧ { u with fordan := s.fordan } = s ∧
        u.fordan.xfers = s.fordan.xfers ∧ Answered u k x 3 6 ix sub (leBytes 4 0)) ∧
      (∀ d, 2 ≤ d → ∃ u, exec (.segStart k x ⟨ix, sub, d, n, 0⟩) s = .next u ∧ { u with fordan := s.fordan } = s ∧
        u.fordan.xfers = s.fordan.xfers ∧ Answered u k x 3 5 ix sub (leBytes 4 0))) ∧
    (∀ d n, d < 2 → ∃ u, exec (.segStart k x ⟨0x4800, 2, d, n, 0⟩) s = .next u ∧ { u with fordan := s.fordan } = s ∧
      u.fordan.xfers = s.fordan.xfers ∧ Answered u k x 3 5 0x4800 2 (leBytes 4 0)) ∧
    (∀ n, 0 < n → s.blob 0x8000 6 ≠ [] → s.xferOf k x = none → 0 < s.segMax →
      let v := (s.blob 0x8000 6).take n
      ∃ u t m, exec (.segStart k x ⟨0x8000, 6, 1, n, 0⟩) s = .next u ∧ { u with fordan := s.fordan } = s ∧ u.xferOf k x = some t ∧
        t.read = true ∧ t.snap = v ∧ t.len = v.length ∧ t.nxt = 0 ∧ t.sent = min v.length (64 * s.segMax) ∧
        u.fordan.out[s.fordan.out.length]? = some ⟨k, 131, 0, x, 0x8000, 6, []⟩ ∧
        u.fordan.out[s.fordan.out.length + 1]? = some m ∧ m.svc = 4 ∧ m.data = leBytes 8 0 ++ v.take s.segMax ∧
        u.fordan.out.length ≤ s.fordan.out.length + 1 + 64) ∧
    (s.xferOf k x = none →
      ∀ off data, ∃ u, exec (.segData k x off data) s = .next u ∧ { u with fordan := s.fordan } = s ∧ Answered u k x 4 9 0 0 (leBytes 4 0)) ∧
    (∀ t, s.xferOf k x = some t → t.read = false →
      (∀ off data, t.len < off + data.length →
        ∃ u, exec (.segData k x off data) s = .next u ∧ { u with fordan := s.fordan } = s ∧ u.fordan.xfers = s.fordan.xfers ∧
          Answered u k x 4 9 t.ix t.sub (leBytes 4 0)) ∧
      (∀ off data, off + data.length ≤ t.len → data = [] ∨ s.segMax < data.length →
        ∃ u, exec (.segData k x off data) s = .next u ∧ { u with fordan := s.fordan } = s ∧ u.fordan.xfers = s.fordan.xfers ∧
          Answered u k x 4 5 t.ix t.sub (leBytes 4 0)) ∧
      (∀ data, t.got = [] → t.bytes = [] → 0 < data.length → data.length < t.len → data.length ≤ s.segMax →
        ∃ u v, exec (.segData k x 0 data) s = .next u ∧ { u with fordan := s.fordan } = s ∧ Answered u k x 4 0 t.ix t.sub [] ∧
          u.fordan.out[s.fordan.out.length]? = some ⟨k, 5, 0, x, t.ix, t.sub, leBytes 8 data.length⟩ ∧
          u.xferOf k x = some v ∧ v.got = [(0, data.length)] ∧ memRead v.bytes 0 data.length = data) ∧
      (∀ off data, t.got = [] → 0 < off → 0 < data.length → off + data.length ≤ t.len → data.length ≤ s.segMax →
          off + data.length ≤ 64 * s.segMax →
        ∃ u v, exec (.segData k x off data) s = .next u ∧ { u with fordan := s.fordan } = s ∧
          u.fordan.out = s.fordan.out ++ [⟨k, 132, 0, x, t.ix, t.sub, []⟩] ∧ u.xferOf k x = some v ∧ v.got = [(off, off + data.length)]) ∧
      (∀ data, t.got = [] → t.bytes = [] → 0 < data.length → data.length = t.len → data.length ≤ s.segMax → t.base = 0 →
        (t.ix = 0x8000 → t.sub = 2 →
          ∃ u, exec (.segData k x 0 data) s = .next u ∧ u.xferOf k x = none ∧
            (data.length = 1024 → Answered u k x 4 0 0x8000 2 [] ∧ u.img.hdr = data ∧
              { u with fordan := s.fordan, img := { u.img with hdr := s.img.hdr } } = s) ∧
            (data.length ≠ 1024 → Answered u k x 4 5 0x8000 2 (leBytes 4 0) ∧ { u with fordan := s.fordan } = s)) ∧
        (t.ix = 0x9000 → t.sub = 1 →
          ∃ u, exec (.segData k x 0 data) s = .next u ∧ u.xferOf k x = none ∧ Answered u k x 4 0 0x9000 1 [] ∧ u.blob 0x9000 1 = data ∧
            { u with fordan := s.fordan } = s) ∧
        (t.ix = 0x9020 → t.sub = 2 → data.length = 64 →
          ∃ u q, exec (.segData k x 0 data) s = .next u ∧ u.xferOf k x = none ∧ Answered u k x 4 0 0x9020 2 [] ∧ u.sess k = some q ∧
            q.nonce = data ∧ { u with fordan := s.fordan } = s)) ∧
      exec (.segAck k x 5) s = .next s ∧ exec (.segmentResendTimeout k x) s = .next s) ∧
    (∀ t, s.xferOf k x = some t → t.read = true → 0 < s.segMax →
      (∀ n, t.nxt < n → n ≤ t.sent → n < t.len →
        ∃ u v, exec (.segAck k x n) s = .next u ∧ { u with fordan := s.fordan } = s ∧ u.xferOf k x = some v ∧ v.nxt = n ∧ v.snap = t.snap ∧
          v.sent = max t.sent (min t.len (n + 64 * s.segMax))) ∧
      (∀ n, n ≤ t.nxt ∨ t.sent < n → exec (.segAck k x n) s = .next s) ∧
      (t.ix ≠ 0x6002 → t.nxt < t.len → t.sent = t.len →
        ∃ u, exec (.segAck k x t.len) s = .next u ∧ { u with fordan := s.fordan } = s ∧ u.xferOf k x = none ∧ u.fordan.out = s.fordan.out) ∧
      (t.nxt < t.len →
        ∃ u v m, exec (.segmentResendTimeout k x) s = .next u ∧ { u with fordan := s.fordan } = s ∧ u.xferOf k x = some v ∧ v.nxt = t.nxt ∧
          u.fordan.out[s.fordan.out.length]? = some m ∧ m.svc = 4 ∧
          m.data = leBytes 8 t.nxt ++ slice t.snap t.nxt (min s.segMax (t.len - t.nxt)) ∧
          ∀ off data, (exec (.segData k x off data) s = .next (s.failed k x 4 9 t.ix t.sub 0)))) ∧
    (∀ t, s.xferOf k x = some t →
      ∃ u, exec (.transferAbandon k x) s = .next u ∧ { u with fordan := s.fordan } = s ∧ u.xferOf k x = none ∧
        { u.fordan with xfers := s.fordan.xfers } = s.fordan ∧ (∀ j y, (j, y) ≠ (k, x) → u.xferOf j y = s.xferOf j y))

/-- R418. -/
def Obligations.SubscriptionsAndNotifications : Prop :=
  ∀ (s : State) (k : Nat) (q : Sess), s.sess k = some q → q.role = .operator →
    (∀ x ix sub ms, (ix, sub) ∈ [(0x1800, 9), (0x2820, 1), (0x3020, 1), (0x4800, 8), (0x7000, 1), (0x7002, 1), (0x7800, 2)] →
      ((q.subOf ix sub).isSome = true ∨ q.subs.length < 64 →
        ∃ u v, exec (.subscribe k x ix sub ms) s = .next u ∧ { u with fordan := s.fordan } = s ∧ Answered u k x 7 0 ix sub [] ∧
          u.sess k = some v ∧ { v with subs := q.subs } = q ∧ v.subOf ix sub = some ⟨ix, sub, ms, s.valueOf q ix sub, 0, false⟩ ∧
          (∀ i j, (i, j) ≠ (ix, sub) → v.subOf i j = q.subOf i j) ∧ ∀ j, j ≠ k → u.sess j = s.sess j) ∧
      (q.subOf ix sub = none → 64 ≤ q.subs.length →
        ∃ u, exec (.subscribe k x ix sub ms) s = .next u ∧ { u with fordan := s.fordan } = s ∧ u.fordan.sess = s.fordan.sess ∧
          Answered u k x 7 8 ix sub (leBytes 4 0)) ∧
      (∃ u v, exec (.unsubscribe k x ix sub) s = .next u ∧ { u with fordan := s.fordan } = s ∧ Answered u k x 8 0 ix sub [] ∧
        u.sess k = some v ∧ { v with subs := q.subs } = q ∧ v.subOf ix sub = none ∧
        (∀ i j, (i, j) ≠ (ix, sub) → v.subOf i j = q.subOf i j) ∧ ∀ j, j ≠ k → u.sess j = s.sess j)) ∧
    (∀ x ms,
      (∃ u, exec (.subscribe k x 0x8000 6 ms) s = .next u ∧ { u with fordan := s.fordan } = s ∧ Answered u k x 7 5 0x8000 6 (leBytes 4 0)) ∧
      (∃ u, exec (.subscribe k x 0x1800 5 ms) s = .next u ∧ { u with fordan := s.fordan } = s ∧ Answered u k x 7 2 0x1800 5 (leBytes 4 0))) ∧
    (∀ ix sub w, q.subOf ix sub = some w → (ix, sub) ≠ (0x7000, 1) → (ix, sub) ≠ (0x1800, 9) → s.valueOf q ix sub ≠ w.last →
      (w.ever = false ∨ w.sentAt + w.minMs * 1000000 ≤ s.time.now →
        ∃ u v, exec (.notify k ix sub) s = .next u ∧ { u with fordan := s.fordan } = s ∧
          u.fordan.out = s.fordan.out ++ [⟨k, 9, 0, 0, ix, sub, leBytes 4 (q.nseq + 1) ++ s.valueOf q ix sub⟩] ∧
          u.sess k = some v ∧ v.nseq = q.nseq + 1 ∧ { v with subs := q.subs, nseq := q.nseq } = q ∧
          v.subOf ix sub = some ⟨ix, sub, w.minMs, s.valueOf q ix sub, s.time.now, true⟩ ∧ ∀ j, j ≠ k → u.sess j = s.sess j) ∧
      (w.ever = true → s.time.now < w.sentAt + w.minMs * 1000000 → exec (.notify k ix sub) s = .next s)) ∧
    (∀ ix sub w, q.subOf ix sub = some w → s.valueOf q ix sub = w.last → exec (.notify k ix sub) s = .next s) ∧
    (∀ ix sub, q.subOf ix sub = none → exec (.notify k ix sub) s = .next s) ∧
    (∀ j ix sub, s.sess j = none → exec (.notify j ix sub) s = .next s) ∧
    ((q.subOf 0x7000 1).isSome = true → s.boot.lane < 2 →
      ∃ u m e, exec .mgmtLaneLoss s = .next u ∧ m ∈ u.fordan.out ∧ m.sess = k ∧ m.svc = 9 ∧ m.ix = 0x7000 ∧ m.sub = 1 ∧
        e ∈ u.flt.log ∧ e.seq = s.flt.evNext ∧ e.code = 0xD7 ∧ m.data = leBytes 4 (q.nseq + 1) ++ e.bytes)

/-- R399. -/
def Obligations.MinSvnOnlyRises : Prop :=
  ∀ (s : State),
    (∀ k x v c, OperatorSession s k → v < 2 ^ 32 → c = Instr.fwMinSvnWrite k x v ∨ c = .fordanWrite k x 0x9000 5 (leBytes 4 v) →
      ∃ u, exec c s = .next u ∧ s.setting 0x9000 5 ≤ u.setting 0x9000 5 ∧ u.boot = s.boot ∧ u.flash.bankA = s.flash.bankA ∧
        u.flash.bankB = s.flash.bankB ∧
        (Accepted u k x 0x9000 5 ↔ s.setting 0x9000 5 ≤ v ∧ v ≤ (s.flash.bank s.boot.bank).svn) ∧
        (Accepted u k x 0x9000 5 → u.setting 0x9000 5 = v) ∧ (¬ Accepted u k x 0x9000 5 → { u with fordan := s.fordan } = s)) ∧
    (StepAt s 3 →
      ∃ u, exec (.bringupStepEnd .boot) s = .next u ∧ u.setting 0x9000 5 = s.setting 0x9000 5 ∧
        (u.boot.step = 4 → u.setting 0x9000 5 ≤ (u.flash.bank u.boot.bank).svn))

/-- R425 to R427, R429, R431. Addresses are absolute; `o` is a CSR byte offset. -/
def Obligations.CsrAndAliasWindows : Prop :=
  ∀ (s : State) (h : Hart) (v : W32),
    let csr (o : Nat) : Nat := 0x40000000 + o
    let grp (o w : Nat) : Nat := 0x200000000 + 4 * o + w
    let ok : Csr := { s.csr with faultHart := none }
    let bad : Csr := { s.csr with faultHart := some h.hart }
    let secure : Csr := { s.csr with faultHart := some h.hart, secFaults := s.csr.secFaults + 1 }
    (∀ a, a % 4 ≠ 0 →
      (0x40000000 ≤ a → a < 0x50000000 → exec (.csrWrite h a v) s = .next { s with csr := bad }) ∧
      (0x200000000 ≤ a → a < 0x240000000 → a % 16 < 4 → exec (.aliasView h a) s = .next { s with csr := bad }) ∧
      (0x200000000 ≤ a → a < 0x240000000 → 4 ≤ a % 16 → a % 16 < 8 → exec (.aliasSet h a v) s = .next { s with csr := bad }) ∧
      (0x200000000 ≤ a → a < 0x240000000 → 8 ≤ a % 16 → a % 16 < 12 → exec (.aliasClear h a v) s = .next { s with csr := bad }) ∧
      (0x200000000 ≤ a → a < 0x240000000 → 12 ≤ a % 16 → exec (.aliasFlip h a v) s = .next { s with csr := bad })) ∧
    (∀ o, 0xC00000 ≤ o → o < 0xC00400 → o % 4 = 0 → h.machine = false →
      exec (.csrWrite h (csr o) v) s = .next { s with csr := secure } ∧ exec (.aliasView h (grp o 0)) s = .next { s with csr := secure } ∧
      exec (.aliasSet h (grp o 4) v) s = .next { s with csr := secure } ∧ exec (.aliasClear h (grp o 8) v) s = .next { s with csr := secure } ∧
      exec (.aliasFlip h (grp o 12) v) s = .next { s with csr := secure }) ∧
    (∀ o, o = 0 ∨ o = 0x10000 ∨ o = 0x20000 ∨ (0x20010 ≤ o ∧ o < 0x20020 ∧ o % 4 = 0) ∨ (0x30000 ≤ o ∧ o < 0x30060 ∧ o % 4 = 0) ∨ o = 0x40000 ∨
        o = 0x50000 ∨ o = 0x800048 ∨ o = 0xF00004 ∨ (0xF00020 ≤ o ∧ o < 0xF00040 ∧ o % 4 = 0) →
      exec (.csrWrite h (csr o) v) s = .next { s with csr := ok } ∧ exec (.aliasSet h (grp o 4) v) s = .next { s with csr := ok } ∧
      exec (.aliasClear h (grp o 8) v) s = .next { s with csr := ok } ∧ exec (.aliasFlip h (grp o 12) v) s = .next { s with csr := ok }) ∧
    (∃ u, exec (.csrWrite h (csr 4) v) s = .next u ∧ { u with csr := { u.csr with alertSrc := s.csr.alertSrc } } = { s with csr := ok } ∧
      ∀ i, bitOf u.csr.alertSrc i = (bitOf s.csr.alertSrc i && !(bitOf v.toNat i && decide (2 ≤ i ∧ i ≤ 9)))) ∧
    (∃ u, exec (.csrWrite h (csr 8) v) s = .next u ∧ { u with csr := { u.csr with alertMask := s.csr.alertMask } } = { s with csr := ok } ∧
      ∀ i, bitOf u.csr.alertMask i = (decide (i < 2) || (bitOf v.toNat i && decide (i < 10)))) ∧
    (∀ o, o = 8 ∨ o = 0x800044 ∨ o = 0xF00000 ∨ o = 0x800000 →
      let rw (i : Nat) : Bool := if o = 8 then decide (2 ≤ i ∧ i ≤ 9) else if o = 0xF00000 then decide (i < 16 ∨ 28 ≤ i) else true
      let now (u : State) : Nat :=
        if o = 8 then u.csr.alertMask else if o = 0x800044 then (u.mbx 0).tmo else if o = 0xF00000 then (u.wrm h.hart).sel else leAt (u.mbx 0).send 0 4
      s.csr.alertMask < 2 ^ 10 → s.csr.alertMask % 4 = 3 → (s.mbx 0).tmo < 2 ^ 32 → (s.wrm h.hart).sel &&& 0xF000FFFF = (s.wrm h.hart).sel →
      (s.mbx 0).full = false → (s.mbx 0).send.length = 64 →
      (∃ u, exec (.aliasSet h (grp o 4) v) s = .next u ∧ { u with csr := s.csr } = s ∧
        ∀ i < 32, bitOf (now u) i = (bitOf (now s) i || (bitOf v.toNat i && rw i))) ∧
      (∃ u, exec (.aliasClear h (grp o 8) v) s = .next u ∧ { u with csr := s.csr } = s ∧
        ∀ i < 32, bitOf (now u) i = (bitOf (now s) i && !(bitOf v.toNat i && rw i))) ∧
      (∃ u, exec (.aliasFlip h (grp o 12) v) s = .next u ∧ { u with csr := s.csr } = s ∧
        ∀ i < 32, bitOf (now u) i = (bitOf (now s) i != (bitOf v.toNat i && rw i)))) ∧
    (∃ u, exec (.aliasClear h (grp 4 8) v) s = .next u ∧ { u with csr := { u.csr with alertSrc := s.csr.alertSrc } } = { s with csr := ok } ∧
      ∀ i, bitOf u.csr.alertSrc i = (bitOf s.csr.alertSrc i && !(bitOf v.toNat i && decide (2 ≤ i ∧ i ≤ 9)))) ∧
    (∃ u, exec (.aliasView h (grp 4 0)) s = .next u ∧ u = { s with csr := { ok with rdata := s.csr.alertSrc } }) ∧
    (exec (.aliasView h (grp 0x800040 0)) s = .next { s with csr := { ok with
      rdata := (if (s.mbx 0).full then 1 else 0) + (if (s.mbx 0).timeout then 2 else 0) + 2 ^ 16 * (s.mbx 0).len } }) ∧
    (exec (.aliasView h (grp 0x800148 0)) s = .next { s with csr := { ok with rdata := if (s.mbx 1).full then (s.mbx 1).len + 1 else 0 } }) ∧
    (exec (.aliasView h (grp 0x20000 0)) s = .next { s with csr := { ok with rdata := if s.boot.step < 3 then 0 else s.instar % 2 ^ 32 } })

/-- R428, R429. -/
def Obligations.AlertsAndWideReads : Prop :=
  ∀ (s : State) (v : W32),
    (∀ h, ∃ u, exec (.pwrAlertSrcClear (.csr h) v) s = .next u ∧
      { u with csr := { u.csr with alertSrc := s.csr.alertSrc } } = { s with csr := { s.csr with faultHart := none } } ∧
      ∀ i, bitOf u.csr.alertSrc i = (bitOf s.csr.alertSrc i && !(bitOf v.toNat i && decide (2 ≤ i ∧ i ≤ 9)))) ∧
    (∀ k x, OperatorSession s k →
      ∃ u, exec (.pwrAlertSrcClear (.object k x) v) s = .next u ∧ Accepted u k x 0x7002 2 ∧
        { u with fordan := s.fordan, csr := { u.csr with alertSrc := s.csr.alertSrc } } = s ∧
        (∀ i, bitOf u.csr.alertSrc i = (bitOf s.csr.alertSrc i && !(bitOf v.toNat i && decide (2 ≤ i ∧ i ≤ 9)))) ∧
        (s.jtag.drive = false → s.pins.vsb = true → s.boot.pg = true →
          (u.alertN = false ↔ ∃ i, bitOf u.csr.alertSrc i = true ∧ bitOf u.csr.alertMask i = true))) ∧
    (∀ h, ∃ u, exec (.wrmSel h v) s = .next u ∧ { u with csr := { u.csr with wrm := s.csr.wrm } } = { s with csr := { s.csr with faultHart := none } } ∧
      (∀ j, j ≠ h.hart → u.wrm j = s.wrm j) ∧
      u.wrm h.hart = { s.wrm h.hart with sel := v.toNat &&& 0xF000FFFF, valid := false, err := false, pending := true }) ∧
    (∀ n, (s.wrm n).pending = false → exec (.wrmCopyDone n) s = .next s) ∧
    (∀ n, (s.wrm n).pending = true →
      ∃ u, exec (.wrmCopyDone n) s = .next u ∧ { u with csr := { u.csr with wrm := s.csr.wrm } } = s ∧ (∀ j, j ≠ n → u.wrm j = s.wrm j) ∧
        (u.wrm n).pending = false ∧ (u.wrm n).sel = (s.wrm n).sel ∧
        let cls := (s.wrm n).sel / 2 ^ 28
        let item := (s.wrm n).sel % 2 ^ 16
        let word (k : Nat) : Nat := (u.wrm n).data / 2 ^ (32 * k) % 2 ^ 32
        let wide (k a : Nat) : Prop := word k = a % 2 ^ 32 ∧ word (k + 1) = a / 2 ^ 32 % 2 ^ 32
        let got : Prop := (u.wrm n).valid = true
        (cls = 1 → item = 0 → got ∧ wide 0 s.time.now ∧ wide 2 s.beat.count ∧ wide 4 s.beat.nextMark ∧ wide 6 0) ∧
        (cls = 2 → item < 32 → got ∧ wide 0 (s.region item).rep.str ∧ wide 2 (s.region item).lateLast ∧
          word 6 = (s.region item).i10 % 2 ^ 32 ∧ word 7 = s.throttleWord item % 2 ^ 32) ∧
        (∀ g < 32, ∀ b < 11, cls = 3 → item = g * 16 + b → got ∧ wide 0 (Tab.get 0 (s.region g).thrDur (b + 1)) ∧ wide 2 0) ∧
        (∀ k < 24, ∀ c < 5, cls = 4 → item = k * 8 + c → got ∧ wide 0 (Tab.get 0 (s.stack k).tele (c + 1))) ∧
        (∀ e < 96, ∀ c < 4, cls = 5 → item = e * 4 + c → got ∧ wide 0 (Tab.get 0 (s.engine e).tele (c + 1))) ∧
        (cls = 6 → item = 0 → got ∧ wide 0 s.meter.eIn ∧ wide 2 s.meter.eUn ∧ wide 4 s.meter.eFault ∧ word 6 = s.meter.pBase % 2 ^ 32) ∧
        (∀ g < 32, ∀ c, 1 ≤ c → c ≤ 21 → cls = 7 → item = g * 32 + c → got ∧ wide 0 (Tab.get 0 (s.region g).tele c)) ∧
        (cls = 0 ∨ 8 ≤ cls ∨ (cls = 1 ∧ item ≠ 0) ∨ (cls = 2 ∧ 32 ≤ item) ∨ (cls = 6 ∧ item ≠ 0) ∨ (cls = 7 ∧ item % 32 = 0) →
          (u.wrm n).err = true ∧ (u.wrm n).data = (s.wrm n).data ∧ (u.wrm n).valid = (s.wrm n).valid))

/-- R430 to R433. Channels 8 to 11 are the secure channels 0 to 3. -/
def Obligations.MailboxChannels : Prop :=
  ∀ (s : State) (c : Nat), c < 12 →
    let kept (u : State) : Prop := (∀ j, j ≠ c → u.mbx j = s.mbx j) ∧ { u with csr := { u.csr with mbx := s.csr.mbx } } = s
    let keptBy (u : State) : Prop := (∀ j, j ≠ c → u.mbx j = s.mbx j) ∧
      { u with csr := { u.csr with mbx := s.csr.mbx, rdata := s.csr.rdata } } = { s with csr := { s.csr with faultHart := none } }
    (∀ who v data, (∃ h, who = .core h ∧ c % 2 = 0 ∧ (8 ≤ c → h.machine = true)) ∨ (who = .unit ∧ c % 2 = 1 ∧ c ≠ 9) →
      ∃ u, exec (.mbxCtlPost who c v data) s = .next u ∧ (who = .unit → kept u) ∧ (who ≠ .unit → keptBy u ∧ u.csr.rdata = s.csr.rdata) ∧
        ((s.mbx c).full = false → bitOf v.toNat 0 = true → (s.mbx c).send.length = 64 →
          (u.mbx c).full = true ∧ (u.mbx c).waiting = true ∧ (u.mbx c).len = v.toNat / 2 ^ 16 % 16 ∧ (u.mbx c).taken = (s.mbx c).taken ∧
          (u.mbx c).takenLen = (s.mbx c).takenLen ∧ (u.mbx c).tmo = (s.mbx c).tmo ∧
          (u.mbx c).timeout = ((s.mbx c).timeout && !bitOf v.toNat 1) ∧ (u.mbx c).send.length = 64 ∧
          (data.length ≤ 64 → (u.mbx c).send = data ++ (s.mbx c).send.drop data.length)) ∧
        ((s.mbx c).full = true → u.mbx c = { s.mbx c with timeout := (s.mbx c).timeout && !bitOf v.toNat 1 })) ∧
    (∀ h, c % 2 = 1 → (8 ≤ c → h.machine = true) →
      ((s.mbx c).full = true →
        ∃ u, exec (.mbxTake (.core h) c) s = .next u ∧ keptBy u ∧ u.csr.rdata = (s.mbx c).len + 1 ∧
          u.mbx c = { s.mbx c with taken := (s.mbx c).send, takenLen := (s.mbx c).len + 1, full := false, waiting := false }) ∧
      ((s.mbx c).full = false → ∃ u, exec (.mbxTake (.core h) c) s = .next u ∧ keptBy u ∧ u.csr.rdata = 0 ∧ u.mbx c = s.mbx c)) ∧
    (c % 2 = 0 → c ≠ 8 →
      ((s.mbx c).full = true → ∃ u, exec (.mbxTake .unit c) s = .next u ∧ kept u ∧
        u.mbx c = { s.mbx c with taken := (s.mbx c).send, takenLen := (s.mbx c).len + 1, full := false, waiting := false }) ∧
      ((s.mbx c).full = false → exec (.mbxTake .unit c) s = .next s)) ∧
    (c % 2 = 1 → exec (.mbxTake .unit c) s = .next s ∧
      ∀ h v data, (8 ≤ c → h.machine = true) → exec (.mbxCtlPost (.core h) c v data) s = .next { s with csr := { s.csr with faultHart := none } }) ∧
    (c % 2 = 0 → (∀ v data, exec (.mbxCtlPost .unit c v data) s = .next s) ∧
      ∀ h, (8 ≤ c → h.machine = true) → exec (.mbxTake (.core h) c) s = .next { s with csr := { s.csr with faultHart := none, rdata := 0 } }) ∧
    (∀ h, 8 ≤ c → h.machine = false →
      let w := { s with csr := { s.csr with faultHart := some h.hart, secFaults := s.csr.secFaults + 1 } }
      exec (.mbxTake (.core h) c) s = .next w ∧ ∀ v data, exec (.mbxCtlPost (.core h) c v data) s = .next w) ∧
    ((s.mbx c).full = true → (s.mbx c).waiting = true → (s.mbx c).tmo ≠ 0 →
      ∃ u, exec (.mbxTimeout c) s = .next u ∧ kept u ∧ u.mbx c = { s.mbx c with timeout := true, waiting := false }) ∧
    ((s.mbx c).full = false ∨ (s.mbx c).waiting = false ∨ (s.mbx c).tmo = 0 → exec (.mbxTimeout c) s = .next s)

/-- R433. What SEAL and UNSEAL make of a value is the model's open value (log entry 14). -/
def Obligations.CocoonServices : Prop :=
  ∀ (s : State) (q : CocoReq) (r : List CocoReq), s.csr.coco = q :: r → q.got = q.parts → q.bad = false → (∀ y ∈ r, y.refusedBad = false) →
    let head (st part parts : Nat) : Bytes := leBytes 1 st ++ leBytes 1 q.tag ++ leBytes 1 part ++ leBytes 1 parts
    let served (u : State) (l : List Bytes) : Prop := u = { s with csr := { s.csr with coco := r, cocoOut := s.csr.cocoOut ++ l } }
    (q.svc = 1 → q.data.length = 68 →
      ∃ u, exec (.sign q.tag) s = .next u ∧
        (∀ key, (leAt q.data 0 1 = 0 ∧ key = meteringKey) ∨ (leAt q.data 0 1 = 1 ∧ key = attestationKey) →
          ∃ a b c, served u [head 0 0 3 ++ a, head 0 1 3 ++ b, head 0 2 3 ++ c] ∧ a.length = 60 ∧ b.length = 60 ∧ c.length = 12 ∧
            a ++ b ++ c = ecdsaSign key (slice q.data 4 64)) ∧
        (2 ≤ leAt q.data 0 1 → served u [head 2 0 1])) ∧
    (q.svc = 2 → q.data = [] → ∃ u, exec (.heartbeat q.tag) s = .next u ∧ served u [head 0 0 1]) ∧
    (q.svc = 3 → 4 ≤ q.data.length →
      ∃ u, exec (.seal q.tag) s = .next u ∧ served u (replyMsgs 0 q.tag (Config.sealValue (leAt q.data 0 4) (q.data.drop 4)))) ∧
    (q.svc = 4 →
      ∃ u, exec (.unseal q.tag) s = .next u ∧ (∀ b, Config.unsealValue q.data = some b → served u (replyMsgs 0 q.tag b)) ∧
        (Config.unsealValue q.data = none → served u [head 1 0 1])) ∧
    (q.svc = 5 → q.data.length = 4 →
      (leAt q.data 0 4 = s.flash.epoch → s.boot.supply = .on → Memory.wf s.mem = true →
        ∃ u, exec (.cocoonReset q.tag) s = .next u ∧ WasReset s u ∧ u.csr.coco = [] ∧
          u.boot.cause = if s.boot.causeHeld then s.boot.cause else 3) ∧
      (leAt q.data 0 4 ≠ s.flash.epoch → ∃ u, exec (.cocoonReset q.tag) s = .next u ∧ served u [head 1 0 1])) ∧
    (∀ t, (t ≠ q.tag ∨ q.svc ≠ 1 → exec (.sign t) s = .next s) ∧ (t ≠ q.tag ∨ q.svc ≠ 2 → exec (.heartbeat t) s = .next s) ∧
      (t ≠ q.tag ∨ q.svc ≠ 3 → exec (.seal t) s = .next s) ∧ (t ≠ q.tag ∨ q.svc ≠ 4 → exec (.unseal t) s = .next s) ∧
      (t ≠ q.tag ∨ q.svc ≠ 5 → exec (.cocoonReset t) s = .next s)) ∧
    (∀ m l v data, s.csr.cocoOut = m :: l → (s.mbx 9).full = false → m.length = 64 → (s.mbx 9).send.length = 64 →
      ∃ u, exec (.mbxCtlPost .unit 9 v data) s = .next u ∧ u.csr.cocoOut = l ∧ (u.mbx 9).full = true ∧ (u.mbx 9).len = 15 ∧ (u.mbx 9).send = m) ∧
    (∀ svc tag, 6 ≤ svc → svc < 256 → tag < 256 → (s.mbx 8).full = true → (s.mbx 8).len = 0 → (s.mbx 8).send.length = 64 →
        (s.mbx 8).send.take 4 = leBytes 1 svc ++ leBytes 1 tag ++ leBytes 1 0 ++ leBytes 1 1 → q.refusedBad = false →
      ∃ u y, exec (.mbxTake .unit 8) s = .next u ∧ u.csr.coco = q :: r ++ [y] ∧ y.refusedBad = true ∧ y.tag = tag ∧
        (s.csr.coco = [q] → q.svc = 2 → q.data = [] → ∃ w, exec (.heartbeat q.tag) u = .next w ∧ w.csr.coco = [] ∧
          w.csr.cocoOut = s.csr.cocoOut ++ [head 0 0 1, leBytes 1 2 ++ leBytes 1 tag ++ leBytes 1 0 ++ leBytes 1 1]))

/-- R435, R440, R441. The order of the boundary-scan cells is the model's open value (log entry 10). -/
def Obligations.IdentityReadOutAndJtag : Prop :=
  ∀ (s : State),
    let i2c (f : State → Prop) (c : Instr) : Prop := ∃ u, exec c s = .next u ∧ { u with i2c := s.i2c } = s ∧ f u
    let jtag (f : State → Prop) (c : Instr) : Prop := ∃ u, exec c s = .next u ∧ { u with jtag := s.jtag } = s ∧ f u
    (s.pins.vsb = true → s.boot.pg = true →
      (∀ b, i2c (fun u => u.i2c = { s.i2c with ptr := b.toNat }) (.i2cPointerWrite b)) ∧
      (∀ n, i2c (fun u => u.i2c.ptr = (s.i2c.ptr + n) % 256 ∧ u.i2c.out.length = n ∧
        ∀ v, exec (.i2cPointerWrite (BitVec.ofNat 8 0)) s = .next v → ∀ w, exec (.i2cRead 256) v = .next w →
          ∀ i < n, u.i2c.out.getD i 0 = w.i2c.out.getD ((s.i2c.ptr + i) % 256) 0) (.i2cRead n)) ∧
      (s.i2c.ptr = 0 → i2c (fun u =>
        let m := u.i2c.out
        m.length = 256 ∧ u.i2c.ptr = 0 ∧ slice m 0 4 = ascii "HLDI" ∧ leAt m 4 1 = 1 ∧
        leAt m 5 1 = (if s.boot.step ≤ 2 then 0xFF else s.flash.cap.variant % 256) ∧
        leAt m 6 1 = (if s.boot.step = 9 ∧ s.boot.s7 = false then 7 else s.boot.step % 256) ∧ leAt m 7 1 = s.boot.lastCode % 256 ∧
        leAt m 8 1 = (s.boot.halted.getD 0) % 256 ∧ leAt m 9 1 = s.boot.cause % 256 ∧ leAt m 0x0A 1 = s.boot.lane % 256 ∧
        leAt m 0x0B 1 = s.csr.alertSrc % 256 ∧ leAt m 0x0C 4 = (if s.boot.step ≤ 2 then 0xFFFFFFFF else s.instar % 2 ^ 32) ∧
        slice m 0x10 16 = (if s.boot.step ≤ 2 then List.replicate 16 0xFF else slice s.flash.cap.serial 0 16) ∧
        slice m 0x20 64 = (if s.boot.step ≤ 1 then List.replicate 64 0xFF else devId) ∧ slice m 0x66 26 = List.replicate 26 0 ∧
        slice m 0x80 32 = (if s.boot.step ≤ 3 then List.replicate 32 0xFF else slice (s.flash.bank s.boot.bank).version 0 32) ∧
        slice m 0xA0 96 = List.replicate 96 0) (.i2cRead 256))) ∧
    (s.pins.vsb = false ∨ s.boot.pg = false →
      (∀ b, exec (.i2cPointerWrite b) s = .next s) ∧ ∀ n, i2c (fun u => u.i2c = { s.i2c with out := [] }) (.i2cRead n)) ∧
    (s.pins.vsb = true →
      jtag (fun u => u.jtag.dr = 0x164804B5 ∧ u.jtag.drive = false ∧ u.jtag.bsr = s.jtag.bsr) .idcode ∧
      (∀ b, jtag (fun u => u.jtag.dr = (if b then 1 else 0) ∧ u.jtag.drive = false ∧ u.jtag.bsr = s.jtag.bsr) (.bypass b)) ∧
      (∀ n, jtag (fun u => u.jtag.bsr = n ∧ u.jtag.drive = false ∧
        u.jtag.dr = Config.boundaryCapture [s.pins.pwrEn, s.pins.mrstN, s.pins.pcapN, s.pins.coolantOk, s.thermtripN, s.alertN, s.pgLevel])
        (.samplePreload n)) ∧
      jtag (fun u => u.jtag.drive = true ∧ u.jtag.bsr = s.jtag.bsr ∧ u.jtag.dr = s.jtag.dr ∧ u.pgLevel = Config.boundaryDrive s.jtag.bsr 0 ∧
        u.alertN = Config.boundaryDrive s.jtag.bsr 1 ∧ u.thermtripN = Config.boundaryDrive s.jtag.bsr 2) .extest) ∧
    (s.pins.vsb = false →
      exec .idcode s = .next s ∧ exec .extest s = .next s ∧ (∀ b, exec (.bypass b) s = .next s) ∧ ∀ n, exec (.samplePreload n) s = .next s)

/-- The block's queue: first in, first out. That an empty queue idles is the model's choice (log entry 19). -/
def Obligations.StepRunsTheFrontCommand : Prop :=
  (∀ (c : Instr) (rest : List Instr) (s : State), step { s with pending := c :: rest } = exec c { s with pending := rest }) ∧
  (∀ (s : State), s.pending = [] → step s = .next s) ∧
  ∀ (s : State) (n w : Nat), decodeTableWord n w = none ∧ s.withFetchWord n w = s

/-- R10, R20, R27, R29, R197, R273. The queue of waiting commands is the model's own: only `step` takes from it. -/
def Obligations.EveryUnitAnswers : Prop :=
  (∀ (c : Instr) (s : State), c.wf = true → ∃ u, exec c s = .next u) ∧
  (∀ (c : Instr) (s : State), c.wf = false → exec c s = .fault .noSuchUnit) ∧
  (∀ (s : State), QueueWf s → Safe s) ∧
  (∀ (c : Instr) (s u : State), exec c s = .next u → u.pending = s.pending) ∧
  ∀ (s u : State), step s = .next u → u.pending = s.pending.drop 1

/-- The canonical form of memory is the model's own (log entry 1): equal memories are equal data. -/
def Obligations.MemoryStaysCanonical : Prop :=
  (∀ (c : Instr) (s u : State), Memory.wf s.mem = true → exec c s = .next u → Memory.wf u.mem = true) ∧
  (∀ (s u : State), Memory.wf s.mem = true → step s = .next u → Memory.wf u.mem = true) ∧
  ∀ (s u : State), Memory.wf s.mem = true → Memory.wf u.mem = true → (∀ a, u.byteAt a = s.byteAt a) → u.mem = s.mem

/-- R388, R389, R424, R429, R432 and the tables that give reset values; of memory, log entry 1. -/
def Obligations.ResetValues : Prop :=
  let s := State.reset
  s.pending = [] ∧ Memory.wf s.mem = true ∧ (∀ a, s.byteAt a = 0) ∧ (∀ g, (s.region g).st = .dark ∧ (s.region g).op = 0) ∧
  (∀ t, s.tile t = Tile.init ∧ s.runs t = false) ∧ (∀ k, (s.stack k).st = 0 ∧ (s.stack k).live = 0) ∧ (∀ l, (s.port l).up = false) ∧
  s.time.st = .unset ∧ s.time.valid = false ∧ s.time.src = 0 ∧ s.timStat = 0xFFFF0000 ∧ s.beat.count = 0 ∧ s.beat.len = 20000 ∧
  s.boot.step = 0 ∧ s.boot.done = false ∧ s.boot.cause = 1 ∧ s.boot.halted = none ∧ s.boot.lane = 0xFF ∧ s.boot.wd = false ∧
  s.img.loaded = none ∧ s.img.content = List.replicate 64 0 ∧ s.adm.isOpen = false ∧ (∀ r, s.req r = none) ∧ (∀ k, s.sess k = none) ∧
  s.flt.log = [] ∧ s.flt.evNext = 1 ∧ s.flt.evOldest = 1 ∧ s.csr.alertSrc = 0 ∧ s.csr.alertMask = 0x3FF ∧
  (∀ c, (s.mbx c).full = false ∧ (s.mbx c).timeout = false ∧ (s.mbx c).tmo = 1000 ∧ (s.mbx c).len = 0) ∧
  (∀ h, (s.wrm h).valid = false ∧ (s.wrm h).err = false ∧ (s.wrm h).sel = 0) ∧ s.train.st = 0 ∧ s.train.slotA = none ∧ s.train.slotB = none ∧
  s.i2c.ptr = 0 ∧ s.jtag.drive = false

/-- R334 to R427, the rules of the commands named: the completion of each. The statements on their families say the rest of each effect. -/
def Obligations.LimitsHeatDisputesTrainingTransfersComplete : Prop :=
  ∀ (s : State),
    (s.pwr.pcap = false →
      ∃ u, exec .pcapAssert s = .next u ∧ u.pwr.pcap = true ∧ u.pwr.pcapLim = s.setting 0x2000 2 ∧ u.pins.pcapN = false ∧ u.mem = s.mem) ∧
    (s.pwr.pcap = true →
      ∃ u, exec .pcapRelease s = .next u ∧ u.pwr.pcap = false ∧ u.pwr.releaseDue = true ∧ u.pins.pcapN = true ∧ u.regions = s.regions) ∧
    (∀ k x v, OperatorSession s k →
      (6000 ≤ v → v ≤ 13000 → s.moduleCommitted ≤ v * 1000 →
        ∃ u, exec (.moduleInMaxWrite k x v) s = .next u ∧ u.setting 0x2000 1 = v ∧ u.reqs = s.reqs) ∧
      (6000 ≤ v → v ≤ 13000 → ∃ u, exec (.pcapLimitWrite k x v) s = .next u ∧ u.setting 0x2000 2 = v ∧ u.pwr = s.pwr) ∧
      (v ≤ 1 → ∃ u, exec (.marginModeWrite k x v) s = .next u ∧ u.setting 0x2000 7 = v ∧ u.pwr.legacyReq = some (v == 1))) ∧
    (∀ m, ∃ u, exec (.sensorRead m) s = .next u ∧ (∀ g < 32, (u.region g).temps = (upTo 5).map fun i => (m.regions.getD g []).getD i 0)) ∧
    (∀ g, g < 32 → 11000 ≤ (s.region g).temp → (s.region g).hotSince ≠ 0 → (s.region g).st.code ≤ 3 → (s.region g).heatOff = false →
      ∃ u, exec (.heatSwitchOff g) s = .next u ∧ (u.region g).heatOff = true ∧ 2 ≤ (u.region g).st.code) ∧
    (∀ g, g < 32 → (s.region g).heatOff = true → (s.region g).temp < 9000 →
      ∃ u, exec (.heatRewake g) s = .next u ∧ (u.region g).heatOff = false ∧ (u.region g).temps = (s.region g).temps) ∧
    (s.therm.tripped = false → s.therm.halted = false →
      ∃ u, exec .coolantLoss s = .next u ∧ u.therm.halted = true ∧ u.therm.coolant = false ∧ u.adm.isOpen = false) ∧
    (s.therm.halted = true → s.therm.tripped = false → s.coolEnough = true →
      ∃ u, exec .haltEnd s = .next u ∧ u.therm.halted = false ∧ u.therm.coolant = true) ∧
    (∀ c, s.stopClass = some c →
      ∃ u, exec .faultStop s = .next u ∧ u.flt.stops = s.flt.stops + 1 ∧ u.flt.restart = true ∧ u.beat.abandoned = true) ∧
    (∀ g v c dig, g < 32 → s.checkerCore g = some v → s.nextCapture g = some c →
      ∃ u, exec (.checkerRecompute g dig) s = .next u ∧ (u.tile c.tile).capture = none ∧
        (dig.toNat = c.dig → u.flt.samples = s.flt.samples + 1) ∧ (dig.toNat ≠ c.dig → u.flt.disputes.length = s.flt.disputes.length + 1)) ∧
    (∀ g c, g < 32 → s.nextCapture g = some c → s.checkerCore g = none →
      ∃ u, exec (.recomputeDrop g) s = .next u ∧ (u.tile c.tile).capture = none ∧ u.flt.skipped = s.flt.skipped + 1) ∧
    (∀ d rest v, s.flt.disputes = d :: rest → s.beat.abandoned = false → ∃ u, exec (.disputeVerdict v) s = .next u ∧ u.flt.disputes = rest) ∧
    (∀ d rest, s.flt.disputes = d :: rest → 4 ≤ d.age → ∃ u, exec .disputeTimeout s = .next u ∧ u.flt.disputes = rest) ∧
    (∀ tid, s.trains = true → s.mirrored tid = true →
      ((∀ id ∈ s.halfRows tid s.train.step, Tab.get 0 s.bad id = 0) →
        ∃ u, exec (.mirrorCopy tid) s = .next u ∧ Tab.get 0 u.train.mirrors tid = s.train.step + 1) ∧
      (Tab.get 0 s.train.mirrors tid ≠ s.train.step + 1 → tid ∉ s.train.late → ∃ u, exec (.mirrorLate tid) s = .next u ∧ tid ∈ u.train.late)) ∧
    (∀ k x st ix data, OperatorSession s k → s.trainOpen = true →
      ∃ u, exec (.batch k x st ix data) s = .next u ∧ (st, ix, data) ∈ u.train.batches) ∧
    (∀ k x, OperatorSession s k → s.img.load = none → s.trainOpen = true → s.trains = true → s.train.snapReq = none →
      ∃ u, exec (.checkpoint k x) s = .next u ∧ u.train.snapReq = some (4 * 2 ^ 56 + s.boot.hctr)) ∧
    (∀ loss, s.trains = true → s.beat.abandoned = false → s.train.writing = none → loss < 2 ^ 32 →
      ∃ u, exec (.chrysalisCommit loss) s = .next u ∧ u.train.step = s.train.step + 1 ∧ u.train.lastLoss = loss) ∧
    (∀ k x, OperatorSession s k →
      (∀ n, 0 < n → s.xferOf k x = none → (∀ t ∈ s.fordan.xfers, t.read = false → ¬ (t.ix = 0x8000 ∧ t.sub = 2)) →
        ∃ u, exec (.segStart k x ⟨0x8000, 2, 0, n, 0⟩) s = .next u ∧ u.xferOf k x = some ⟨k, x, 0x8000, 2, false, n, 0, [], [], [], 0, 0⟩) ∧
      (∀ t, s.xferOf k x = some t →
        (∀ off data, t.read = false → t.got = [] → 0 < off → 0 < data.length → off + data.length ≤ t.len → data.length ≤ s.segMax →
          off + data.length ≤ 64 * s.segMax →
          ∃ u v, exec (.segData k x off data) s = .next u ∧ u.xferOf k x = some v ∧ v.got = [(off, off + data.length)]) ∧
        (∀ n, t.read = true → 0 < s.segMax → t.nxt < n → n ≤ t.sent → n < t.len →
          ∃ u v, exec (.segAck k x n) s = .next u ∧ u.xferOf k x = some v ∧ v.nxt = n ∧ v.snap = t.snap) ∧
        (t.read = true → 0 < s.segMax → t.nxt < t.len →
          ∃ u v, exec (.segmentResendTimeout k x) s = .next u ∧ u.xferOf k x = some v ∧ v.nxt = t.nxt ∧ s.fordan.out.length < u.fordan.out.length) ∧
        ∃ u, exec (.transferAbandon k x) s = .next u ∧ u.xferOf k x = none)) ∧
    (∀ h v, s.csr.alertMask < 2 ^ 10 → s.csr.alertMask % 4 = 3 →
      let rw (i : Nat) : Bool := decide (2 ≤ i ∧ i ≤ 9)
      (∃ u, exec (.csrWrite h 0x40000008 v) s = .next u ∧
        ∀ i, bitOf u.csr.alertMask i = (decide (i < 2) || (bitOf v.toNat i && decide (i < 10)))) ∧
      (∃ u, exec (.aliasView h 0x200000020) s = .next u ∧ u.csr.rdata = s.csr.alertMask) ∧
      (∃ u, exec (.aliasSet h 0x200000024 v) s = .next u ∧
        ∀ i < 32, bitOf u.csr.alertMask i = (bitOf s.csr.alertMask i || (bitOf v.toNat i && rw i))) ∧
      (∃ u, exec (.aliasClear h 0x200000028 v) s = .next u ∧
        ∀ i < 32, bitOf u.csr.alertMask i = (bitOf s.csr.alertMask i && !(bitOf v.toNat i && rw i))) ∧
      (∃ u, exec (.aliasFlip h 0x20000002C v) s = .next u ∧
        ∀ i < 32, bitOf u.csr.alertMask i = (bitOf s.csr.alertMask i != (bitOf v.toNat i && rw i))))
end

