-- ==== Sys2Proof/Laws/Tab.lean ====
section
/-!
SUPPORT. The laws of sparse tables: a read after a write, and the canonical form kept.
-/

namespace Sys2Proof

variable {α : Type}

theorem Tab.get_nil (d : α) (i : Nat) : Tab.get d [] i = d := rfl

theorem Tab.get_erase_self (d : α) (t : Tab α) (i : Nat) : Tab.get d (Tab.erase t i) i = d := by
  induction t with
  | nil => rfl
  | cons c r ih =>
    obtain ⟨k, v⟩ := c
    simp only [Tab.erase]
    split
    · exact ih
    · simp only [Tab.get]
      split
      · contradiction
      · exact ih

theorem Tab.get_erase_ne (d : α) (t : Tab α) {i j : Nat} (h : j ≠ i) : Tab.get d (Tab.erase t i) j = Tab.get d t j := by
  induction t with
  | nil => rfl
  | cons c r ih =>
    obtain ⟨k, v⟩ := c
    simp only [Tab.erase]
    split
    · rename_i e
      subst e
      simp only [Tab.get, if_neg h]
      exact ih
    · simp only [Tab.get]
      split
      · rfl
      · exact ih

/-- Key `i` is not in the table. -/
theorem Tab.get_insert_self (d : α) (t : Tab α) (i : Nat) (v : α) (h : ∀ c ∈ t, c.1 ≠ i) :
    Tab.get d (Tab.insert t i v) i = v := by
  induction t with
  | nil => simp [Tab.insert, Tab.get]
  | cons c r ih =>
    obtain ⟨k, w⟩ := c
    simp only [Tab.insert]
    split
    · simp [Tab.get]
    · have hk : i ≠ k := fun e => h (k, w) (by simp) e.symm
      simp only [Tab.get, if_neg hk]
      exact ih fun c hc => h c (by simp [hc])

theorem Tab.get_insert_ne (d : α) (t : Tab α) {i j : Nat} (v : α) (h : j ≠ i) : Tab.get d (Tab.insert t i v) j = Tab.get d t j := by
  induction t with
  | nil => simp [Tab.insert, Tab.get, h]
  | cons c r ih =>
    obtain ⟨k, w⟩ := c
    simp only [Tab.insert]
    split
    · simp [Tab.get, h]
    · simp only [Tab.get]
      split
      · rfl
      · exact ih

theorem Tab.erase_keys (t : Tab α) (i : Nat) : ∀ c ∈ Tab.erase t i, c.1 ≠ i := by
  induction t with
  | nil => intro c hc; cases hc
  | cons c r ih =>
    obtain ⟨k, v⟩ := c
    simp only [Tab.erase]
    split
    · exact ih
    · rename_i e
      intro c hc
      rcases List.mem_cons.mp hc with rfl | hc
      · exact fun e' => e e'.symm
      · exact ih c hc

variable [DecidableEq α]

@[simp] theorem Tab.get_put_self (d : α) (t : Tab α) (i : Nat) (v : α) : Tab.get d (Tab.put d t i v) i = v := by
  unfold Tab.put
  split
  · rename_i e
    rw [Tab.get_erase_self, e]
  · exact Tab.get_insert_self d _ i v (Tab.erase_keys t i)

theorem Tab.get_put_ne (d : α) (t : Tab α) {i j : Nat} (v : α) (h : j ≠ i) : Tab.get d (Tab.put d t i v) j = Tab.get d t j := by
  unfold Tab.put
  split
  · exact Tab.get_erase_ne d t h
  · rw [Tab.get_insert_ne d _ v h, Tab.get_erase_ne d t h]

theorem Tab.get_put (d : α) (t : Tab α) (i j : Nat) (v : α) :
    Tab.get d (Tab.put d t i v) j = if j = i then v else Tab.get d t j := by
  split
  · rename_i e; subst e; exact Tab.get_put_self d t j v
  · rename_i e; exact Tab.get_put_ne d t v e

@[simp] theorem Tab.get_upd_self (d : α) (t : Tab α) (i : Nat) (f : α → α) : Tab.get d (Tab.upd d t i f) i = f (Tab.get d t i) :=
  Tab.get_put_self d t i _

theorem Tab.get_upd_ne (d : α) (t : Tab α) {i j : Nat} (f : α → α) (h : j ≠ i) : Tab.get d (Tab.upd d t i f) j = Tab.get d t j :=
  Tab.get_put_ne d t _ h

theorem Tab.wfFrom_mono {d : α} {n m : Nat} {t : Tab α} (h : n ≤ m) (w : Tab.wfFrom d m t = true) : Tab.wfFrom d n t = true := by
  cases t with
  | nil => rfl
  | cons c r =>
    obtain ⟨k, v⟩ := c
    simp only [Tab.wfFrom, Bool.and_eq_true, decide_eq_true_eq] at w ⊢
    exact ⟨⟨by omega, w.1.2⟩, w.2⟩

theorem Tab.wf_erase {d : α} {t : Tab α} {i : Nat} : ∀ {n : Nat}, Tab.wfFrom d n t = true → Tab.wfFrom d n (Tab.erase t i) = true := by
  induction t with
  | nil => intro n h; exact h
  | cons c r ih =>
    obtain ⟨k, v⟩ := c
    intro n h
    simp only [Tab.wfFrom, Bool.and_eq_true, decide_eq_true_eq] at h
    simp only [Tab.erase]
    split
    · exact ih (Tab.wfFrom_mono (by omega) h.2)
    · simp only [Tab.wfFrom, Bool.and_eq_true, decide_eq_true_eq]
      exact ⟨h.1, ih h.2⟩

theorem Tab.wf_insert {d : α} {t : Tab α} {i : Nat} {v : α} (hv : v ≠ d) (hk : ∀ c ∈ t, c.1 ≠ i) :
    ∀ {n : Nat}, n ≤ i → Tab.wfFrom d n t = true → Tab.wfFrom d n (Tab.insert t i v) = true := by
  induction t with
  | nil => intro n hn _; simp [Tab.insert, Tab.wfFrom, hn, hv]
  | cons c r ih =>
    obtain ⟨k, w⟩ := c
    intro n hn h
    simp only [Tab.wfFrom, Bool.and_eq_true, decide_eq_true_eq] at h
    have hki : k ≠ i := hk (k, w) (by simp)
    simp only [Tab.insert]
    split
    · simp only [Tab.wfFrom, Bool.and_eq_true, decide_eq_true_eq]
      exact ⟨⟨hn, hv⟩, ⟨by omega, h.1.2⟩, h.2⟩
    · simp only [Tab.wfFrom, Bool.and_eq_true, decide_eq_true_eq]
      exact ⟨h.1, ih (fun c hc => hk c (by simp [hc])) (by omega) h.2⟩

/-- A write keeps a table's canonical form. -/
theorem Tab.wf_put {d : α} {t : Tab α} (i : Nat) (v : α) (h : Tab.wf d t = true) : Tab.wf d (Tab.put d t i v) = true := by
  unfold Tab.put
  split
  · exact Tab.wf_erase h
  · rename_i hv
    exact Tab.wf_insert hv (Tab.erase_keys t i) (Nat.zero_le i) (Tab.wf_erase h)

end Sys2Proof
end

