-- ==== Sys2Proof/Laws/Memory.lean ====
section
/-!
SUPPORT. The laws of memory: every memory operation keeps the canonical form, a read after a write to the same row gives what was
written, and a write leaves every other byte alone.
-/

namespace Sys2Proof.Machine

/-! ### The canonical form -/

theorem wfFrom_mono {n m : Nat} {l : List (Nat × Byte)} (h : n ≤ m) (w : Memory.wfFrom m l = true) : Memory.wfFrom n l = true := by
  cases l with
  | nil => rfl
  | cons c r =>
    obtain ⟨k, v⟩ := c
    simp only [Memory.wfFrom, Bool.and_eq_true, decide_eq_true_eq] at w ⊢
    exact ⟨⟨by omega, w.1.2⟩, w.2⟩

/-- Every cell of the list lies below `b`. -/
def Below (b : Nat) (l : List (Nat × Byte)) : Prop := ∀ c ∈ l, c.1 < b

theorem wfFrom_append {n b : Nat} {l r : List (Nat × Byte)} (hn : n ≤ b) (hl : Memory.wfFrom n l = true) (hb : Below b l)
    (hr : Memory.wfFrom b r = true) : Memory.wfFrom n (l ++ r) = true := by
  induction l generalizing n with
  | nil => exact wfFrom_mono hn hr
  | cons c l ih =>
    obtain ⟨k, v⟩ := c
    simp only [Memory.wfFrom, Bool.and_eq_true, decide_eq_true_eq, List.cons_append] at hl ⊢
    exact ⟨hl.1, ih (hb (k, v) (by simp)) hl.2 fun c hc => hb c (by simp [hc])⟩

theorem wfFrom_takeWhile {n a : Nat} {l : List (Nat × Byte)} (h : Memory.wfFrom n l = true) :
    Memory.wfFrom n (l.takeWhile fun c => decide (c.1 < a)) = true := by
  induction l generalizing n with
  | nil => rfl
  | cons c l ih =>
    obtain ⟨k, v⟩ := c
    simp only [Memory.wfFrom, Bool.and_eq_true, decide_eq_true_eq] at h
    simp only [List.takeWhile]
    split
    · simp only [Memory.wfFrom, Bool.and_eq_true, decide_eq_true_eq]
      exact ⟨h.1, ih h.2⟩
    · rfl

theorem below_takeWhile (a : Nat) (l : List (Nat × Byte)) : Below a (l.takeWhile fun c => decide (c.1 < a)) := by
  intro c hc
  have := List.mem_takeWhile_imp hc
  simpa using this

theorem wfFrom_dropWhile {n a : Nat} {l : List (Nat × Byte)} (h : Memory.wfFrom n l = true) :
    Memory.wfFrom (max n a) (l.dropWhile fun c => decide (c.1 < a)) = true := by
  induction l generalizing n with
  | nil => rfl
  | cons c l ih =>
    obtain ⟨k, v⟩ := c
    have h' := h
    simp only [Memory.wfFrom, Bool.and_eq_true, decide_eq_true_eq] at h'
    simp only [List.dropWhile]
    split
    · rename_i e
      have e : k < a := by simpa using e
      exact wfFrom_mono (by omega) (ih h'.2)
    · rename_i e
      have e : a ≤ k := by simpa using e
      simp only [Memory.wfFrom, Bool.and_eq_true, decide_eq_true_eq]
      exact ⟨⟨by omega, h'.1.2⟩, h'.2⟩

theorem wfFrom_cellsFrom (a : Nat) (b : Bytes) : Memory.wfFrom a (cellsFrom a b) = true := by
  induction b generalizing a with
  | nil => rfl
  | cons x r ih =>
    simp only [cellsFrom]
    split
    · exact wfFrom_mono (by omega) (ih (a + 1))
    · rename_i e
      simp only [Memory.wfFrom, Bool.and_eq_true, decide_eq_true_eq]
      exact ⟨⟨Nat.le_refl a, e⟩, ih (a + 1)⟩

theorem below_cellsFrom (a : Nat) (b : Bytes) : Below (a + b.length) (cellsFrom a b) := by
  induction b generalizing a with
  | nil => intro c hc; cases hc
  | cons x r ih =>
    have step : Below (a + (x :: r).length) (cellsFrom (a + 1) r) := fun c hc => by
      have := ih (a + 1) c hc
      simp only [List.length_cons]; omega
    simp only [cellsFrom]
    split
    · exact step
    · intro c hc
      rcases List.mem_cons.mp hc with rfl | hc
      · simp
      · exact step c hc

/-- A write of any bytes at any address keeps the canonical form. -/
theorem wf_memWrite {m : List (Nat × Byte)} (h : Memory.wf m = true) (a : Nat) (b : Bytes) : Memory.wf (memWrite m a b) = true := by
  have hd : Memory.wfFrom (a + b.length) ((m.dropWhile fun c => decide (c.1 < a)).dropWhile fun c => decide (c.1 < a + b.length)) = true :=
    wfFrom_mono (by omega) (wfFrom_dropWhile (a := a + b.length) (wfFrom_dropWhile (a := a) h))
  have hc : Memory.wfFrom a (cellsFrom a b ++ (m.dropWhile fun c => decide (c.1 < a)).dropWhile fun c => decide (c.1 < a + b.length)) = true :=
    wfFrom_append (by omega) (wfFrom_cellsFrom a b) (below_cellsFrom a b) hd
  have := wfFrom_append (n := 0) (Nat.zero_le a) (wfFrom_takeWhile (a := a) h) (below_takeWhile a m) hc
  simpa [memWrite, List.append_assoc] using this

/-! ### Reads -/

theorem get_below {b j : Nat} {l r : List (Nat × Byte)} (hl : Below b l) (h : b ≤ j) :
    Tab.get (0 : Byte) (l ++ r) j = Tab.get 0 r j := by
  induction l with
  | nil => rfl
  | cons c l ih =>
    obtain ⟨k, v⟩ := c
    have hk : k < b := hl (k, v) (by simp)
    simp only [List.cons_append, Tab.get, if_neg (show j ≠ k by omega)]
    exact ih fun c hc => hl c (by simp [hc])

theorem get_above {n j : Nat} {l : List (Nat × Byte)} (h : Memory.wfFrom n l = true) (hj : j < n) : Tab.get (0 : Byte) l j = 0 := by
  induction l generalizing n with
  | nil => rfl
  | cons c l ih =>
    obtain ⟨k, v⟩ := c
    simp only [Memory.wfFrom, Bool.and_eq_true, decide_eq_true_eq] at h
    simp only [Tab.get, if_neg (show j ≠ k by omega)]
    exact ih h.2 (by omega)

theorem get_append_above {n j : Nat} {l r : List (Nat × Byte)} (h : Memory.wfFrom n r = true) (hj : j < n) :
    Tab.get (0 : Byte) (l ++ r) j = Tab.get 0 l j := by
  induction l with
  | nil => exact get_above h hj
  | cons c l ih =>
    obtain ⟨k, v⟩ := c
    simp only [List.cons_append, Tab.get, ih]

theorem get_dropWhile {a j : Nat} {l : List (Nat × Byte)} (hj : a ≤ j) :
    Tab.get (0 : Byte) (l.dropWhile fun c => decide (c.1 < a)) j = Tab.get 0 l j := by
  induction l with
  | nil => rfl
  | cons c l ih =>
    obtain ⟨k, v⟩ := c
    simp only [List.dropWhile]
    split
    · rename_i e
      have e : k < a := by simpa using e
      simp only [Tab.get, if_neg (show j ≠ k by omega)]
      exact ih
    · rfl

theorem get_takeWhile {n a j : Nat} {l : List (Nat × Byte)} (h : Memory.wfFrom n l = true) (hj : j < a) :
    Tab.get (0 : Byte) (l.takeWhile fun c => decide (c.1 < a)) j = Tab.get 0 l j := by
  induction l generalizing n with
  | nil => rfl
  | cons c l ih =>
    obtain ⟨k, v⟩ := c
    simp only [Memory.wfFrom, Bool.and_eq_true, decide_eq_true_eq] at h
    simp only [List.takeWhile]
    split
    · simp only [Tab.get, ih h.2]
    · rename_i e
      have e : a ≤ k := by simpa using e
      simp only [Tab.get, if_neg (show j ≠ k by omega)]
      exact (get_above h.2 (by omega)).symm

theorem get_cellsFrom (a j : Nat) (b : Bytes) (hj : a ≤ j) : Tab.get (0 : Byte) (cellsFrom a b) j = b.getD (j - a) 0 := by
  induction b generalizing a with
  | nil => rfl
  | cons x r ih =>
    simp only [cellsFrom]
    by_cases e : j = a
    · subst e
      have hab : Tab.get (0 : Byte) (cellsFrom (j + 1) r) j = 0 := get_above (wfFrom_cellsFrom (j + 1) r) (by omega)
      split
      · rename_i hx; rw [hab, hx]; simp
      · simp [Tab.get]
    · have h1 : (x :: r).getD (j - a) 0 = r.getD (j - (a + 1)) 0 := by
        rw [show j - a = (j - (a + 1)) + 1 by omega]; rfl
      rw [h1]
      split
      · exact ih (a + 1) (by omega)
      · simp only [Tab.get, if_neg e]
        exact ih (a + 1) (by omega)

/-- What a byte holds after a write. -/
theorem get_memWrite {m : List (Nat × Byte)} (h : Memory.wf m = true) (a j : Nat) (b : Bytes) :
    Tab.get (0 : Byte) (memWrite m a b) j = if a ≤ j ∧ j < a + b.length then b.getD (j - a) 0 else Tab.get 0 m j := by
  have hd : Memory.wfFrom (a + b.length) ((m.dropWhile fun c => decide (c.1 < a)).dropWhile fun c => decide (c.1 < a + b.length)) = true :=
    wfFrom_mono (by omega) (wfFrom_dropWhile (a := a + b.length) (wfFrom_dropWhile (a := a) h))
  have hc : Memory.wfFrom a (cellsFrom a b ++ (m.dropWhile fun c => decide (c.1 < a)).dropWhile fun c => decide (c.1 < a + b.length)) = true :=
    wfFrom_append (by omega) (wfFrom_cellsFrom a b) (below_cellsFrom a b) hd
  unfold memWrite
  rw [List.append_assoc]
  by_cases h1 : j < a
  · rw [get_append_above hc h1, get_takeWhile h h1, if_neg (by omega)]
  · rw [get_below (below_takeWhile a m) (by omega)]
    by_cases h2 : j < a + b.length
    · rw [get_append_above hd h2, get_cellsFrom a j b (by omega), if_pos ⟨by omega, h2⟩]
    · rw [get_below (below_cellsFrom a b) (by omega), if_neg (by omega), get_dropWhile (by omega), get_dropWhile (by omega)]

theorem memReadFrom_eq {a n : Nat} {l : List (Nat × Byte)} (h : Memory.wfFrom a l = true) :
    memReadFrom l a n = (List.range n).map fun i => Tab.get 0 l (a + i) := by
  induction n generalizing a l with
  | zero => cases l <;> rfl
  | succ n ih =>
    rw [List.range_succ_eq_map, List.map_cons, List.map_map]
    cases l with
    | nil =>
      have := ih (a := a + 1) (l := []) rfl
      simp only [memReadFrom, this]
      congr 1
    | cons c r =>
      obtain ⟨k, v⟩ := c
      have h' := h
      simp only [Memory.wfFrom, Bool.and_eq_true, decide_eq_true_eq] at h'
      simp only [memReadFrom]
      split
      · rename_i e
        subst e
        rw [ih h'.2]
        congr 1
        · simp [Tab.get]
        · apply List.map_congr_left
          intro i _
          simp only [Function.comp_apply, Tab.get, if_neg (show k + (i + 1) ≠ k by omega)]
          congr 1; omega
      · rename_i e
        have hw : Memory.wfFrom (a + 1) ((k, v) :: r) = true := by
          simp only [Memory.wfFrom, Bool.and_eq_true, decide_eq_true_eq]
          exact ⟨⟨by omega, h'.1.2⟩, h'.2⟩
        rw [ih hw]
        congr 1
        · exact (get_above hw (by omega)).symm
        · apply List.map_congr_left
          intro i _
          simp only [Function.comp_apply]
          congr 1; omega

/-- A read returns the bytes of its addresses. -/
theorem memRead_eq {m : List (Nat × Byte)} (h : Memory.wf m = true) (a n : Nat) :
    memRead m a n = (List.range n).map fun i => Tab.get 0 m (a + i) := by
  unfold memRead
  rw [memReadFrom_eq (wfFrom_mono (by omega) (wfFrom_dropWhile (a := a) h))]
  apply List.map_congr_left
  intro i _
  exact get_dropWhile (by omega)

theorem memRead_length (m : List (Nat × Byte)) (a n : Nat) : (memRead m a n).length = n := by
  unfold memRead
  generalize m.dropWhile (fun c => decide (c.1 < a)) = l
  induction n generalizing a l with
  | zero => cases l <;> rfl
  | succ n ih =>
    cases l with
    | nil => simp only [memReadFrom, List.length_cons, ih]
    | cons c r =>
      obtain ⟨k, v⟩ := c
      simp only [memReadFrom]
      split <;> simp only [List.length_cons, ih]

theorem byteAt_eq {s : State} (h : Memory.wf s.mem = true) (a : Nat) : s.byteAt a = Tab.get 0 s.mem a := by
  simp [State.byteAt, memRead_eq h, List.range_succ_eq_map]

theorem slice_length (b : Bytes) (o n : Nat) : (slice b o n).length = n := by
  simp only [slice, List.length_append, List.length_replicate, List.length_take]; omega

theorem slice_self (b : Bytes) {n : Nat} (h : b.length = n) : slice b 0 n = b := by
  subst h; simp [slice]

theorem row_length (s : State) (id : Nat) : (s.row id).length = 512 := memRead_length _ _ _

/-! ### Rows -/

theorem wf_setRow {s : State} (h : Memory.wf s.mem = true) (id : Nat) (b : Bytes) : Memory.wf (s.setRow id b).mem = true :=
  wf_memWrite h _ _

theorem wf_setRows {s : State} (h : Memory.wf s.mem = true) (l : List (Nat × Bytes)) : Memory.wf (s.setRows l).mem = true := by
  induction l generalizing s with
  | nil => exact h
  | cons c r ih => exact ih (wf_setRow h c.1 c.2)

/-- A row written reads back as it was written. -/
theorem row_setRow_self {s : State} (h : Memory.wf s.mem = true) (id : Nat) {b : Bytes} (hb : b.length = 512) :
    (s.setRow id b).row id = b := by
  have hl := slice_self b hb
  unfold State.row
  rw [memRead_eq (wf_setRow h id b)]
  apply List.ext_getElem
  · simp [hb]
  · intro i h1 h2
    simp only [List.getElem_map, List.getElem_range, State.setRow, hl]
    rw [get_memWrite h, if_pos (by omega)]
    simp [h2]

/-- A row write leaves every other row alone. -/
theorem row_setRow_ne {s : State} (h : Memory.wf s.mem = true) {id j : Nat} (b : Bytes) (hj : j ≠ id) :
    (s.setRow id b).row j = s.row j := by
  unfold State.row
  rw [memRead_eq (wf_setRow h id b), memRead_eq h]
  apply List.map_congr_left
  intro i hi
  have hi : i < 512 := by simpa using hi
  simp only [State.setRow]
  rw [get_memWrite h, slice_length, if_neg]
  omega

/-- A row write leaves every byte outside the row alone. -/
theorem byteAt_setRow {s : State} (h : Memory.wf s.mem = true) (id a : Nat) (b : Bytes) (ha : a / 512 ≠ id) :
    (s.setRow id b).byteAt a = s.byteAt a := by
  rw [byteAt_eq (wf_setRow h id b), byteAt_eq h]
  simp only [State.setRow]
  rw [get_memWrite h, slice_length, if_neg]
  omega

/-! ### Rows written one after another -/

theorem setRows_frame (s : State) (l : List (Nat × Bytes)) : { s.setRows l with mem := s.mem, bad := s.bad } = s := by
  induction l generalizing s with
  | nil => rfl
  | cons c r ih =>
    have h := ih (s.setRow c.1 c.2)
    have g : s.setRows (c :: r) = (s.setRow c.1 c.2).setRows r := rfl
    rw [g]
    have e := congrArg (fun v : State => { v with mem := s.mem, bad := s.bad }) h
    exact e

theorem row_setRows_ne {s : State} (h : Memory.wf s.mem = true) {l : List (Nat × Bytes)} {j : Nat} (hj : ∀ c ∈ l, c.1 ≠ j) :
    (s.setRows l).row j = s.row j := by
  induction l generalizing s with
  | nil => rfl
  | cons c r ih =>
    have g : s.setRows (c :: r) = (s.setRow c.1 c.2).setRows r := rfl
    rw [g, ih (wf_setRow h _ _) fun c hc => hj c (by simp [hc]), row_setRow_ne h _ (Ne.symm (hj c (by simp)))]

theorem byteAt_setRows {s : State} (h : Memory.wf s.mem = true) {l : List (Nat × Bytes)} {a : Nat} (ha : ∀ c ∈ l, c.1 ≠ a / 512) :
    (s.setRows l).byteAt a = s.byteAt a := by
  induction l generalizing s with
  | nil => rfl
  | cons c r ih =>
    have g : s.setRows (c :: r) = (s.setRow c.1 c.2).setRows r := rfl
    rw [g, ih (wf_setRow h _ _) fun c hc => ha c (by simp [hc]), byteAt_setRow h _ _ _ (Ne.symm (ha c (by simp)))]

/-- Of rows written at rising places, each reads back as it was written. -/
theorem row_setRows_mem {s : State} (h : Memory.wf s.mem = true) {l : List (Nat × Bytes)} (hp : l.Pairwise fun a b => a.1 ≠ b.1)
    {c : Nat × Bytes} (hc : c ∈ l) (hb : c.2.length = 512) : (s.setRows l).row c.1 = c.2 := by
  induction l generalizing s with
  | nil => cases hc
  | cons d r ih =>
    have g : s.setRows (d :: r) = (s.setRow d.1 d.2).setRows r := rfl
    rw [g]
    rcases List.mem_cons.mp hc with rfl | hc
    · rw [row_setRows_ne (wf_setRow h _ _) fun e he => Ne.symm ((List.pairwise_cons.mp hp).1 e he), row_setRow_self h _ hb]
    · exact ih (wf_setRow h _ _) (List.pairwise_cons.mp hp).2 hc

end Sys2Proof.Machine
end

