-- ==== Sys2Proof/Laws/Bytes.lean ====
section
/-!
SUPPORT. Little-endian fields of byte strings, and the lanes of a register.
-/

namespace Sys2Proof.Machine

@[simp] theorem leBytes_length (n w : Nat) : (leBytes n w).length = n := by
  induction n generalizing w with
  | zero => rfl
  | succ n ih => simp [leBytes, ih]

theorem leNat_leBytes (n w : Nat) : leNat (leBytes n w) = w % 256 ^ n := by
  induction n generalizing w with
  | zero => simp [leBytes, leNat, Nat.mod_one]
  | succ n ih =>
    show (BitVec.ofNat 8 w).toNat + 256 * leNat (leBytes n (w / 256)) = _
    rw [BitVec.toNat_ofNat, ih, show (256 : Nat) ^ (n + 1) = 256 * 256 ^ n from Nat.pow_succ', Nat.mod_mul]

theorem unlanes_length (w : Nat) (l : List Nat) : (unlanes w l).length = w * l.length := by
  induction l with
  | nil => rfl
  | cons x r ih =>
    have : unlanes w (x :: r) = leBytes w x ++ unlanes w r := rfl
    simp [this, ih, Nat.mul_succ, Nat.add_comm]

/-- A field within the first part of a string. -/
theorem slice_append_left {a b : Bytes} {o n : Nat} (h : o + n ≤ a.length) : slice (a ++ b) o n = slice a o n := by
  simp only [slice]
  rw [List.drop_append_of_le_length (by omega), List.take_append_of_le_length (by simp; omega)]

/-- A field beyond the first part of a string. -/
theorem slice_append_right {a b : Bytes} {o n : Nat} : slice (a ++ b) (a.length + o) n = slice b o n := by
  simp only [slice]
  rw [List.drop_append, List.drop_eq_nil_of_le (by omega), List.nil_append]
  rw [show a.length + o - a.length = o by omega]

theorem slice_unlanes {w : Nat} {l : List Nat} {i : Nat} (h : i < l.length) : slice (unlanes w l) (w * i) w = leBytes w (l.getD i 0) := by
  induction l generalizing i with
  | nil => exact absurd h (by simp)
  | cons x r ih =>
    have e : unlanes w (x :: r) = leBytes w x ++ unlanes w r := rfl
    cases i with
    | zero =>
      rw [e, slice_append_left (by simp)]
      simpa using slice_self (leBytes w x) (leBytes_length w x)
    | succ i =>
      have h2 : i < r.length := by simpa using h
      have := ih h2
      rw [e, show w * (i + 1) = (leBytes w x).length + w * i by simp [Nat.mul_succ, Nat.add_comm], slice_append_right, this]
      simp

/-- A lane reads back as it was written. -/
theorem leAt_unlanes {w : Nat} {l : List Nat} {i : Nat} (h : i < l.length) : leAt (unlanes w l) (w * i) w = l.getD i 0 % 256 ^ w := by
  rw [leAt, slice_unlanes h, leNat_leBytes]

theorem lanes_getD {w : Nat} {b : Bytes} {i : Nat} (h : i < 2048 / w) : (lanes w b).getD i 0 = leAt b (w * i) w := by
  simp [lanes, h]

@[simp] theorem lanes_length (w : Nat) (b : Bytes) : (lanes w b).length = 2048 / w := by simp [lanes]

theorem putAt_length {b v : Bytes} {o : Nat} : (putAt b o v).length = b.length := by
  simp only [putAt, List.length_take, List.length_append, List.length_drop]; omega

end Sys2Proof.Machine
end

