-- ==== Sys2Proof/Laws/Crypto.lean ====
section
/-!
SUPPORT. Lengths of digests: what a proof needs of DEV_ID, whose bytes the manual leaves open.
-/

namespace Sys2Proof.Machine

/-- A round keeps four values of each register's sequence. -/
theorem shaRound_length (ae : List W64 × List W64) (kw : W64) (h : ae.1.length = 4 ∧ ae.2.length = 4) :
    (shaRound ae kw).1.length = 4 ∧ (shaRound ae kw).2.length = 4 := by
  unfold shaRound
  split
  · exact ⟨rfl, rfl⟩
  · exact h

theorem shaRounds_length (l : List W64) (ae : List W64 × List W64) (h : ae.1.length = 4 ∧ ae.2.length = 4) :
    (l.foldl shaRound ae).1.length = 4 ∧ (l.foldl shaRound ae).2.length = 4 := by
  induction l generalizing ae with
  | nil => exact h
  | cons k l ih => exact ih _ (shaRound_length ae k h)

theorem shaBlock_length (h : List W64) (b : Bytes) (e : h.length = 8) : (shaBlock h b).length = 8 := by
  obtain ⟨h1, h2⟩ := shaRounds_length
    (List.zipWith (· + ·) shaK (shaSchedule 64 ((upTo 16).reverse.map fun i => BitVec.ofNat 64 (beAt b (8 * i) 8))).reverse)
    (h.take 4, h.drop 4) (by simp [e])
  simp only [shaBlock, List.length_zipWith, List.length_append, h1, h2, e]; rfl

theorem shaBlocks_length (n : Nat) (h : List W64) (b : Bytes) (e : h.length = 8) : (shaBlocks n h b).length = 8 := by
  induction n generalizing h b with
  | zero => exact e
  | succ n ih => rw [shaBlocks]; exact ih _ _ (shaBlock_length h _ e)

theorem shaH_length : shaH.length = 8 := by decide +kernel

theorem sha512_length (m : Bytes) : (sha512 m).length = 64 := by
  have h : ∀ l : List W64, (l.flatMap fun w => beBytes 8 w.toNat).length = 8 * l.length := by
    intro l
    induction l with
    | nil => rfl
    | cons a l ih => rw [List.flatMap_cons, List.length_append, ih]; simp [beBytes]; omega
  rw [sha512, h, shaBlocks_length _ _ _ shaH_length]

/-- DEV_ID is 64 bytes. -/
theorem devId_length : devId.length = 64 := sha512_length _

end Sys2Proof.Machine
end

