-- ==== Sys2Proof/Laws/State.lean ====
section
/-!
SUPPORT. The laws of the state's updaters: one lemma for each field under each update, and the read of a unit after its update.
-/

namespace Sys2Proof.Machine

/-! ### updTile -/

@[simp] theorem updTile_pending (s : State) (t : Nat) (f : Tile → Tile) : (s.updTile t f).pending = s.pending := rfl
@[simp] theorem updTile_mem (s : State) (t : Nat) (f : Tile → Tile) : (s.updTile t f).mem = s.mem := rfl
@[simp] theorem updTile_bad (s : State) (t : Nat) (f : Tile → Tile) : (s.updTile t f).bad = s.bad := rfl
@[simp] theorem updTile_free (s : State) (t : Nat) (f : Tile → Tile) : (s.updTile t f).free = s.free := rfl
@[simp] theorem updTile_regions (s : State) (t : Nat) (f : Tile → Tile) : (s.updTile t f).regions = s.regions := rfl
@[simp] theorem updTile_fields (s : State) (t : Nat) (f : Tile → Tile) : (s.updTile t f).fields = s.fields := rfl
@[simp] theorem updTile_stacks (s : State) (t : Nat) (f : Tile → Tile) : (s.updTile t f).stks = s.stks := rfl
@[simp] theorem updTile_engines (s : State) (t : Nat) (f : Tile → Tile) : (s.updTile t f).engines = s.engines := rfl
@[simp] theorem updTile_ports (s : State) (t : Nat) (f : Tile → Tile) : (s.updTile t f).ports = s.ports := rfl
@[simp] theorem updTile_parts (s : State) (t : Nat) (f : Tile → Tile) : (s.updTile t f).parts = s.parts := rfl
@[simp] theorem updTile_net (s : State) (t : Nat) (f : Tile → Tile) : (s.updTile t f).net = s.net := rfl
@[simp] theorem updTile_ctl (s : State) (t : Nat) (f : Tile → Tile) : (s.updTile t f).ctl = s.ctl := rfl
@[simp] theorem updTile_ringOut (s : State) (t : Nat) (f : Tile → Tile) : (s.updTile t f).ringOut = s.ringOut := rfl
@[simp] theorem updTile_time (s : State) (t : Nat) (f : Tile → Tile) : (s.updTile t f).time = s.time := rfl
@[simp] theorem updTile_beat (s : State) (t : Nat) (f : Tile → Tile) : (s.updTile t f).beat = s.beat := rfl
@[simp] theorem updTile_img (s : State) (t : Nat) (f : Tile → Tile) : (s.updTile t f).img = s.img := rfl
@[simp] theorem updTile_reqs (s : State) (t : Nat) (f : Tile → Tile) : (s.updTile t f).reqs = s.reqs := rfl
@[simp] theorem updTile_adm (s : State) (t : Nat) (f : Tile → Tile) : (s.updTile t f).adm = s.adm := rfl
@[simp] theorem updTile_meter (s : State) (t : Nat) (f : Tile → Tile) : (s.updTile t f).meter = s.meter := rfl
@[simp] theorem updTile_pwr (s : State) (t : Nat) (f : Tile → Tile) : (s.updTile t f).pwr = s.pwr := rfl
@[simp] theorem updTile_therm (s : State) (t : Nat) (f : Tile → Tile) : (s.updTile t f).therm = s.therm := rfl
@[simp] theorem updTile_flt (s : State) (t : Nat) (f : Tile → Tile) : (s.updTile t f).flt = s.flt := rfl
@[simp] theorem updTile_train (s : State) (t : Nat) (f : Tile → Tile) : (s.updTile t f).train = s.train := rfl
@[simp] theorem updTile_boot (s : State) (t : Nat) (f : Tile → Tile) : (s.updTile t f).boot = s.boot := rfl
@[simp] theorem updTile_flash (s : State) (t : Nat) (f : Tile → Tile) : (s.updTile t f).flash = s.flash := rfl
@[simp] theorem updTile_fordan (s : State) (t : Nat) (f : Tile → Tile) : (s.updTile t f).fordan = s.fordan := rfl
@[simp] theorem updTile_csr (s : State) (t : Nat) (f : Tile → Tile) : (s.updTile t f).csr = s.csr := rfl
@[simp] theorem updTile_pins (s : State) (t : Nat) (f : Tile → Tile) : (s.updTile t f).pins = s.pins := rfl
@[simp] theorem updTile_i2c (s : State) (t : Nat) (f : Tile → Tile) : (s.updTile t f).i2c = s.i2c := rfl
@[simp] theorem updTile_jtag (s : State) (t : Nat) (f : Tile → Tile) : (s.updTile t f).jtag = s.jtag := rfl
@[simp] theorem updTile_region (s : State) (t : Nat) (f : Tile → Tile) (n : Nat) : (s.updTile t f).region n = s.region n := rfl
@[simp] theorem updTile_field (s : State) (t : Nat) (f : Tile → Tile) (n : Nat) : (s.updTile t f).field n = s.field n := rfl
@[simp] theorem updTile_stack (s : State) (t : Nat) (f : Tile → Tile) (n : Nat) : (s.updTile t f).stack n = s.stack n := rfl
@[simp] theorem updTile_engine (s : State) (t : Nat) (f : Tile → Tile) (n : Nat) : (s.updTile t f).engine n = s.engine n := rfl
@[simp] theorem updTile_port (s : State) (t : Nat) (f : Tile → Tile) (n : Nat) : (s.updTile t f).port n = s.port n := rfl
@[simp] theorem updTile_part (s : State) (t : Nat) (f : Tile → Tile) (n : Nat) : (s.updTile t f).part n = s.part n := rfl
@[simp] theorem updTile_req (s : State) (t : Nat) (f : Tile → Tile) (n : Nat) : (s.updTile t f).req n = s.req n := rfl
@[simp] theorem updTile_hnd (s : State) (t : Nat) (f : Tile → Tile) (n : Nat) : (s.updTile t f).hnd n = s.hnd n := rfl
@[simp] theorem updTile_sess (s : State) (t : Nat) (f : Tile → Tile) (n : Nat) : (s.updTile t f).sess n = s.sess n := rfl
@[simp] theorem updTile_row (s : State) (t : Nat) (f : Tile → Tile) (n : Nat) : (s.updTile t f).row n = s.row n := rfl
@[simp] theorem updTile_fp (s : State) (t : Nat) (f : Tile → Tile) : (s.updTile t f).fp = s.fp := rfl

/-! ### updRegion -/

@[simp] theorem updRegion_pending (s : State) (g : Nat) (f : Region → Region) : (s.updRegion g f).pending = s.pending := rfl
@[simp] theorem updRegion_mem (s : State) (g : Nat) (f : Region → Region) : (s.updRegion g f).mem = s.mem := rfl
@[simp] theorem updRegion_bad (s : State) (g : Nat) (f : Region → Region) : (s.updRegion g f).bad = s.bad := rfl
@[simp] theorem updRegion_free (s : State) (g : Nat) (f : Region → Region) : (s.updRegion g f).free = s.free := rfl
@[simp] theorem updRegion_tiles (s : State) (g : Nat) (f : Region → Region) : (s.updRegion g f).tiles = s.tiles := rfl
@[simp] theorem updRegion_fields (s : State) (g : Nat) (f : Region → Region) : (s.updRegion g f).fields = s.fields := rfl
@[simp] theorem updRegion_stacks (s : State) (g : Nat) (f : Region → Region) : (s.updRegion g f).stks = s.stks := rfl
@[simp] theorem updRegion_engines (s : State) (g : Nat) (f : Region → Region) : (s.updRegion g f).engines = s.engines := rfl
@[simp] theorem updRegion_ports (s : State) (g : Nat) (f : Region → Region) : (s.updRegion g f).ports = s.ports := rfl
@[simp] theorem updRegion_parts (s : State) (g : Nat) (f : Region → Region) : (s.updRegion g f).parts = s.parts := rfl
@[simp] theorem updRegion_net (s : State) (g : Nat) (f : Region → Region) : (s.updRegion g f).net = s.net := rfl
@[simp] theorem updRegion_ctl (s : State) (g : Nat) (f : Region → Region) : (s.updRegion g f).ctl = s.ctl := rfl
@[simp] theorem updRegion_ringOut (s : State) (g : Nat) (f : Region → Region) : (s.updRegion g f).ringOut = s.ringOut := rfl
@[simp] theorem updRegion_time (s : State) (g : Nat) (f : Region → Region) : (s.updRegion g f).time = s.time := rfl
@[simp] theorem updRegion_beat (s : State) (g : Nat) (f : Region → Region) : (s.updRegion g f).beat = s.beat := rfl
@[simp] theorem updRegion_img (s : State) (g : Nat) (f : Region → Region) : (s.updRegion g f).img = s.img := rfl
@[simp] theorem updRegion_reqs (s : State) (g : Nat) (f : Region → Region) : (s.updRegion g f).reqs = s.reqs := rfl
@[simp] theorem updRegion_adm (s : State) (g : Nat) (f : Region → Region) : (s.updRegion g f).adm = s.adm := rfl
@[simp] theorem updRegion_meter (s : State) (g : Nat) (f : Region → Region) : (s.updRegion g f).meter = s.meter := rfl
@[simp] theorem updRegion_pwr (s : State) (g : Nat) (f : Region → Region) : (s.updRegion g f).pwr = s.pwr := rfl
@[simp] theorem updRegion_therm (s : State) (g : Nat) (f : Region → Region) : (s.updRegion g f).therm = s.therm := rfl
@[simp] theorem updRegion_flt (s : State) (g : Nat) (f : Region → Region) : (s.updRegion g f).flt = s.flt := rfl
@[simp] theorem updRegion_train (s : State) (g : Nat) (f : Region → Region) : (s.updRegion g f).train = s.train := rfl
@[simp] theorem updRegion_boot (s : State) (g : Nat) (f : Region → Region) : (s.updRegion g f).boot = s.boot := rfl
@[simp] theorem updRegion_flash (s : State) (g : Nat) (f : Region → Region) : (s.updRegion g f).flash = s.flash := rfl
@[simp] theorem updRegion_fordan (s : State) (g : Nat) (f : Region → Region) : (s.updRegion g f).fordan = s.fordan := rfl
@[simp] theorem updRegion_csr (s : State) (g : Nat) (f : Region → Region) : (s.updRegion g f).csr = s.csr := rfl
@[simp] theorem updRegion_pins (s : State) (g : Nat) (f : Region → Region) : (s.updRegion g f).pins = s.pins := rfl
@[simp] theorem updRegion_i2c (s : State) (g : Nat) (f : Region → Region) : (s.updRegion g f).i2c = s.i2c := rfl
@[simp] theorem updRegion_jtag (s : State) (g : Nat) (f : Region → Region) : (s.updRegion g f).jtag = s.jtag := rfl
@[simp] theorem updRegion_tile (s : State) (g : Nat) (f : Region → Region) (n : Nat) : (s.updRegion g f).tile n = s.tile n := rfl
@[simp] theorem updRegion_field (s : State) (g : Nat) (f : Region → Region) (n : Nat) : (s.updRegion g f).field n = s.field n := rfl
@[simp] theorem updRegion_stack (s : State) (g : Nat) (f : Region → Region) (n : Nat) : (s.updRegion g f).stack n = s.stack n := rfl
@[simp] theorem updRegion_engine (s : State) (g : Nat) (f : Region → Region) (n : Nat) : (s.updRegion g f).engine n = s.engine n := rfl
@[simp] theorem updRegion_port (s : State) (g : Nat) (f : Region → Region) (n : Nat) : (s.updRegion g f).port n = s.port n := rfl
@[simp] theorem updRegion_part (s : State) (g : Nat) (f : Region → Region) (n : Nat) : (s.updRegion g f).part n = s.part n := rfl
@[simp] theorem updRegion_req (s : State) (g : Nat) (f : Region → Region) (n : Nat) : (s.updRegion g f).req n = s.req n := rfl
@[simp] theorem updRegion_hnd (s : State) (g : Nat) (f : Region → Region) (n : Nat) : (s.updRegion g f).hnd n = s.hnd n := rfl
@[simp] theorem updRegion_sess (s : State) (g : Nat) (f : Region → Region) (n : Nat) : (s.updRegion g f).sess n = s.sess n := rfl
@[simp] theorem updRegion_row (s : State) (g : Nat) (f : Region → Region) (n : Nat) : (s.updRegion g f).row n = s.row n := rfl
@[simp] theorem updRegion_fp (s : State) (g : Nat) (f : Region → Region) : (s.updRegion g f).fp = s.fp := rfl

/-! ### updField -/

@[simp] theorem updField_pending (s : State) (g : Nat) (f : Field → Field) : (s.updField g f).pending = s.pending := rfl
@[simp] theorem updField_mem (s : State) (g : Nat) (f : Field → Field) : (s.updField g f).mem = s.mem := rfl
@[simp] theorem updField_bad (s : State) (g : Nat) (f : Field → Field) : (s.updField g f).bad = s.bad := rfl
@[simp] theorem updField_free (s : State) (g : Nat) (f : Field → Field) : (s.updField g f).free = s.free := rfl
@[simp] theorem updField_tiles (s : State) (g : Nat) (f : Field → Field) : (s.updField g f).tiles = s.tiles := rfl
@[simp] theorem updField_regions (s : State) (g : Nat) (f : Field → Field) : (s.updField g f).regions = s.regions := rfl
@[simp] theorem updField_stacks (s : State) (g : Nat) (f : Field → Field) : (s.updField g f).stks = s.stks := rfl
@[simp] theorem updField_engines (s : State) (g : Nat) (f : Field → Field) : (s.updField g f).engines = s.engines := rfl
@[simp] theorem updField_ports (s : State) (g : Nat) (f : Field → Field) : (s.updField g f).ports = s.ports := rfl
@[simp] theorem updField_parts (s : State) (g : Nat) (f : Field → Field) : (s.updField g f).parts = s.parts := rfl
@[simp] theorem updField_net (s : State) (g : Nat) (f : Field → Field) : (s.updField g f).net = s.net := rfl
@[simp] theorem updField_ctl (s : State) (g : Nat) (f : Field → Field) : (s.updField g f).ctl = s.ctl := rfl
@[simp] theorem updField_ringOut (s : State) (g : Nat) (f : Field → Field) : (s.updField g f).ringOut = s.ringOut := rfl
@[simp] theorem updField_time (s : State) (g : Nat) (f : Field → Field) : (s.updField g f).time = s.time := rfl
@[simp] theorem updField_beat (s : State) (g : Nat) (f : Field → Field) : (s.updField g f).beat = s.beat := rfl
@[simp] theorem updField_img (s : State) (g : Nat) (f : Field → Field) : (s.updField g f).img = s.img := rfl
@[simp] theorem updField_reqs (s : State) (g : Nat) (f : Field → Field) : (s.updField g f).reqs = s.reqs := rfl
@[simp] theorem updField_adm (s : State) (g : Nat) (f : Field → Field) : (s.updField g f).adm = s.adm := rfl
@[simp] theorem updField_meter (s : State) (g : Nat) (f : Field → Field) : (s.updField g f).meter = s.meter := rfl
@[simp] theorem updField_pwr (s : State) (g : Nat) (f : Field → Field) : (s.updField g f).pwr = s.pwr := rfl
@[simp] theorem updField_therm (s : State) (g : Nat) (f : Field → Field) : (s.updField g f).therm = s.therm := rfl
@[simp] theorem updField_flt (s : State) (g : Nat) (f : Field → Field) : (s.updField g f).flt = s.flt := rfl
@[simp] theorem updField_train (s : State) (g : Nat) (f : Field → Field) : (s.updField g f).train = s.train := rfl
@[simp] theorem updField_boot (s : State) (g : Nat) (f : Field → Field) : (s.updField g f).boot = s.boot := rfl
@[simp] theorem updField_flash (s : State) (g : Nat) (f : Field → Field) : (s.updField g f).flash = s.flash := rfl
@[simp] theorem updField_fordan (s : State) (g : Nat) (f : Field → Field) : (s.updField g f).fordan = s.fordan := rfl
@[simp] theorem updField_csr (s : State) (g : Nat) (f : Field → Field) : (s.updField g f).csr = s.csr := rfl
@[simp] theorem updField_pins (s : State) (g : Nat) (f : Field → Field) : (s.updField g f).pins = s.pins := rfl
@[simp] theorem updField_i2c (s : State) (g : Nat) (f : Field → Field) : (s.updField g f).i2c = s.i2c := rfl
@[simp] theorem updField_jtag (s : State) (g : Nat) (f : Field → Field) : (s.updField g f).jtag = s.jtag := rfl
@[simp] theorem updField_tile (s : State) (g : Nat) (f : Field → Field) (n : Nat) : (s.updField g f).tile n = s.tile n := rfl
@[simp] theorem updField_region (s : State) (g : Nat) (f : Field → Field) (n : Nat) : (s.updField g f).region n = s.region n := rfl
@[simp] theorem updField_stack (s : State) (g : Nat) (f : Field → Field) (n : Nat) : (s.updField g f).stack n = s.stack n := rfl
@[simp] theorem updField_engine (s : State) (g : Nat) (f : Field → Field) (n : Nat) : (s.updField g f).engine n = s.engine n := rfl
@[simp] theorem updField_port (s : State) (g : Nat) (f : Field → Field) (n : Nat) : (s.updField g f).port n = s.port n := rfl
@[simp] theorem updField_part (s : State) (g : Nat) (f : Field → Field) (n : Nat) : (s.updField g f).part n = s.part n := rfl
@[simp] theorem updField_req (s : State) (g : Nat) (f : Field → Field) (n : Nat) : (s.updField g f).req n = s.req n := rfl
@[simp] theorem updField_hnd (s : State) (g : Nat) (f : Field → Field) (n : Nat) : (s.updField g f).hnd n = s.hnd n := rfl
@[simp] theorem updField_sess (s : State) (g : Nat) (f : Field → Field) (n : Nat) : (s.updField g f).sess n = s.sess n := rfl
@[simp] theorem updField_row (s : State) (g : Nat) (f : Field → Field) (n : Nat) : (s.updField g f).row n = s.row n := rfl
@[simp] theorem updField_fp (s : State) (g : Nat) (f : Field → Field) : (s.updField g f).fp = s.fp := rfl

/-! ### updStack -/

@[simp] theorem updStack_pending (s : State) (k : Nat) (f : Stack → Stack) : (s.updStack k f).pending = s.pending := rfl
@[simp] theorem updStack_mem (s : State) (k : Nat) (f : Stack → Stack) : (s.updStack k f).mem = s.mem := rfl
@[simp] theorem updStack_bad (s : State) (k : Nat) (f : Stack → Stack) : (s.updStack k f).bad = s.bad := rfl
@[simp] theorem updStack_free (s : State) (k : Nat) (f : Stack → Stack) : (s.updStack k f).free = s.free := rfl
@[simp] theorem updStack_tiles (s : State) (k : Nat) (f : Stack → Stack) : (s.updStack k f).tiles = s.tiles := rfl
@[simp] theorem updStack_regions (s : State) (k : Nat) (f : Stack → Stack) : (s.updStack k f).regions = s.regions := rfl
@[simp] theorem updStack_fields (s : State) (k : Nat) (f : Stack → Stack) : (s.updStack k f).fields = s.fields := rfl
@[simp] theorem updStack_engines (s : State) (k : Nat) (f : Stack → Stack) : (s.updStack k f).engines = s.engines := rfl
@[simp] theorem updStack_ports (s : State) (k : Nat) (f : Stack → Stack) : (s.updStack k f).ports = s.ports := rfl
@[simp] theorem updStack_parts (s : State) (k : Nat) (f : Stack → Stack) : (s.updStack k f).parts = s.parts := rfl
@[simp] theorem updStack_net (s : State) (k : Nat) (f : Stack → Stack) : (s.updStack k f).net = s.net := rfl
@[simp] theorem updStack_ctl (s : State) (k : Nat) (f : Stack → Stack) : (s.updStack k f).ctl = s.ctl := rfl
@[simp] theorem updStack_ringOut (s : State) (k : Nat) (f : Stack → Stack) : (s.updStack k f).ringOut = s.ringOut := rfl
@[simp] theorem updStack_time (s : State) (k : Nat) (f : Stack → Stack) : (s.updStack k f).time = s.time := rfl
@[simp] theorem updStack_beat (s : State) (k : Nat) (f : Stack → Stack) : (s.updStack k f).beat = s.beat := rfl
@[simp] theorem updStack_img (s : State) (k : Nat) (f : Stack → Stack) : (s.updStack k f).img = s.img := rfl
@[simp] theorem updStack_reqs (s : State) (k : Nat) (f : Stack → Stack) : (s.updStack k f).reqs = s.reqs := rfl
@[simp] theorem updStack_adm (s : State) (k : Nat) (f : Stack → Stack) : (s.updStack k f).adm = s.adm := rfl
@[simp] theorem updStack_meter (s : State) (k : Nat) (f : Stack → Stack) : (s.updStack k f).meter = s.meter := rfl
@[simp] theorem updStack_pwr (s : State) (k : Nat) (f : Stack → Stack) : (s.updStack k f).pwr = s.pwr := rfl
@[simp] theorem updStack_therm (s : State) (k : Nat) (f : Stack → Stack) : (s.updStack k f).therm = s.therm := rfl
@[simp] theorem updStack_flt (s : State) (k : Nat) (f : Stack → Stack) : (s.updStack k f).flt = s.flt := rfl
@[simp] theorem updStack_train (s : State) (k : Nat) (f : Stack → Stack) : (s.updStack k f).train = s.train := rfl
@[simp] theorem updStack_boot (s : State) (k : Nat) (f : Stack → Stack) : (s.updStack k f).boot = s.boot := rfl
@[simp] theorem updStack_flash (s : State) (k : Nat) (f : Stack → Stack) : (s.updStack k f).flash = s.flash := rfl
@[simp] theorem updStack_fordan (s : State) (k : Nat) (f : Stack → Stack) : (s.updStack k f).fordan = s.fordan := rfl
@[simp] theorem updStack_csr (s : State) (k : Nat) (f : Stack → Stack) : (s.updStack k f).csr = s.csr := rfl
@[simp] theorem updStack_pins (s : State) (k : Nat) (f : Stack → Stack) : (s.updStack k f).pins = s.pins := rfl
@[simp] theorem updStack_i2c (s : State) (k : Nat) (f : Stack → Stack) : (s.updStack k f).i2c = s.i2c := rfl
@[simp] theorem updStack_jtag (s : State) (k : Nat) (f : Stack → Stack) : (s.updStack k f).jtag = s.jtag := rfl
@[simp] theorem updStack_tile (s : State) (k : Nat) (f : Stack → Stack) (n : Nat) : (s.updStack k f).tile n = s.tile n := rfl
@[simp] theorem updStack_region (s : State) (k : Nat) (f : Stack → Stack) (n : Nat) : (s.updStack k f).region n = s.region n := rfl
@[simp] theorem updStack_field (s : State) (k : Nat) (f : Stack → Stack) (n : Nat) : (s.updStack k f).field n = s.field n := rfl
@[simp] theorem updStack_engine (s : State) (k : Nat) (f : Stack → Stack) (n : Nat) : (s.updStack k f).engine n = s.engine n := rfl
@[simp] theorem updStack_port (s : State) (k : Nat) (f : Stack → Stack) (n : Nat) : (s.updStack k f).port n = s.port n := rfl
@[simp] theorem updStack_part (s : State) (k : Nat) (f : Stack → Stack) (n : Nat) : (s.updStack k f).part n = s.part n := rfl
@[simp] theorem updStack_req (s : State) (k : Nat) (f : Stack → Stack) (n : Nat) : (s.updStack k f).req n = s.req n := rfl
@[simp] theorem updStack_hnd (s : State) (k : Nat) (f : Stack → Stack) (n : Nat) : (s.updStack k f).hnd n = s.hnd n := rfl
@[simp] theorem updStack_sess (s : State) (k : Nat) (f : Stack → Stack) (n : Nat) : (s.updStack k f).sess n = s.sess n := rfl
@[simp] theorem updStack_row (s : State) (k : Nat) (f : Stack → Stack) (n : Nat) : (s.updStack k f).row n = s.row n := rfl
@[simp] theorem updStack_fp (s : State) (k : Nat) (f : Stack → Stack) : (s.updStack k f).fp = s.fp := rfl

/-! ### updEngine -/

@[simp] theorem updEngine_pending (s : State) (e : Nat) (f : Engine → Engine) : (s.updEngine e f).pending = s.pending := rfl
@[simp] theorem updEngine_mem (s : State) (e : Nat) (f : Engine → Engine) : (s.updEngine e f).mem = s.mem := rfl
@[simp] theorem updEngine_bad (s : State) (e : Nat) (f : Engine → Engine) : (s.updEngine e f).bad = s.bad := rfl
@[simp] theorem updEngine_free (s : State) (e : Nat) (f : Engine → Engine) : (s.updEngine e f).free = s.free := rfl
@[simp] theorem updEngine_tiles (s : State) (e : Nat) (f : Engine → Engine) : (s.updEngine e f).tiles = s.tiles := rfl
@[simp] theorem updEngine_regions (s : State) (e : Nat) (f : Engine → Engine) : (s.updEngine e f).regions = s.regions := rfl
@[simp] theorem updEngine_fields (s : State) (e : Nat) (f : Engine → Engine) : (s.updEngine e f).fields = s.fields := rfl
@[simp] theorem updEngine_stacks (s : State) (e : Nat) (f : Engine → Engine) : (s.updEngine e f).stks = s.stks := rfl
@[simp] theorem updEngine_ports (s : State) (e : Nat) (f : Engine → Engine) : (s.updEngine e f).ports = s.ports := rfl
@[simp] theorem updEngine_parts (s : State) (e : Nat) (f : Engine → Engine) : (s.updEngine e f).parts = s.parts := rfl
@[simp] theorem updEngine_net (s : State) (e : Nat) (f : Engine → Engine) : (s.updEngine e f).net = s.net := rfl
@[simp] theorem updEngine_ctl (s : State) (e : Nat) (f : Engine → Engine) : (s.updEngine e f).ctl = s.ctl := rfl
@[simp] theorem updEngine_ringOut (s : State) (e : Nat) (f : Engine → Engine) : (s.updEngine e f).ringOut = s.ringOut := rfl
@[simp] theorem updEngine_time (s : State) (e : Nat) (f : Engine → Engine) : (s.updEngine e f).time = s.time := rfl
@[simp] theorem updEngine_beat (s : State) (e : Nat) (f : Engine → Engine) : (s.updEngine e f).beat = s.beat := rfl
@[simp] theorem updEngine_img (s : State) (e : Nat) (f : Engine → Engine) : (s.updEngine e f).img = s.img := rfl
@[simp] theorem updEngine_reqs (s : State) (e : Nat) (f : Engine → Engine) : (s.updEngine e f).reqs = s.reqs := rfl
@[simp] theorem updEngine_adm (s : State) (e : Nat) (f : Engine → Engine) : (s.updEngine e f).adm = s.adm := rfl
@[simp] theorem updEngine_meter (s : State) (e : Nat) (f : Engine → Engine) : (s.updEngine e f).meter = s.meter := rfl
@[simp] theorem updEngine_pwr (s : State) (e : Nat) (f : Engine → Engine) : (s.updEngine e f).pwr = s.pwr := rfl
@[simp] theorem updEngine_therm (s : State) (e : Nat) (f : Engine → Engine) : (s.updEngine e f).therm = s.therm := rfl
@[simp] theorem updEngine_flt (s : State) (e : Nat) (f : Engine → Engine) : (s.updEngine e f).flt = s.flt := rfl
@[simp] theorem updEngine_train (s : State) (e : Nat) (f : Engine → Engine) : (s.updEngine e f).train = s.train := rfl
@[simp] theorem updEngine_boot (s : State) (e : Nat) (f : Engine → Engine) : (s.updEngine e f).boot = s.boot := rfl
@[simp] theorem updEngine_flash (s : State) (e : Nat) (f : Engine → Engine) : (s.updEngine e f).flash = s.flash := rfl
@[simp] theorem updEngine_fordan (s : State) (e : Nat) (f : Engine → Engine) : (s.updEngine e f).fordan = s.fordan := rfl
@[simp] theorem updEngine_csr (s : State) (e : Nat) (f : Engine → Engine) : (s.updEngine e f).csr = s.csr := rfl
@[simp] theorem updEngine_pins (s : State) (e : Nat) (f : Engine → Engine) : (s.updEngine e f).pins = s.pins := rfl
@[simp] theorem updEngine_i2c (s : State) (e : Nat) (f : Engine → Engine) : (s.updEngine e f).i2c = s.i2c := rfl
@[simp] theorem updEngine_jtag (s : State) (e : Nat) (f : Engine → Engine) : (s.updEngine e f).jtag = s.jtag := rfl
@[simp] theorem updEngine_tile (s : State) (e : Nat) (f : Engine → Engine) (n : Nat) : (s.updEngine e f).tile n = s.tile n := rfl
@[simp] theorem updEngine_region (s : State) (e : Nat) (f : Engine → Engine) (n : Nat) : (s.updEngine e f).region n = s.region n := rfl
@[simp] theorem updEngine_field (s : State) (e : Nat) (f : Engine → Engine) (n : Nat) : (s.updEngine e f).field n = s.field n := rfl
@[simp] theorem updEngine_stack (s : State) (e : Nat) (f : Engine → Engine) (n : Nat) : (s.updEngine e f).stack n = s.stack n := rfl
@[simp] theorem updEngine_port (s : State) (e : Nat) (f : Engine → Engine) (n : Nat) : (s.updEngine e f).port n = s.port n := rfl
@[simp] theorem updEngine_part (s : State) (e : Nat) (f : Engine → Engine) (n : Nat) : (s.updEngine e f).part n = s.part n := rfl
@[simp] theorem updEngine_req (s : State) (e : Nat) (f : Engine → Engine) (n : Nat) : (s.updEngine e f).req n = s.req n := rfl
@[simp] theorem updEngine_hnd (s : State) (e : Nat) (f : Engine → Engine) (n : Nat) : (s.updEngine e f).hnd n = s.hnd n := rfl
@[simp] theorem updEngine_sess (s : State) (e : Nat) (f : Engine → Engine) (n : Nat) : (s.updEngine e f).sess n = s.sess n := rfl
@[simp] theorem updEngine_row (s : State) (e : Nat) (f : Engine → Engine) (n : Nat) : (s.updEngine e f).row n = s.row n := rfl
@[simp] theorem updEngine_fp (s : State) (e : Nat) (f : Engine → Engine) : (s.updEngine e f).fp = s.fp := rfl

/-! ### updPort -/

@[simp] theorem updPort_pending (s : State) (l : Nat) (f : Port → Port) : (s.updPort l f).pending = s.pending := rfl
@[simp] theorem updPort_mem (s : State) (l : Nat) (f : Port → Port) : (s.updPort l f).mem = s.mem := rfl
@[simp] theorem updPort_bad (s : State) (l : Nat) (f : Port → Port) : (s.updPort l f).bad = s.bad := rfl
@[simp] theorem updPort_free (s : State) (l : Nat) (f : Port → Port) : (s.updPort l f).free = s.free := rfl
@[simp] theorem updPort_tiles (s : State) (l : Nat) (f : Port → Port) : (s.updPort l f).tiles = s.tiles := rfl
@[simp] theorem updPort_regions (s : State) (l : Nat) (f : Port → Port) : (s.updPort l f).regions = s.regions := rfl
@[simp] theorem updPort_fields (s : State) (l : Nat) (f : Port → Port) : (s.updPort l f).fields = s.fields := rfl
@[simp] theorem updPort_stacks (s : State) (l : Nat) (f : Port → Port) : (s.updPort l f).stks = s.stks := rfl
@[simp] theorem updPort_engines (s : State) (l : Nat) (f : Port → Port) : (s.updPort l f).engines = s.engines := rfl
@[simp] theorem updPort_parts (s : State) (l : Nat) (f : Port → Port) : (s.updPort l f).parts = s.parts := rfl
@[simp] theorem updPort_net (s : State) (l : Nat) (f : Port → Port) : (s.updPort l f).net = s.net := rfl
@[simp] theorem updPort_ctl (s : State) (l : Nat) (f : Port → Port) : (s.updPort l f).ctl = s.ctl := rfl
@[simp] theorem updPort_ringOut (s : State) (l : Nat) (f : Port → Port) : (s.updPort l f).ringOut = s.ringOut := rfl
@[simp] theorem updPort_time (s : State) (l : Nat) (f : Port → Port) : (s.updPort l f).time = s.time := rfl
@[simp] theorem updPort_beat (s : State) (l : Nat) (f : Port → Port) : (s.updPort l f).beat = s.beat := rfl
@[simp] theorem updPort_img (s : State) (l : Nat) (f : Port → Port) : (s.updPort l f).img = s.img := rfl
@[simp] theorem updPort_reqs (s : State) (l : Nat) (f : Port → Port) : (s.updPort l f).reqs = s.reqs := rfl
@[simp] theorem updPort_adm (s : State) (l : Nat) (f : Port → Port) : (s.updPort l f).adm = s.adm := rfl
@[simp] theorem updPort_meter (s : State) (l : Nat) (f : Port → Port) : (s.updPort l f).meter = s.meter := rfl
@[simp] theorem updPort_pwr (s : State) (l : Nat) (f : Port → Port) : (s.updPort l f).pwr = s.pwr := rfl
@[simp] theorem updPort_therm (s : State) (l : Nat) (f : Port → Port) : (s.updPort l f).therm = s.therm := rfl
@[simp] theorem updPort_flt (s : State) (l : Nat) (f : Port → Port) : (s.updPort l f).flt = s.flt := rfl
@[simp] theorem updPort_train (s : State) (l : Nat) (f : Port → Port) : (s.updPort l f).train = s.train := rfl
@[simp] theorem updPort_boot (s : State) (l : Nat) (f : Port → Port) : (s.updPort l f).boot = s.boot := rfl
@[simp] theorem updPort_flash (s : State) (l : Nat) (f : Port → Port) : (s.updPort l f).flash = s.flash := rfl
@[simp] theorem updPort_fordan (s : State) (l : Nat) (f : Port → Port) : (s.updPort l f).fordan = s.fordan := rfl
@[simp] theorem updPort_csr (s : State) (l : Nat) (f : Port → Port) : (s.updPort l f).csr = s.csr := rfl
@[simp] theorem updPort_pins (s : State) (l : Nat) (f : Port → Port) : (s.updPort l f).pins = s.pins := rfl
@[simp] theorem updPort_i2c (s : State) (l : Nat) (f : Port → Port) : (s.updPort l f).i2c = s.i2c := rfl
@[simp] theorem updPort_jtag (s : State) (l : Nat) (f : Port → Port) : (s.updPort l f).jtag = s.jtag := rfl
@[simp] theorem updPort_tile (s : State) (l : Nat) (f : Port → Port) (n : Nat) : (s.updPort l f).tile n = s.tile n := rfl
@[simp] theorem updPort_region (s : State) (l : Nat) (f : Port → Port) (n : Nat) : (s.updPort l f).region n = s.region n := rfl
@[simp] theorem updPort_field (s : State) (l : Nat) (f : Port → Port) (n : Nat) : (s.updPort l f).field n = s.field n := rfl
@[simp] theorem updPort_stack (s : State) (l : Nat) (f : Port → Port) (n : Nat) : (s.updPort l f).stack n = s.stack n := rfl
@[simp] theorem updPort_engine (s : State) (l : Nat) (f : Port → Port) (n : Nat) : (s.updPort l f).engine n = s.engine n := rfl
@[simp] theorem updPort_part (s : State) (l : Nat) (f : Port → Port) (n : Nat) : (s.updPort l f).part n = s.part n := rfl
@[simp] theorem updPort_req (s : State) (l : Nat) (f : Port → Port) (n : Nat) : (s.updPort l f).req n = s.req n := rfl
@[simp] theorem updPort_hnd (s : State) (l : Nat) (f : Port → Port) (n : Nat) : (s.updPort l f).hnd n = s.hnd n := rfl
@[simp] theorem updPort_sess (s : State) (l : Nat) (f : Port → Port) (n : Nat) : (s.updPort l f).sess n = s.sess n := rfl
@[simp] theorem updPort_row (s : State) (l : Nat) (f : Port → Port) (n : Nat) : (s.updPort l f).row n = s.row n := rfl
@[simp] theorem updPort_fp (s : State) (l : Nat) (f : Port → Port) : (s.updPort l f).fp = s.fp := rfl

/-! ### updPart -/

@[simp] theorem updPart_pending (s : State) (p : Nat) (f : Partn → Partn) : (s.updPart p f).pending = s.pending := rfl
@[simp] theorem updPart_mem (s : State) (p : Nat) (f : Partn → Partn) : (s.updPart p f).mem = s.mem := rfl
@[simp] theorem updPart_bad (s : State) (p : Nat) (f : Partn → Partn) : (s.updPart p f).bad = s.bad := rfl
@[simp] theorem updPart_free (s : State) (p : Nat) (f : Partn → Partn) : (s.updPart p f).free = s.free := rfl
@[simp] theorem updPart_tiles (s : State) (p : Nat) (f : Partn → Partn) : (s.updPart p f).tiles = s.tiles := rfl
@[simp] theorem updPart_regions (s : State) (p : Nat) (f : Partn → Partn) : (s.updPart p f).regions = s.regions := rfl
@[simp] theorem updPart_fields (s : State) (p : Nat) (f : Partn → Partn) : (s.updPart p f).fields = s.fields := rfl
@[simp] theorem updPart_stacks (s : State) (p : Nat) (f : Partn → Partn) : (s.updPart p f).stks = s.stks := rfl
@[simp] theorem updPart_engines (s : State) (p : Nat) (f : Partn → Partn) : (s.updPart p f).engines = s.engines := rfl
@[simp] theorem updPart_ports (s : State) (p : Nat) (f : Partn → Partn) : (s.updPart p f).ports = s.ports := rfl
@[simp] theorem updPart_net (s : State) (p : Nat) (f : Partn → Partn) : (s.updPart p f).net = s.net := rfl
@[simp] theorem updPart_ctl (s : State) (p : Nat) (f : Partn → Partn) : (s.updPart p f).ctl = s.ctl := rfl
@[simp] theorem updPart_ringOut (s : State) (p : Nat) (f : Partn → Partn) : (s.updPart p f).ringOut = s.ringOut := rfl
@[simp] theorem updPart_time (s : State) (p : Nat) (f : Partn → Partn) : (s.updPart p f).time = s.time := rfl
@[simp] theorem updPart_beat (s : State) (p : Nat) (f : Partn → Partn) : (s.updPart p f).beat = s.beat := rfl
@[simp] theorem updPart_img (s : State) (p : Nat) (f : Partn → Partn) : (s.updPart p f).img = s.img := rfl
@[simp] theorem updPart_reqs (s : State) (p : Nat) (f : Partn → Partn) : (s.updPart p f).reqs = s.reqs := rfl
@[simp] theorem updPart_adm (s : State) (p : Nat) (f : Partn → Partn) : (s.updPart p f).adm = s.adm := rfl
@[simp] theorem updPart_meter (s : State) (p : Nat) (f : Partn → Partn) : (s.updPart p f).meter = s.meter := rfl
@[simp] theorem updPart_pwr (s : State) (p : Nat) (f : Partn → Partn) : (s.updPart p f).pwr = s.pwr := rfl
@[simp] theorem updPart_therm (s : State) (p : Nat) (f : Partn → Partn) : (s.updPart p f).therm = s.therm := rfl
@[simp] theorem updPart_flt (s : State) (p : Nat) (f : Partn → Partn) : (s.updPart p f).flt = s.flt := rfl
@[simp] theorem updPart_train (s : State) (p : Nat) (f : Partn → Partn) : (s.updPart p f).train = s.train := rfl
@[simp] theorem updPart_boot (s : State) (p : Nat) (f : Partn → Partn) : (s.updPart p f).boot = s.boot := rfl
@[simp] theorem updPart_flash (s : State) (p : Nat) (f : Partn → Partn) : (s.updPart p f).flash = s.flash := rfl
@[simp] theorem updPart_fordan (s : State) (p : Nat) (f : Partn → Partn) : (s.updPart p f).fordan = s.fordan := rfl
@[simp] theorem updPart_csr (s : State) (p : Nat) (f : Partn → Partn) : (s.updPart p f).csr = s.csr := rfl
@[simp] theorem updPart_pins (s : State) (p : Nat) (f : Partn → Partn) : (s.updPart p f).pins = s.pins := rfl
@[simp] theorem updPart_i2c (s : State) (p : Nat) (f : Partn → Partn) : (s.updPart p f).i2c = s.i2c := rfl
@[simp] theorem updPart_jtag (s : State) (p : Nat) (f : Partn → Partn) : (s.updPart p f).jtag = s.jtag := rfl
@[simp] theorem updPart_tile (s : State) (p : Nat) (f : Partn → Partn) (n : Nat) : (s.updPart p f).tile n = s.tile n := rfl
@[simp] theorem updPart_region (s : State) (p : Nat) (f : Partn → Partn) (n : Nat) : (s.updPart p f).region n = s.region n := rfl
@[simp] theorem updPart_field (s : State) (p : Nat) (f : Partn → Partn) (n : Nat) : (s.updPart p f).field n = s.field n := rfl
@[simp] theorem updPart_stack (s : State) (p : Nat) (f : Partn → Partn) (n : Nat) : (s.updPart p f).stack n = s.stack n := rfl
@[simp] theorem updPart_engine (s : State) (p : Nat) (f : Partn → Partn) (n : Nat) : (s.updPart p f).engine n = s.engine n := rfl
@[simp] theorem updPart_port (s : State) (p : Nat) (f : Partn → Partn) (n : Nat) : (s.updPart p f).port n = s.port n := rfl
@[simp] theorem updPart_req (s : State) (p : Nat) (f : Partn → Partn) (n : Nat) : (s.updPart p f).req n = s.req n := rfl
@[simp] theorem updPart_hnd (s : State) (p : Nat) (f : Partn → Partn) (n : Nat) : (s.updPart p f).hnd n = s.hnd n := rfl
@[simp] theorem updPart_sess (s : State) (p : Nat) (f : Partn → Partn) (n : Nat) : (s.updPart p f).sess n = s.sess n := rfl
@[simp] theorem updPart_row (s : State) (p : Nat) (f : Partn → Partn) (n : Nat) : (s.updPart p f).row n = s.row n := rfl
@[simp] theorem updPart_fp (s : State) (p : Nat) (f : Partn → Partn) : (s.updPart p f).fp = s.fp := rfl

/-! ### setRow -/

@[simp] theorem setRow_pending (s : State) (i : Nat) (b : Bytes) : (s.setRow i b).pending = s.pending := rfl
@[simp] theorem setRow_free (s : State) (i : Nat) (b : Bytes) : (s.setRow i b).free = s.free := rfl
@[simp] theorem setRow_tiles (s : State) (i : Nat) (b : Bytes) : (s.setRow i b).tiles = s.tiles := rfl
@[simp] theorem setRow_regions (s : State) (i : Nat) (b : Bytes) : (s.setRow i b).regions = s.regions := rfl
@[simp] theorem setRow_fields (s : State) (i : Nat) (b : Bytes) : (s.setRow i b).fields = s.fields := rfl
@[simp] theorem setRow_stacks (s : State) (i : Nat) (b : Bytes) : (s.setRow i b).stks = s.stks := rfl
@[simp] theorem setRow_engines (s : State) (i : Nat) (b : Bytes) : (s.setRow i b).engines = s.engines := rfl
@[simp] theorem setRow_ports (s : State) (i : Nat) (b : Bytes) : (s.setRow i b).ports = s.ports := rfl
@[simp] theorem setRow_parts (s : State) (i : Nat) (b : Bytes) : (s.setRow i b).parts = s.parts := rfl
@[simp] theorem setRow_net (s : State) (i : Nat) (b : Bytes) : (s.setRow i b).net = s.net := rfl
@[simp] theorem setRow_ctl (s : State) (i : Nat) (b : Bytes) : (s.setRow i b).ctl = s.ctl := rfl
@[simp] theorem setRow_ringOut (s : State) (i : Nat) (b : Bytes) : (s.setRow i b).ringOut = s.ringOut := rfl
@[simp] theorem setRow_time (s : State) (i : Nat) (b : Bytes) : (s.setRow i b).time = s.time := rfl
@[simp] theorem setRow_beat (s : State) (i : Nat) (b : Bytes) : (s.setRow i b).beat = s.beat := rfl
@[simp] theorem setRow_img (s : State) (i : Nat) (b : Bytes) : (s.setRow i b).img = s.img := rfl
@[simp] theorem setRow_reqs (s : State) (i : Nat) (b : Bytes) : (s.setRow i b).reqs = s.reqs := rfl
@[simp] theorem setRow_adm (s : State) (i : Nat) (b : Bytes) : (s.setRow i b).adm = s.adm := rfl
@[simp] theorem setRow_meter (s : State) (i : Nat) (b : Bytes) : (s.setRow i b).meter = s.meter := rfl
@[simp] theorem setRow_pwr (s : State) (i : Nat) (b : Bytes) : (s.setRow i b).pwr = s.pwr := rfl
@[simp] theorem setRow_therm (s : State) (i : Nat) (b : Bytes) : (s.setRow i b).therm = s.therm := rfl
@[simp] theorem setRow_flt (s : State) (i : Nat) (b : Bytes) : (s.setRow i b).flt = s.flt := rfl
@[simp] theorem setRow_train (s : State) (i : Nat) (b : Bytes) : (s.setRow i b).train = s.train := rfl
@[simp] theorem setRow_boot (s : State) (i : Nat) (b : Bytes) : (s.setRow i b).boot = s.boot := rfl
@[simp] theorem setRow_flash (s : State) (i : Nat) (b : Bytes) : (s.setRow i b).flash = s.flash := rfl
@[simp] theorem setRow_fordan (s : State) (i : Nat) (b : Bytes) : (s.setRow i b).fordan = s.fordan := rfl
@[simp] theorem setRow_csr (s : State) (i : Nat) (b : Bytes) : (s.setRow i b).csr = s.csr := rfl
@[simp] theorem setRow_pins (s : State) (i : Nat) (b : Bytes) : (s.setRow i b).pins = s.pins := rfl
@[simp] theorem setRow_i2c (s : State) (i : Nat) (b : Bytes) : (s.setRow i b).i2c = s.i2c := rfl
@[simp] theorem setRow_jtag (s : State) (i : Nat) (b : Bytes) : (s.setRow i b).jtag = s.jtag := rfl
@[simp] theorem setRow_tile (s : State) (i : Nat) (b : Bytes) (n : Nat) : (s.setRow i b).tile n = s.tile n := rfl
@[simp] theorem setRow_region (s : State) (i : Nat) (b : Bytes) (n : Nat) : (s.setRow i b).region n = s.region n := rfl
@[simp] theorem setRow_field (s : State) (i : Nat) (b : Bytes) (n : Nat) : (s.setRow i b).field n = s.field n := rfl
@[simp] theorem setRow_stack (s : State) (i : Nat) (b : Bytes) (n : Nat) : (s.setRow i b).stack n = s.stack n := rfl
@[simp] theorem setRow_engine (s : State) (i : Nat) (b : Bytes) (n : Nat) : (s.setRow i b).engine n = s.engine n := rfl
@[simp] theorem setRow_port (s : State) (i : Nat) (b : Bytes) (n : Nat) : (s.setRow i b).port n = s.port n := rfl
@[simp] theorem setRow_part (s : State) (i : Nat) (b : Bytes) (n : Nat) : (s.setRow i b).part n = s.part n := rfl
@[simp] theorem setRow_req (s : State) (i : Nat) (b : Bytes) (n : Nat) : (s.setRow i b).req n = s.req n := rfl
@[simp] theorem setRow_hnd (s : State) (i : Nat) (b : Bytes) (n : Nat) : (s.setRow i b).hnd n = s.hnd n := rfl
@[simp] theorem setRow_sess (s : State) (i : Nat) (b : Bytes) (n : Nat) : (s.setRow i b).sess n = s.sess n := rfl
@[simp] theorem setRow_fp (s : State) (i : Nat) (b : Bytes) : (s.setRow i b).fp = s.fp := rfl

/-! ### alert -/

@[simp] theorem alert_pending (s : State) (m : Nat) : (s.alert m).pending = s.pending := rfl
@[simp] theorem alert_mem (s : State) (m : Nat) : (s.alert m).mem = s.mem := rfl
@[simp] theorem alert_bad (s : State) (m : Nat) : (s.alert m).bad = s.bad := rfl
@[simp] theorem alert_free (s : State) (m : Nat) : (s.alert m).free = s.free := rfl
@[simp] theorem alert_tiles (s : State) (m : Nat) : (s.alert m).tiles = s.tiles := rfl
@[simp] theorem alert_regions (s : State) (m : Nat) : (s.alert m).regions = s.regions := rfl
@[simp] theorem alert_fields (s : State) (m : Nat) : (s.alert m).fields = s.fields := rfl
@[simp] theorem alert_stacks (s : State) (m : Nat) : (s.alert m).stks = s.stks := rfl
@[simp] theorem alert_engines (s : State) (m : Nat) : (s.alert m).engines = s.engines := rfl
@[simp] theorem alert_ports (s : State) (m : Nat) : (s.alert m).ports = s.ports := rfl
@[simp] theorem alert_parts (s : State) (m : Nat) : (s.alert m).parts = s.parts := rfl
@[simp] theorem alert_net (s : State) (m : Nat) : (s.alert m).net = s.net := rfl
@[simp] theorem alert_ctl (s : State) (m : Nat) : (s.alert m).ctl = s.ctl := rfl
@[simp] theorem alert_ringOut (s : State) (m : Nat) : (s.alert m).ringOut = s.ringOut := rfl
@[simp] theorem alert_time (s : State) (m : Nat) : (s.alert m).time = s.time := rfl
@[simp] theorem alert_beat (s : State) (m : Nat) : (s.alert m).beat = s.beat := rfl
@[simp] theorem alert_img (s : State) (m : Nat) : (s.alert m).img = s.img := rfl
@[simp] theorem alert_reqs (s : State) (m : Nat) : (s.alert m).reqs = s.reqs := rfl
@[simp] theorem alert_adm (s : State) (m : Nat) : (s.alert m).adm = s.adm := rfl
@[simp] theorem alert_meter (s : State) (m : Nat) : (s.alert m).meter = s.meter := rfl
@[simp] theorem alert_pwr (s : State) (m : Nat) : (s.alert m).pwr = s.pwr := rfl
@[simp] theorem alert_therm (s : State) (m : Nat) : (s.alert m).therm = s.therm := rfl
@[simp] theorem alert_flt (s : State) (m : Nat) : (s.alert m).flt = s.flt := rfl
@[simp] theorem alert_train (s : State) (m : Nat) : (s.alert m).train = s.train := rfl
@[simp] theorem alert_boot (s : State) (m : Nat) : (s.alert m).boot = s.boot := rfl
@[simp] theorem alert_flash (s : State) (m : Nat) : (s.alert m).flash = s.flash := rfl
@[simp] theorem alert_fordan (s : State) (m : Nat) : (s.alert m).fordan = s.fordan := rfl
@[simp] theorem alert_pins (s : State) (m : Nat) : (s.alert m).pins = s.pins := rfl
@[simp] theorem alert_i2c (s : State) (m : Nat) : (s.alert m).i2c = s.i2c := rfl
@[simp] theorem alert_jtag (s : State) (m : Nat) : (s.alert m).jtag = s.jtag := rfl
@[simp] theorem alert_tile (s : State) (m : Nat) (n : Nat) : (s.alert m).tile n = s.tile n := rfl
@[simp] theorem alert_region (s : State) (m : Nat) (n : Nat) : (s.alert m).region n = s.region n := rfl
@[simp] theorem alert_field (s : State) (m : Nat) (n : Nat) : (s.alert m).field n = s.field n := rfl
@[simp] theorem alert_stack (s : State) (m : Nat) (n : Nat) : (s.alert m).stack n = s.stack n := rfl
@[simp] theorem alert_engine (s : State) (m : Nat) (n : Nat) : (s.alert m).engine n = s.engine n := rfl
@[simp] theorem alert_port (s : State) (m : Nat) (n : Nat) : (s.alert m).port n = s.port n := rfl
@[simp] theorem alert_part (s : State) (m : Nat) (n : Nat) : (s.alert m).part n = s.part n := rfl
@[simp] theorem alert_req (s : State) (m : Nat) (n : Nat) : (s.alert m).req n = s.req n := rfl
@[simp] theorem alert_hnd (s : State) (m : Nat) (n : Nat) : (s.alert m).hnd n = s.hnd n := rfl
@[simp] theorem alert_sess (s : State) (m : Nat) (n : Nat) : (s.alert m).sess n = s.sess n := rfl
@[simp] theorem alert_row (s : State) (m : Nat) (n : Nat) : (s.alert m).row n = s.row n := rfl
@[simp] theorem alert_fp (s : State) (m : Nat) : (s.alert m).fp = s.fp := rfl

/-! ### putMsg -/

@[simp] theorem putMsg_pending (s : State) (m : Msg) : (s.putMsg m).pending = s.pending := rfl
@[simp] theorem putMsg_mem (s : State) (m : Msg) : (s.putMsg m).mem = s.mem := rfl
@[simp] theorem putMsg_bad (s : State) (m : Msg) : (s.putMsg m).bad = s.bad := rfl
@[simp] theorem putMsg_free (s : State) (m : Msg) : (s.putMsg m).free = s.free := rfl
@[simp] theorem putMsg_tiles (s : State) (m : Msg) : (s.putMsg m).tiles = s.tiles := rfl
@[simp] theorem putMsg_regions (s : State) (m : Msg) : (s.putMsg m).regions = s.regions := rfl
@[simp] theorem putMsg_fields (s : State) (m : Msg) : (s.putMsg m).fields = s.fields := rfl
@[simp] theorem putMsg_stacks (s : State) (m : Msg) : (s.putMsg m).stks = s.stks := rfl
@[simp] theorem putMsg_engines (s : State) (m : Msg) : (s.putMsg m).engines = s.engines := rfl
@[simp] theorem putMsg_ports (s : State) (m : Msg) : (s.putMsg m).ports = s.ports := rfl
@[simp] theorem putMsg_parts (s : State) (m : Msg) : (s.putMsg m).parts = s.parts := rfl
@[simp] theorem putMsg_csr (s : State) (m : Msg) : (s.putMsg m).csr = s.csr := rfl
@[simp] theorem putMsg_net (s : State) (m : Msg) : (s.putMsg m).net = s.net ++ [m] := rfl
@[simp] theorem putMsg_ctl (s : State) (m : Msg) : (s.putMsg m).ctl = s.ctl := rfl
@[simp] theorem putMsg_ringOut (s : State) (m : Msg) : (s.putMsg m).ringOut = s.ringOut := rfl
@[simp] theorem putMsg_time (s : State) (m : Msg) : (s.putMsg m).time = s.time := rfl
@[simp] theorem putMsg_beat (s : State) (m : Msg) : (s.putMsg m).beat = s.beat := rfl
@[simp] theorem putMsg_img (s : State) (m : Msg) : (s.putMsg m).img = s.img := rfl
@[simp] theorem putMsg_reqs (s : State) (m : Msg) : (s.putMsg m).reqs = s.reqs := rfl
@[simp] theorem putMsg_adm (s : State) (m : Msg) : (s.putMsg m).adm = s.adm := rfl
@[simp] theorem putMsg_meter (s : State) (m : Msg) : (s.putMsg m).meter = s.meter := rfl
@[simp] theorem putMsg_pwr (s : State) (m : Msg) : (s.putMsg m).pwr = s.pwr := rfl
@[simp] theorem putMsg_therm (s : State) (m : Msg) : (s.putMsg m).therm = s.therm := rfl
@[simp] theorem putMsg_flt (s : State) (m : Msg) : (s.putMsg m).flt = s.flt := rfl
@[simp] theorem putMsg_train (s : State) (m : Msg) : (s.putMsg m).train = s.train := rfl
@[simp] theorem putMsg_boot (s : State) (m : Msg) : (s.putMsg m).boot = s.boot := rfl
@[simp] theorem putMsg_flash (s : State) (m : Msg) : (s.putMsg m).flash = s.flash := rfl
@[simp] theorem putMsg_fordan (s : State) (m : Msg) : (s.putMsg m).fordan = s.fordan := rfl
@[simp] theorem putMsg_pins (s : State) (m : Msg) : (s.putMsg m).pins = s.pins := rfl
@[simp] theorem putMsg_i2c (s : State) (m : Msg) : (s.putMsg m).i2c = s.i2c := rfl
@[simp] theorem putMsg_jtag (s : State) (m : Msg) : (s.putMsg m).jtag = s.jtag := rfl
@[simp] theorem putMsg_tile (s : State) (m : Msg) (n : Nat) : (s.putMsg m).tile n = s.tile n := rfl
@[simp] theorem putMsg_region (s : State) (m : Msg) (n : Nat) : (s.putMsg m).region n = s.region n := rfl
@[simp] theorem putMsg_field (s : State) (m : Msg) (n : Nat) : (s.putMsg m).field n = s.field n := rfl
@[simp] theorem putMsg_stack (s : State) (m : Msg) (n : Nat) : (s.putMsg m).stack n = s.stack n := rfl
@[simp] theorem putMsg_engine (s : State) (m : Msg) (n : Nat) : (s.putMsg m).engine n = s.engine n := rfl
@[simp] theorem putMsg_port (s : State) (m : Msg) (n : Nat) : (s.putMsg m).port n = s.port n := rfl
@[simp] theorem putMsg_part (s : State) (m : Msg) (n : Nat) : (s.putMsg m).part n = s.part n := rfl
@[simp] theorem putMsg_req (s : State) (m : Msg) (n : Nat) : (s.putMsg m).req n = s.req n := rfl
@[simp] theorem putMsg_hnd (s : State) (m : Msg) (n : Nat) : (s.putMsg m).hnd n = s.hnd n := rfl
@[simp] theorem putMsg_sess (s : State) (m : Msg) (n : Nat) : (s.putMsg m).sess n = s.sess n := rfl
@[simp] theorem putMsg_row (s : State) (m : Msg) (n : Nat) : (s.putMsg m).row n = s.row n := rfl
@[simp] theorem putMsg_fp (s : State) (m : Msg) : (s.putMsg m).fp = s.fp := rfl

/-! ### updHnd -/

@[simp] theorem updHnd_pending (s : State) (h : Nat) (f : Hnd → Hnd) : (s.updHnd h f).pending = s.pending := rfl
@[simp] theorem updHnd_mem (s : State) (h : Nat) (f : Hnd → Hnd) : (s.updHnd h f).mem = s.mem := rfl
@[simp] theorem updHnd_bad (s : State) (h : Nat) (f : Hnd → Hnd) : (s.updHnd h f).bad = s.bad := rfl
@[simp] theorem updHnd_free (s : State) (h : Nat) (f : Hnd → Hnd) : (s.updHnd h f).free = s.free := rfl
@[simp] theorem updHnd_tiles (s : State) (h : Nat) (f : Hnd → Hnd) : (s.updHnd h f).tiles = s.tiles := rfl
@[simp] theorem updHnd_regions (s : State) (h : Nat) (f : Hnd → Hnd) : (s.updHnd h f).regions = s.regions := rfl
@[simp] theorem updHnd_fields (s : State) (h : Nat) (f : Hnd → Hnd) : (s.updHnd h f).fields = s.fields := rfl
@[simp] theorem updHnd_stacks (s : State) (h : Nat) (f : Hnd → Hnd) : (s.updHnd h f).stks = s.stks := rfl
@[simp] theorem updHnd_engines (s : State) (h : Nat) (f : Hnd → Hnd) : (s.updHnd h f).engines = s.engines := rfl
@[simp] theorem updHnd_ports (s : State) (h : Nat) (f : Hnd → Hnd) : (s.updHnd h f).ports = s.ports := rfl
@[simp] theorem updHnd_parts (s : State) (h : Nat) (f : Hnd → Hnd) : (s.updHnd h f).parts = s.parts := rfl
@[simp] theorem updHnd_net (s : State) (h : Nat) (f : Hnd → Hnd) : (s.updHnd h f).net = s.net := rfl
@[simp] theorem updHnd_ctl (s : State) (h : Nat) (f : Hnd → Hnd) : (s.updHnd h f).ctl = s.ctl := rfl
@[simp] theorem updHnd_ringOut (s : State) (h : Nat) (f : Hnd → Hnd) : (s.updHnd h f).ringOut = s.ringOut := rfl
@[simp] theorem updHnd_time (s : State) (h : Nat) (f : Hnd → Hnd) : (s.updHnd h f).time = s.time := rfl
@[simp] theorem updHnd_beat (s : State) (h : Nat) (f : Hnd → Hnd) : (s.updHnd h f).beat = s.beat := rfl
@[simp] theorem updHnd_img (s : State) (h : Nat) (f : Hnd → Hnd) : (s.updHnd h f).img = s.img := rfl
@[simp] theorem updHnd_reqs (s : State) (h : Nat) (f : Hnd → Hnd) : (s.updHnd h f).reqs = s.reqs := rfl
@[simp] theorem updHnd_adm (s : State) (h : Nat) (f : Hnd → Hnd) : (s.updHnd h f).adm = s.adm := rfl
@[simp] theorem updHnd_meter (s : State) (h : Nat) (f : Hnd → Hnd) : (s.updHnd h f).meter = s.meter := rfl
@[simp] theorem updHnd_pwr (s : State) (h : Nat) (f : Hnd → Hnd) : (s.updHnd h f).pwr = s.pwr := rfl
@[simp] theorem updHnd_therm (s : State) (h : Nat) (f : Hnd → Hnd) : (s.updHnd h f).therm = s.therm := rfl
@[simp] theorem updHnd_flt (s : State) (h : Nat) (f : Hnd → Hnd) : (s.updHnd h f).flt = s.flt := rfl
@[simp] theorem updHnd_train (s : State) (h : Nat) (f : Hnd → Hnd) : (s.updHnd h f).train = s.train := rfl
@[simp] theorem updHnd_flash (s : State) (h : Nat) (f : Hnd → Hnd) : (s.updHnd h f).flash = s.flash := rfl
@[simp] theorem updHnd_fordan (s : State) (h : Nat) (f : Hnd → Hnd) : (s.updHnd h f).fordan = s.fordan := rfl
@[simp] theorem updHnd_csr (s : State) (h : Nat) (f : Hnd → Hnd) : (s.updHnd h f).csr = s.csr := rfl
@[simp] theorem updHnd_pins (s : State) (h : Nat) (f : Hnd → Hnd) : (s.updHnd h f).pins = s.pins := rfl
@[simp] theorem updHnd_i2c (s : State) (h : Nat) (f : Hnd → Hnd) : (s.updHnd h f).i2c = s.i2c := rfl
@[simp] theorem updHnd_jtag (s : State) (h : Nat) (f : Hnd → Hnd) : (s.updHnd h f).jtag = s.jtag := rfl
@[simp] theorem updHnd_tile (s : State) (h : Nat) (f : Hnd → Hnd) (n : Nat) : (s.updHnd h f).tile n = s.tile n := rfl
@[simp] theorem updHnd_region (s : State) (h : Nat) (f : Hnd → Hnd) (n : Nat) : (s.updHnd h f).region n = s.region n := rfl
@[simp] theorem updHnd_field (s : State) (h : Nat) (f : Hnd → Hnd) (n : Nat) : (s.updHnd h f).field n = s.field n := rfl
@[simp] theorem updHnd_stack (s : State) (h : Nat) (f : Hnd → Hnd) (n : Nat) : (s.updHnd h f).stack n = s.stack n := rfl
@[simp] theorem updHnd_engine (s : State) (h : Nat) (f : Hnd → Hnd) (n : Nat) : (s.updHnd h f).engine n = s.engine n := rfl
@[simp] theorem updHnd_port (s : State) (h : Nat) (f : Hnd → Hnd) (n : Nat) : (s.updHnd h f).port n = s.port n := rfl
@[simp] theorem updHnd_part (s : State) (h : Nat) (f : Hnd → Hnd) (n : Nat) : (s.updHnd h f).part n = s.part n := rfl
@[simp] theorem updHnd_req (s : State) (h : Nat) (f : Hnd → Hnd) (n : Nat) : (s.updHnd h f).req n = s.req n := rfl
@[simp] theorem updHnd_sess (s : State) (h : Nat) (f : Hnd → Hnd) (n : Nat) : (s.updHnd h f).sess n = s.sess n := rfl
@[simp] theorem updHnd_row (s : State) (h : Nat) (f : Hnd → Hnd) (n : Nat) : (s.updHnd h f).row n = s.row n := rfl
@[simp] theorem updHnd_fp (s : State) (h : Nat) (f : Hnd → Hnd) : (s.updHnd h f).fp = s.fp := rfl

/-! ### updTrain -/

@[simp] theorem updTrain_pending (s : State) (f : Train → Train) : (s.updTrain f).pending = s.pending := rfl
@[simp] theorem updTrain_mem (s : State) (f : Train → Train) : (s.updTrain f).mem = s.mem := rfl
@[simp] theorem updTrain_bad (s : State) (f : Train → Train) : (s.updTrain f).bad = s.bad := rfl
@[simp] theorem updTrain_free (s : State) (f : Train → Train) : (s.updTrain f).free = s.free := rfl
@[simp] theorem updTrain_tiles (s : State) (f : Train → Train) : (s.updTrain f).tiles = s.tiles := rfl
@[simp] theorem updTrain_regions (s : State) (f : Train → Train) : (s.updTrain f).regions = s.regions := rfl
@[simp] theorem updTrain_fields (s : State) (f : Train → Train) : (s.updTrain f).fields = s.fields := rfl
@[simp] theorem updTrain_stacks (s : State) (f : Train → Train) : (s.updTrain f).stks = s.stks := rfl
@[simp] theorem updTrain_engines (s : State) (f : Train → Train) : (s.updTrain f).engines = s.engines := rfl
@[simp] theorem updTrain_ports (s : State) (f : Train → Train) : (s.updTrain f).ports = s.ports := rfl
@[simp] theorem updTrain_parts (s : State) (f : Train → Train) : (s.updTrain f).parts = s.parts := rfl
@[simp] theorem updTrain_net (s : State) (f : Train → Train) : (s.updTrain f).net = s.net := rfl
@[simp] theorem updTrain_ctl (s : State) (f : Train → Train) : (s.updTrain f).ctl = s.ctl := rfl
@[simp] theorem updTrain_ringOut (s : State) (f : Train → Train) : (s.updTrain f).ringOut = s.ringOut := rfl
@[simp] theorem updTrain_time (s : State) (f : Train → Train) : (s.updTrain f).time = s.time := rfl
@[simp] theorem updTrain_beat (s : State) (f : Train → Train) : (s.updTrain f).beat = s.beat := rfl
@[simp] theorem updTrain_img (s : State) (f : Train → Train) : (s.updTrain f).img = s.img := rfl
@[simp] theorem updTrain_reqs (s : State) (f : Train → Train) : (s.updTrain f).reqs = s.reqs := rfl
@[simp] theorem updTrain_adm (s : State) (f : Train → Train) : (s.updTrain f).adm = s.adm := rfl
@[simp] theorem updTrain_meter (s : State) (f : Train → Train) : (s.updTrain f).meter = s.meter := rfl
@[simp] theorem updTrain_pwr (s : State) (f : Train → Train) : (s.updTrain f).pwr = s.pwr := rfl
@[simp] theorem updTrain_therm (s : State) (f : Train → Train) : (s.updTrain f).therm = s.therm := rfl
@[simp] theorem updTrain_flt (s : State) (f : Train → Train) : (s.updTrain f).flt = s.flt := rfl
@[simp] theorem updTrain_boot (s : State) (f : Train → Train) : (s.updTrain f).boot = s.boot := rfl
@[simp] theorem updTrain_flash (s : State) (f : Train → Train) : (s.updTrain f).flash = s.flash := rfl
@[simp] theorem updTrain_fordan (s : State) (f : Train → Train) : (s.updTrain f).fordan = s.fordan := rfl
@[simp] theorem updTrain_csr (s : State) (f : Train → Train) : (s.updTrain f).csr = s.csr := rfl
@[simp] theorem updTrain_pins (s : State) (f : Train → Train) : (s.updTrain f).pins = s.pins := rfl
@[simp] theorem updTrain_i2c (s : State) (f : Train → Train) : (s.updTrain f).i2c = s.i2c := rfl
@[simp] theorem updTrain_jtag (s : State) (f : Train → Train) : (s.updTrain f).jtag = s.jtag := rfl
@[simp] theorem updTrain_tile (s : State) (f : Train → Train) (n : Nat) : (s.updTrain f).tile n = s.tile n := rfl
@[simp] theorem updTrain_region (s : State) (f : Train → Train) (n : Nat) : (s.updTrain f).region n = s.region n := rfl
@[simp] theorem updTrain_field (s : State) (f : Train → Train) (n : Nat) : (s.updTrain f).field n = s.field n := rfl
@[simp] theorem updTrain_stack (s : State) (f : Train → Train) (n : Nat) : (s.updTrain f).stack n = s.stack n := rfl
@[simp] theorem updTrain_engine (s : State) (f : Train → Train) (n : Nat) : (s.updTrain f).engine n = s.engine n := rfl
@[simp] theorem updTrain_port (s : State) (f : Train → Train) (n : Nat) : (s.updTrain f).port n = s.port n := rfl
@[simp] theorem updTrain_part (s : State) (f : Train → Train) (n : Nat) : (s.updTrain f).part n = s.part n := rfl
@[simp] theorem updTrain_req (s : State) (f : Train → Train) (n : Nat) : (s.updTrain f).req n = s.req n := rfl
@[simp] theorem updTrain_hnd (s : State) (f : Train → Train) (n : Nat) : (s.updTrain f).hnd n = s.hnd n := rfl
@[simp] theorem updTrain_sess (s : State) (f : Train → Train) (n : Nat) : (s.updTrain f).sess n = s.sess n := rfl
@[simp] theorem updTrain_row (s : State) (f : Train → Train) (n : Nat) : (s.updTrain f).row n = s.row n := rfl
@[simp] theorem updTrain_fp (s : State) (f : Train → Train) : (s.updTrain f).fp = s.fp := rfl

/-! ### updCsr -/

@[simp] theorem updCsr_pending (s : State) (f : Csr → Csr) : (s.updCsr f).pending = s.pending := rfl
@[simp] theorem updCsr_mem (s : State) (f : Csr → Csr) : (s.updCsr f).mem = s.mem := rfl
@[simp] theorem updCsr_bad (s : State) (f : Csr → Csr) : (s.updCsr f).bad = s.bad := rfl
@[simp] theorem updCsr_free (s : State) (f : Csr → Csr) : (s.updCsr f).free = s.free := rfl
@[simp] theorem updCsr_tiles (s : State) (f : Csr → Csr) : (s.updCsr f).tiles = s.tiles := rfl
@[simp] theorem updCsr_regions (s : State) (f : Csr → Csr) : (s.updCsr f).regions = s.regions := rfl
@[simp] theorem updCsr_fields (s : State) (f : Csr → Csr) : (s.updCsr f).fields = s.fields := rfl
@[simp] theorem updCsr_stacks (s : State) (f : Csr → Csr) : (s.updCsr f).stks = s.stks := rfl
@[simp] theorem updCsr_engines (s : State) (f : Csr → Csr) : (s.updCsr f).engines = s.engines := rfl
@[simp] theorem updCsr_ports (s : State) (f : Csr → Csr) : (s.updCsr f).ports = s.ports := rfl
@[simp] theorem updCsr_parts (s : State) (f : Csr → Csr) : (s.updCsr f).parts = s.parts := rfl
@[simp] theorem updCsr_net (s : State) (f : Csr → Csr) : (s.updCsr f).net = s.net := rfl
@[simp] theorem updCsr_ctl (s : State) (f : Csr → Csr) : (s.updCsr f).ctl = s.ctl := rfl
@[simp] theorem updCsr_ringOut (s : State) (f : Csr → Csr) : (s.updCsr f).ringOut = s.ringOut := rfl
@[simp] theorem updCsr_time (s : State) (f : Csr → Csr) : (s.updCsr f).time = s.time := rfl
@[simp] theorem updCsr_beat (s : State) (f : Csr → Csr) : (s.updCsr f).beat = s.beat := rfl
@[simp] theorem updCsr_img (s : State) (f : Csr → Csr) : (s.updCsr f).img = s.img := rfl
@[simp] theorem updCsr_reqs (s : State) (f : Csr → Csr) : (s.updCsr f).reqs = s.reqs := rfl
@[simp] theorem updCsr_adm (s : State) (f : Csr → Csr) : (s.updCsr f).adm = s.adm := rfl
@[simp] theorem updCsr_meter (s : State) (f : Csr → Csr) : (s.updCsr f).meter = s.meter := rfl
@[simp] theorem updCsr_pwr (s : State) (f : Csr → Csr) : (s.updCsr f).pwr = s.pwr := rfl
@[simp] theorem updCsr_therm (s : State) (f : Csr → Csr) : (s.updCsr f).therm = s.therm := rfl
@[simp] theorem updCsr_flt (s : State) (f : Csr → Csr) : (s.updCsr f).flt = s.flt := rfl
@[simp] theorem updCsr_train (s : State) (f : Csr → Csr) : (s.updCsr f).train = s.train := rfl
@[simp] theorem updCsr_boot (s : State) (f : Csr → Csr) : (s.updCsr f).boot = s.boot := rfl
@[simp] theorem updCsr_flash (s : State) (f : Csr → Csr) : (s.updCsr f).flash = s.flash := rfl
@[simp] theorem updCsr_fordan (s : State) (f : Csr → Csr) : (s.updCsr f).fordan = s.fordan := rfl
@[simp] theorem updCsr_pins (s : State) (f : Csr → Csr) : (s.updCsr f).pins = s.pins := rfl
@[simp] theorem updCsr_i2c (s : State) (f : Csr → Csr) : (s.updCsr f).i2c = s.i2c := rfl
@[simp] theorem updCsr_jtag (s : State) (f : Csr → Csr) : (s.updCsr f).jtag = s.jtag := rfl
@[simp] theorem updCsr_tile (s : State) (f : Csr → Csr) (n : Nat) : (s.updCsr f).tile n = s.tile n := rfl
@[simp] theorem updCsr_region (s : State) (f : Csr → Csr) (n : Nat) : (s.updCsr f).region n = s.region n := rfl
@[simp] theorem updCsr_field (s : State) (f : Csr → Csr) (n : Nat) : (s.updCsr f).field n = s.field n := rfl
@[simp] theorem updCsr_stack (s : State) (f : Csr → Csr) (n : Nat) : (s.updCsr f).stack n = s.stack n := rfl
@[simp] theorem updCsr_engine (s : State) (f : Csr → Csr) (n : Nat) : (s.updCsr f).engine n = s.engine n := rfl
@[simp] theorem updCsr_port (s : State) (f : Csr → Csr) (n : Nat) : (s.updCsr f).port n = s.port n := rfl
@[simp] theorem updCsr_part (s : State) (f : Csr → Csr) (n : Nat) : (s.updCsr f).part n = s.part n := rfl
@[simp] theorem updCsr_req (s : State) (f : Csr → Csr) (n : Nat) : (s.updCsr f).req n = s.req n := rfl
@[simp] theorem updCsr_hnd (s : State) (f : Csr → Csr) (n : Nat) : (s.updCsr f).hnd n = s.hnd n := rfl
@[simp] theorem updCsr_sess (s : State) (f : Csr → Csr) (n : Nat) : (s.updCsr f).sess n = s.sess n := rfl
@[simp] theorem updCsr_row (s : State) (f : Csr → Csr) (n : Nat) : (s.updCsr f).row n = s.row n := rfl
@[simp] theorem updCsr_fp (s : State) (f : Csr → Csr) : (s.updCsr f).fp = s.fp := rfl

/-! ### updMbx -/

@[simp] theorem updMbx_pending (s : State) (c : Nat) (f : Mbx → Mbx) : (s.updMbx c f).pending = s.pending := rfl
@[simp] theorem updMbx_mem (s : State) (c : Nat) (f : Mbx → Mbx) : (s.updMbx c f).mem = s.mem := rfl
@[simp] theorem updMbx_bad (s : State) (c : Nat) (f : Mbx → Mbx) : (s.updMbx c f).bad = s.bad := rfl
@[simp] theorem updMbx_free (s : State) (c : Nat) (f : Mbx → Mbx) : (s.updMbx c f).free = s.free := rfl
@[simp] theorem updMbx_tiles (s : State) (c : Nat) (f : Mbx → Mbx) : (s.updMbx c f).tiles = s.tiles := rfl
@[simp] theorem updMbx_regions (s : State) (c : Nat) (f : Mbx → Mbx) : (s.updMbx c f).regions = s.regions := rfl
@[simp] theorem updMbx_fields (s : State) (c : Nat) (f : Mbx → Mbx) : (s.updMbx c f).fields = s.fields := rfl
@[simp] theorem updMbx_stacks (s : State) (c : Nat) (f : Mbx → Mbx) : (s.updMbx c f).stks = s.stks := rfl
@[simp] theorem updMbx_engines (s : State) (c : Nat) (f : Mbx → Mbx) : (s.updMbx c f).engines = s.engines := rfl
@[simp] theorem updMbx_ports (s : State) (c : Nat) (f : Mbx → Mbx) : (s.updMbx c f).ports = s.ports := rfl
@[simp] theorem updMbx_parts (s : State) (c : Nat) (f : Mbx → Mbx) : (s.updMbx c f).parts = s.parts := rfl
@[simp] theorem updMbx_net (s : State) (c : Nat) (f : Mbx → Mbx) : (s.updMbx c f).net = s.net := rfl
@[simp] theorem updMbx_ctl (s : State) (c : Nat) (f : Mbx → Mbx) : (s.updMbx c f).ctl = s.ctl := rfl
@[simp] theorem updMbx_ringOut (s : State) (c : Nat) (f : Mbx → Mbx) : (s.updMbx c f).ringOut = s.ringOut := rfl
@[simp] theorem updMbx_time (s : State) (c : Nat) (f : Mbx → Mbx) : (s.updMbx c f).time = s.time := rfl
@[simp] theorem updMbx_beat (s : State) (c : Nat) (f : Mbx → Mbx) : (s.updMbx c f).beat = s.beat := rfl
@[simp] theorem updMbx_img (s : State) (c : Nat) (f : Mbx → Mbx) : (s.updMbx c f).img = s.img := rfl
@[simp] theorem updMbx_reqs (s : State) (c : Nat) (f : Mbx → Mbx) : (s.updMbx c f).reqs = s.reqs := rfl
@[simp] theorem updMbx_adm (s : State) (c : Nat) (f : Mbx → Mbx) : (s.updMbx c f).adm = s.adm := rfl
@[simp] theorem updMbx_meter (s : State) (c : Nat) (f : Mbx → Mbx) : (s.updMbx c f).meter = s.meter := rfl
@[simp] theorem updMbx_pwr (s : State) (c : Nat) (f : Mbx → Mbx) : (s.updMbx c f).pwr = s.pwr := rfl
@[simp] theorem updMbx_therm (s : State) (c : Nat) (f : Mbx → Mbx) : (s.updMbx c f).therm = s.therm := rfl
@[simp] theorem updMbx_flt (s : State) (c : Nat) (f : Mbx → Mbx) : (s.updMbx c f).flt = s.flt := rfl
@[simp] theorem updMbx_train (s : State) (c : Nat) (f : Mbx → Mbx) : (s.updMbx c f).train = s.train := rfl
@[simp] theorem updMbx_boot (s : State) (c : Nat) (f : Mbx → Mbx) : (s.updMbx c f).boot = s.boot := rfl
@[simp] theorem updMbx_flash (s : State) (c : Nat) (f : Mbx → Mbx) : (s.updMbx c f).flash = s.flash := rfl
@[simp] theorem updMbx_fordan (s : State) (c : Nat) (f : Mbx → Mbx) : (s.updMbx c f).fordan = s.fordan := rfl
@[simp] theorem updMbx_pins (s : State) (c : Nat) (f : Mbx → Mbx) : (s.updMbx c f).pins = s.pins := rfl
@[simp] theorem updMbx_i2c (s : State) (c : Nat) (f : Mbx → Mbx) : (s.updMbx c f).i2c = s.i2c := rfl
@[simp] theorem updMbx_jtag (s : State) (c : Nat) (f : Mbx → Mbx) : (s.updMbx c f).jtag = s.jtag := rfl
@[simp] theorem updMbx_tile (s : State) (c : Nat) (f : Mbx → Mbx) (n : Nat) : (s.updMbx c f).tile n = s.tile n := rfl
@[simp] theorem updMbx_region (s : State) (c : Nat) (f : Mbx → Mbx) (n : Nat) : (s.updMbx c f).region n = s.region n := rfl
@[simp] theorem updMbx_field (s : State) (c : Nat) (f : Mbx → Mbx) (n : Nat) : (s.updMbx c f).field n = s.field n := rfl
@[simp] theorem updMbx_stack (s : State) (c : Nat) (f : Mbx → Mbx) (n : Nat) : (s.updMbx c f).stack n = s.stack n := rfl
@[simp] theorem updMbx_engine (s : State) (c : Nat) (f : Mbx → Mbx) (n : Nat) : (s.updMbx c f).engine n = s.engine n := rfl
@[simp] theorem updMbx_port (s : State) (c : Nat) (f : Mbx → Mbx) (n : Nat) : (s.updMbx c f).port n = s.port n := rfl
@[simp] theorem updMbx_part (s : State) (c : Nat) (f : Mbx → Mbx) (n : Nat) : (s.updMbx c f).part n = s.part n := rfl
@[simp] theorem updMbx_req (s : State) (c : Nat) (f : Mbx → Mbx) (n : Nat) : (s.updMbx c f).req n = s.req n := rfl
@[simp] theorem updMbx_hnd (s : State) (c : Nat) (f : Mbx → Mbx) (n : Nat) : (s.updMbx c f).hnd n = s.hnd n := rfl
@[simp] theorem updMbx_sess (s : State) (c : Nat) (f : Mbx → Mbx) (n : Nat) : (s.updMbx c f).sess n = s.sess n := rfl
@[simp] theorem updMbx_row (s : State) (c : Nat) (f : Mbx → Mbx) (n : Nat) : (s.updMbx c f).row n = s.row n := rfl
@[simp] theorem updMbx_fp (s : State) (c : Nat) (f : Mbx → Mbx) : (s.updMbx c f).fp = s.fp := rfl

/-! ### updWrm -/

@[simp] theorem updWrm_pending (s : State) (h : Nat) (f : Wrm → Wrm) : (s.updWrm h f).pending = s.pending := rfl
@[simp] theorem updWrm_mem (s : State) (h : Nat) (f : Wrm → Wrm) : (s.updWrm h f).mem = s.mem := rfl
@[simp] theorem updWrm_bad (s : State) (h : Nat) (f : Wrm → Wrm) : (s.updWrm h f).bad = s.bad := rfl
@[simp] theorem updWrm_free (s : State) (h : Nat) (f : Wrm → Wrm) : (s.updWrm h f).free = s.free := rfl
@[simp] theorem updWrm_tiles (s : State) (h : Nat) (f : Wrm → Wrm) : (s.updWrm h f).tiles = s.tiles := rfl
@[simp] theorem updWrm_regions (s : State) (h : Nat) (f : Wrm → Wrm) : (s.updWrm h f).regions = s.regions := rfl
@[simp] theorem updWrm_fields (s : State) (h : Nat) (f : Wrm → Wrm) : (s.updWrm h f).fields = s.fields := rfl
@[simp] theorem updWrm_stacks (s : State) (h : Nat) (f : Wrm → Wrm) : (s.updWrm h f).stks = s.stks := rfl
@[simp] theorem updWrm_engines (s : State) (h : Nat) (f : Wrm → Wrm) : (s.updWrm h f).engines = s.engines := rfl
@[simp] theorem updWrm_ports (s : State) (h : Nat) (f : Wrm → Wrm) : (s.updWrm h f).ports = s.ports := rfl
@[simp] theorem updWrm_parts (s : State) (h : Nat) (f : Wrm → Wrm) : (s.updWrm h f).parts = s.parts := rfl
@[simp] theorem updWrm_net (s : State) (h : Nat) (f : Wrm → Wrm) : (s.updWrm h f).net = s.net := rfl
@[simp] theorem updWrm_ctl (s : State) (h : Nat) (f : Wrm → Wrm) : (s.updWrm h f).ctl = s.ctl := rfl
@[simp] theorem updWrm_ringOut (s : State) (h : Nat) (f : Wrm → Wrm) : (s.updWrm h f).ringOut = s.ringOut := rfl
@[simp] theorem updWrm_time (s : State) (h : Nat) (f : Wrm → Wrm) : (s.updWrm h f).time = s.time := rfl
@[simp] theorem updWrm_beat (s : State) (h : Nat) (f : Wrm → Wrm) : (s.updWrm h f).beat = s.beat := rfl
@[simp] theorem updWrm_img (s : State) (h : Nat) (f : Wrm → Wrm) : (s.updWrm h f).img = s.img := rfl
@[simp] theorem updWrm_reqs (s : State) (h : Nat) (f : Wrm → Wrm) : (s.updWrm h f).reqs = s.reqs := rfl
@[simp] theorem updWrm_adm (s : State) (h : Nat) (f : Wrm → Wrm) : (s.updWrm h f).adm = s.adm := rfl
@[simp] theorem updWrm_meter (s : State) (h : Nat) (f : Wrm → Wrm) : (s.updWrm h f).meter = s.meter := rfl
@[simp] theorem updWrm_pwr (s : State) (h : Nat) (f : Wrm → Wrm) : (s.updWrm h f).pwr = s.pwr := rfl
@[simp] theorem updWrm_therm (s : State) (h : Nat) (f : Wrm → Wrm) : (s.updWrm h f).therm = s.therm := rfl
@[simp] theorem updWrm_flt (s : State) (h : Nat) (f : Wrm → Wrm) : (s.updWrm h f).flt = s.flt := rfl
@[simp] theorem updWrm_train (s : State) (h : Nat) (f : Wrm → Wrm) : (s.updWrm h f).train = s.train := rfl
@[simp] theorem updWrm_boot (s : State) (h : Nat) (f : Wrm → Wrm) : (s.updWrm h f).boot = s.boot := rfl
@[simp] theorem updWrm_flash (s : State) (h : Nat) (f : Wrm → Wrm) : (s.updWrm h f).flash = s.flash := rfl
@[simp] theorem updWrm_fordan (s : State) (h : Nat) (f : Wrm → Wrm) : (s.updWrm h f).fordan = s.fordan := rfl
@[simp] theorem updWrm_pins (s : State) (h : Nat) (f : Wrm → Wrm) : (s.updWrm h f).pins = s.pins := rfl
@[simp] theorem updWrm_i2c (s : State) (h : Nat) (f : Wrm → Wrm) : (s.updWrm h f).i2c = s.i2c := rfl
@[simp] theorem updWrm_jtag (s : State) (h : Nat) (f : Wrm → Wrm) : (s.updWrm h f).jtag = s.jtag := rfl
@[simp] theorem updWrm_tile (s : State) (h : Nat) (f : Wrm → Wrm) (n : Nat) : (s.updWrm h f).tile n = s.tile n := rfl
@[simp] theorem updWrm_region (s : State) (h : Nat) (f : Wrm → Wrm) (n : Nat) : (s.updWrm h f).region n = s.region n := rfl
@[simp] theorem updWrm_field (s : State) (h : Nat) (f : Wrm → Wrm) (n : Nat) : (s.updWrm h f).field n = s.field n := rfl
@[simp] theorem updWrm_stack (s : State) (h : Nat) (f : Wrm → Wrm) (n : Nat) : (s.updWrm h f).stack n = s.stack n := rfl
@[simp] theorem updWrm_engine (s : State) (h : Nat) (f : Wrm → Wrm) (n : Nat) : (s.updWrm h f).engine n = s.engine n := rfl
@[simp] theorem updWrm_port (s : State) (h : Nat) (f : Wrm → Wrm) (n : Nat) : (s.updWrm h f).port n = s.port n := rfl
@[simp] theorem updWrm_part (s : State) (h : Nat) (f : Wrm → Wrm) (n : Nat) : (s.updWrm h f).part n = s.part n := rfl
@[simp] theorem updWrm_req (s : State) (h : Nat) (f : Wrm → Wrm) (n : Nat) : (s.updWrm h f).req n = s.req n := rfl
@[simp] theorem updWrm_hnd (s : State) (h : Nat) (f : Wrm → Wrm) (n : Nat) : (s.updWrm h f).hnd n = s.hnd n := rfl
@[simp] theorem updWrm_sess (s : State) (h : Nat) (f : Wrm → Wrm) (n : Nat) : (s.updWrm h f).sess n = s.sess n := rfl
@[simp] theorem updWrm_row (s : State) (h : Nat) (f : Wrm → Wrm) (n : Nat) : (s.updWrm h f).row n = s.row n := rfl
@[simp] theorem updWrm_fp (s : State) (h : Nat) (f : Wrm → Wrm) : (s.updWrm h f).fp = s.fp := rfl

/-! ### updMeter -/

@[simp] theorem updMeter_pending (s : State) (f : Meter → Meter) : (s.updMeter f).pending = s.pending := rfl
@[simp] theorem updMeter_mem (s : State) (f : Meter → Meter) : (s.updMeter f).mem = s.mem := rfl
@[simp] theorem updMeter_bad (s : State) (f : Meter → Meter) : (s.updMeter f).bad = s.bad := rfl
@[simp] theorem updMeter_free (s : State) (f : Meter → Meter) : (s.updMeter f).free = s.free := rfl
@[simp] theorem updMeter_tiles (s : State) (f : Meter → Meter) : (s.updMeter f).tiles = s.tiles := rfl
@[simp] theorem updMeter_regions (s : State) (f : Meter → Meter) : (s.updMeter f).regions = s.regions := rfl
@[simp] theorem updMeter_fields (s : State) (f : Meter → Meter) : (s.updMeter f).fields = s.fields := rfl
@[simp] theorem updMeter_stacks (s : State) (f : Meter → Meter) : (s.updMeter f).stks = s.stks := rfl
@[simp] theorem updMeter_engines (s : State) (f : Meter → Meter) : (s.updMeter f).engines = s.engines := rfl
@[simp] theorem updMeter_ports (s : State) (f : Meter → Meter) : (s.updMeter f).ports = s.ports := rfl
@[simp] theorem updMeter_parts (s : State) (f : Meter → Meter) : (s.updMeter f).parts = s.parts := rfl
@[simp] theorem updMeter_net (s : State) (f : Meter → Meter) : (s.updMeter f).net = s.net := rfl
@[simp] theorem updMeter_ctl (s : State) (f : Meter → Meter) : (s.updMeter f).ctl = s.ctl := rfl
@[simp] theorem updMeter_ringOut (s : State) (f : Meter → Meter) : (s.updMeter f).ringOut = s.ringOut := rfl
@[simp] theorem updMeter_time (s : State) (f : Meter → Meter) : (s.updMeter f).time = s.time := rfl
@[simp] theorem updMeter_beat (s : State) (f : Meter → Meter) : (s.updMeter f).beat = s.beat := rfl
@[simp] theorem updMeter_img (s : State) (f : Meter → Meter) : (s.updMeter f).img = s.img := rfl
@[simp] theorem updMeter_reqs (s : State) (f : Meter → Meter) : (s.updMeter f).reqs = s.reqs := rfl
@[simp] theorem updMeter_adm (s : State) (f : Meter → Meter) : (s.updMeter f).adm = s.adm := rfl
@[simp] theorem updMeter_pwr (s : State) (f : Meter → Meter) : (s.updMeter f).pwr = s.pwr := rfl
@[simp] theorem updMeter_therm (s : State) (f : Meter → Meter) : (s.updMeter f).therm = s.therm := rfl
@[simp] theorem updMeter_flt (s : State) (f : Meter → Meter) : (s.updMeter f).flt = s.flt := rfl
@[simp] theorem updMeter_train (s : State) (f : Meter → Meter) : (s.updMeter f).train = s.train := rfl
@[simp] theorem updMeter_boot (s : State) (f : Meter → Meter) : (s.updMeter f).boot = s.boot := rfl
@[simp] theorem updMeter_flash (s : State) (f : Meter → Meter) : (s.updMeter f).flash = s.flash := rfl
@[simp] theorem updMeter_fordan (s : State) (f : Meter → Meter) : (s.updMeter f).fordan = s.fordan := rfl
@[simp] theorem updMeter_csr (s : State) (f : Meter → Meter) : (s.updMeter f).csr = s.csr := rfl
@[simp] theorem updMeter_pins (s : State) (f : Meter → Meter) : (s.updMeter f).pins = s.pins := rfl
@[simp] theorem updMeter_i2c (s : State) (f : Meter → Meter) : (s.updMeter f).i2c = s.i2c := rfl
@[simp] theorem updMeter_jtag (s : State) (f : Meter → Meter) : (s.updMeter f).jtag = s.jtag := rfl
@[simp] theorem updMeter_tile (s : State) (f : Meter → Meter) (n : Nat) : (s.updMeter f).tile n = s.tile n := rfl
@[simp] theorem updMeter_region (s : State) (f : Meter → Meter) (n : Nat) : (s.updMeter f).region n = s.region n := rfl
@[simp] theorem updMeter_field (s : State) (f : Meter → Meter) (n : Nat) : (s.updMeter f).field n = s.field n := rfl
@[simp] theorem updMeter_stack (s : State) (f : Meter → Meter) (n : Nat) : (s.updMeter f).stack n = s.stack n := rfl
@[simp] theorem updMeter_engine (s : State) (f : Meter → Meter) (n : Nat) : (s.updMeter f).engine n = s.engine n := rfl
@[simp] theorem updMeter_port (s : State) (f : Meter → Meter) (n : Nat) : (s.updMeter f).port n = s.port n := rfl
@[simp] theorem updMeter_part (s : State) (f : Meter → Meter) (n : Nat) : (s.updMeter f).part n = s.part n := rfl
@[simp] theorem updMeter_req (s : State) (f : Meter → Meter) (n : Nat) : (s.updMeter f).req n = s.req n := rfl
@[simp] theorem updMeter_hnd (s : State) (f : Meter → Meter) (n : Nat) : (s.updMeter f).hnd n = s.hnd n := rfl
@[simp] theorem updMeter_sess (s : State) (f : Meter → Meter) (n : Nat) : (s.updMeter f).sess n = s.sess n := rfl
@[simp] theorem updMeter_row (s : State) (f : Meter → Meter) (n : Nat) : (s.updMeter f).row n = s.row n := rfl
@[simp] theorem updMeter_fp (s : State) (f : Meter → Meter) : (s.updMeter f).fp = s.fp := rfl

/-! ### updTime -/

@[simp] theorem updTime_pending (s : State) (f : TimeUnit → TimeUnit) : (s.updTime f).pending = s.pending := rfl
@[simp] theorem updTime_mem (s : State) (f : TimeUnit → TimeUnit) : (s.updTime f).mem = s.mem := rfl
@[simp] theorem updTime_bad (s : State) (f : TimeUnit → TimeUnit) : (s.updTime f).bad = s.bad := rfl
@[simp] theorem updTime_free (s : State) (f : TimeUnit → TimeUnit) : (s.updTime f).free = s.free := rfl
@[simp] theorem updTime_tiles (s : State) (f : TimeUnit → TimeUnit) : (s.updTime f).tiles = s.tiles := rfl
@[simp] theorem updTime_regions (s : State) (f : TimeUnit → TimeUnit) : (s.updTime f).regions = s.regions := rfl
@[simp] theorem updTime_fields (s : State) (f : TimeUnit → TimeUnit) : (s.updTime f).fields = s.fields := rfl
@[simp] theorem updTime_stacks (s : State) (f : TimeUnit → TimeUnit) : (s.updTime f).stks = s.stks := rfl
@[simp] theorem updTime_engines (s : State) (f : TimeUnit → TimeUnit) : (s.updTime f).engines = s.engines := rfl
@[simp] theorem updTime_ports (s : State) (f : TimeUnit → TimeUnit) : (s.updTime f).ports = s.ports := rfl
@[simp] theorem updTime_parts (s : State) (f : TimeUnit → TimeUnit) : (s.updTime f).parts = s.parts := rfl
@[simp] theorem updTime_net (s : State) (f : TimeUnit → TimeUnit) : (s.updTime f).net = s.net := rfl
@[simp] theorem updTime_ctl (s : State) (f : TimeUnit → TimeUnit) : (s.updTime f).ctl = s.ctl := rfl
@[simp] theorem updTime_ringOut (s : State) (f : TimeUnit → TimeUnit) : (s.updTime f).ringOut = s.ringOut := rfl
@[simp] theorem updTime_beat (s : State) (f : TimeUnit → TimeUnit) : (s.updTime f).beat = s.beat := rfl
@[simp] theorem updTime_img (s : State) (f : TimeUnit → TimeUnit) : (s.updTime f).img = s.img := rfl
@[simp] theorem updTime_reqs (s : State) (f : TimeUnit → TimeUnit) : (s.updTime f).reqs = s.reqs := rfl
@[simp] theorem updTime_adm (s : State) (f : TimeUnit → TimeUnit) : (s.updTime f).adm = s.adm := rfl
@[simp] theorem updTime_meter (s : State) (f : TimeUnit → TimeUnit) : (s.updTime f).meter = s.meter := rfl
@[simp] theorem updTime_pwr (s : State) (f : TimeUnit → TimeUnit) : (s.updTime f).pwr = s.pwr := rfl
@[simp] theorem updTime_therm (s : State) (f : TimeUnit → TimeUnit) : (s.updTime f).therm = s.therm := rfl
@[simp] theorem updTime_flt (s : State) (f : TimeUnit → TimeUnit) : (s.updTime f).flt = s.flt := rfl
@[simp] theorem updTime_train (s : State) (f : TimeUnit → TimeUnit) : (s.updTime f).train = s.train := rfl
@[simp] theorem updTime_boot (s : State) (f : TimeUnit → TimeUnit) : (s.updTime f).boot = s.boot := rfl
@[simp] theorem updTime_flash (s : State) (f : TimeUnit → TimeUnit) : (s.updTime f).flash = s.flash := rfl
@[simp] theorem updTime_fordan (s : State) (f : TimeUnit → TimeUnit) : (s.updTime f).fordan = s.fordan := rfl
@[simp] theorem updTime_csr (s : State) (f : TimeUnit → TimeUnit) : (s.updTime f).csr = s.csr := rfl
@[simp] theorem updTime_pins (s : State) (f : TimeUnit → TimeUnit) : (s.updTime f).pins = s.pins := rfl
@[simp] theorem updTime_i2c (s : State) (f : TimeUnit → TimeUnit) : (s.updTime f).i2c = s.i2c := rfl
@[simp] theorem updTime_jtag (s : State) (f : TimeUnit → TimeUnit) : (s.updTime f).jtag = s.jtag := rfl
@[simp] theorem updTime_tile (s : State) (f : TimeUnit → TimeUnit) (n : Nat) : (s.updTime f).tile n = s.tile n := rfl
@[simp] theorem updTime_region (s : State) (f : TimeUnit → TimeUnit) (n : Nat) : (s.updTime f).region n = s.region n := rfl
@[simp] theorem updTime_field (s : State) (f : TimeUnit → TimeUnit) (n : Nat) : (s.updTime f).field n = s.field n := rfl
@[simp] theorem updTime_stack (s : State) (f : TimeUnit → TimeUnit) (n : Nat) : (s.updTime f).stack n = s.stack n := rfl
@[simp] theorem updTime_engine (s : State) (f : TimeUnit → TimeUnit) (n : Nat) : (s.updTime f).engine n = s.engine n := rfl
@[simp] theorem updTime_port (s : State) (f : TimeUnit → TimeUnit) (n : Nat) : (s.updTime f).port n = s.port n := rfl
@[simp] theorem updTime_part (s : State) (f : TimeUnit → TimeUnit) (n : Nat) : (s.updTime f).part n = s.part n := rfl
@[simp] theorem updTime_req (s : State) (f : TimeUnit → TimeUnit) (n : Nat) : (s.updTime f).req n = s.req n := rfl
@[simp] theorem updTime_hnd (s : State) (f : TimeUnit → TimeUnit) (n : Nat) : (s.updTime f).hnd n = s.hnd n := rfl
@[simp] theorem updTime_sess (s : State) (f : TimeUnit → TimeUnit) (n : Nat) : (s.updTime f).sess n = s.sess n := rfl
@[simp] theorem updTime_row (s : State) (f : TimeUnit → TimeUnit) (n : Nat) : (s.updTime f).row n = s.row n := rfl
@[simp] theorem updTime_fp (s : State) (f : TimeUnit → TimeUnit) : (s.updTime f).fp = s.fp := rfl

/-! ### A unit after an update -/

@[simp] theorem updTile_tile_self (s : State) (t : Nat) (f : Tile → Tile) : (s.updTile t f).tile t = f (s.tile t) := Tab.get_upd_self _ _ _ _
theorem updTile_tile_ne (s : State) (t : Nat) (f : Tile → Tile) {n : Nat} (h' : n ≠ t) : (s.updTile t f).tile n = s.tile n := Tab.get_upd_ne _ _ _ h'
@[simp] theorem updRegion_region_self (s : State) (g : Nat) (f : Region → Region) : (s.updRegion g f).region g = f (s.region g) := Tab.get_upd_self _ _ _ _
theorem updRegion_region_ne (s : State) (g : Nat) (f : Region → Region) {n : Nat} (h' : n ≠ g) : (s.updRegion g f).region n = s.region n := Tab.get_upd_ne _ _ _ h'
@[simp] theorem updField_field_self (s : State) (g : Nat) (f : Field → Field) : (s.updField g f).field g = f (s.field g) := Tab.get_upd_self _ _ _ _
theorem updField_field_ne (s : State) (g : Nat) (f : Field → Field) {n : Nat} (h' : n ≠ g) : (s.updField g f).field n = s.field n := Tab.get_upd_ne _ _ _ h'
@[simp] theorem updStack_stack_self (s : State) (k : Nat) (f : Stack → Stack) : (s.updStack k f).stack k = f (s.stack k) := Tab.get_upd_self _ _ _ _
theorem updStack_stack_ne (s : State) (k : Nat) (f : Stack → Stack) {n : Nat} (h' : n ≠ k) : (s.updStack k f).stack n = s.stack n := Tab.get_upd_ne _ _ _ h'
@[simp] theorem updEngine_engine_self (s : State) (e : Nat) (f : Engine → Engine) : (s.updEngine e f).engine e = f (s.engine e) := Tab.get_upd_self _ _ _ _
theorem updEngine_engine_ne (s : State) (e : Nat) (f : Engine → Engine) {n : Nat} (h' : n ≠ e) : (s.updEngine e f).engine n = s.engine n := Tab.get_upd_ne _ _ _ h'
@[simp] theorem updPort_port_self (s : State) (l : Nat) (f : Port → Port) : (s.updPort l f).port l = f (s.port l) := Tab.get_upd_self _ _ _ _
theorem updPort_port_ne (s : State) (l : Nat) (f : Port → Port) {n : Nat} (h' : n ≠ l) : (s.updPort l f).port n = s.port n := Tab.get_upd_ne _ _ _ h'
@[simp] theorem updPart_part_self (s : State) (p : Nat) (f : Partn → Partn) : (s.updPart p f).part p = f (s.part p) := Tab.get_upd_self _ _ _ _
theorem updPart_part_ne (s : State) (p : Nat) (f : Partn → Partn) {n : Nat} (h' : n ≠ p) : (s.updPart p f).part n = s.part n := Tab.get_upd_ne _ _ _ h'
@[simp] theorem updHnd_hnd_self (s : State) (h : Nat) (f : Hnd → Hnd) : (s.updHnd h f).hnd h = f (s.hnd h) := Tab.get_upd_self _ _ _ _
theorem updHnd_hnd_ne (s : State) (h : Nat) (f : Hnd → Hnd) {n : Nat} (h' : n ≠ h) : (s.updHnd h f).hnd n = s.hnd n := Tab.get_upd_ne _ _ _ h'
@[simp] theorem updMbx_mbx_self (s : State) (c : Nat) (f : Mbx → Mbx) : (s.updMbx c f).mbx c = f (s.mbx c) := Tab.get_upd_self _ _ _ _
theorem updMbx_mbx_ne (s : State) (c : Nat) (f : Mbx → Mbx) {n : Nat} (h' : n ≠ c) : (s.updMbx c f).mbx n = s.mbx n := Tab.get_upd_ne _ _ _ h'
@[simp] theorem updWrm_wrm_self (s : State) (h : Nat) (f : Wrm → Wrm) : (s.updWrm h f).wrm h = f (s.wrm h) := Tab.get_upd_self _ _ _ _
theorem updWrm_wrm_ne (s : State) (h : Nat) (f : Wrm → Wrm) {n : Nat} (h' : n ≠ h) : (s.updWrm h f).wrm n = s.wrm n := Tab.get_upd_ne _ _ _ h'

/-! ### Requests and sessions, whose update does nothing where there is none -/

theorem updReq_frame (s : State) (r : Nat) (f : Req → Req) : { s.updReq r f with reqs := s.reqs } = s := by
  unfold State.updReq; split <;> rfl

theorem updReq_req_self (s : State) (r : Nat) (f : Req → Req) : (s.updReq r f).req r = (s.req r).map f := by
  unfold State.updReq
  split
  · rename_i h; simp [h]
  · rename_i q h; rw [h]; exact Tab.get_put_self (none : Option Req) s.reqs r (some (f q))

theorem updReq_req_ne (s : State) (r : Nat) (f : Req → Req) {n : Nat} (h : n ≠ r) : (s.updReq r f).req n = s.req n := by
  unfold State.updReq
  split
  · rfl
  · rename_i q _; exact Tab.get_put_ne (none : Option Req) s.reqs (some (f q)) h

theorem updSess_frame (s : State) (k : Nat) (f : Sess → Sess) :
    { s.updSess k f with fordan := { (s.updSess k f).fordan with sess := s.fordan.sess } } = s := by
  unfold State.updSess; split <;> rfl

theorem updSess_sess_self (s : State) (k : Nat) (f : Sess → Sess) : (s.updSess k f).sess k = (s.sess k).map f := by
  unfold State.updSess
  split
  · rename_i h; simp [h]
  · rename_i q h; rw [h]; exact Tab.get_put_self (none : Option Sess) s.fordan.sess k (some (f q))

theorem updSess_sess_ne (s : State) (k : Nat) (f : Sess → Sess) {n : Nat} (h : n ≠ k) : (s.updSess k f).sess n = s.sess n := by
  unfold State.updSess
  split
  · rfl
  · rename_i q _; exact Tab.get_put_ne (none : Option Sess) s.fordan.sess (some (f q)) h

end Sys2Proof.Machine
end

