-- ==== Sys2Proof/Laws/Ops.lean ====
section
/-!
SUPPORT. What the shared operations can do: one lemma for each says what it leaves as it was.
-/

namespace Sys2Proof.Machine

/-- A command that answers a next state answers it. -/
theorem answers {X : State} {P : State → Prop} (h : P X) : ∃ u, (Host.Outcome.next X : Host.Outcome State Fault Refusal) = .next u ∧ P u :=
  ⟨X, rfl, h⟩

@[simp] theorem onUnit_true (s : State) (f : State → State) : onUnit true s f = .next (f s) := rfl

theorem onM_ok {t : Nat} (h : isTile .m t = true) (s : State) (f : State → State) : onM t s f = .next (f s) := by simp [onM, h]
theorem onV_ok {t : Nat} (h : isTile .v t = true) (s : State) (f : State → State) : onV t s f = .next (f s) := by simp [onV, h]
theorem onS_ok {t : Nat} (h : isTile .s t = true) (s : State) (f : State → State) : onS t s f = .next (f s) := by simp [onS, h]
theorem onTile_ok {t : Nat} (h : t < 2688) (s : State) (f : State → State) : onTile t s f = .next (f s) := by simp [onTile, nTiles, h]
theorem onRegion_ok {g : Nat} (h : g < 32) (s : State) (f : State → State) : onRegion g s f = .next (f s) := by simp [onRegion, h]
theorem onStack_ok {k : Nat} (h : k < 24) (s : State) (f : State → State) : onStack k s f = .next (f s) := by simp [onStack, h]
theorem onEngine_ok {e : Nat} (h : e < 96) (s : State) (f : State → State) : onEngine e s f = .next (f s) := by simp [onEngine, h]
theorem onField_ok {f : Nat} (h : f < 16) (s : State) (k : State → State) : onField f s k = .next (k s) := by simp [onField, h]
theorem onPart_ok {p : Nat} (h : p < 16) (s : State) (f : State → State) : onPart p s f = .next (f s) := by simp [onPart, h]
theorem onLane_ok {l : Nat} (h : l < 16) (s : State) (f : State → State) : onLane l s f = .next (f s) := by simp [onLane, h]

theorem updTile_only (s : State) (t : Nat) (f : Tile → Tile) : OnlyTile s (s.updTile t f) t :=
  ⟨rfl, fun _ h => updTile_tile_ne s t f h⟩

theorem updRegion_only (s : State) (g : Nat) (f : Region → Region) : OnlyRegion s (s.updRegion g f) g :=
  ⟨rfl, fun _ h => updRegion_region_ne s g f h⟩

/-! ### Rows read under check -/

/-- A row that reads clean is read as it stands, and nothing else happens. -/
theorem readChk_clean {s : State} {t r req nth : Nat} {deep : Bool} {es : List Ecc}
    (h : checkOf s (if deep then deepRow t r else spadRow t r) es nth = .clean) :
    s.readChk t deep r req es nth = (s, some (s.row (if deep then deepRow t r else spadRow t r))) := by
  simp only [State.readChk, h]

/-- The number of a tile's row. -/
def rowId (t : Nat) (deep : Bool) (r : Nat) : Nat := if deep then deepRow t r else spadRow t r

theorem readRows_clean {s : State} {t req : Nat} {deep : Bool} {es : List Ecc} {l : List Nat} {nth : Nat}
    (h : rowsClean s es nth (l.map (rowId t deep)) = true) :
    s.readRows t deep req es nth l = (s, some (s.rowsAt (l.map (rowId t deep)))) := by
  induction l generalizing nth with
  | nil => rfl
  | cons r rs ih =>
    simp only [List.map_cons, rowsClean, Bool.and_eq_true, decide_eq_true_eq] at h
    simp only [State.readRows, readChk_clean (show checkOf s (if deep then deepRow t r else spadRow t r) es nth = .clean from h.1), ih h.2,
      State.rowsAt, List.map_cons, List.flatMap_cons, rowId]

theorem rowsAt_length (s : State) (l : List Nat) : (s.rowsAt l).length = 512 * l.length := by
  induction l with
  | nil => rfl
  | cons r rs ih =>
    have : s.rowsAt (r :: rs) = s.row r ++ s.rowsAt rs := by simp only [State.rowsAt, List.flatMap_cons]
    rw [this, List.length_append, ih, row_length, List.length_cons]; omega

/-- A row of rows read one after another. -/
theorem slice_rowsAt (s : State) (l : List Nat) {i : Nat} (h : i < l.length) : slice (s.rowsAt l) (512 * i) 512 = s.row l[i] := by
  induction l generalizing i with
  | nil => exact absurd h (by simp)
  | cons r rs ih =>
    have e : s.rowsAt (r :: rs) = s.row r ++ s.rowsAt rs := by simp only [State.rowsAt, List.flatMap_cons]
    cases i with
    | zero =>
      have : (s.row r ++ s.rowsAt rs).take 512 = s.row r := by rw [← row_length s r]; simp
      simp [slice, e, this, row_length]
    | succ i =>
      have h' : i < rs.length := by simpa using h
      have : (s.row r ++ s.rowsAt rs).drop (512 * (i + 1)) = (s.rowsAt rs).drop (512 * i) := by
        rw [List.drop_append, row_length, List.drop_eq_nil_of_le (by rw [row_length]; omega), List.nil_append]
        rw [show 512 * (i + 1) - 512 = 512 * i by omega]
      simp only [slice, e, this, List.getElem_cons_succ]
      exact ih h'

/-! ### Reports and faults of a core -/

/-- A message put on a channel touches its tile and the net only. -/
theorem launch_frame (s : State) (t rr : Nat) (x : Snd) : { s.launch t rr x with tiles := s.tiles, net := s.net } = s := by
  unfold State.launch; split <;> rfl

theorem sendOn_frame (s : State) (t rr : Nat) (kind : SndKind) (ws : List W64) (b : Nat) :
    { s.sendOn t rr kind ws b with tiles := s.tiles, net := s.net } = s := by
  unfold State.sendOn; split
  · rfl
  · exact launch_frame ..

theorem sendLater_frame (s : State) (t rr : Nat) (kind : SndKind) (ws : List W64) :
    { s.sendLater t rr kind ws with tiles := s.tiles, net := s.net } = s := by
  unfold State.sendLater; split
  · rfl
  · exact sendOn_frame ..

/-- A report touches tiles and the net only. -/
theorem report_frame (s : State) (t w0 w1 w2 w3 : Nat) : { s.report t w0 w1 w2 w3 with tiles := s.tiles, net := s.net } = s := by
  unfold State.report; split
  · rfl
  · exact sendLater_frame ..

theorem report_otherTiles (s : State) (t w0 w1 w2 w3 : Nat) : OtherTiles s (s.report t w0 w1 w2 w3) t := by
  intro i hi
  simp only [State.report, State.sendLater, State.sendOn, State.launch]
  repeat' split
  all_goals simp [updTile_tile_ne, hi]

/-- R140, R183: the report of a tile that is not fenced goes out, or waits behind an earlier one; its sends apart the tile is as it was. -/
theorem report_spec {s : State} {t : Nat} (h : (s.tile t).selfFenced = false) (w0 w1 w2 w3 : Nat) :
    Reported s (s.report t w0 w1 w2 w3) t w0 w1 w2 w3 ∧
    { (s.report t w0 w1 w2 w3).tile t with sends := (s.tile t).sends, sendQ := (s.tile t).sendQ } = s.tile t := by
  have hs : s.report t w0 w1 w2 w3 = s.sendLater t reportChannel .report (reportWords w0 w1 w2 w3) := by simp [State.report, h, reportWords]
  rw [hs]
  unfold Reported State.sendLater State.sendOn
  cases e : Tab.get none (s.tile t).sends reportChannel with
  | some x => exact ⟨⟨by simp, rfl⟩, by simp⟩
  | none =>
    cases d : tileOfCode (s.region (tileRegion t)).sup with
    | some y =>
      have hd : s.destOf t reportChannel = some (.sup (tileRegion t)) := by simp [State.destOf, reportChannel, statusChannel, d]
      simp [State.launch, hd]
    | none =>
      have hd : s.destOf t reportChannel = none := by simp [State.destOf, reportChannel, statusChannel, d]
      simp [State.launch, hd]

@[simp] theorem dropLeave_tile (s : State) (t i : Nat) : (s.dropLeave t).tile i = s.tile i := by unfold State.dropLeave; split <;> rfl
@[simp] theorem dropLeave_region (s : State) (t g : Nat) : (s.dropLeave t).region g = s.region g := by unfold State.dropLeave; split <;> rfl
@[simp] theorem dropLeave_net (s : State) (t : Nat) : (s.dropLeave t).net = s.net := by unfold State.dropLeave; split <;> rfl
theorem dropLeave_frame (s : State) (t : Nat) : { s.dropLeave t with fields := s.fields } = s := by unfold State.dropLeave; split <;> rfl

/-- A fault touches tiles, the net and the queue of leave only. -/
theorem coreFault_frame (s : State) (t code tag ix w1 w2 : Nat) (mma : Bool) (side : Nat) :
    { s.coreFault t code tag ix w1 w2 mma side with tiles := s.tiles, net := s.net, fields := s.fields } = s := by
  have a := congrArg (fun v : State => { v with tiles := s.tiles, net := s.net, fields := s.fields })
    (report_frame ((s.dropLeave t).updTile t fun x => x.faulted mma side) t (code % 256 + tag % 256 * 2 ^ 8 + ix % 1024 * 2 ^ 16) w1 w2 0)
  have b := congrArg (fun v : State => { v with tiles := s.tiles, net := s.net, fields := s.fields }) (dropLeave_frame s t)
  exact a.trans b

@[simp] theorem faulted_selfFenced (x : Tile) (mma : Bool) (side : Nat) : (x.faulted mma side).selfFenced = x.selfFenced := rfl
@[simp] theorem faulted_sendQ (x : Tile) (mma : Bool) (side : Nat) : (x.faulted mma side).sendQ = x.sendQ := rfl

/-- R92, R130: a fault stops its core, abandons what comes after the command, and is reported. -/
theorem coreFault_spec {s : State} {t : Nat} (h : (s.tile t).selfFenced = false) (code tag ix w1 w2 : Nat) (mma : Bool) (side : Nat) :
    CoreFaulted s (s.coreFault t code tag ix w1 w2 mma side) t mma side (code % 256 + tag % 256 * 2 ^ 8 + ix % 1024 * 2 ^ 16) w1 w2 := by
  have hf := coreFault_frame s t code tag ix w1 w2 mma side
  unfold State.coreFault at hf ⊢
  generalize code % 256 + tag % 256 * 2 ^ 8 + ix % 1024 * 2 ^ 16 = w0 at hf ⊢
  obtain ⟨a, b⟩ := report_spec (s := (s.dropLeave t).updTile t fun x => x.faulted mma side) (t := t) (by simp [h]) w0 w1 w2 0
  rw [updTile_tile_self, dropLeave_tile] at b
  refine ⟨⟨?_, b, ?_⟩, hf⟩
  · simpa [Reported] using a
  · intro i hi
    exact (report_otherTiles _ _ _ _ _ _ i hi).trans ((updTile_tile_ne _ _ _ hi).trans (dropLeave_tile ..))

theorem coreFault_mem (s : State) (t code tag ix w1 w2 : Nat) (mma : Bool) (side : Nat) :
    (s.coreFault t code tag ix w1 w2 mma side).mem = s.mem := by
  have h := congrArg State.mem (coreFault_frame s t code tag ix w1 w2 mma side)
  exact h

end Sys2Proof.Machine
end

