-- ==== Sys2Proof/Laws/MatrixCore.lean ====
section
/-!
SUPPORT. What the issue of a matrix core's word does (R84, R92).
-/

namespace Sys2Proof.Machine

/-- Where no cause is found, none of those listed holds. -/
theorem firstCause_none {l : List (Bool × Nat)} (h : firstCause l = none) : ∀ c ∈ l, c.1 = false := by
  intro c hc
  unfold firstCause at h
  split at h
  · cases h
  · rename_i e
    simpa using (List.find?_eq_none.mp e) c hc

theorem firstCause_zero (c : Nat) : ∀ X, X = 0 → firstCause [(decide (X ≠ 0), c)] = none := by
  intro X h; subst h; rfl

theorem firstCause_zero_pos (c d : Nat) : ∀ X Y, X = 0 → Y ≠ 0 → firstCause [(decide (X ≠ 0), c), (decide (Y = 0), d)] = none := by
  intro X Y h g; subst h; simp [firstCause, g]

theorem tagOnlyBad_none {w : Nat} (h : without w 127 124 - bits w 47 40 * 2 ^ 40 = 0) : tagOnlyBad w = none := firstCause_zero 2 _ h
theorem modeBad_none {w : Nat} (h : without w 127 123 - bits w 47 40 * 2 ^ 40 = 0) : modeBad w = none := firstCause_zero 2 _ h
theorem jumpBad_none {w : Nat} (h : without w 127 124 - bits w 25 16 * 2 ^ 16 - bits w 9 0 = 0) (g : bits w 25 16 ≠ 0) :
    jumpBad w = none := firstCause_zero_pos 2 3 _ _ h g

/-- A word of its class that no check refuses is carried out. -/
theorem issueM_ok {s : State} {t cls w : Nat} {bad : Nat → Option Nat} (f : Nat → State → State) (hr : s.runs t = true)
    (hp : (s.tile t).posted = false) (hq : (s.tile t).modeReq = none) (hw : (s.tile t).word = w) (hc : fOpc w = cls) (h8 : cls < 8)
    (hb : bad w = none) : s.issueM t cls bad f = f w s := by
  subst hc
  have : ¬ fOpc w ≥ 8 := by omega
  simp [State.issueM, hr, hp, hq, hw, hb, this]

/-- A word of its class that a check refuses faults. -/
theorem issueM_bad {s : State} {t cls w c : Nat} {bad : Nat → Option Nat} (f : Nat → State → State) (hr : s.runs t = true)
    (hp : (s.tile t).posted = false) (hq : (s.tile t).modeReq = none) (hw : (s.tile t).word = w) (hc : fOpc w = cls) (h8 : cls < 8)
    (hb : bad w = some c) : s.issueM t cls bad f = s.issueFault t c (fTag w) := by
  subst hc
  have : ¬ fOpc w ≥ 8 := by omega
  simp [State.issueM, hr, hp, hq, hw, hb, this]

/-! ### Rows that leave a command -/

theorem rowsOf_len (b : Bytes) : ∀ r ∈ rowsOf b, r.length = 512 := by
  intro r hr
  simp only [rowsOf, List.mem_map] at hr
  obtain ⟨i, _, rfl⟩ := hr
  exact slice_length _ _ _

/-- Rows written from a place on stand there, and every byte outside them is as before. -/
theorem setRows_zip {s : State} (h : Memory.wf s.mem = true) (rows : List Bytes) (hl : ∀ r ∈ rows, r.length = 512) (base : Nat → Nat) (hb : ∀ i j, base i = base j → i = j) :
   let u := s.setRows (rows.zipIdx.map fun c => (base c.2, c.1));
   (∀ i (h : i < rows.length), u.row (base i) = rows[i]) ∧ OtherRows s u ((upTo rows.length).map base) := by
  intro u
  have hp : (rows.zipIdx.map fun c => (base c.2, c.1)).Pairwise fun a b => a.1 ≠ b.1 := by
    rw [List.pairwise_iff_getElem]
    intro i j hi hj hij
    simp only [List.getElem_map, List.getElem_zipIdx]
    intro e
    have := hb _ _ e
    omega
  refine ⟨fun i hi => ?_, fun a ha => ?_⟩
  · have hm : (base i, rows[i]) ∈ (rows.zipIdx.map fun c => (base c.2, c.1)) := by
      simp only [List.mem_map, Prod.exists, Prod.mk.injEq]
      refine ⟨rows[i], i, ?_, rfl, rfl⟩
      rw [List.mem_zipIdx_iff_getElem?]; simp [hi]
    have hlen : (base i, rows[i]).2.length = 512 := hl _ (List.getElem_mem hi)
    have e := row_setRows_mem h hp hm hlen
    exact e
  · apply byteAt_setRows h
    intro c hc
    simp only [List.mem_map, Prod.exists] at hc
    obtain ⟨b, i, hm, rfl⟩ := hc
    intro e
    apply ha
    simp only [List.mem_map, List.mem_range]
    have := (List.mem_zipIdx_iff_getElem?.mp hm)
    exact ⟨i, by simpa using (List.getElem?_eq_some_iff.mp this).1, e⟩

/-- What the tile sends keeps its order as it moves up into port 4; what is left behind has found the buffer full. -/
theorem pumpOut_spec (x : Tile) :
    Tab.get [] x.pumpOut.inBuf 4 ++ x.pumpOut.outQ = Tab.get [] x.inBuf 4 ++ x.outQ ∧
    (x.pumpOut.outQ = [] ∨ inPackets ≤ (Tab.get [] x.pumpOut.inBuf 4).length) ∧
    { x.pumpOut with inBuf := x.inBuf, outQ := x.outQ } = x := by
  refine ⟨by simp [Tile.pumpOut], ?_, rfl⟩
  simp only [Tile.pumpOut, Tab.get_upd_self, List.length_append, List.length_take, List.drop_eq_nil_iff]
  omega

/-- The packet of a row under data route register `rr`. -/
def Tile.packet (x : Tile) (rr : Nat) (row : Bytes) : Packet := { label := Tab.get 0 x.droutes rr % 256, xp := 0, dig := crc64 row, row := row }

/-- Rows sent under a valid data route register go toward port 4 in order, behind what waits (R165, R169). -/
theorem injectAll_spec (s : State) (t rr : Nat) (rows : List Bytes) (hl : ∀ r ∈ rows, r.length = 512) (hv : 256 ≤ Tab.get 0 (s.tile t).droutes rr) :
   let u := s.injectAll t rr rows
   { u with tiles := s.tiles } = s ∧ OtherTiles s u t ∧ { u.tile t with inBuf := (s.tile t).inBuf, outQ := (s.tile t).outQ } = s.tile t ∧
   Tab.get [] (u.tile t).inBuf 4 ++ (u.tile t).outQ = Tab.get [] (s.tile t).inBuf 4 ++ (s.tile t).outQ ++ rows.map ((s.tile t).packet rr) := by
  induction rows generalizing s with
  | nil => exact ⟨rfl, fun _ _ => rfl, rfl, by simp [State.injectAll]⟩
  | cons r rs ih =>
    have hn : ¬ Tab.get 0 (s.tile t).droutes rr < 256 := by omega
    have e : s.inject t rr 0 r = s.updTile t fun x => ({ x with outQ := x.outQ ++ [(s.tile t).packet rr r] } : Tile).pumpOut := by
      simp only [State.inject, hn, if_false, slice_self r (hl r (by simp)), Tile.packet]
    intro u
    have hu : u = (s.inject t rr 0 r).injectAll t rr rs := rfl
    rw [e] at hu
    obtain ⟨p1, -, p3⟩ := pumpOut_spec { s.tile t with outQ := (s.tile t).outQ ++ [(s.tile t).packet rr r] }
    generalize hy : ({ s.tile t with outQ := (s.tile t).outQ ++ [(s.tile t).packet rr r] } : Tile).pumpOut = y at p1 p3
    have hd : y.droutes = (s.tile t).droutes := by have := congrArg Tile.droutes p3; exact this
    have h := ih (s := s.updTile t fun x => ({ x with outQ := x.outQ ++ [(s.tile t).packet rr r] } : Tile).pumpOut)
      (fun r' hr => hl r' (by simp [hr])) (by rw [updTile_tile_self, hy, hd]; exact hv)
    simp only [← hu] at h
    obtain ⟨h1, h2, h3, h4⟩ := h
    rw [updTile_tile_self, hy] at h3 h4
    refine ⟨?_, ?_, ?_, ?_⟩
    · have := congrArg (fun v : State => { v with tiles := s.tiles }) h1
      exact this
    · intro i hi; rw [h2 i hi, updTile_tile_ne _ _ _ hi]
    · have := congrArg (fun v : Tile => { v with inBuf := (s.tile t).inBuf, outQ := (s.tile t).outQ }) h3
      have q := congrArg (fun v : Tile => { v with inBuf := (s.tile t).inBuf, outQ := (s.tile t).outQ }) p3
      exact this.trans q
    · rw [h4, p1]; simp [Tile.packet, hd]

end Sys2Proof.Machine
end

