-- ==== Sys2Proof/Laws/PerInstr.lean ====
section
/-!
SUPPORT. Per command: the tile that a well-formed command names is one of the device's 2,688.
-/

namespace Sys2Proof.Laws

open Sys2Proof Sys2Proof.Machine

/-- The tile that a command names as its first operand, where it names one. -/
def F.tileOf : Instr → Option Nat
  | .nop t => some t
  | .mma t _ => some t
  | .drain t _ => some t
  | .accld t _ => some t
  | .mode t => some t
  | .modeTakesEffect t => some t
  | .wait t => some t
  | .post t => some t
  | .jump t => some t
  | .arrayStall t => some t
  | .tileSetEnter t _ => some t
  | .streamRingFill t _ _ => some t
  | .vecElementwise t _ _ _ _ _ _ _ _ => some t
  | .transcendental t _ _ _ _ _ _ => some t
  | .laneReduction t _ _ _ _ _ => some t
  | .conversionAndStore t _ _ _ _ _ _ _ _ => some t
  | .softmax t _ _ _ _ _ _ _ _ => some t
  | .normalisation t _ _ _ _ _ _ _ _ _ _ => some t
  | .rotary t _ _ _ _ _ _ _ _ => some t
  | .routing t _ _ _ _ => some t
  | .sampling t _ _ _ _ _ _ => some t
  | .optimiser t _ _ _ _ => some t
  | .vcoreStatusReport t _ => some t
  | .bwait t _ => some t
  | .leave t _ => some t
  | .leaveEnd t _ => some t
  | .send t _ _ _ => some t
  | .recv t _ _ => some t
  | .recvBoundExpiry t => some t
  | .fence t _ => some t
  | .rbOpen t _ _ _ => some t
  | .rbLoad t _ _ _ => some t
  | .rbStore t _ _ _ _ => some t
  | .rbFlush t _ => some t
  | .rbClose t _ => some t
  | .rbDrop t _ => some t
  | .faultReport _ _ => none
  | .beatReport _ => none
  | .supervisorSilence _ => none
  | .coreRestart t _ => some t
  | .verticalPortGrant t _ _ => some t
  | .transposedWrite t => some t
  | .scrubRead t _ => some t
  | .packetForward t _ => some t
  | .forkBranchSend t _ _ => some t
  | .reductionAdd t _ => some t
  | .tilePortDeliver t => some t
  | .messageDeliver _ => none
  | .sendReplyTimeout t _ => some t
  | .retryWaitExpiry t _ => some t
  | .fabricStall t _ _ _ _ _ => some t
  | .relayCommand t => some t
  | .planQueueStart _ => none
  | .descriptorStart _ => none
  | .copyRead _ _ => none
  | .copyWrite _ => none
  | .copyMove _ _ => none
  | .copyPread _ _ => none
  | .copyPappend _ _ => none
  | .copyRelay _ => none
  | .wenwynDescriptor _ _ _ => none
  | .hbmPatrol _ _ => none
  | .channelRetrain _ _ _ => none
  | .channelRetrainDone _ _ => none
  | .ptpMessage _ => none
  | .timePpsEdge _ => none
  | .ppsTimeout => none
  | .announceTimeout => none
  | .ref25Qualify _ => none
  | .holdoverLimit => none
  | .timeStepTo _ _ _ => none
  | .freerunSet _ _ _ => none
  | .ppsNextSecond _ _ _ => none
  | .nominalMark => none
  | .regionMark _ _ _ => none
  | .timeWordLoss _ _ => none
  | .clockInputLost t _ => some t
  | .frequencyChangeRequest _ _ _ _ => none
  | .frequencyChange _ _ => none
  | .droopStretch _ _ => none
  | .imageLoad _ _ => none
  | .loadSectionsHeld => none
  | .loadComplete => none
  | .unload _ _ => none
  | .unitFenceRepair t => some t
  | .detourInstall => none
  | .cleanRestart => none
  | .submit _ => none
  | .prompt _ => none
  | .cancel _ => none
  | .query _ => none
  | .receiveRingTake => none
  | .promptIncomplete _ => none
  | .tokenSend _ _ _ => none
  | .completeSend _ => none
  | .heldMessageSend _ => none
  | .sequenceRebuild _ => none
  | .rateBucketRefill _ => none
  | .retentionExpiry _ => none
  | .partitionStateWrite _ _ _ _ => none
  | .bindingWrite _ _ _ _ _ => none
  | .keySlotWrite _ _ _ _ _ => none
  | .quotaWrite _ _ _ _ _ => none
  | .monitorSample _ => none
  | .signingRoundClose => none
  | .epochRecord => none
  | .meterExport _ _ => none
  | .ackSeq _ _ _ => none
  | .gapRecord => none
  | .leaveGrantEnd _ _ => none
  | .leaveQueueServe _ => none
  | .leaveTimeout _ _ => none
  | .sixteenthBoundary => none
  | .pcapAssert => none
  | .pcapRelease => none
  | .moduleInMaxWrite _ _ _ => none
  | .pcapLimitWrite _ _ _ => none
  | .marginModeWrite _ _ _ => none
  | .wakeStage _ => none
  | .regionWake _ => none
  | .phaseFailure _ _ _ _ => none
  | .logicShortCircuit _ _ => none
  | .storeShortCircuit _ => none
  | .packageBusFault => none
  | .sensorRead _ => none
  | .heatSwitchOff _ => none
  | .heatRewake _ => none
  | .coolantLoss => none
  | .haltEnd => none
  | .faultStop => none
  | .checkerRecompute _ _ => none
  | .recomputeDrop _ => none
  | .disputeVerdict _ => none
  | .disputeTimeout => none
  | .instarCommit => none
  | .moult _ _ _ => none
  | .moultPhaseDone _ _ => none
  | .moultComplete _ => none
  | .wholeDeviceFault _ => none
  | .mirrorCopy _ => none
  | .mirrorLate _ => none
  | .checkpoint _ _ => none
  | .chrysalisCommit _ => none
  | .restore _ _ => none
  | .verificationReplay _ => none
  | .chrysalisExport _ _ => none
  | .batch _ _ _ _ _ => none
  | .pwrEnHigh => none
  | .powerGood => none
  | .pwrEnLow => none
  | .inputStop _ => none
  | .powerDownEnd => none
  | .mrstN _ => none
  | .releaseEdge => none
  | .bringupStepEnd _ => none
  | .bringupStepTimeout _ => none
  | .watchdogExpiry => none
  | .mgmtLaneLoss => none
  | .frontPortRetrain _ _ _ => none
  | .hbmRetrain _ _ => none
  | .fwUpdate _ _ => none
  | .fwMinSvnWrite _ _ _ => none
  | .licInstall _ _ => none
  | .licRemove _ _ _ => none
  | .attReport _ _ => none
  | .resetReq _ _ _ => none
  | .fordanHandshake _ => none
  | .sessionIdleTimeout _ => none
  | .mgmtAddressChange => none
  | .fordanRead _ _ _ _ => none
  | .fordanWrite _ _ _ _ _ => none
  | .segStart _ _ _ => none
  | .segData _ _ _ _ => none
  | .segAck _ _ _ => none
  | .segmentResendTimeout _ _ => none
  | .transferAbandon _ _ => none
  | .action _ _ _ _ _ => none
  | .subscribe _ _ _ _ _ => none
  | .unsubscribe _ _ _ _ => none
  | .notify _ _ _ => none
  | .csrWrite _ _ _ => none
  | .aliasSet _ _ _ => none
  | .aliasClear _ _ _ => none
  | .aliasFlip _ _ _ => none
  | .aliasView _ _ => none
  | .pwrAlertSrcClear _ _ => none
  | .wrmSel _ _ => none
  | .wrmCopyDone _ => none
  | .mbxCtlPost _ _ _ _ => none
  | .mbxTake _ _ => none
  | .mbxTimeout _ => none
  | .sign _ => none
  | .heartbeat _ => none
  | .seal _ => none
  | .unseal _ => none
  | .cocoonReset _ => none
  | .i2cPointerWrite _ => none
  | .i2cRead _ => none
  | .bypass _ => none
  | .samplePreload _ => none
  | .extest => none
  | .idcode => none
  | .frontPortDown _ => none
  | .portRetrainComplete _ _ _ => none
  | .wakeComplete _ => none
  | .startThresholdMet => none
  | .vsb3v3Loss => none
  | .vsb3v3Return => none
  | .jtagReset => none
  | .fwUpdateComplete _ => none

/-- A well-formed command names a tile of the device (R10). -/
def F.Statement (i : Instr) : Prop := i.wf = true → ∀ t, F.tileOf i = some t → t < 2688

theorem F.isTile_lt {k : Kind} {t : Nat} (h : isTile k t = true) : t < 2688 := by
  simp only [isTile, Bool.and_eq_true, decide_eq_true_eq] at h
  exact h.1

theorem F.core_lt {a b : Kind} {t : Nat} (h : (isTile a t || isTile b t) = true) : t < 2688 := by
  rcases Bool.or_eq_true_iff.mp h with h | h <;> exact F.isTile_lt h

theorem F.row_lt {t n : Nat} (h : ((isTile .v t || isTile .s t) && decide (n < 4)) = true) : t < 2688 := F.core_lt (Bool.and_eq_true_iff.mp h).1

theorem F.nop (t : Nat) : F.Statement (.nop t) := fun h _ e => Option.some.inj e ▸ F.isTile_lt h
theorem F.mma (t : Nat) (es : List Ecc) : F.Statement (.mma t es) := fun h _ e => Option.some.inj e ▸ F.isTile_lt h
theorem F.drain (t : Nat) (es : List Ecc) : F.Statement (.drain t es) := fun h _ e => Option.some.inj e ▸ F.isTile_lt h
theorem F.accld (t : Nat) (es : List Ecc) : F.Statement (.accld t es) := fun h _ e => Option.some.inj e ▸ F.isTile_lt h
theorem F.mode (t : Nat) : F.Statement (.mode t) := fun h _ e => Option.some.inj e ▸ F.isTile_lt h
theorem F.modeTakesEffect (t : Nat) : F.Statement (.modeTakesEffect t) := fun h _ e => Option.some.inj e ▸ F.isTile_lt h
theorem F.wait (t : Nat) : F.Statement (.wait t) := fun h _ e => Option.some.inj e ▸ F.core_lt h
theorem F.post (t : Nat) : F.Statement (.post t) := fun h _ e => Option.some.inj e ▸ F.isTile_lt h
theorem F.jump (t : Nat) : F.Statement (.jump t) := fun h _ e => Option.some.inj e ▸ F.isTile_lt h
theorem F.arrayStall (t : Nat) : F.Statement (.arrayStall t) := fun h _ e => Option.some.inj e ▸ F.isTile_lt h
theorem F.tileSetEnter (t : Nat) (es : List Ecc) : F.Statement (.tileSetEnter t es) := fun h _ e => Option.some.inj e ▸ F.isTile_lt h
theorem F.streamRingFill (t : Nat) (src : RingSrc) (es : List Ecc) : F.Statement (.streamRingFill t src es) := fun h _ e => Option.some.inj e ▸ F.isTile_lt h
theorem F.vecElementwise (t : Nat) (tag : Nat) (op : VOp) (bf : Bool) (a : VLoc) (b : VLoc) (c : VLoc) (d : VLoc) (es : List Ecc) : F.Statement (.vecElementwise t tag op bf a b c d es) := fun h _ e => Option.some.inj e ▸ F.isTile_lt h
theorem F.transcendental (t : Nat) (tag : Nat) (fn : TFn) (a : VLoc) (d : VLoc) (d2 : VLoc) (es : List Ecc) : F.Statement (.transcendental t tag fn a d d2 es) := fun h _ e => Option.some.inj e ▸ F.isTile_lt h
theorem F.laneReduction (t : Nat) (tag : Nat) (fn : RFn) (src : List VLoc) (d : VLane) (es : List Ecc) : F.Statement (.laneReduction t tag fn src d es) := fun h _ e => Option.some.inj e ▸ F.isTile_lt h
theorem F.conversionAndStore (t : Nat) (tag : Nat) (src : List VLoc) (fmt : VFmt) (rm : VRound) (nsat : Bool) (dst : VDst) (scales : Nat) (es : List Ecc) : F.Statement (.conversionAndStore t tag src fmt rm nsat dst scales es) := fun h _ e => Option.some.inj e ▸ F.isTile_lt h
theorem F.softmax (t : Nat) (tag : Nat) (form : Part) (src : List VLoc) (n : Nat) (ms : VLane) (ms2 : VLane) (dst : List VLoc) (es : List Ecc) : F.Statement (.softmax t tag form src n ms ms2 dst es) := fun h _ e => Option.some.inj e ▸ F.isTile_lt h
theorem F.normalisation (t : Nat) (tag : Nat) (layer : Bool) (form : NormPart) (src : List VLoc) (n : Nat) (par : NormPar) (sums : VLane) (sums2 : VLane) (dst : List VLoc) (es : List Ecc) : F.Statement (.normalisation t tag layer form src n par sums sums2 dst es) := fun h _ e => Option.some.inj e ▸ F.isTile_lt h
theorem F.rotary (t : Nat) (tag : Nat) (src : List VLoc) (heads : HeadShape) (pos : Nat) (thetas : List Nat) (halves : Bool) (dst : List VLoc) (es : List Ecc) : F.Statement (.rotary t tag src heads pos thetas halves dst es) := fun h _ e => Option.some.inj e ▸ F.isTile_lt h
theorem F.routing (t : Nat) (tag : Nat) (par : RoutePar) (seqs : List RouteSeq) (es : List Ecc) : F.Statement (.routing t tag par seqs es) := fun h _ e => Option.some.inj e ▸ F.isTile_lt h
theorem F.sampling (t : Nat) (tag : Nat) (slices : List LogitSlice) (stream : Nat) (par : SamplePar) (d : VLane) (es : List Ecc) : F.Statement (.sampling t tag slices stream par d es) := fun h _ e => Option.some.inj e ▸ F.isTile_lt h
theorem F.optimiser (t : Nat) (tag : Nat) (rule : OptRule) (par : OptPar) (es : List Ecc) : F.Statement (.optimiser t tag rule par es) := fun h _ e => Option.some.inj e ▸ F.isTile_lt h
theorem F.vcoreStatusReport (t : Nat) (tag : Nat) : F.Statement (.vcoreStatusReport t tag) := fun h _ e => Option.some.inj e ▸ F.isTile_lt h
theorem F.bwait (t : Nat) (n : Nat) : F.Statement (.bwait t n) := fun h _ e => Option.some.inj e ▸ F.isTile_lt h
theorem F.leave (t : Nat) (arg : LeaveArg) : F.Statement (.leave t arg) := fun h _ e => Option.some.inj e ▸ F.isTile_lt h
theorem F.leaveEnd (t : Nat) (arg : LeaveRef) : F.Statement (.leaveEnd t arg) := fun h _ e => Option.some.inj e ▸ F.isTile_lt h
theorem F.send (t : Nat) (rr : Nat) (words : List W64) (bound : Nat) : F.Statement (.send t rr words bound) := fun h _ e => Option.some.inj e ▸ F.isTile_lt h
theorem F.recv (t : Nat) (ep : Nat) (bound : Nat) : F.Statement (.recv t ep bound) := fun h _ e => Option.some.inj e ▸ F.isTile_lt h
theorem F.recvBoundExpiry (t : Nat) : F.Statement (.recvBoundExpiry t) := fun h _ e => Option.some.inj e ▸ F.isTile_lt h
theorem F.fence (t : Nat) (target : Nat) : F.Statement (.fence t target) := fun h _ e => Option.some.inj e ▸ F.isTile_lt h
theorem F.rbOpen (t : Nat) (slot : Nat) (row : Nat) (es : List Ecc) : F.Statement (.rbOpen t slot row es) := fun h _ e => Option.some.inj e ▸ F.row_lt h
theorem F.rbLoad (t : Nat) (size : Nat) (slot : Nat) (off : Nat) : F.Statement (.rbLoad t size slot off) := fun h _ e => Option.some.inj e ▸ F.row_lt h
theorem F.rbStore (t : Nat) (size : Nat) (slot : Nat) (off : Nat) (v : W64) : F.Statement (.rbStore t size slot off v) := fun h _ e => Option.some.inj e ▸ F.row_lt h
theorem F.rbFlush (t : Nat) (slot : Nat) : F.Statement (.rbFlush t slot) := fun h _ e => Option.some.inj e ▸ F.row_lt h
theorem F.rbClose (t : Nat) (slot : Nat) : F.Statement (.rbClose t slot) := fun h _ e => Option.some.inj e ▸ F.row_lt h
theorem F.rbDrop (t : Nat) (slot : Nat) : F.Statement (.rbDrop t slot) := fun h _ e => Option.some.inj e ▸ F.row_lt h
theorem F.faultReport (g : Nat) (prod : Producer) : F.Statement (.faultReport g prod) := fun _ _ e => nomatch e
theorem F.beatReport (g : Nat) : F.Statement (.beatReport g) := fun _ _ e => nomatch e
theorem F.supervisorSilence (g : Nat) : F.Statement (.supervisorSilence g) := fun _ _ e => nomatch e
theorem F.coreRestart (t : Nat) (ix : Nat) : F.Statement (.coreRestart t ix) := fun h _ e => Option.some.inj e ▸ F.core_lt h
theorem F.verticalPortGrant (t : Nat) (reqs : List VpReq) (es : List Ecc) : F.Statement (.verticalPortGrant t reqs es) := fun h _ e => Option.some.inj e ▸ of_decide_eq_true h
theorem F.transposedWrite (t : Nat) : F.Statement (.transposedWrite t) := fun h _ e => Option.some.inj e ▸ of_decide_eq_true h
theorem F.scrubRead (t : Nat) (es : List Ecc) : F.Statement (.scrubRead t es) := fun h _ e => Option.some.inj e ▸ of_decide_eq_true h
theorem F.packetForward (t : Nat) (port : Nat) : F.Statement (.packetForward t port) := fun h _ e => Option.some.inj e ▸ of_decide_eq_true h
theorem F.forkBranchSend (t : Nat) (k : Nat) (port : Nat) : F.Statement (.forkBranchSend t k port) := fun h _ e => Option.some.inj e ▸ of_decide_eq_true h
theorem F.reductionAdd (t : Nat) (u : Nat) : F.Statement (.reductionAdd t u) := fun h _ e => Option.some.inj e ▸ of_decide_eq_true h
theorem F.tilePortDeliver (t : Nat) : F.Statement (.tilePortDeliver t) := fun h _ e => Option.some.inj e ▸ of_decide_eq_true h
theorem F.messageDeliver (k : Nat) : F.Statement (.messageDeliver k) := fun _ _ e => nomatch e
theorem F.sendReplyTimeout (t : Nat) (rr : Nat) : F.Statement (.sendReplyTimeout t rr) := fun h _ e => Option.some.inj e ▸ of_decide_eq_true h
theorem F.retryWaitExpiry (t : Nat) (rr : Nat) : F.Statement (.retryWaitExpiry t rr) := fun h _ e => Option.some.inj e ▸ of_decide_eq_true h
theorem F.fabricStall (t : Nat) (port : Nat) (msgNet : Bool) (label : Nat) (unit : Nat) (cycles : Nat) : F.Statement (.fabricStall t port msgNet label unit cycles) := fun h _ e => Option.some.inj e ▸ of_decide_eq_true h
theorem F.relayCommand (t : Nat) : F.Statement (.relayCommand t) := fun h _ e => Option.some.inj e ▸ of_decide_eq_true h
theorem F.planQueueStart (e : Nat) : F.Statement (.planQueueStart e) := fun _ _ e => nomatch e
theorem F.descriptorStart (e : Nat) : F.Statement (.descriptorStart e) := fun _ _ e => nomatch e
theorem F.copyRead (e : Nat) (es : List Ecc) : F.Statement (.copyRead e es) := fun _ _ e => nomatch e
theorem F.copyWrite (e : Nat) : F.Statement (.copyWrite e) := fun _ _ e => nomatch e
theorem F.copyMove (e : Nat) (es : List Ecc) : F.Statement (.copyMove e es) := fun _ _ e => nomatch e
theorem F.copyPread (e : Nat) (es : List Ecc) : F.Statement (.copyPread e es) := fun _ _ e => nomatch e
theorem F.copyPappend (e : Nat) (es : List Ecc) : F.Statement (.copyPappend e es) := fun _ _ e => nomatch e
theorem F.copyRelay (e : Nat) : F.Statement (.copyRelay e) := fun _ _ e => nomatch e
theorem F.wenwynDescriptor (e : Nat) (d : Nat) (es : List Ecc) : F.Statement (.wenwynDescriptor e d es) := fun _ _ e => nomatch e
theorem F.hbmPatrol (s : Nat) (es : List Ecc) : F.Statement (.hbmPatrol s es) := fun _ _ e => nomatch e
theorem F.channelRetrain (s : Nat) (ch : Nat) (cause : RetrainCause) : F.Statement (.channelRetrain s ch cause) := fun _ _ e => nomatch e
theorem F.channelRetrainDone (s : Nat) (ok : Bool) : F.Statement (.channelRetrainDone s ok) := fun _ _ e => nomatch e
theorem F.ptpMessage (m : PtpMsg) : F.Statement (.ptpMessage m) := fun _ _ e => nomatch e
theorem F.timePpsEdge (m : PpsEdge) : F.Statement (.timePpsEdge m) := fun _ _ e => nomatch e
theorem F.ppsTimeout : F.Statement .ppsTimeout := fun _ _ e => nomatch e
theorem F.announceTimeout : F.Statement .announceTimeout := fun _ _ e => nomatch e
theorem F.ref25Qualify (q : Bool) : F.Statement (.ref25Qualify q) := fun _ _ e => nomatch e
theorem F.holdoverLimit : F.Statement .holdoverLimit := fun _ _ e => nomatch e
theorem F.timeStepTo (k : Nat) (x : Nat) (v : Nat) : F.Statement (.timeStepTo k x v) := fun _ _ e => nomatch e
theorem F.freerunSet (k : Nat) (x : Nat) (v : Nat) : F.Statement (.freerunSet k x v) := fun _ _ e => nomatch e
theorem F.ppsNextSecond (k : Nat) (x : Nat) (v : Nat) : F.Statement (.ppsNextSecond k x v) := fun _ _ e => nomatch e
theorem F.nominalMark : F.Statement .nominalMark := fun _ _ e => nomatch e
theorem F.regionMark (g : Nat) (lateCycles : Nat) (lateNs : Nat) : F.Statement (.regionMark g lateCycles lateNs) := fun _ _ e => nomatch e
theorem F.timeWordLoss (f : Nat) (noClk : Bool) : F.Statement (.timeWordLoss f noClk) := fun _ _ e => nomatch e
theorem F.clockInputLost (t : Nat) (live : List Nat) : F.Statement (.clockInputLost t live) := fun h _ e => Option.some.inj e ▸ of_decide_eq_true h
theorem F.frequencyChangeRequest (gs : List Nat) (pt : Nat) (n : Nat) (late : Bool) : F.Statement (.frequencyChangeRequest gs pt n late) := fun _ _ e => nomatch e
theorem F.frequencyChange (g : Nat) (ns : Nat) : F.Statement (.frequencyChange g ns) := fun _ _ e => nomatch e
theorem F.droopStretch (g : Nat) (k : Nat) : F.Statement (.droopStretch g k) := fun _ _ e => nomatch e
theorem F.imageLoad (k : Nat) (x : Nat) : F.Statement (.imageLoad k x) := fun _ _ e => nomatch e
theorem F.loadSectionsHeld : F.Statement .loadSectionsHeld := fun _ _ e => nomatch e
theorem F.loadComplete : F.Statement .loadComplete := fun _ _ e => nomatch e
theorem F.unload (k : Nat) (x : Nat) : F.Statement (.unload k x) := fun _ _ e => nomatch e
theorem F.unitFenceRepair (t : Nat) : F.Statement (.unitFenceRepair t) := fun h _ e => Option.some.inj e ▸ of_decide_eq_true h
theorem F.detourInstall : F.Statement .detourInstall := fun _ _ e => nomatch e
theorem F.cleanRestart : F.Statement .cleanRestart := fun _ _ e => nomatch e
theorem F.submit (d : Datagram) : F.Statement (.submit d) := fun _ _ e => nomatch e
theorem F.prompt (d : Datagram) : F.Statement (.prompt d) := fun _ _ e => nomatch e
theorem F.cancel (d : Datagram) : F.Statement (.cancel d) := fun _ _ e => nomatch e
theorem F.query (d : Datagram) : F.Statement (.query d) := fun _ _ e => nomatch e
theorem F.receiveRingTake : F.Statement .receiveRingTake := fun _ _ e => nomatch e
theorem F.promptIncomplete (r : Nat) : F.Statement (.promptIncomplete r) := fun _ _ e => nomatch e
theorem F.tokenSend (r : Nat) (tok : Nat) (lp : Nat) : F.Statement (.tokenSend r tok lp) := fun _ _ e => nomatch e
theorem F.completeSend (r : Nat) : F.Statement (.completeSend r) := fun _ _ e => nomatch e
theorem F.heldMessageSend (r : Nat) : F.Statement (.heldMessageSend r) := fun _ _ e => nomatch e
theorem F.sequenceRebuild (r : Nat) : F.Statement (.sequenceRebuild r) := fun _ _ e => nomatch e
theorem F.rateBucketRefill (p : Nat) : F.Statement (.rateBucketRefill p) := fun _ _ e => nomatch e
theorem F.retentionExpiry (r : Nat) : F.Statement (.retentionExpiry r) := fun _ _ e => nomatch e
theorem F.partitionStateWrite (k : Nat) (x : Nat) (p : Nat) (v : Nat) : F.Statement (.partitionStateWrite k x p v) := fun _ _ e => nomatch e
theorem F.bindingWrite (k : Nat) (x : Nat) (p : Nat) (sub : Nat) (v : Nat) : F.Statement (.bindingWrite k x p sub v) := fun _ _ e => nomatch e
theorem F.keySlotWrite (k : Nat) (x : Nat) (p : Nat) (slot : Nat) (key : Bytes) : F.Statement (.keySlotWrite k x p slot key) := fun _ _ e => nomatch e
theorem F.quotaWrite (k : Nat) (x : Nat) (p : Nat) (sub : Nat) (v : Nat) : F.Statement (.quotaWrite k x p sub v) := fun _ _ e => nomatch e
theorem F.monitorSample (m : Sample) : F.Statement (.monitorSample m) := fun _ _ e => nomatch e
theorem F.signingRoundClose : F.Statement .signingRoundClose := fun _ _ e => nomatch e
theorem F.epochRecord : F.Statement .epochRecord := fun _ _ e => nomatch e
theorem F.meterExport (k : Nat) (x : Nat) : F.Statement (.meterExport k x) := fun _ _ e => nomatch e
theorem F.ackSeq (k : Nat) (x : Nat) (v : Nat) : F.Statement (.ackSeq k x v) := fun _ _ e => nomatch e
theorem F.gapRecord : F.Statement .gapRecord := fun _ _ e => nomatch e
theorem F.leaveGrantEnd (g : Nat) (n : Nat) : F.Statement (.leaveGrantEnd g n) := fun _ _ e => nomatch e
theorem F.leaveQueueServe (f : Nat) : F.Statement (.leaveQueueServe f) := fun _ _ e => nomatch e
theorem F.leaveTimeout (f : Nat) (n : Nat) : F.Statement (.leaveTimeout f n) := fun _ _ e => nomatch e
theorem F.sixteenthBoundary : F.Statement .sixteenthBoundary := fun _ _ e => nomatch e
theorem F.pcapAssert : F.Statement .pcapAssert := fun _ _ e => nomatch e
theorem F.pcapRelease : F.Statement .pcapRelease := fun _ _ e => nomatch e
theorem F.moduleInMaxWrite (k : Nat) (x : Nat) (v : Nat) : F.Statement (.moduleInMaxWrite k x v) := fun _ _ e => nomatch e
theorem F.pcapLimitWrite (k : Nat) (x : Nat) (v : Nat) : F.Statement (.pcapLimitWrite k x v) := fun _ _ e => nomatch e
theorem F.marginModeWrite (k : Nat) (x : Nat) (v : Nat) : F.Statement (.marginModeWrite k x v) := fun _ _ e => nomatch e
theorem F.wakeStage (g : Nat) : F.Statement (.wakeStage g) := fun _ _ e => nomatch e
theorem F.regionWake (g : Nat) : F.Statement (.regionWake g) := fun _ _ e => nomatch e
theorem F.phaseFailure (g : Nat) (i : Nat) (cause : Nat) (cur : Nat) : F.Statement (.phaseFailure g i cause cur) := fun _ _ e => nomatch e
theorem F.logicShortCircuit (g : Nat) (cur : Nat) : F.Statement (.logicShortCircuit g cur) := fun _ _ e => nomatch e
theorem F.storeShortCircuit (w : StoreShort) : F.Statement (.storeShortCircuit w) := fun _ _ e => nomatch e
theorem F.packageBusFault : F.Statement .packageBusFault := fun _ _ e => nomatch e
theorem F.sensorRead (m : Sensors) : F.Statement (.sensorRead m) := fun _ _ e => nomatch e
theorem F.heatSwitchOff (g : Nat) : F.Statement (.heatSwitchOff g) := fun _ _ e => nomatch e
theorem F.heatRewake (g : Nat) : F.Statement (.heatRewake g) := fun _ _ e => nomatch e
theorem F.coolantLoss : F.Statement .coolantLoss := fun _ _ e => nomatch e
theorem F.haltEnd : F.Statement .haltEnd := fun _ _ e => nomatch e
theorem F.faultStop : F.Statement .faultStop := fun _ _ e => nomatch e
theorem F.checkerRecompute (g : Nat) (dig : W64) : F.Statement (.checkerRecompute g dig) := fun _ _ e => nomatch e
theorem F.recomputeDrop (g : Nat) : F.Statement (.recomputeDrop g) := fun _ _ e => nomatch e
theorem F.disputeVerdict (d : Verdict) : F.Statement (.disputeVerdict d) := fun _ _ e => nomatch e
theorem F.disputeTimeout : F.Statement .disputeTimeout := fun _ _ e => nomatch e
theorem F.instarCommit : F.Statement .instarCommit := fun _ _ e => nomatch e
theorem F.moult (k : Nat) (x : Nat) (g : Nat) : F.Statement (.moult k x g) := fun _ _ e => nomatch e
theorem F.moultPhaseDone (g : Nat) (res : PhaseRes) : F.Statement (.moultPhaseDone g res) := fun _ _ e => nomatch e
theorem F.moultComplete (g : Nat) : F.Statement (.moultComplete g) := fun _ _ e => nomatch e
theorem F.wholeDeviceFault (c : Nat) : F.Statement (.wholeDeviceFault c) := fun _ _ e => nomatch e
theorem F.mirrorCopy (tid : Nat) : F.Statement (.mirrorCopy tid) := fun _ _ e => nomatch e
theorem F.mirrorLate (tid : Nat) : F.Statement (.mirrorLate tid) := fun _ _ e => nomatch e
theorem F.checkpoint (k : Nat) (x : Nat) : F.Statement (.checkpoint k x) := fun _ _ e => nomatch e
theorem F.chrysalisCommit (loss : Nat) : F.Statement (.chrysalisCommit loss) := fun _ _ e => nomatch e
theorem F.restore (k : Nat) (x : Nat) : F.Statement (.restore k x) := fun _ _ e => nomatch e
theorem F.verificationReplay (loss : Nat) : F.Statement (.verificationReplay loss) := fun _ _ e => nomatch e
theorem F.chrysalisExport (k : Nat) (x : Nat) : F.Statement (.chrysalisExport k x) := fun _ _ e => nomatch e
theorem F.batch (k : Nat) (x : Nat) (st : Nat) (ix : Nat) (data : Bytes) : F.Statement (.batch k x st ix data) := fun _ _ e => nomatch e
theorem F.pwrEnHigh : F.Statement .pwrEnHigh := fun _ _ e => nomatch e
theorem F.powerGood : F.Statement .powerGood := fun _ _ e => nomatch e
theorem F.pwrEnLow : F.Statement .pwrEnLow := fun _ _ e => nomatch e
theorem F.inputStop (above : Bool) : F.Statement (.inputStop above) := fun _ _ e => nomatch e
theorem F.powerDownEnd : F.Statement .powerDownEnd := fun _ _ e => nomatch e
theorem F.mrstN (low : Bool) : F.Statement (.mrstN low) := fun _ _ e => nomatch e
theorem F.releaseEdge : F.Statement .releaseEdge := fun _ _ e => nomatch e
theorem F.bringupStepEnd (res : StepRes) : F.Statement (.bringupStepEnd res) := fun _ _ e => nomatch e
theorem F.bringupStepTimeout (n : Nat) : F.Statement (.bringupStepTimeout n) := fun _ _ e => nomatch e
theorem F.watchdogExpiry : F.Statement .watchdogExpiry := fun _ _ e => nomatch e
theorem F.mgmtLaneLoss : F.Statement .mgmtLaneLoss := fun _ _ e => nomatch e
theorem F.frontPortRetrain (k : Nat) (x : Nat) (l : Nat) : F.Statement (.frontPortRetrain k x l) := fun _ _ e => nomatch e
theorem F.hbmRetrain (k : Nat) (x : Nat) : F.Statement (.hbmRetrain k x) := fun _ _ e => nomatch e
theorem F.fwUpdate (k : Nat) (x : Nat) : F.Statement (.fwUpdate k x) := fun _ _ e => nomatch e
theorem F.fwMinSvnWrite (k : Nat) (x : Nat) (v : Nat) : F.Statement (.fwMinSvnWrite k x v) := fun _ _ e => nomatch e
theorem F.licInstall (k : Nat) (x : Nat) : F.Statement (.licInstall k x) := fun _ _ e => nomatch e
theorem F.licRemove (k : Nat) (x : Nat) (v : Nat) : F.Statement (.licRemove k x v) := fun _ _ e => nomatch e
theorem F.attReport (k : Nat) (x : Nat) : F.Statement (.attReport k x) := fun _ _ e => nomatch e
theorem F.resetReq (k : Nat) (x : Nat) (v : Nat) : F.Statement (.resetReq k x v) := fun _ _ e => nomatch e
theorem F.fordanHandshake (h : Handshake) : F.Statement (.fordanHandshake h) := fun _ _ e => nomatch e
theorem F.sessionIdleTimeout (k : Nat) : F.Statement (.sessionIdleTimeout k) := fun _ _ e => nomatch e
theorem F.mgmtAddressChange : F.Statement .mgmtAddressChange := fun _ _ e => nomatch e
theorem F.fordanRead (k : Nat) (x : Nat) (ix : Nat) (sub : Nat) : F.Statement (.fordanRead k x ix sub) := fun _ _ e => nomatch e
theorem F.fordanWrite (k : Nat) (x : Nat) (ix : Nat) (sub : Nat) (v : Bytes) : F.Statement (.fordanWrite k x ix sub v) := fun _ _ e => nomatch e
theorem F.segStart (k : Nat) (x : Nat) (m : SegStart) : F.Statement (.segStart k x m) := fun _ _ e => nomatch e
theorem F.segData (k : Nat) (x : Nat) (off : Nat) (data : Bytes) : F.Statement (.segData k x off data) := fun _ _ e => nomatch e
theorem F.segAck (k : Nat) (x : Nat) (nxt : Nat) : F.Statement (.segAck k x nxt) := fun _ _ e => nomatch e
theorem F.segmentResendTimeout (k : Nat) (x : Nat) : F.Statement (.segmentResendTimeout k x) := fun _ _ e => nomatch e
theorem F.transferAbandon (k : Nat) (x : Nat) : F.Statement (.transferAbandon k x) := fun _ _ e => nomatch e
theorem F.action (k : Nat) (x : Nat) (ix : Nat) (sub : Nat) (v : Bytes) : F.Statement (.action k x ix sub v) := fun _ _ e => nomatch e
theorem F.subscribe (k : Nat) (x : Nat) (ix : Nat) (sub : Nat) (minMs : Nat) : F.Statement (.subscribe k x ix sub minMs) := fun _ _ e => nomatch e
theorem F.unsubscribe (k : Nat) (x : Nat) (ix : Nat) (sub : Nat) : F.Statement (.unsubscribe k x ix sub) := fun _ _ e => nomatch e
theorem F.notify (k : Nat) (ix : Nat) (sub : Nat) : F.Statement (.notify k ix sub) := fun _ _ e => nomatch e
theorem F.csrWrite (h : Hart) (addr : Nat) (v : W32) : F.Statement (.csrWrite h addr v) := fun _ _ e => nomatch e
theorem F.aliasSet (h : Hart) (addr : Nat) (v : W32) : F.Statement (.aliasSet h addr v) := fun _ _ e => nomatch e
theorem F.aliasClear (h : Hart) (addr : Nat) (v : W32) : F.Statement (.aliasClear h addr v) := fun _ _ e => nomatch e
theorem F.aliasFlip (h : Hart) (addr : Nat) (v : W32) : F.Statement (.aliasFlip h addr v) := fun _ _ e => nomatch e
theorem F.aliasView (h : Hart) (addr : Nat) : F.Statement (.aliasView h addr) := fun _ _ e => nomatch e
theorem F.pwrAlertSrcClear (who : AlertClear) (v : W32) : F.Statement (.pwrAlertSrcClear who v) := fun _ _ e => nomatch e
theorem F.wrmSel (h : Hart) (sel : W32) : F.Statement (.wrmSel h sel) := fun _ _ e => nomatch e
theorem F.wrmCopyDone (hart : Nat) : F.Statement (.wrmCopyDone hart) := fun _ _ e => nomatch e
theorem F.mbxCtlPost (who : Agent) (ch : Nat) (v : W32) (data : Bytes) : F.Statement (.mbxCtlPost who ch v data) := fun _ _ e => nomatch e
theorem F.mbxTake (who : Agent) (ch : Nat) : F.Statement (.mbxTake who ch) := fun _ _ e => nomatch e
theorem F.mbxTimeout (ch : Nat) : F.Statement (.mbxTimeout ch) := fun _ _ e => nomatch e
theorem F.sign (tag : Nat) : F.Statement (.sign tag) := fun _ _ e => nomatch e
theorem F.heartbeat (tag : Nat) : F.Statement (.heartbeat tag) := fun _ _ e => nomatch e
theorem F.seal (tag : Nat) : F.Statement (.seal tag) := fun _ _ e => nomatch e
theorem F.unseal (tag : Nat) : F.Statement (.unseal tag) := fun _ _ e => nomatch e
theorem F.cocoonReset (tag : Nat) : F.Statement (.cocoonReset tag) := fun _ _ e => nomatch e
theorem F.i2cPointerWrite (b : Byte) : F.Statement (.i2cPointerWrite b) := fun _ _ e => nomatch e
theorem F.i2cRead (n : Nat) : F.Statement (.i2cRead n) := fun _ _ e => nomatch e
theorem F.bypass (tdi : Bool) : F.Statement (.bypass tdi) := fun _ _ e => nomatch e
theorem F.samplePreload (cells : Nat) : F.Statement (.samplePreload cells) := fun _ _ e => nomatch e
theorem F.extest : F.Statement .extest := fun _ _ e => nomatch e
theorem F.idcode : F.Statement .idcode := fun _ _ e => nomatch e
theorem F.frontPortDown (l : Nat) : F.Statement (.frontPortDown l) := fun _ _ e => nomatch e
theorem F.portRetrainComplete (l : Nat) (lanes : Nat) (rate : Nat) : F.Statement (.portRetrainComplete l lanes rate) := fun _ _ e => nomatch e
theorem F.wakeComplete (g : Nat) : F.Statement (.wakeComplete g) := fun _ _ e => nomatch e
theorem F.startThresholdMet : F.Statement .startThresholdMet := fun _ _ e => nomatch e
theorem F.vsb3v3Loss : F.Statement .vsb3v3Loss := fun _ _ e => nomatch e
theorem F.vsb3v3Return : F.Statement .vsb3v3Return := fun _ _ e => nomatch e
theorem F.jtagReset : F.Statement .jtagReset := fun _ _ e => nomatch e
theorem F.fwUpdateComplete (ok : Bool) : F.Statement (.fwUpdateComplete ok) := fun _ _ e => nomatch e

end Sys2Proof.Laws
end

