-- ==== Sys2Proof/Laws/VectorCore.lean ====
section
/-!
SUPPORT. The vector core's operands, results and the form its commands share.
-/

namespace Sys2Proof.Machine

theorem rowsClean_append {s : State} {es : List Ecc} {a b : List Nat} {n : Nat} (h : rowsClean s es n (a ++ b) = true) :
    rowsClean s es n a = true ∧ rowsClean s es (n + a.length) b = true := by
  induction a generalizing n with
  | nil => exact ⟨rfl, h⟩
  | cons r rs ih =>
    simp only [List.cons_append, rowsClean, Bool.and_eq_true] at h ⊢
    have := ih h.2
    exact ⟨⟨h.1, this.1⟩, by simpa [Nat.add_comm, Nat.add_left_comm] using this.2⟩

theorem vreg_operand (s : State) (t v : Nat) : s.vreg t v = s.operand t (.reg v) := by
  simp [State.vreg, State.operand, State.rowsAt, vRows, List.flatMap_def, Function.comp_def]

/-- Operands that read clean are read as they stand. -/
theorem readLocs_clean {s : State} {t : Nat} {es : List Ecc} {locs : List VLoc} {n : Nat}
    (h : rowsClean s es n (vChecked t locs) = true) : s.readLocs t es n locs = (s, some (locs.map (s.operand t))) := by
  induction locs generalizing n with
  | nil => rfl
  | cons l r ih =>
    cases l with
    | reg v => simp only [State.readLocs, ih h, List.map_cons, vreg_operand]
    | rows a =>
      have h2 := rowsClean_append h
      have e : (upTo 4).map (fun i => spadRow t (a + i)) = ((upTo 4).map (a + ·)).map (rowId t false) := by simp [rowId]
      have h3 := h2.1
      rw [e] at h3
      simp only [State.readLocs, readRows_clean h3, ← e]
      have h4 := ih h2.2
      simp only [List.length_map, show (upTo 4).length = 4 from rfl] at h4
      simp only [h4, List.map_cons, State.operand, vRows]

/-- A V-core command that none of its checks refuses and whose operands read clean has its effect on them. -/
theorem vCmd_ok {s : State} {t tag : Nat} {bad : Option Nat} {locs : List VLoc} {es : List Ecc} (f : List Bytes → State → State)
    (hr : s.runs t = true) (hb : bad = none) (hc : rowsClean s es 0 (vChecked t locs) = true) :
    s.vCmd t tag bad locs es f = f (locs.map (s.operand t)) s := by
  simp [State.vCmd, hr, hb, readLocs_clean hc]

theorem rows4 (s : State) (b : Bytes) (hb : b.length = 2048) (base : Nat → Nat) (h : ∀ i < 4, s.row (base i) = slice b (512 * i) 512) :
    s.rowsAt ((upTo 4).map base) = b := by
  have e : s.rowsAt ((upTo 4).map base) = ((upTo 4).map fun i => slice b (512 * i) 512).flatten := by
    simp only [State.rowsAt, List.flatMap_def, List.map_map]
    congr 1
    apply List.map_congr_left
    intro i hi
    exact h i (by simpa using hi)
  rw [e]
  have q : ∀ i < 4, slice b (512 * i) 512 = (b.drop (512 * i)).take 512 := by
    intro i hi
    simp only [slice]
    rw [show 512 - ((b.drop (512 * i)).take 512).length = 0 by simp; omega]; simp
  simp only [show upTo 4 = [0, 1, 2, 3] from rfl, List.map_cons, List.map_nil, q 0 (by decide), q 1 (by decide), q 2 (by decide), q 3 (by decide),
    List.flatten_cons, List.flatten_nil, List.append_nil]
  have t3 : (b.drop (512 * 3)).take 512 = b.drop (512 * 3) := List.take_of_length_le (by simp; omega)
  rw [t3]
  have d : ∀ n, (b.drop n).take 512 ++ b.drop (n + 512) = b.drop n := by
    intro n
    have := List.take_append_drop 512 (b.drop n)
    rw [List.drop_drop] at this
    exact this
  rw [show 512 * 3 = 512 * 2 + 512 from rfl, d, show 512 * 2 = 512 * 1 + 512 from rfl, d, show 512 * 1 = 512 * 0 + 512 from rfl, d]
  simp

/-- What a row write does to the slots of a tile, when none of them is open on the row. -/
theorem mergeSlots_id {l : Tab (Option RowSlot)} {r : Nat} {b : Bytes} (h : ∀ c ∈ l, ∀ x, c.2 = some x → x.row ≠ r) :
    (l.map fun c => (c.1, c.2.map (mergeSlot r b))) = l := by
  induction l with
  | nil => rfl
  | cons c l ih =>
    rw [List.map_cons, ih fun d hd => h d (by simp [hd])]
    obtain ⟨k, v⟩ := c
    cases v with
    | none => rfl
    | some x =>
      have := h (k, some x) (by simp) x rfl
      simp [mergeSlot, this]

/-- What a wide write of a scratchpad row does. -/
theorem setSpad_spec {s : State} (h : Memory.wf s.mem = true) (t r : Nat) (b : Bytes) (hb : b.length = 512) :
    let u := s.setSpad t r b
    u.mem = (s.setRow (spadRow t r) b).mem ∧ Memory.wf u.mem = true ∧ OtherTiles s u t ∧
    { u with mem := s.mem, bad := s.bad, tiles := s.tiles } = s ∧ { u.tile t with slots := (s.tile t).slots } = s.tile t ∧
    (u.tile t).slots = (s.tile t).slots.map fun c => (c.1, c.2.map (mergeSlot r b)) := by
  refine ⟨rfl, wf_setRow h _ _, fun i hi => ?_, rfl, ?_, ?_⟩
  · simp [State.setSpad, updTile_tile_ne, hi]
  · simp [State.setSpad]
  · simp [State.setSpad, slice_self b hb]

/-- Only the given rows, and the open slots on them, have changed. -/
def RowsOnly (s u : State) (t : Nat) (rows : List Nat) : Prop :=
  OtherRows s u rows ∧ OtherTiles s u t ∧ { u with mem := s.mem, bad := s.bad, tiles := s.tiles } = s ∧
  { u.tile t with slots := (s.tile t).slots } = s.tile t ∧
  ((∀ c ∈ (s.tile t).slots, ∀ x, c.2 = some x → spadRow t x.row ∉ rows) → (u.tile t).slots = (s.tile t).slots) ∧
  Memory.wf u.mem = true

theorem RowsOnly.rfl {s : State} {t : Nat} (h : Memory.wf s.mem = true) : RowsOnly s s t [] :=
  ⟨fun _ _ => Eq.refl _, fun _ _ => Eq.refl _, Eq.refl _, Eq.refl _, fun _ => Eq.refl _, h⟩

theorem RowsOnly.trans {s u v : State} {t : Nat} {a b : List Nat} (h : RowsOnly s u t a) (g : RowsOnly u v t b) (hs : (u.tile t).slots = (s.tile t).slots) :
    RowsOnly s v t (a ++ b) := by
  obtain ⟨h1, h2, h3, h4, h5, h6⟩ := h
  obtain ⟨g1, g2, g3, g4, g5, g6⟩ := g
  refine ⟨fun x hx => ?_, fun i hi => (g2 i hi).trans (h2 i hi), ?_, ?_, fun k => ?_, g6⟩
  · simp only [List.mem_append, not_or] at hx
    exact (g1 x hx.2).trans (h1 x hx.1)
  · have := congrArg (fun w : State => { w with mem := s.mem, bad := s.bad, tiles := s.tiles }) g3
    exact Eq.trans this h3
  · have := congrArg (fun w : Tile => { w with slots := (s.tile t).slots }) g4
    exact Eq.trans this h4
  · rw [g5 ?_, h5 ?_]
    · intro c hc x hx m; exact k c hc x hx (List.mem_append_left _ m)
    · intro c hc x hx m; rw [hs] at hc; exact k c hc x hx (List.mem_append_right _ m)

theorem RowsOnly.mono {s u : State} {t : Nat} {a b : List Nat} (h : RowsOnly s u t a) (g : ∀ x ∈ a, x ∈ b) : RowsOnly s u t b :=
  ⟨fun x hx => h.1 x fun m => hx (g _ m), h.2.1, h.2.2.1, h.2.2.2.1, fun k => h.2.2.2.2.1 fun c hc x hx m => k c hc x hx (g _ m), h.2.2.2.2.2⟩

theorem setRows_only {s : State} (h : Memory.wf s.mem = true) (t : Nat) (l : List (Nat × Bytes)) : RowsOnly s (s.setRows l) t (l.map (·.1)) := by
  have hf := setRows_frame s l
  refine ⟨fun a ha => byteAt_setRows h fun c hc e => ha ?_, fun i _ => ?_, ?_, ?_, fun _ => ?_, wf_setRows h l⟩
  · exact List.mem_map.mpr ⟨c, hc, e⟩
  · have := congrArg (fun v : State => v.tile i) hf
    exact this
  · have := congrArg (fun v : State => { v with tiles := s.tiles }) hf
    exact this
  · have := congrArg (fun v : State => { v.tile t with slots := (s.tile t).slots }) hf
    exact this
  · have := congrArg (fun v : State => (v.tile t).slots) hf
    exact this

theorem byteAt_mem {u v : State} (h : u.mem = v.mem) (j : Nat) : u.byteAt j = v.byteAt j := by simp only [State.byteAt, h]
theorem row_mem {u v : State} (h : u.mem = v.mem) (j : Nat) : u.row j = v.row j := by simp only [State.row, h]

/-- Scratchpad rows written one after another. -/
theorem spads_only {s : State} (h : Memory.wf s.mem = true) (t : Nat) (r : Nat → Nat) (f : Nat → Bytes) (hf : ∀ i, (f i).length = 512) (l : List Nat) :
    RowsOnly s (s.each l fun s i => s.setSpad t (r i) (f i)) t (l.map fun i => spadRow t (r i)) ∧
    (s.each l fun s i => s.setSpad t (r i) (f i)).mem = (s.setRows (l.map fun i => (spadRow t (r i), f i))).mem := by
  induction l generalizing s with
  | nil => exact ⟨RowsOnly.rfl h, rfl⟩
  | cons i l ih =>
    obtain ⟨e1, e2, e3, e4, e5, e6⟩ := setSpad_spec h t (r i) (f i) (hf i)
    obtain ⟨⟨g1, g2, g3, g4, g5, g6⟩, gm⟩ := ih e2
    have hc : s.each (i :: l) (fun s i => s.setSpad t (r i) (f i)) = (s.setSpad t (r i) (f i)).each l fun s i => s.setSpad t (r i) (f i) := rfl
    rw [hc]
    refine ⟨⟨fun x hx => ?_, fun j hj => (g2 j hj).trans (e3 j hj), ?_, ?_, fun k => ?_, g6⟩, ?_⟩
    · simp only [List.map_cons, List.mem_cons, not_or] at hx
      rw [g1 x hx.2, byteAt_mem e1]
      exact byteAt_setRow h _ _ _ hx.1
    · have := congrArg (fun w : State => { w with mem := s.mem, bad := s.bad, tiles := s.tiles }) g3
      exact Eq.trans this e4
    · have := congrArg (fun w : Tile => { w with slots := (s.tile t).slots }) g4
      exact Eq.trans this e5
    · have e7 : ((s.setSpad t (r i) (f i)).tile t).slots = (s.tile t).slots := by
        rw [e6]
        apply mergeSlots_id
        intro c hc x hx e
        exact k c hc x hx (by simp [e])
      rw [g5, e7]
      intro c hc x hx m
      rw [e7] at hc
      exact k c hc x hx (by rw [List.map_cons]; exact List.mem_cons_of_mem _ m)
    · rw [gm]
      show _ = ((s.setRow (spadRow t (r i)) (f i)).setRows _).mem
      generalize (l.map fun i => (spadRow t (r i), f i)) = q
      have : ∀ (u v : State), u.mem = v.mem → (u.setRows q).mem = (v.setRows q).mem := by
        induction q with
        | nil => exact fun u v h => h
        | cons c q ih =>
          intro u v h
          apply ih
          simp [State.setRow, h]
      exact this _ _ e1

theorem vRows_inj (t : Nat) (l : VLoc) : ∃ base : Nat → Nat, vRows t l = (upTo 4).map base ∧ ∀ i j, base i = base j → i = j := by
  cases l with
  | reg v => exact ⟨fun i => vregRow t v i, rfl, fun i j h => by simp [vregRow] at h; omega⟩
  | rows a => exact ⟨fun i => spadRow t (a + i), rfl, fun i j h => by simp [spadRow] at h; omega⟩

/-- R149: writing an operand. -/
theorem writeLoc_spec {s : State} (h : Memory.wf s.mem = true) (t : Nat) (l : VLoc) (b : Bytes) (hb : b.length = 2048) :
    (s.writeLoc t l b).operand t l = b ∧ RowsOnly s (s.writeLoc t l b) t (vRows t l) := by
  have key : ∀ (base : Nat → Nat), (∀ i j, base i = base j → i = j) → ∀ u : State,
      u.mem = (s.setRows ((upTo 4).map fun i => (base i, slice b (512 * i) 512))).mem → u.rowsAt ((upTo 4).map base) = b := by
    intro base hi u hu
    apply rows4 _ _ hb
    intro i hi4
    rw [row_mem hu]
    have hp : ((upTo 4).map fun i => (base i, slice b (512 * i) 512)).Pairwise fun x y => x.1 ≠ y.1 := by
      rw [List.pairwise_map]
      exact List.Pairwise.imp (fun h e => h (hi _ _ e)) (List.nodup_range (n := 4))
    exact row_setRows_mem h hp (c := (base i, slice b (512 * i) 512)) (List.mem_map.mpr ⟨i, by simpa using hi4, rfl⟩) (slice_length _ _ _)
  cases l with
  | reg v =>
    refine ⟨key (fun i => vregRow t v i) (fun i j h => by simp [vregRow] at h; omega) _ rfl, ?_⟩
    have := setRows_only h t ((upTo 4).map fun i => (vregRow t v i, slice b (512 * i) 512))
    exact this
  | rows a =>
    have := spads_only h t (fun i => a + i) (fun i => slice b (512 * i) 512) (fun i => slice_length _ _ _) (upTo 4)
    exact ⟨key (fun i => spadRow t (a + i)) (fun i j h => by simp [spadRow] at h; omega) _ this.2, this.1⟩

/-- R129: a command that has changed only rows, and completes. -/
theorem vDone_wrote {s u : State} {t : Nat} {rows : List Nat} (h : RowsOnly s u t rows) : VWrote s (u.vDone t) t rows := by
  obtain ⟨h1, h2, h3, h4, h5, -⟩ := h
  refine ⟨fun a ha => h1 a ha, fun i hi => ?_, ?_, ?_, fun k => ?_⟩
  · simp only [State.vDone, updTile_tile_ne _ _ _ hi]; exact h2 i hi
  · exact h3
  · simp only [State.vDone, updTile_tile_self]
    have := congrArg (fun x : Tile => { x with seqIx := (x.seqIx + 1) % 1024, nDone := min 255 (1 + x.nDone) }) h4
    exact this
  · simp only [State.vDone, updTile_tile_self]; exact h5 k

theorem vDone_operand (u : State) (t : Nat) (l : VLoc) : (u.vDone t).operand t l = u.operand t l := rfl

end Sys2Proof.Machine
end

