-- ==== Sys2Proof/Tests/Slice0.lean ====
section
/-!
SUPPORT. Small tests of single commands, an ill-formed command for each check, and for each statement a state and operands that meet
its hypotheses.
-/

open Sys2Proof Sys2Proof.Machine

namespace Sys2Proof.Tests

/-- A state in which the region of tile `t` is Active and the tile is `x`. -/
def stTile (t : Nat) (x : Tile) : State :=
  { State.reset with regions := [(tileRegion t, { Region.init with st := .active })], tiles := [(t, x)] }
/-- Tile 0, an M-core, with a word at its sequencer's index. -/
def stWord (w : Nat) (x : Tile) : State := stTile 0 { x with store := [(0, w)], seqIx := 0 }
/-- An image of the given header with empty sections. -/
def stImage (hdr : Bytes) : Image :=
  { hdr := hdr, secs := [], models := [], buckets := [], pools := [], patches := [], detours := [], tensors := [], snapN := 0, train := [] }
/-- A loaded adapter-training image, and a valid licence. -/
def stTraining : Img := { Img.init with loaded := some (stImage (leBytes 16 (2 ^ 97))) }
def stLicence (f : Nat) : Lic := { feature := f, serial := 1, limit := 0, valid := true, data := [] }
/-- A descriptor of operation `o` and two rows of stack 0, its ring port the south edge's first, CLKR 0, label 9, OFFSET 0. -/
def stDsc (o : Nat) : Nat := o * 2 ^ 252 + 2 * 2 ^ 186 + 9 * 2 ^ 188 + 2 * 2 ^ 136 + 2 ^ 74
/-- Engine 0 as `x`, stack 0 in service, region 0 Active at cycle 0 of beat 7, a loaded image. -/
def stEngine (x : Engine) : State :=
  { State.reset with
    regions := [(0, { Region.init with st := .active, marked := true, markOf := 7 })], engines := [(0, x)],
    stks := [(0, { Stack.init with st := 1, live := 0xFFFF })], img := { Img.init with loaded := some (stImage []) },
    beat := { Beat.init with count := 7 } }
/-- A decoding request of partition 0 in slot 0 with frame 3, its SUBMIT of `sub`. -/
def stReqOf (sub : Bytes) : Req :=
  { newReq 0 { off := 0, size := 0, data := sub, src := [], srcPort := 0, bind := 1, time := 0 } with phase := .decoding, frames := [3], handle := 5 }
/-- SUBMIT of one prompt token and ten to generate. -/
def stSub : Bytes := List.replicate 39 0 ++ [1, 0, 0, 0, 10] ++ List.replicate 84 0
def stReq : Req := stReqOf stSub
/-- The operator's session 31 on a device whose bring-up has ended. -/
def stSess : Sess :=
  { role := .operator, anchor := 0, peer := [], start := 0, subs := [], nseq := 0, hq := 0, chain := 0, frm := 0, exportH := 0,
    exportData := [], evFrom := 0, nonce := [], att := [] }
def stOp (s : State) : State :=
  { s with boot := { s.boot with done := true }, fordan := { s.fordan with sess := [(31, some stSess)] } }
def stMark (r : Region) : State :=
  { stTile 144 { Tile.init with store := [(0, 1)], waitB := some 7 } with
    regions := [(0, r)], beat := { Beat.init with count := 7, mark := 100 }, time := { TimeUnit.init with valid := true } }
/-- `n` zero bytes. -/
def stZ (n : Nat) : Bytes := List.replicate n 0
/-- A device whose partition 0 is Active, holds a key of 64 ones, and is bound to port 0, VLAN 0, UDP port 1, with an empty address. -/
def stGy (s : State) : State :=
  { s with
    flash := { s.flash with objs := [(0x400001, some 1), (0x400006, some (2 ^ 32 + 2 ^ 16))], blobs := [(0x400004, List.replicate 64 1)] },
    ports := [(0, { Port.init with up := true })] }
/-- An image with code on M-core 0, of region 0 whose spare is tile 1 where `sp`; its patch, and a detour set for region 0. -/
def stFault (sp : Bool) (mask : Nat) : State :=
  let i : Image := { stImage [] with secs := [⟨0x0010, tileCode 0, []⟩], patches := [⟨0, 0, 1, []⟩], detours := [⟨mask, 24, 0, []⟩] }
  { State.reset with
    img := { Img.init with loaded := some i },
    regions := [(0, { Region.init with st := .active, lost := !sp, rg := { RegRec.none with work := true, spares := if sp then [1] else [] } })],
    flt := { Flt.init with todo := [(5, .patch 0), (5, .detour 0)] } }
/-- A device that trains: an adapter-training image with tensor 7 mirrored, under its licence, in the operator's session 31. -/
def stTrain (r : Train) : State :=
  stOp { State.reset with img := { Img.init with loaded := some { stImage (leBytes 16 (2 ^ 97)) with train := [(7, true, 0, 1)] } }, train := r, flash := { State.reset.flash with lics := [stLicence 2] } }
/-- The supplies at `p`, the input at its threshold or not. -/
def stSupply (p : Supply) (up : Bool) : State := { State.reset with boot := { Boot.init with supply := p, vinOk := up } }
/-- A device at step 8 of bring-up, with an open export in session 31. -/
def stBootAt (n : Nat) (claimed : Bool) : State :=
  { State.reset with
    boot := { Boot.init with rst := false, step := n, handles := [(9, ⟨1, 0, 0, 16, 31⟩)] },
    flash := if claimed then { Flash.delivered with blobs := [(0x110011, [1]), (0x110103, [2])] } else .delivered,
    fordan := { Fordan.init with sess := [(0, some stSess), (31, some { stSess with exportH := 9 })], addrNew := true } }
/-- A device in bring-up at step `n`. -/
def stStep (n : Nat) (f : Flash) : State := { State.reset with flash := f, boot := { Boot.init with rst := false, step := n } }

theorem wit_sequencer_nop : let s := stWord 0 Tile.init
    isTile .m 0 = true ∧ s.runs 0 = true ∧ (s.tile 0).posted = false ∧ (s.tile 0).modeReq = none ∧ (s.tile 0).word = 0 := by decide
theorem wit_sequencer_wait : let s := stWord (5 * 2 ^ 124 + 255 * 2 ^ 40) { Tile.init with starts := [7] }
    s.runs 0 = true ∧ (s.tile 0).word = 5 * 2 ^ 124 + 255 * 2 ^ 40 ∧ (s.tile 0).starts = [7] := by decide
theorem wit_sequencer_wait_v : let s := stTile 96 { Tile.init with starts := [7] }
    isTile .v 96 = true ∧ s.runs 96 = true ∧ (s.tile 96).starts = [7] := by decide
theorem wit_sequencer_mode : let s := stWord (4 * 2 ^ 124 + 1 * 2 ^ 123 + 255 * 2 ^ 40) Tile.init
    s.runs 0 = true ∧ (s.tile 0).arrayEmpty = true ∧ (s.tile 0).word = 4 * 2 ^ 124 + 1 * 2 ^ 123 + 255 * 2 ^ 40 := by decide
theorem wit_sequencer_mode_takes_effect : let s := stWord 0 { Tile.init with modeReq := some true }
    s.runs 0 = true ∧ (s.tile 0).posted = false ∧ (s.tile 0).modeReq = some true := by decide
theorem wit_sequencer_jump : let s := stWord (7 * 2 ^ 124 + 1023 * 2 ^ 16 + 1023) { Tile.init with loop := 1023 }
    s.runs 0 = true ∧ (s.tile 0).word = 7 * 2 ^ 124 + 1023 * 2 ^ 16 + 1023 ∧ ¬ (s.tile 0).loop < 1023 := by decide

theorem wit_refused_reserved : let s := stWord (15 * 2 ^ 124) Tile.init
    s.runs 0 = true ∧ (s.tile 0).selfFenced = false ∧ 8 ≤ fOpc (s.tile 0).word := by decide
theorem wit_refused_mma : let s := stWord (2 ^ 124 + 12 * 2 ^ 120) Tile.init
    s.runs 0 = true ∧ fOpc (s.tile 0).word = 1 ∧ mmaBad (s.tile 0).wide s.training (s.licensed 3) (s.tile 0).word = some 2 := by decide
theorem wit_refused_drain : let s := stWord (2 * 2 ^ 124) Tile.init
    s.runs 0 = true ∧ fOpc (s.tile 0).word = 2 ∧ drainBad (s.tile 0).word = some 3 := by decide
theorem wit_refused_accld : let s := stWord (3 * 2 ^ 124 + 2 ^ 90 + 3 * 2 ^ 73) Tile.init
    s.runs 0 = true ∧ fOpc (s.tile 0).word = 3 ∧ accldBad (s.tile 0).word = some 3 := by decide
theorem wit_refused_jump : let s := stWord (7 * 2 ^ 124) Tile.init
    s.runs 0 = true ∧ fOpc (s.tile 0).word = 7 ∧ jumpBad (s.tile 0).word = some 3 := by decide
theorem wit_refused_others :
    nopBad 1 = some 2 ∧ modeBad (4 * 2 ^ 124 + 1) = some 2 ∧ tagOnlyBad (5 * 2 ^ 124 + 1) = some 2 ∧ tagOnlyBad (6 * 2 ^ 124 + 1) = some 2 := by decide

theorem wit_drain : let w := 2 * 2 ^ 124 + 128 * 2 ^ 83 + 2 ^ 73 + 3 * 2 ^ 70
    let s := stWord w Tile.init
    isTile .m 0 = true ∧ s.runs 0 = true ∧ (s.tile 0).posted = false ∧ (s.tile 0).modeReq = none ∧ fOpc w = 2 ∧ fNcolRaw w = 128 ∧ fAccb w = 0 ∧
      (s.tile 0).side = [] ∧ (s.tile 0).turn = [] ∧ (s.tile 0).mma = none ∧ Memory.wf s.mem = true ∧ drainBad w = none ∧ fOut w = 1 ∧
      rowsClean s [] 0 ((upTo 128).map fun i => spadRow 0 (640 + (0 + i))) = true := by decide
theorem wit_drain_mesh : let w := 2 * 2 ^ 124 + 2 ^ 83 + 3 * 2 ^ 73 + 5 * 2 ^ 70
    let s := stWord w { Tile.init with droutes := [(0, 257)] }
    s.runs 0 = true ∧ drainBad w = none ∧ fOut w = 3 ∧ 256 ≤ Tab.get 0 (s.tile 0).droutes (fRoute w) ∧ (s.tile 0).outQ = [] ∧
      Tab.get [] (s.tile 0).inBuf 4 = [] := by decide
theorem wit_drain_deep : let w := 2 * 2 ^ 124 + 2 ^ 83 + 2 * 2 ^ 73 + 16383 * 2 ^ 54
    drainBad w = none ∧ fOut w = 2 ∧ fOdst w = 16383 := by decide
theorem wit_accld : let w := 3 * 2 ^ 124 + 2 * 2 ^ 83 + 126 * 2 ^ 76 + 2 ^ 73 + 510 * 2 ^ 54
    let s := stWord w Tile.init
    s.runs 0 = true ∧ fOpc w = 3 ∧ accldBad w = none ∧ fNcolRaw w = 2 ∧ fAccb w = 126 ∧ fOdst w = 510 ∧
      rowsClean s [] 0 [spadRow 0 510, spadRow 0 511] = true := by decide
theorem wit_accld_deep : let w := 3 * 2 ^ 124 + 2 * 2 ^ 83 + 126 * 2 ^ 76 + 2 * 2 ^ 73 + 16382 * 2 ^ 54
    fOpc w = 3 ∧ accldBad w = none ∧ fNcolRaw w = 2 ∧ fOut w = 2 ∧ fOdst w = 16382 := by decide

/-- The word of R92's worked example. -/
theorem wit_mma : let w := 0x10000118040004080000110000000000
    let s := stWord w { Tile.init with turn := [{ tiles := [], need := 0, rows := 32, half := false }] }
    isTile .m 0 = true ∧ s.runs 0 = true ∧ fOpc w = 1 ∧ mmaBad (s.tile 0).wide s.training (s.licensed 3) w = none ∧ (s.tile 0).turn.length = 1 := by decide
/-- A BF16 pass of one column from +0. -/
theorem wit_mma_one : let w := 2 ^ 124 + 5 * 2 ^ 120 + 2 ^ 101 + 2 ^ 92 + 2 ^ 83
    let s := stWord w { Tile.init with turn := [{ tiles := [], need := 0, rows := 64, half := false }] }
    isTile .m 0 = true ∧ s.runs 0 = true ∧ mmaBad false s.training (s.licensed 3) w = none ∧ fNstep w = 1 ∧ fPt w = 5 ∧ fOut w = 0 ∧ fZobs w = false ∧
      s.sampleDue 0 w = false ∧ fAccin w = false ∧ rowsClean s [] 0 ((upTo 64).map fun i => spadRow 0 (0 + i)) = true := by decide
theorem wit_post : let w := 6 * 2 ^ 124 + 22 * 2 ^ 40
    let s := stWord w Tile.init
    s.runs 0 = true ∧ fOpc w = 6 ∧ tagOnlyBad w = none ∧ (s.tile 0).arrayEmpty = true ∧ Tab.get none (s.tile 0).sends 64 = none := by decide
theorem wit_array_stall :
    let r : MmaRun := { word := 0, ix := 0, p := 0, j := 0, out := [], outIm := [], rowsOut := 0, sampled := none }
    let s := stWord 0 { Tile.init with mma := some r }
    s.arrayRuns 0 = true ∧ (s.tile 0).mma = some r ∧ (s.tile 0).selfFenced = false ∧ (s.tile 0).side = [] := by decide
theorem wit_array_stall_side :
    let d : SideRun := { word := 0, ix := 0, es := [], begun := 0, done := 0, buf := [], later := false }
    let s := stWord 0 { Tile.init with side := [d] }
    s.arrayRuns 0 = true ∧ (s.tile 0).side = [d] ∧ (s.tile 0).mma = none := by decide

theorem wit_stream_ring_fill : let s := stTile 0 { Tile.init with ringFill := 127, ringCnt := 127 }
    isTile .m 0 = true ∧ s.tileOn 0 = true ∧ (s.tile 0).ringCnt < 128 ∧ (s.tile 0).rowHeld 16383 = false ∧ (s.tile 0).vpQ = [] ∧
      checkOf s (deepRow 0 16383) [] 0 = .clean ∧ Memory.wf s.mem = true := by decide
theorem wit_tile_set_enter : let w := 0x10000118040004080000110000000000
    let s := stWord w { Tile.init with ringCnt := 32 }
    s.arrayRuns 0 = true ∧ s.feedFor 0 = some (w, 0, false) ∧ setTiles (s.tile 0).wide (fPt w) = 1 ∧ fXcmp w = false ∧ fSp24 w = false ∧
      turnRows (s.tile 0).wide w = 32 ∧ (s.readSet 0 w [] 1 0 []).2.2 = (32, .waits) := by decide
/-- A tile of the set that waits for its last one. -/
theorem wit_tile_set_goes_on : let w := 0x10000118040004080000110000000000
    let d : TileSet := { tiles := [], need := 1, rows := 32, half := false }
    let s := stWord w { Tile.init with ringCnt := 128, ringUse := 127, turn := [d] }
    (s.tile 0).openSet = some d ∧ s.feedFor 0 = some (w, 0, false) := by decide

theorem wit_vertical_port : let s := { stTile 144 Tile.init with mem := [(spadRow 144 255 * 512 + 5, 9)] }
    s.tileOn 144 = true ∧ (s.tile 144).vpQ = [] ∧ (s.tile 144).rowHeld 16383 = false ∧ 255 < (if tileKind 144 = .m then 512 else spadRows 144) ∧
      Memory.wf s.mem = true ∧ checkOf s (spadRow 144 255) [] 0 = .clean := by decide
theorem wit_vertical_port_after : let s := stTile 0 Tile.init
    checkOf (s.setRow (deepRow 0 16383) (s.row (spadRow 0 511))) (deepRow 0 16383) [] 0 = .clean := by decide

theorem wit_scrub_clean : let s := stTile 96 { Tile.init with scrubRow := 16383 }
    s.tileOn 96 = true ∧ Memory.wf s.mem = true ∧ (s.tile 96).vpNext = none ∧ (s.tile 96).rowHeld 16383 = false ∧
      checkOf s (deepRow 96 16383) [] 0 = .clean := by decide
theorem wit_scrub_corrected : let s := stTile 96 { Tile.init with scrubOld := [0] }
    checkOf s (deepRow 96 (s.tile 96).scrubRow) [⟨0, false, 1⟩] 0 = .corrected 1 ∧ (s.tile 96).scrubRow ∈ (s.tile 96).scrubOld := by decide
theorem wit_transposed : let b : TileBuf := { xp := 1, d := 4096, ep := 3, rows := List.replicate 32 (List.replicate 512 0) }
    let s := stTile 0 { Tile.init with tbufs := [b], vpQ := [.tile 4096 3] }
    (s.tile 0).vpNext = some (.tile 4096 3) ∧
      (s.tile 0).tbufs.find? (fun b => b.d == 4096 && b.ep == 3 && decide (b.rows.length ≥ xpRows b.xp)) = some b ∧ b.rows.length = xpRows b.xp ∧
      (∀ r ∈ b.rows, r.length = 512) := 
  ⟨rfl, rfl, rfl, fun r hr => by rw [List.eq_of_mem_replicate hr]; exact List.length_replicate⟩

theorem wit_lane_operations : let s := stTile 96 Tile.init
    isTile .v 96 = true ∧ s.runs 96 = true ∧ Memory.wf s.mem = true ∧ (VLoc.rows 508).ok = true ∧
      vReads s 96 [] (VOp.fma.uses (.reg 31) (.rows 508) (.rows 0)) ∧ vReads s 96 [] [.reg 0, .rows 0, .rows 508] ∧
      (∀ r ∈ vRows 96 (.rows 0), r ∉ vRows 96 (.rows 508)) ∧ (VLane.mk 31 511).ok = true := by
  simp only [vReads]; decide

theorem wit_conversion : let s := stTile 96 { Tile.init with droutes := [(63, 300)], streamOwn := [511], streamBase := 480 }
    isTile .v 96 = true ∧ s.runs 96 = true ∧ Memory.wf s.mem = true ∧ vReads s 96 [] [.reg 0, .rows 0] ∧
      256 ≤ Tab.get 0 (s.tile 96).droutes 63 ∧ 511 ∈ (s.tile 96).streamOwn := by
  simp only [vReads]; decide
theorem wit_conversion_places : 504 + fmtRows (.plain 0) (512 * 2) ≤ 512 ∧ VFmt.mxE4M3.mx = some fE4M3 ∧
    8 + fmtRows .mxE4M3 (512 * 2) ≤ 511 ∧ 511 + cdiv (512 * 2) 16384 ≤ 512 ∧ 8 + fmtRows (.plain 1) (512 * 2) ≤ 480 + 511 / 16 := by
  refine ⟨?_, rfl, ?_, ?_, ?_⟩ <;> simp [fmtRows, cvtOf, Cvt.size, VFmt.mx, cdiv, fE4M3, Fmt.width]
theorem wit_conversion_stream : let s := stTile 96 { Tile.init with streamOwn := [511], streamBase := 480 }
    checkOf s (spadRow 96 511) [] 4 = .clean ∧ leAt (s.row (spadRow 96 511)) (32 * (496 % 16) + 16) 8 = 0 := by
  refine ⟨rfl, ?_⟩
  decide

theorem wit_row_reductions : let s := stTile 96 Tile.init
    isTile .v 96 = true ∧ s.runs 96 = true ∧ Memory.wf s.mem = true ∧ RowFits 513 [.rows 0, .reg 0] ∧
      VDisjoint 96 [.rows 4, .reg 5] ∧ vReads s 96 [] ([.rows 0, .reg 0] ++ [.rows 4, .reg 5]) ∧
      vReads s 96 [] ([.rows 0, .reg 0] ++ [.reg 1, .reg 2] ++ [.rows 4, .reg 5]) ∧
      vReads s 96 [] ([.rows 0, .reg 0] ++ ([.reg 1, .reg 2] ++ [.reg 3, .reg 4] ++ [.rows 4, .reg 5])) ∧ (VLane.mk 31 511).ok = true ∧
      (VLoc.rows 508).ok = true ∧ RowFits 480 [.reg 0] ∧ 480 % 96 = 0 ∧ (List.replicate 48 7).length = 96 / 2 := by
  simp only [vReads, RowFits, VDisjoint]; decide

theorem wit_routing : let s := stTile 96 { Tile.init with droutes := [(63, 300)] }
    let seqs : List RouteSeq := [⟨.reg 0, 511, ⟨31, 508⟩⟩, ⟨.rows 0, 0, ⟨30, 0⟩⟩]
    isTile .v 96 = true ∧ s.runs 96 = true ∧ Memory.wf s.mem = true ∧
      (∀ q ∈ seqs, q.row < 512 ∧ q.out.reg < 32 ∧ q.out.lane + 2 * 2 ≤ 512) ∧ (seqs.map (·.out.reg)).Nodup ∧
      vReads s 96 [] (seqs.map (·.scores)) ∧ 256 ≤ Tab.get 0 (s.tile 96).droutes 63 ∧
      rowsClean s [] (vChecked 96 (seqs.map (·.scores))).length (seqs.map fun q => spadRow 96 q.row) = true := by
  simp only [vReads]; decide
theorem wit_sampling : let s := stTile 96 { Tile.init with streamOwn := [496], streamBase := 480 }
    s.runs 96 = true ∧ [(⟨96, [.reg 0], 1⟩ : LogitSlice), ⟨97, [.rows 508], 512⟩].all LogitSlice.ok = true ∧
      rowsClean s [] 0 ([(⟨96, [.reg 0], 1⟩ : LogitSlice), ⟨97, [.rows 508], 512⟩].flatMap fun c => vChecked c.tile c.locs) = true ∧ 496 ∈ (s.tile 96).streamOwn ∧
      checkOf s (spadRow 96 (480 + 496 / 16)) [] 0 = .clean ∧ leAt (s.row (spadRow 96 (480 + 496 / 16))) (32 * (496 % 16) + 16) 8 = 0 := by
  decide
theorem wit_optimiser_operands : let s := stTile 96 Tile.init
    vReads s 96 [] [.reg 0, .reg 1, .rows 508, .reg 3] ∧ VDisjoint 96 [.reg 0, .rows 508, .reg 3] := by
  simp only [vReads, VDisjoint]; decide
theorem wit_optimiser_image : let s := { stTile 96 Tile.init with flash := { State.reset.flash with lics := [stLicence 2] }, img := stTraining }
    s.runs 96 = true ∧ s.training = true ∧ s.licensed 2 = true := by decide
theorem wit_optimiser_stream : let s := stTile 96 { Tile.init with streamOwn := [496], streamBase := 480 }
    496 ∈ (s.tile 96).streamOwn ∧ spadRow 96 (480 + 496 / 16) ∉ [VLoc.reg 0, .rows 500, .reg 3].flatMap (vRows 96) ∧
      checkOf s (spadRow 96 (480 + 496 / 16)) [] 4 = .clean := by decide
theorem wit_status_report : let s := stTile 96 Tile.init
    s.runs 96 = true ∧ Tab.get none (s.tile 96).sends statusChannel = none := by decide

theorem wit_row_buffer_open : let s := stTile 144 { Tile.init with slots := [(0, some ⟨1, [], 0⟩)] }
    tileKind 144 ≠ .m ∧ s.runs 144 = true ∧ (s.tile 144).waitB = none ∧ (s.tile 144).recvWait = none ∧ (s.tile 144).leaveWait = false ∧
      255 < spadRows 144 ∧ (s.tile 144).slot 3 = none ∧ (∀ c ∈ (s.tile 144).slots, ∀ y, c.2 = some y → y.row ≠ 255) ∧
      checkOf s (spadRow 144 255) [] 0 = .clean := by
  refine ⟨by decide, by decide, by decide, by decide, by decide, by decide, by decide, ?_, by decide⟩
  intro c hc y hy
  have : c = (0, some ⟨1, [], 0⟩) := List.mem_singleton.mp hc
  subst this; cases hy; decide
theorem wit_row_buffer_slot : let s := stTile 96 { Tile.init with slots := [(3, some ⟨511, List.replicate 512 7, 1⟩)] }
    s.runs 96 = true ∧ (s.tile 96).slot 3 = some ⟨511, List.replicate 512 7, 1⟩ ∧ 504 % 8 = 0 ∧ 504 + 8 ≤ 512 ∧
      Memory.wf s.mem = true ∧ (List.replicate 512 (7 : Byte)).length = 512 :=
  ⟨by decide, rfl, by decide, by decide, by decide, List.length_replicate⟩
theorem wit_row_buffer_clean_slot : let s := stTile 96 { Tile.init with slots := [(0, some ⟨511, [], 0⟩)] }
    s.runs 96 = true ∧ (s.tile 96).slot 0 = some ⟨511, [], 0⟩ := by decide

theorem wit_leave_planned : let s := { stTile 144 Tile.init with fields := [(0, { Field.init with leave := [⟨9, 0, 1, 5, 10, 100⟩, ⟨8, 1, 1, 5, 10, 100⟩, ⟨7, 0, 1, 5, 10, 4001⟩] })] }
    isTile .s 144 = true ∧ s.sFree 144 = true ∧ tileRegion 144 = 0 ∧ tileField 144 = 0 ∧
      (s.field 0).leave.find? (fun l => l.entry == 9) = some ⟨9, 0, 1, 5, 10, 100⟩ ∧ (s.region 0).committed + 100 ≤ (s.region 0).j ∧
      (s.field 0).leave.find? (fun l => l.entry == 6) = none ∧ (s.field 0).leave.find? (fun l => l.entry == 8) = some ⟨8, 1, 1, 5, 10, 100⟩ ∧
      (s.field 0).leave.find? (fun l => l.entry == 7) = some ⟨7, 0, 1, 5, 10, 4001⟩ ∧ (s.region 0).j < (s.region 0).committed + 4001 := by decide
theorem wit_leave_inrush : let s := { stTile 144 Tile.init with fields := [(0, { Field.init with leave := [⟨9, 0, 2, 5, 10, 250⟩, ⟨8, 0, 2, 5, 10, 4001⟩] })] }
    s.sFree 144 = true ∧ (s.field 0).leave.find? (fun l => l.entry == 9) = some ⟨9, 0, 2, 5, 10, 250⟩ ∧ (s.field 0).queue = [] ∧
      s.fitsInrush 0 250 = true ∧ (s.field 0).leave.find? (fun l => l.entry == 8) = some ⟨8, 0, 2, 5, 10, 4001⟩ ∧ s.fitsInrush 0 4001 = false := by decide
theorem wit_leave_unplanned : let s := stTile 144 Tile.init
    s.sFree 144 = true ∧ (s.field 0).queue = [] ∧ s.fitsUnplanned 0 (10 * 400) = true ∧ s.fitsUnplanned 0 (10 * 440) = false := by decide
theorem wit_leave_queue : let q : LeaveReq := ⟨3, 1, 144, 100, 7, 50, 0, false⟩
    let s := { stTile 144 Tile.init with fields := [(0, { Field.init with queue := [q] })] }
    s.nextServed (s.field 0).queue = some q ∧ q.region / 2 = 0 ∧ (s.field 0).queue.find? (fun q => q.n == 3 && !q.inrush) = some q := by decide

theorem wit_bwait : let s := { stTile 144 Tile.init with regions := [(0, { Region.init with st := .active, marked := true, markOf := 7 })],
                                                         beat := { Beat.init with count := 7 } }
    isTile .s 144 = true ∧ tileRegion 144 = 0 ∧ s.sFree 144 = true ∧ (s.region 0).markOf < 8 ∧ s.beat.count ≤ 8 ∧ (s.region 0).marked = true ∧
      6 < (s.region 0).markOf ∧ (s.tile 144).selfFenced = false := by decide
theorem wit_fence : let s := { stTile 144 Tile.init with regions := [(0, { Region.init with st := .active, sup := tileCode 144 })] }
    s.sFree 144 = true ∧ (s.region 0).sup = tileCode 144 ∧ tileRegion 1 = 0 ∧ tileRegion 2687 = 31 ∧ s.supRuns 0 = true ∧ s.usable 0 = true := by decide
theorem wit_core_restart : let s := { stTile 0 { Tile.init with stopped := true } with regions := [(0, { Region.init with st := .active, sup := tileCode 144 })] }
    isTile .m 0 = true ∧ (s.tile 0).stopped = true ∧ s.supRuns (tileRegion 0) = true ∧ s.usable 0 = true := by decide

theorem wit_send : let s := stTile 144 { Tile.init with mroutes := [(0, BitVec.ofNat 64 (2 ^ 63 + 3 * 2 ^ 35 + 15 * 2 ^ 31))], eps := [(15, [[1]])] }
    isTile .s 144 = true ∧ s.sFree 144 = true ∧ Tab.get none (s.tile 144).sends 0 = none ∧ s.destOf 144 0 = some (.ep (tileIx 0 3) 15) ∧
      s.destOf 144 1 = none ∧ Tab.get [] (s.tile 144).eps 15 = [[1]] ∧ Tab.get [] (s.tile 144).eps 3 = [] := by decide
/-- Tile 145 sends to endpoint 15 of tile 144, which holds a message of `n` words or none; the message is on its way, or its reply. -/
def stMsg (n : Nat) (w : Option Nat) (a : Option Bool) : State :=
  { stTile 144 Tile.init with
    tiles := [(144, { Tile.init with eps := (if n = 0 then [] else [(15, [List.replicate n 0])]), recvWait := w }),
      (145, { Tile.init with
        mroutes := [(0, BitVec.ofNat 64 (2 ^ 63 + 3 * 2 ^ 35 + 15 * 2 ^ 31))],
        sends := [(0, some ⟨.core, some (.ep 144 15), [7], 1, 64, false, false⟩)], sendQ := [⟨0, .notice, [9]⟩] })],
    net := [⟨145, 0, .ep 144 15, [7], a⟩] }
theorem wit_message : let s := stMsg 15 none none; let z := stMsg 16 none none; let m : Msg := ⟨145, 0, .ep 144 15, [7], none⟩
    s.net[0]? = some m ∧ oldestOf s.net 0 m = true ∧ (s.region (tileRegion 145)).st ≠ .stopped ∧ s.wayOf (s.msgPath m) = .open_ ∧
      wordsHeld (Tab.get [] (s.tile 144).eps 15) + 1 ≤ 16 ∧ 16 < wordsHeld (Tab.get [] (z.tile 144).eps 15) + 1 := by decide
theorem wit_message_recv : let s := stMsg 0 (some 15) none
    (s.tile 144).recvWait = some 15 ∧ Tab.get [] (s.tile 144).eps 15 = [] := by decide
theorem wit_message_reply : let s := stMsg 0 none (some true); let m : Msg := ⟨145, 0, .ep 144 15, [7], some true⟩
    s.net[0]? = some m ∧ oldestOf s.net 0 m = true ∧ s.wayOf (backOf (s.msgPath m)) = .open_ ∧
      Tab.get none (s.tile 145).sends 0 = some ⟨.core, some (.ep 144 15), [7], 1, 64, false, false⟩ ∧
      (stMsg 0 none (some false)).net[0]? = some { m with reply := some false } := by decide
theorem wit_retry : let s := stTile 0 { Tile.init with sends := [(0, some ⟨.core, some (.ep 144 15), [7], 1, 64, true, false⟩),
                                                                 (1, some ⟨.core, some (.ep 144 15), [7], 65, 64, false, false⟩)] }
    s.routerOn 0 = true ∧ (s.tile 0).selfFenced = false ∧
      Tab.get none (s.tile 0).sends 0 = some ⟨.core, some (.ep 144 15), [7], 1, 64, true, false⟩ ∧
      Tab.get none (s.tile 0).sends 1 = some ⟨.core, some (.ep 144 15), [7], 65, 64, false, false⟩ ∧
      (∀ m ∈ s.net, ¬ (m.src = 0 ∧ m.ch = 1)) := by decide

def stRegion (r : Region) : State := { State.reset with regions := [(0, r)] }
theorem wit_fault_report : let r (c : Nat) : Report := ⟨0, c, 5, 0, 0, 0⟩
    let s := { stRegion { Region.init with st := .active, sup := tileCode 144, reports := [r 0x21] } with flt := { Flt.init with progSeen := some (progKey (r 0x21)) } }
    (s.region 0).reports = [r 0x21] ∧ s.canForward 0 (r 0x21) = true ∧ s.lateRegion 0 = false ∧ producerOk (.engine 95) = true ∧ s.flt.progSeen = some (progKey (r 0x21)) ∧
      classOf 0x41 = none ∧ classOf 0x51 = some 1 ∧ classOf 0x54 = some 3 ∧ nearest (r 0x54) = true ∧ classOf 0x21 = some 4 ∧
      s.flt.progSeen ≠ some (progKey (r 0x22)) ∧ classOf 0x74 = some 5 ∧ classOf 0x72 = some 6 ∧ (s.region 0).sup ≠ tileCode 0 := by decide
theorem wit_beat_report : let s := stRegion { Region.init with st := .active, sup := tileCode 144, repDue := true, figs := { BeatFigs.none with strP := 2, cyc := 199 } }
    s.supRuns 0 = true ∧ (s.region 0).repDue = true ∧ (s.region 0).figs.cyc < (s.region 0).figs.strP * 100 ∧ (stTile 144 Tile.init).wayOf [] = .open_ := by decide
theorem wit_report_arrives : let m : Msg := ⟨0, reportChannel, .sup 0, reportWords 0x43 1 6 0, none⟩
    let s := { stRegion { Region.init with st := .active, sup := tileCode 144 } with net := [m] }
    s.net[0]? = some m ∧ oldestOf s.net 0 m = true ∧ (s.region (tileRegion 0)).st ≠ .stopped ∧ s.wayOf (s.msgPath m) = .open_ ∧
      (s.region 0).reports.length < 4 := by decide
theorem wit_silence : let s := stRegion { Region.init with st := .active, sup := tileCode 144, standby := tileCode 145, silent := 2 }
    s.active 0 = true ∧ tileOfCode (s.region 0).sup = some 144 ∧ tileOfCode (s.region 0).standby = some 145 ∧ s.usable 145 = true ∧
      s.img.load = none ∧ s.boot.commitDue = [] := by decide

def stPkt (l : Nat) : Packet := ⟨l, 0, 0, []⟩
def stRoute (e : Nat) : Tile := { Tile.init with routes := [(4 * 256 + 9, BitVec.ofNat 32 e)], inBuf := [(4, [stPkt 9])] }
theorem wit_forward_link : let s := stTile 0 (stRoute (2 ^ 31 + 2 ^ 22 + 255 * 2 ^ 13)); let e := (s.tile 0).entry 4 9
    s.routerOn 0 = true ∧ Tab.get [] (s.tile 0).inBuf 4 = [stPkt 9] ∧ 4 * 256 + 9 ∉ (s.tile 0).blocked ∧ eValid e = true ∧ eOp e = 0 ∧
      eOut e = [1] ∧ eDchk e = false ∧ neighbour 0 1 = some 1 ∧ s.fence 0 1 = .normal ∧ (s.fence 1 (opposite 1)).closed = false := by decide
theorem wit_forward_port : let s := stTile 0 (stRoute (2 ^ 31 + 2 ^ 25)); let e := (s.tile 0).entry 4 9
    eOut e = [4] ∧ eOp e = 0 ∧ (s.tile 0).tileIn.length < 4 ∧ s.fence 0 4 = .normal := by decide
theorem wit_forward_unit : let s := stTile 0 { stRoute (2 ^ 31 + 4 * 2 ^ 28) with red := [(1, 0x80000000#32)] }; let e := (s.tile 0).entry 4 9
    eOp e = 4 ∧ uValid ((s.tile 0).unit 1) = true ∧ unitKey 1 ∉ (s.tile 0).blocked ∧ (Tab.get [] (s.tile 0).opBuf 3).length < 4 := by decide
theorem wit_forward_fork : let s := stTile 0 (stRoute (2 ^ 31 + 2 ^ 25 + 2 ^ 22)); let e := (s.tile 0).entry 4 9
    2 ≤ (eOut e).length ∧ portsExist 0 (eOut e) = true ∧ (s.tile 0).skew = [] ∧ eDchk e = false ∧ 5 ∉ eOut e := by decide
theorem wit_forward_invalid : let s := stTile 0 (stRoute (2 ^ 31 + 5 * 2 ^ 28)); 5 ≤ eOp ((s.tile 0).entry 4 9) ∧ 4 * 256 + 9 ∉ (s.tile 0).labelSeen := by decide
theorem wit_forward_blocked : let s := stTile 0 { stRoute 0 with blocked := [4 * 256 + 9] }; 4 * 256 + 9 ∈ (s.tile 0).blocked := by decide
theorem wit_fork_branch : let w : Skew := ⟨4, 9, [stPkt 9], [(4, 0), (1, 1)]⟩; let s := stTile 0 { Tile.init with skew := [(7, some w)] }
    Tab.get none (s.tile 0).skew 7 = some w ∧ w.sent.find? (fun c => c.1 == 4) = some (4, 0) ∧ w.held[0]? = some (stPkt 9) ∧
      s.fence 0 4 = .normal ∧ s.routerOn 0 = true := by decide
theorem wit_reduction : let s := stTile 0 { Tile.init with
      red := [(1, BitVec.ofNat 32 (2 ^ 31 + 2 ^ 28))],
      opBuf := [(2, [⟨0, stPkt 1⟩]), (3, [⟨1, stPkt 2⟩])] }
    let c := (s.tile 0).unit 1
    Tab.get [] (s.tile 0).opBuf 2 = [⟨0, stPkt 1⟩] ∧ Tab.get [] (s.tile 0).opBuf 3 = [⟨1, stPkt 2⟩] ∧ unitKey 1 ∉ (s.tile 0).blocked ∧
      uValid c = true ∧ (stPkt 1).good = true ∧ uChain c = false ∧ uOut c = [4] ∧ s.fence 0 4 = .normal := by decide
theorem wit_forward_ring : let s := stTile 0 (stRoute (2 ^ 31 + 2 ^ 26)); let e := (s.tile 0).entry 4 9
    eOut e = [5] ∧ onEdge 0 = true ∧ (stPkt 9).good = true ∧ isCorner 0 = true ∧ Tab.get [] s.ringOut (ringKey 0 6) = [] := by decide
theorem wit_tile_port : let x (k : Nat) : Tile := { Tile.init with
      epd := [(15, BitVec.ofNat 64 (2 ^ 63 + k * 2 ^ 60 + 511 * 2 ^ 46 + 2 ^ 32))], epPtr := [(15, 511)],
      tileIn := [(15, stPkt 9)], ringCnt := 127 }
    let s (k : Nat) := stTile 0 (x k)
    (s 1).routerOn 0 = true ∧ tilePortKey 15 9 ∉ ((s 1).tile 0).blocked ∧ (stPkt 9).good = true ∧ dscValid (((s 1).tile 0).dsc 15) = true ∧
      ((s 1).tile 0).portStalled = false ∧ (stPkt 9).xp = 0 ∧ dscKind (((s 1).tile 0).dsc 15) = 1 ∧
      ((s 1).tile 0).ptr 15 < min 512 (spadRows 0) ∧ dscKind (((s 0).tile 0).dsc 15) = 0 ∧
      tileKind 0 = .m ∧ dscKind (((s 2).tile 0).dsc 15) = 2 ∧ relayWaiting ((s 2).tile 0).vpQ < 4 ∧ Memory.wf (s 1).mem = true := by decide
theorem wit_tile_port_transposed : let x : Tile := { Tile.init with epd := [(15, BitVec.ofNat 64 (2 ^ 63 + 2 * 2 ^ 60))] }
    (x.xpTake 1 15 0 []) = .into [⟨1, 0, 15, [[]]⟩] ∧ x.ptr 15 < 16384 ∧ dscKind (x.dsc 15) = 2 := by decide
theorem wit_fabric_stall : let s := stTile 0 { stRoute (2 ^ 31 + 2 ^ 25) with tileIn := List.replicate 4 (0, stPkt 1) }
    (4, 255) ∉ (s.tile 0).stalls ∧ s.holding 0 4 false 15 = true := by decide

theorem wit_plan_queue : let s := stEngine { Engine.init with planN := 1, ix := 1, passBeat := 6 }
    s.img.loaded ≠ none ∧ (s.engine 0).busy = none ∧ (s.engine 0).planN ≤ (s.engine 0).ix ∧ (s.engine 0).passBeat < s.beat.count ∧
      s.beat.abandoned = false := by decide
theorem wit_descriptor_start : let s (o : Nat) := stEngine { Engine.init with plan := [(0, stDsc o)], planN := 1, passBeat := 7 }
    s 1 = s 1 ∧ ((s 1).engine 0).ix < ((s 1).engine 0).planN ∧ (s 1).dCutOff (stDsc 1) = false ∧ (s 1).dHeld (stDsc 1) = false ∧
      (s 1).triggered 0 (stDsc 1) = true ∧ (s 1).dRefused 0 (stDsc 1) false = false ∧ dOpc (stDsc 1) ≠ 0 ∧ (s 0).dCutOff (stDsc 0) = false ∧
      (s 0).triggered 0 (stDsc 0) = true ∧ (s 0).dRefused 0 (stDsc 0) false = false ∧ dOpc (stDsc 0) = 0 ∧ (s 7).dRefused 0 (stDsc 7) false = true ∧
      (s 7).dCutOff (stDsc 7) = false := by
  refine ⟨rfl, ?_⟩; decide
theorem wit_copy_rows : let s (o : Nat) := stEngine { Engine.init with busy := some ⟨stDsc o, 0, 1, []⟩, passBeat := 7 }
    (s 1).dHeld (stDsc 1) = false ∧ dOpc (stDsc 1) = 1 ∧ dOpc (stDsc 2) = 2 ∧ dOpc (stDsc 3) = 3 ∧ checkOf (s 1) (hbmRow 0 (rowOf (stDsc 1) (dHrow (stDsc 1)) 1)) [] 0 = .clean ∧
      dPortTile (stDsc 1) (1 % dNport (stDsc 1)) = 0 ∧ dPortNo (stDsc 1) (1 % dNport (stDsc 1)) = 5 ∧ PortTakes (s 1) 0 5 ∧
      (s 1).chanHeld 0 (rowOf (stDsc 1) (dHrow (stDsc 1)) 1) = false ∧
      (s 3).anyHeld [(0, rowOf (stDsc 3) (dHrow (stDsc 3)) 1), (0, dMoveTo (stDsc 3) + 1)] = false ∧ Memory.wf (s 3).mem = true := by
  unfold PortTakes; decide
theorem wit_copy_write : let p : Packet := ⟨9, 0, 0, List.replicate 512 0⟩
    let s := { stEngine { Engine.init with busy := some ⟨stDsc 2, 0, 1, []⟩, passBeat := 7 } with ringOut := [(ringKey 0 5, [p])] }
    (Tab.get [] s.ringOut (ringKey 0 5)).find? (fun p => p.label == dLabel (stDsc 2)) = some p ∧ p.row.length = 512 := ⟨rfl, List.length_replicate⟩

/-- One layer, one key-value head of 64 one-byte elements: 64 bytes a vector, one packet a token. -/
def stModel : Bytes := [0, 0, 1, 0, 0, 0, 0, 1, 64, 0, 1, 0]
/-- Slot 5 of brood 0 holds no token yet and has frame 3. -/
def stPaged (o done : Nat) : State :=
  { stEngine { Engine.init with busy := some ⟨stDsc o, 0, done, []⟩, passBeat := 7 } with
    img := { Img.init with loaded := some { stImage [] with models := [stModel], pools := [⟨0, 0, 4, [0], [0]⟩] } },
    adm := { Adm.init with lens := [(2 * 5 + 1, some 0)], pages := [(4096 * 5, BitVec.ofNat 32 (2 ^ 31 + 3))] },
    ringOut := [(ringKey 0 5, [⟨9, 0, 0, List.replicate 512 0⟩])] }
theorem wit_pread : let s := stPaged 4 7; let r : CopyRun := ⟨stDsc 4, 0, 7, []⟩
    s.dHeld r.d = false ∧ dOpc r.d = 4 ∧ s.poolOf r.d = some (⟨0, 0, 4, [0], [0]⟩, stModel) ∧
      (s.pPackets 7 r.d stModel)[7]? = some ⟨5, 0, 0, false, 7⟩ ∧
      s.anyHeld (s.pRows ⟨0, 0, 4, [0], [0]⟩ stModel r.d ⟨5, 0, 0, false, 7⟩) = false ∧ dPortTile r.d (7 % dNport r.d) = 0 := by decide
theorem wit_pappend : let s := stPaged 5 0; let r : CopyRun := ⟨stDsc 5, 0, 0, []⟩
    s.dHeld r.d = false ∧ dOpc r.d = 5 ∧ tokenPackets stModel = 1 ∧ (s.liveSlots 7 (pBrood r.d))[0 / 1]? = some (5, 0) ∧ (0 + 1) % 1 = 0 ∧
      dPortTile r.d (0 % dNport r.d) = 0 ∧ vecBytes stModel = 64 ∧ s.anyHeld (s.tokenRows ⟨0, 0, 4, [0], [0]⟩ stModel r.d 5 0) = false ∧
      (0, false) ∈ dSegments r.d ∧ s.blockAt ⟨0, 0, 4, [0], [0]⟩ stModel 0 5 0 0 false = some (0, 48) ∧
      checkOf s (hbmRow 0 48) [] 0 = .clean ∧ Memory.wf s.mem = true := by decide
theorem wit_relay : let s := stEngine { Engine.init with busy := some ⟨stDsc 6, 0, 128, []⟩, passBeat := 7 }
    s.dHeld (stDsc 6) = false ∧ dOpc (stDsc 6) = 6 ∧ 128 % 2 = 0 ∧ 128 / 2 ≤ 64 ∧ (s.tile (dPortTile (stDsc 6) 0)).selfFenced = false ∧
      s.tileOn (dPortTile (stDsc 6) 0) = true := by decide
theorem wit_relay_command : let s := stTile 0 { Tile.init with relayQ := [⟨16383, 1, 63, 255, 95⟩] }
    s.routerOn 0 = true ∧ (s.tile 0).relayQ = [⟨16383, 1, 63, 255, 95⟩] := by decide
theorem wit_wenwyn : let s := stEngine { Engine.init with passBeat := 7 }
    stDsc 3 < 2 ^ 256 ∧ (s.engine 0).wq = [] ∧ dOpc (stDsc 3) = 3 ∧ s.dRefused 0 (stDsc 3) true = false ∧ s.dCutOff (stDsc 3) = false ∧
      s.dHeld (stDsc 3) = false ∧ s.anyHeld [(0, rowOf (stDsc 3) (dHrow (stDsc 3)) 0), (0, dMoveTo (stDsc 3))] = false ∧
      checkOf s (hbmRow 0 (rowOf (stDsc 3) (dHrow (stDsc 3)) 0)) [] 0 = .clean := by decide

def stStack (x : Stack) : State := { State.reset with stks := [(23, x)] }
theorem wit_patrol : let s := stStack { Stack.init with st := 1, live := 1, patrol := 4394526 }
    (s.stack 23).st = 1 ∧ (s.stack 23).selfRef = false ∧ s.chanHeld 23 (s.stack 23).patrol = false ∧ 0 < stackRows (s.stack 23).live ∧
      (s.stack 23).patrol + 1 < stackRows (s.stack 23).live ∧ checkOf s (hbmRow 23 (s.stack 23).patrol) [] 0 = .clean := by decide
theorem wit_patrol_wrap : let s := stStack { Stack.init with st := 1, live := 1, patrol := 4394527 }
    stackRows (s.stack 23).live ≤ (s.stack 23).patrol + 1 := by decide
theorem wit_patrol_hit : let s := stStack { Stack.init with st := 1, live := 1, patrolOld := [0] }
    checkOf s (hbmRow 23 (s.stack 23).patrol) [⟨0, false, 2⟩] 0 = .corrected 2 ∧ (s.stack 23).patrol ∈ (s.stack 23).patrolOld ∧
      checkOf s (hbmRow 23 (s.stack 23).patrol) [⟨0, true, 2⟩] 0 = .bad 2 := by decide
theorem wit_retrain : let s := stStack { Stack.init with st := 1, live := 0x8000, drift := [15], retr := none }
    (s.stack 23).retr = none ∧ bitOf (s.stack 23).live 15 = true ∧ 15 ∈ (s.stack 23).drift := by decide
theorem wit_retrain_done : let s := stStack { Stack.init with st := 1, live := 0x8000, retr := some 15, tries := 3 }
    (s.stack 23).retr = some 15 ∧ 3 ≤ (s.stack 23).tries ∧ s.img.loaded = none ∧ s.img.load = none := by decide
theorem wit_hbm_retrain_action : let s := stOp { stStack { Stack.init with st := 1, live := 0xFFFF } with fordan := { Fordan.init with vol := [(0x5400 * 256 + 2, some 23)] } }
    s.setting 0x5400 2 = 23 ∧ s.setting 0x5400 3 = 0 ∧ OperatorSession s 31 :=
  ⟨by decide, by decide, by decide, stSess, by decide, rfl⟩

def stTime (z : TimeUnit) (src : Nat) : State :=
  { State.reset with
    time := z, boot := { State.reset.boot with step := 8, done := true },
    fordan := { Fordan.init with sess := [(31, some stSess)] },
    flash := { State.reset.flash with objs := [(0x2801 * 256 + 1, some src), (0x2801 * 256 + 5, some 1)] } }
def stHead : PtpHead := { domain := 0, logInt := -7, transport := 0, src := [1] }
theorem wit_time_sync : let s := stTime { TimeUnit.init with st := .acquiring, good := 15, master := some [1], newLane := 1 } 2
    s.timeUp = true ∧ s.ptpTakes { stHead with transport := s.setting 0x2802 2 } = true ∧ s.time.master = some stHead.src ∧ s.time.newLane ≤ 1 ∧
      s.setting 0x2801 1 = 2 ∧ s.time.untaken = true ∧ s.time.good ≥ 15 ∧ s.ptpTakes { stHead with domain := 128 } = false ∧
      (((0 : Nat) : Int) + s.time.pathDelay + toI32 (s.setting 0x2802 4) - s.time.phase 0).natAbs ≤ 100 := by decide
theorem wit_time_far : let s := stTime { TimeUnit.init with st := .locked, far := 3, master := some [1] } 2
    s.time.st = .locked ∧ s.time.far = 3 ∧ s.setting 0x2801 1 = 2 ∧
      1000 < (((5000 : Nat) : Int) + s.time.pathDelay + toI32 (s.setting 0x2802 4) - s.time.phase 0).natAbs := by decide
theorem wit_time_pps : let s := stTime { TimeUnit.init with st := .acquiring, good := 15, ppsGood := 3, ppsNext := some 0 } 4
    s.setting 0x2801 1 = 4 ∧ s.time.untaken = true ∧ s.time.valid = false ∧ s.time.ppsNext = some 0 ∧
      (((0 : Nat) : Int) * 1000000000 + toI32 (s.setting 0x2803 2) - s.time.phase 0).natAbs ≤ 100 := by decide
theorem wit_time_loss : let s := stTime { TimeUnit.init with st := .locked, src := 4, ppsQ := true, valid := true } 4
    s.timeUp = true ∧ s.time.st = .locked ∧ s.anyWork = false ∧ s.time.valid = true := by decide
theorem wit_time_set : let s := stTime TimeUnit.init 4
    OperatorSession s 31 ∧ s.setting 0x2801 5 = 1 ∧ s.time.st = .unset := ⟨⟨rfl, stSess, rfl, rfl⟩, by decide, rfl⟩
theorem wit_time_holdover : (stTime { TimeUnit.init with st := .holdover } 4).time.st = .holdover := rfl

theorem wit_nominal_mark : let s := { State.reset with time := { TimeUnit.init with valid := true } }
    s.time.valid = true ∧ State.reset.time.valid = false ∧ s.beat.sixteenth < 15 := by decide
theorem wit_region_mark : let s := stMark { Region.init with st := .active, marked := true, markOf := 6 }
    s.markDue 0 = true ∧ s.woken 0 = false ∧ 144 ∈ s.sCores 0 ∧ (s.tile 144).waitB.isSome = true := by decide
theorem wit_region_change : let s := stMark { Region.init with st := .active, marked := true, markOf := 6, opPend := 3, opPendBeat := 7 }
    s.markDue 0 = true ∧ s.woken 0 = false ∧ s.changeDue 0 = true := by decide
theorem wit_region_woken : let s := stMark { Region.init with st := .stopped, wakeAt := 100 }
    s.markDue 0 = true ∧ s.woken 0 = true := by decide

theorem wit_clock_input : let s := stTile 0 Tile.init; let l := clkInputs (s.clkWord 0)
    s.active 0 = true ∧ s.usable 0 = true ∧ l = [2, 3] ∧ (l.drop (0 + 1) ++ l.take 0).find? (fun c => [3].contains c) = some 3 ∧
      (∀ c ∈ l, c ∉ [4, 5]) := by decide
theorem wit_frequency_request : let s := stMark { Region.init with st := .active, marked := true, markOf := 7 }
    (s.region 0).st = .active ∧ s.opCeil 0 ≤ 5 ∧ s.pointFits 0 5 = true ∧ (s.region 1).changes = [] ∧ (s.field 0).noClk = false ∧ s.beat.count + 2 ≤ 9 := by
  decide
theorem wit_frequency_refused : let s := stMark { Region.init with rg := { RegRec.none with w := 100000000 } }
    s.pointFits 0 0 = false := by decide
theorem wit_frequency_change : let s := stMark { Region.init with st := .stopped, changing := true, marked := true, markOf := 7, opPend := 5, opPendBeat := 7 }
    (s.region 0).changing = true ∧ 144 ∈ (s.updRegion 0 fun r => { r with st := .active }).sCores 0 ∧ (s.tile 144).waitB.isSome = true := by decide

/-- A header of an HLD-1648-F at instar 1, compiled while the device stood at instar 1, whose change-log digest is 7 and 63 zero bytes. -/
def stHdrA : Bytes :=
  [ascii "CARCELIM", [1, 0], leBytes 2 1024, stZ 4, leBytes 8 2048, [2], stZ 7, leBytes 8 1024, [1, 0, 0, 0], [0, 1, 1, 1], leBytes 4 20000,
    stZ 12].flatten
def stHdrB : Bytes := [[7], stZ 99, [1, 0, 0, 0], leBytes 4 100, stZ 20].flatten
def stHdrP : Bytes := stHdrA ++ (devId ++ stHdrB)
def stHdr (content : Bytes) : Bytes := stHdrP ++ (content ++ stZ 704)
theorem stHdrP_length : stHdrP.length = 256 := by
  have : stHdrA.length = 64 := by decide
  have : stHdrB.length = 128 := by decide +kernel
  simp [stHdrP, devId_length, *]
theorem stHdr_id (c : Bytes) : slice (stHdr c) 64 64 = devId := by
  have ha : stHdrA.length = 64 := by decide
  have e1 := slice_append_right (a := stHdrA) (b := devId ++ stHdrB) (o := 0) (n := 64)
  rw [ha] at e1
  rw [stHdr, slice_append_left (by simp [stHdrP_length]), stHdrP, e1, slice_append_left (by simp [devId_length]), ← devId_length, slice_self _ rfl]
def stLoadOk : State :=
  let s := stOp State.reset
  { s with img := { s.img with hdr := stHdr (stZ 64) },
           flash := { s.flash with fp0 := { fpF with instar := 2, log := [⟨2, [], []⟩, ⟨1, 7 :: stZ 63, []⟩] } } }
theorem wit_image_load : stLoadOk.boot.done = true ∧ (∃ q, stLoadOk.sess 31 = some q ∧ q.role = .operator) ∧ stLoadOk.busyForLoad = false ∧
    stLoadOk.img.load = none ∧ stLoadOk.hdrCode (slice stLoadOk.img.hdr 0 1024) = none ∧ stLoadOk.train.snapReq = none ∧ stLoadOk.train.restoring = none ∧ Memory.wf stLoadOk.mem = true ∧
    (stOp State.reset).hdrCode (slice (stOp State.reset).img.hdr 0 1024) = some 0x81 := by
  refine ⟨by decide, ⟨stSess, by decide⟩, by decide, by decide, ?_, rfl, rfl, by decide, by decide +kernel⟩
  have h : slice stLoadOk.img.hdr 0 1024 = stHdr (stZ 64) := slice_self _ (by
    rw [show stLoadOk.img.hdr = stHdr (stZ 64) from rfl]
    simp only [stHdr, stZ, List.length_append, stHdrP_length, List.length_replicate])
  rw [h, State.hdrCode]
  simp only [stHdr_id, bne_self_eq_false]
  decide +kernel
/-- A load that holds the image of `stHdr`: a model section and a bucket section of zero bytes, and the state that runs it. -/
def stHeld : Tab Byte := [(1024, 1), (1024 + 9, 6), (1024 + 32, 2), (1024 + 36, 255), (1024 + 37, 255), (1024 + 38, 255), (1024 + 39, 255), (1024 + 32 + 9, 6), (1024 + 32 + 16, 16)]
def stContent : Bytes := sha512 (memRead stHeld 1024 1024 ++ stHdrP)
def stHeldLoad (content : Bytes) (b : Tab Byte) : Load :=
  { handle := 5, step := 3, hdr := stHdr content, got := [(1024, 1088), (1536, 2048)], image := none, bytes := b }
def stBuild : State := { State.reset with img := { Img.init with load := some (stHeldLoad stContent stHeld) } }
theorem wit_sections_table : (stHeldLoad (stZ 64) []).allHeld = true ∧ tableBad (stHeldLoad (stZ 64) []).hdr (stHeldLoad (stZ 64) []).entries = true := by
  decide +kernel
theorem stContent_ok : (stHeldLoad stContent stHeld).contentOf = hContent (stHdr stContent) := by
  have e : slice (stHdr stContent) 0 0x100 = stHdrP := by
    rw [stHdr, slice_append_left (by simp [stHdrP_length]), ← stHdrP_length, slice_self _ rfl]
  have e1 := slice_append_right (a := stHdrP) (b := stContent ++ stZ 704) (o := 0) (n := 64)
  rw [stHdrP_length] at e1
  have e2 : slice (stContent ++ stZ 704) 0 64 = stContent := by
    rw [slice_append_left (by simp [stContent, sha512_length])]; exact slice_self _ (sha512_length _)
  have h : hContent (stHdr stContent) = stContent := by rw [hContent, stHdr, e1, e2]
  rw [h, Load.contentOf, show (stHeldLoad stContent stHeld).hdr = stHdr stContent from rfl, e]
  exact congrArg (fun n => sha512 (memRead stHeld 1024 n ++ stHdrP)) (show hImgLen (stHdr stContent) - 1024 = 1024 by decide +kernel)
theorem wit_sections_installed : let l := stHeldLoad stContent stHeld; let i := imageOf l.hdr l.secs
    stBuild.img.load = some l ∧ l.step = 3 ∧ l.allHeld = true ∧ tableBad l.hdr l.entries = false ∧ l.strayed = false ∧ l.padBad = false ∧
      l.contentOf = hContent l.hdr ∧ stBuild.absentNamed i = false ∧ stBuild.repairsAt i ≠ none ∧ hInstar l.hdr = stBuild.instar ∧ (stBuild.stageWeights i).formsStaged i = true ∧
      (stBuild.stageWeights i).parityOk i = true ∧ (stBuild.stageWeights i).tablesBad i = false ∧
      stBuild.setting 0x8000 4 ∈ leList (leAt l.hdr 0x02F 1) 4 (slice l.hdr 0x030 16) :=
  ⟨rfl, rfl, by decide +kernel, by decide +kernel, by decide +kernel, by decide +kernel, stContent_ok, by decide +kernel, by decide +kernel, by decide +kernel, by decide +kernel, by decide +kernel,
    by decide +kernel, by decide +kernel⟩
theorem wit_load_complete : let s := { State.reset with img := { Img.init with load := some { stHeldLoad [] [] with step := 8 }, loaded := some (stImage []) } }
    s.img.load = some { stHeldLoad [] [] with step := 8 } ∧ (∀ g < 32, s.inUse g = false) ∧ (stOp State.reset).busyForLoad = false := by
  refine ⟨rfl, ?_, ?_⟩ <;> decide

theorem wit_patch : let s := stFault true 1; let i := (s.img.loaded).getD (stImage [])
    s.flt.todo.find? (fun c => c.2 == .patch 0) = some (5, .patch 0) ∧ s.img.loaded = some i ∧ s.placeOf 0 = 0 ∧ i.uses 0 = true ∧
      s.boot.commitDue = [] ∧ s.trainTensors = [] ∧ s.patchFor i 0 = some ⟨0, 0, 1, []⟩ ∧ (∀ c ∈ s.flt.todo, c.2 ≠ .patch 5) := by decide
theorem wit_no_patch : let s := stFault false 1; let i := (s.img.loaded).getD (stImage [])
    s.patchFor i 0 = none ∧ tileRegion 0 = 0 ∧ s.inUse 0 = true ∧ s.training = false ∧ i.detours.find? (fun d => d.mask == s.lostMask) = some ⟨1, 24, 0, []⟩ := by
  decide
theorem wit_no_detour : let s := stFault false 2; let i := (s.img.loaded).getD (stImage [])
    (5, Repair.detour 0) ∈ s.flt.todo ∧ s.img.loaded = some i ∧ i.detours.find? (fun d => d.mask == s.lostMask) = none := by decide
theorem wit_clean_restart_stream : let q := { stReq with key := List.replicate 16 1 }
    let s := { State.reset with img := { Img.init with restart := true }, reqs := [(0, some q)] }
    s.reqList = [(0, q)] ∧ q.live = true ∧ s.slotRuns q = true ∧ s.bad = [] ∧ s.tiles = [] ∧ isTile .v (s.standIn 96) = true := by decide
theorem wit_clean_restart :
    let s := { stEngine { Engine.init with planN := 1 } with
      img := { Img.init with restart := true, loaded := some (stImage []) }, regions := [(0, { Region.init with st := .stopped })],
      beat := { Beat.init with abandoned := true } }
    s.img.restart = true ∧ (s.region 0).st = .stopped ∧ (s.region 0).lost = false ∧ (s.engine 0).planN ≠ 0 ∧ s.beat.abandoned = true ∧
      s.adm.why ≠ 0x10 := by decide

def stGyB : Bytes := [71, 89, 1, 2, 0, 48, 0, 0, 0, 0, 0, 0, 0, 0, 0, 5, 0, 0, 0, 0, 0, 0, 0, 7, 0, 0, 0, 0, 0, 0, 0, 9]
def stGyMac : Bytes := [62, 43, 71, 24, 110, 235, 31, 117, 249, 201, 215, 135, 46, 50, 33, 73]
def stGyMsg (b : Bytes) (frag : Bool) : Datagram := { lane := 0, vlan := 0, dev := [], devPort := 1, peer := [9], peerPort := 77, data := b, frag := frag }
theorem wit_host_message : let s := stGy State.reset; let d := stGyMsg (stGyB ++ stGyMac) false
    (Instr.cancel d, 2) ∈ [(Instr.submit d, 1), (Instr.cancel d, 2), (Instr.query d, 3), (Instr.prompt d, 4)] ∧
      s.bindingOf d = some (0, 1) ∧ s.verifies 0 2 d.data = true ∧ (s.part 0).place (8 + d.data.length) = some 0 := by
  refine ⟨by decide, ?_, ?_, ?_⟩ <;> decide +kernel
theorem wit_host_ring_full : let s := { stGy State.reset with parts := [(0, { Partn.init with ring := [⟨0, 4194300, [], [], 0, 1, 0⟩], tail := 4194300 })] }
    let d := stGyMsg (stGyB ++ stGyMac) false
    s.bindingOf d = some (0, 1) ∧ s.verifies 0 2 d.data = true ∧ (s.part 0).place (8 + d.data.length) = none := by
  refine ⟨?_, ?_, ?_⟩ <;> decide +kernel
theorem wit_host_dropped : let s := stGy State.reset
    s.bindingOf (stGyMsg [] false) = some (0, 1) ∧ s.verifies 0 2 [] = false ∧ (stGyMsg [] true).frag = true ∧
      State.reset.bindingOf (stGyMsg [] false) = none ∧ (Win.mk 6 3).accepts 9 = true := by
  refine ⟨?_, ?_, ?_, ?_, ?_⟩ <;> decide +kernel

/-- A record of a message of this type on binding 1, in partition 0's ring. -/
def stRec (b : Bytes) : RingRec := { off := 0, size := 8 + b.length, data := b, src := [9], srcPort := 77, bind := 1, time := 3 }
def stRing (s : State) (b : Bytes) : State := { stGy s with parts := [(0, { Partn.init with ring := [stRec b] })] }
/-- SUBMIT, CREF 9: model 0, one prompt token of `pn`, ten to generate, TOP_P 1. -/
def stSubmit (pn : Byte) : Bytes :=
  [[0, 0, 0, 1], stZ 27, [9, 0, 0, 0, 0, 0, 0, 0, pn, 0, 0, 0, 10, 0, 0, 0, 0, 0x3F, 0x80, 0, 0], stZ 60, [0, 0, 0, 5], stZ 16].flatten
/-- An image with one model of vocabulary 16, a bucket of a context of 64, and a pool of one frame. -/
def stModelImage : Image :=
  { stImage [] with models := [stZ 24 ++ [16, 0, 0, 0]], buckets := [⟨0, 0, 0, 1, 64, 64, 1⟩], pools := [⟨0, 0, 1, [0], [0]⟩] }
def stServe : State :=
  let s := stRing State.reset (stSubmit 1)
  { s with time := { s.time with valid := true }, img := { s.img with loaded := some stModelImage }, adm := { s.adm with isOpen := true, why := 0 } }
def stPopped (s : State) : State := { (s.updPart 0 fun y => { y with ring := [] }) with adm := { s.adm with turn := 1 } }
def stNewReq (b : Bytes) : Req := (newReq 0 (stRec b)).addTokens 0 (tokensOf b 112)
def stWith (s : State) (q : Req) : State :=
  { stPopped s with reqs := Tab.put none s.reqs 0 (some q), adm := { (stPopped s).adm with reqN := 1 } }
theorem wit_submit : let s := stServe; let q := stNewReq (stSubmit 1); let w := stWith s q; let k := cdiv (subP q.sub + subN q.sub) 64
    s.nextRing = some 0 ∧ (s.part 0).ring = [stRec (stSubmit 1)] ∧ s.bindUp 0 1 = true ∧ beAt (stSubmit 1) 3 1 = 1 ∧
      (stPopped s).findReq 0 (fun q => q.cref == beAt (stSubmit 1) 24 8) = none ∧ q.refuse ≠ 6 ∧ q.complete = true ∧ q.segs = subSegs q.sub ∧
      w.admitCode q = none ∧
      (w.bestSlot 0 (subP q.sub) (stModelImage.buckets.filter fun b => b.model == subModel q.sub && decide (subP q.sub + subN q.sub ≤ b.ctx))).any
        (fun c => decide (c.bf ≤ s.beat.count + s.setting 0x4800 4)) = true ∧
      w.framesUsed 0 + k ≤ w.quota 0 2 ∧ (w.framesFree stModelImage (subModel q.sub) k).length = k ∧ journalNeed q.sub ≤ s.adm.jFree ∧
      w.ringFree ≠ 0 := by
  refine ⟨?_, ?_, ?_, ?_, ?_, ?_, ?_, ?_, ?_, ?_, ?_, ?_, ?_, ?_⟩ <;> decide +kernel
theorem wit_submit_assembling : let s := stRing State.reset (stSubmit 2); let q := stNewReq (stSubmit 2)
    s.nextRing = some 0 ∧ q.refuse ≠ 6 ∧ q.segs ≤ subSegs q.sub ∧ q.complete = false ∧ (stNewReq (stSubmit 0)).refuse = 6 ∧
      (stWith (stRing State.reset (stSubmit 1)) (stNewReq (stSubmit 1))).admitCode (stNewReq (stSubmit 1)) = some (1, 0) := by
  refine ⟨?_, ?_, ?_, ?_, ?_, ?_⟩ <;> decide +kernel
/-- A message to the request of handle 5, or of CREF 9 while it is assembled. -/
def stMsg5 (ty n : Byte) : Bytes := [[0, 0, 0, ty], stZ 19, [5], stZ 7, [9], stZ 11, [n], stZ 20].flatten
def stHeldReq (s : State) : State := { s with reqs := [(0, some stReq)] }
def stAsm (s : State) : State := { s with reqs := [(0, some { stNewReq (stSubmit 2) with cref := 9 })] }
theorem wit_cancel : let b := stMsg5 2 0; let s := stHeldReq (stRing State.reset b)
    s.nextRing = some 0 ∧ beAt b 3 1 = 2 ∧ (stPopped s).reqOf 0 (beAt b 16 8) = some (0, stReq) ∧ s.req 0 = some stReq ∧ stReq.phase = .decoding ∧ s.ended stReq = false ∧
      (stPopped (stRing State.reset b)).reqOf 0 (beAt b 16 8) = none := by
  refine ⟨?_, ?_, ?_, ?_, ?_, ?_, ?_⟩ <;> decide +kernel
theorem wit_query : let b := stMsg5 3 1; let s := stHeldReq (stRing State.reset b)
    s.nextRing = some 0 ∧ beAt b 3 1 = 3 ∧ (stPopped s).reqOf 0 (beAt b 16 8) = some (0, stReq) ∧ beAt b 32 1 = 0 ∧ beAt b 40 4 = 1 * 2 ^ 0 ∧
      zeroAt b 33 3 = true ∧ zeroAt b 44 4 = true := by
  refine ⟨?_, ?_, ?_, ?_, ?_, ?_, ?_⟩ <;> decide +kernel
def stPrompt : Bytes := [[0, 0, 0, 4], stZ 27, [9], stZ 24].flatten
theorem wit_prompt : let s := stAsm (stRing State.reset stPrompt); let q := { stNewReq (stSubmit 2) with cref := 9 }
    s.nextRing = some 0 ∧ beAt stPrompt 3 1 = 4 ∧
      (stPopped s).findReq 0 (fun q => q.phase == .assembling && q.cref == beAt stPrompt 24 8) = some (0, q) ∧ s.req 0 = some q ∧
      (stPopped (stRing State.reset stPrompt)).findReq 0 (fun q => q.phase == .assembling && q.cref == beAt stPrompt 24 8) = none := by
  refine ⟨?_, ?_, ?_, ?_, ?_⟩ <;> decide +kernel

def stTok (q : Req) : State := { stGy State.reset with reqs := [(0, some q)] }
theorem wit_token_due : let q := { stReq with due := true }; let s := stTok q
    s.req 0 = some q ∧ s.withheld = false ∧ s.bindUp q.part q.bind = true ∧ q.held = [] ∧ q.owes = 0 ∧ q.wait = [] ∧
      s.beat.abandoned = false ∧ ({ s with tiles := [(0, { Tile.init with capture := some ⟨0, 0, 0, 0, 0, 0, 0, 0⟩ })] } : State).withheld = true ∧ q.live = true ∧ q.phase ≠ .cancelling ∧
      ({ s with ports := [] } : State).bindFor q.part q.bind q.src = none := by
  refine ⟨?_, ?_, ?_, ?_, ?_, ?_, ?_, ?_, ?_, ?_, ?_⟩ <;> decide +kernel
theorem wit_token_owed : let q := { stReq with owes := 1 }; let s := stTok q
    s.req 0 = some q ∧ s.flt.disputes = [] ∧ q.wait = [] ∧ s.bindUp q.part q.bind = true ∧ q.held = [] := by decide +kernel
theorem wit_complete : let q := { stReq with phase := .complete, recB := [1] }; let s := stTok q
    s.req 0 = some q ∧ q.compDone = false ∧ q.recB ≠ [] ∧ q.wait = [] ∧ s.bindUp q.part q.bind = true ∧ q.live = false ∧ q.due = false := by decide +kernel
theorem wit_held : let q := { stReq with held := [0], out := [⟨5, 0, 0, 0, 0, 0, 0⟩] }; let s := stTok q
    s.req 0 = some q ∧ q.held = [0] ∧ q.out[0]? = some ⟨5, 0, 0, 0, 0, 0, 0⟩ ∧ q.phase ≠ .complete ∧ s.bindUp q.part q.bind = true := by decide +kernel
theorem wit_assembling : let q := { stReq with phase := .assembling }; (stTok q).req 0 = some q ∧ (stTok q).bindUp q.part q.bind = true := by decide +kernel

theorem wit_partition : let s := stOp State.reset
    s.boot.done = true ∧ s.sess 31 = some stSess ∧ stSess.role = .operator ∧ s.partState 0 = 0 ∧ s.hasWork 0 = false ∧
      ((upTo 16).filter fun o => o != 0 && s.partState o != 0).length + 1 ≤ s.partLimit ∧ Tab.wf none s.reqs = true ∧
      s.committedPower 0 ≤ 5 * 1000 ∧ s.quota 0 3 = 0 ∧ bindVlan (2 ^ 32 + 2 ^ 16) ≤ 4094 ∧ 1 ≤ bindPort (2 ^ 32 + 2 ^ 16) := by decide
theorem wit_partition_refused : let s := stOp (stGy State.reset)
    let w := { s with reqs := [(0, some { stReq with part := 1 })], adm := { s.adm with pps := 9 }, flash := { s.flash with
      objs := [(0x400001, some 1), (0x400006, some (2 ^ 32 + 2 ^ 16)), (0x400101, some 1), (0x400201, some 1), (0x400301, some 1), (0x440103, some 7)] } }
    w.hasWork 1 = true ∧ w.partState 4 = 0 ∧ w.partLimit < ((upTo 16).filter fun o => o != 4 && w.partState o != 0).length + 1 ∧
      bindOn (w.bindWord 0 1) = true ∧ bindLane (w.bindWord 0 1) = bindLane (2 ^ 32 + 2 ^ 16) ∧ 0 * 1000 < w.committedPower 1 ∧ w.quota 1 3 ≠ 0 := by decide
theorem wit_retention : ({ State.reset with reqs := [(0, some { stReq with phase := .complete, compDone := true })] } : State).req 0 =
    some { stReq with phase := .complete, compDone := true } := by decide

theorem wit_sample : let s := stMark { Region.init with st := .active, marked := true }
    s.boot.meterStop = false ∧ s.active 0 = true ∧ (s.region 0).marked = true ∧ s.setting 0x2000 1 < 20000 := by decide
def stMeter (u : Meter) : State := { State.reset with meter := u, beat := { Beat.init with count := 3 } }
def stGap : Gap := { first := 1, last := 2, eIn := 3, eReq := 0, eFault := 0, eUn := 3 }
theorem wit_meter : let s := stMeter { Meter.init with begun := true, round := 9 }; let w := stMeter { Meter.init with missed := some stGap }
    s.meter.begun = true ∧ s.boot.meterStop = false ∧ roundBeats s.beat.len ≤ s.meter.round ∧ w.meter.begun = false ∧ 1 ≤ w.beat.count ∧
      w.meter.missed = some stGap ∧ w.beatPlace = true := by decide
theorem wit_export : let s := stOp State.reset
    s.boot.done = true ∧ s.sess 31 = some stSess ∧ stSess.role = .operator ∧ stSess.chain < 16 ∧ stSess.exportH = 0 ∧
      0 ≤ Tab.get 0 s.meter.seqs stSess.chain := by decide

theorem wit_pcap : State.reset.pwr.pcap = false ∧ Tab.wf none State.reset.reqs = true ∧ State.reset.pwr.inCut = false ∧
    State.reset.setting 0x2000 2 = 9000 ∧ (∃ q, (stOp State.reset).sess 31 = some q ∧ q.role = .operator) ∧ (stOp State.reset).boot.done = true ∧
    (stOp State.reset).moduleCommitted ≤ 6000 * 1000 ∧
    6000 * 1000 < ({ stOp State.reset with reqs := [(0, some stReq)], adm := { Adm.init with pps := 6000001 } } : State).moduleCommitted :=
  ⟨by decide, by decide, by decide, by decide, ⟨stSess, by decide⟩, by decide, by decide, by decide⟩

theorem wit_wake : State.reset.mayWake 0 = true ∧ (stTile 0 Tile.init).mayWake 0 = false ∧
    (let s := { State.reset with regions := [(0, { Region.init with waking := true, wakeK := 3 })] }
     (s.region 0).waking = true ∧ (s.region 0).wakeK < 8 ∧ s.wakeTurnOf 0 = true ∧ (s.endGrant 0 (fun x => x.tile == 2688)).stageReady 0 = true) ∧
    (let s := { State.reset with regions := [(0, { Region.init with waking := true, wakeK := 3, j := 249 })] }
     (s.endGrant 0 (fun x => x.tile == 2688)).stageReady 0 = false) ∧
    (let r : Region := { Region.init with waking := true, wakeTurn := true }
     ({ State.reset with regions := [(1, r), (2, r)] } : State).wakeTurnOf 2 = false) := by decide
theorem wit_wake_complete : let s (m : Bool) : State := { State.reset with regions := [(0, { Region.init with waking := true, wakeK := 8, wakeMoult := m })] }
    ((s false).region 0).waking = true ∧ ((s false).region 0).wakeK = 8 ∧ ((s false).region 0).wakeMoult = false ∧ ((s true).region 0).wakeMoult = true := by
  decide

theorem wit_phase : let s (p : Nat) : State := stTile 0 Tile.init |>.updRegion 0 fun r => { r with phases := p }
    bitOf ((s 0).region 0).phases 3 = false ∧ popCount32 (((s 0).region 0).phases + 2 ^ 3) = 1 ∧ popCount32 (((s 1).region 0).phases + 2 ^ 3) = 2 ∧
      popCount32 (((s 3).region 0).phases + 2 ^ 3) = 3 ∧ bitOf ((s 8).region 0).phases 3 = true ∧ Memory.wf (s 0).mem = true ∧
      State.reset.boot.supply = .on ∧ (∀ i < 32, ((s 3).region i).opNext.length ≤ 1000) ∧ (stFault true 1).inUse 0 = true := by decide

theorem wit_heat : let s : State := stTile 0 Tile.init |>.updRegion 0 fun r => { r with temps := [11000, 0, 0, 0, 0], hotSince := 5 }
    s.therm.tripped = false ∧ s.therm.halted = false ∧ 11000 ≤ (s.region 0).temp ∧ (s.region 0).hotSince ≠ 0 ∧ (s.region 0).st.code ≤ 3 ∧
      (s.region 0).heatOff = false ∧ (stFault true 1).inUse 0 = true := by decide
theorem wit_sensors : let m : Sensors := { regions := [[12000]], ring := [], stks := [] }; let c : Sensors := { regions := [], ring := [], stks := [] }
    12000 ≤ (m.regions.getD 0 []).getD 0 0 ∧ (∀ g < 32, ∀ i < 5, (c.regions.getD g []).getD i 0 < 12000) ∧ (∀ i < 4, c.ring.getD i 0 < 12000) ∧
      (∀ k < 24, c.stks.getD k 0 < 9500) := by decide
theorem wit_halt_end : let s := { State.reset with therm := { Therm.init with halted := true } }; let t := { s with therm := { s.therm with tripped := true } }
    s.therm.halted = true ∧ s.therm.tripped = false ∧ s.coolEnough = true ∧ t.therm.tripped = true := by decide
theorem wit_rewake : let s := { State.reset with regions := [(0, { Region.init with heatOff := true })] }
    (s.region 0).heatOff = true ∧ (s.region 0).temp < 9000 ∧ (State.reset.region 0).hotSince = 0 ∧ (State.reset.region 0).heatOff = false := by decide

theorem wit_fault_stop : let s := { stFault true 1 with flt := { Flt.init with todo := [(4, .declare 0), (7, .detour 1)] } }
    s.stopClass = some 4 ∧ (∀ a ∈ ({ s with flt := { s.flt with todo := [(1, .replay)] } } : State).flt.todo, a.2 = .replay ∨ a.2 = .dispute ∨ a.2.stops = false) ∧ (4, Repair.declare 0) ∈ s.flt.todo ∧ (7, Repair.detour 1) ∈ s.flt.todo ∧ (Repair.detour 1).stops = false ∧
      State.reset.stopClass = none := by decide
def stCap : Capture := { tile := 0, word := 0, ix := 3, loop := 0, step := 0, beat := 0, cyc := 0, dig := 9 }
theorem wit_capture : let s := { stFault true 1 with tiles := [(0, { Tile.init with capture := some stCap })] }
    s.checkerCore 0 = some 1 ∧ s.nextCapture 0 = some stCap ∧ (9 : W64).toNat = stCap.dig ∧ (8 : W64).toNat ≠ stCap.dig ∧
      s.beat.nextMark ≤ s.time.now + 200000 ∧ (s.region 0).dropSeen ≠ s.beat.count + 1 ∧
      ((s.updRegion 0 fun r => { r with dropSeen := 1 }).region 0).dropSeen = s.beat.count + 1 := by decide
def stDispute (age : Nat) : Dispute :=
  { digest := false, producer := 0, noSecond := false, pass := 3, checker := 1, orig := 9, chk := 8, beat := 0, age := age }
theorem wit_verdict_cores :
    let r (u : Nat) : Region := { Region.init with rg := { RegRec.none with spares := [u] } }
    let s : State := { State.reset with regions := [(1, r 336), (2, r 12)] }
    (s.repeatCores (stDispute 0)) = [336, 12] ∧ s.secondCore (stDispute 0) = some 336 ∧ State.reset.secondCore (stDispute 0) = none := by decide
theorem wit_verdict : let s (a : Nat) : State := { State.reset with flt := { Flt.init with disputes := [stDispute a] } }
    (s 0).flt.disputes = [stDispute 0] ∧ (s 0).beat.abandoned = false ∧ (8 : W64).toNat ≠ (stDispute 0).orig ∧ (9 : W64).toNat = (stDispute 0).orig ∧
      (stDispute 0).noSecond = false ∧ (stDispute 0).digest = false ∧ 4 ≤ (stDispute 4).age ∧ (stDispute 0).age < 4 ∧
      State.reset.flt.disputes = [] := by decide

theorem wit_commit : let s := stOp State.reset; let t := { s with boot := { s.boot with commitDue := [⟨1, 0, 5⟩] } }
    t.boot.done = true ∧ t.boot.commitDue = [⟨1, 0, 5⟩] ∧ t.img.load = none ∧ t.train.writing = none ∧ t.flt.todo = [] ∧ (∀ g < 32, (t.region g).opNext.length ≤ 1000) ∧ State.reset.boot.done = false := by decide
theorem wit_moult : let s := stOp State.reset; let g := s.setting 0x3400 2 % 32
    s.boot.done = true ∧ s.sess 31 = some stSess ∧ stSess.role = .operator ∧ s.moultBarred = false ∧ (s.region g).moult = none ∧ s.noWork g = true ∧
      s.moultRoom g = true ∧ ({ s with therm := { s.therm with halted := true } } : State).moultBarred = true := by decide
theorem wit_moult_waits : let s := stOp { State.reset with regions := [(1, { Region.init with moult := some ⟨1, 0, [], 0, []⟩ })] }; let g := s.setting 0x3400 2 % 32
    s.moultBarred = false ∧ (s.region g).moult = none ∧ s.noWork g = true ∧ s.moultRoom g = false := by decide
theorem wit_moult_auto : let s := (stOp { State.reset with flt := { Flt.init with queueM := 1 } }).putSetting 0x3400 3 1
    s.boot.done = true ∧ s.moultBarred = false ∧ (s.region 0).moult = none ∧ bitOf s.flt.queueM 0 = true ∧ s.moultRoom 0 = true ∧ s.noWork 0 = true ∧
      s.setting 0x3400 3 = 1 ∧ bitOf s.flt.retest 0 = false := by decide
theorem wit_moult_phases : let s (p : Nat) : State := { State.reset with regions := [(0, { Region.init with st := .moulting, moult := some ⟨p, 5, [], 0, []⟩ })] }
    ((s 1).region 0).moult = some ⟨1, 5, [], 0, []⟩ ∧ ((s 1).region 0).st = .moulting ∧ ((s 8).region 0).moult = some ⟨8, 5, [], 0, []⟩ ∧
      (144 ∈ regionTiles 0 ∧ tileKind 144 = .s) := by decide

theorem wit_training : let s := stTrain { Train.init with st := 1, step := 4 }
    s.trains = true ∧ s.mirrored 7 = true ∧ Tab.get 0 s.train.mirrors 7 ≠ s.train.step + 1 ∧ 7 ∉ s.train.late ∧ s.training = true ∧
      s.boot.done = true ∧ s.sess 31 = some stSess ∧ stSess.role = .operator ∧ s.img.load = none ∧ s.train.snapReq = none ∧ s.beat.abandoned = false ∧ s.trainOpen = true ∧
      s.bad = [] ∧
      s.mirrored 8 = false ∧ State.reset.trains = false := by decide
theorem stRowsOut (s : State) (h : s.bad = []) : ∀ l : List Nat, s.rowsOut l = (s, some (l.flatMap s.row)) := by
  intro l
  have e (i : Nat) : Tab.get 0 s.bad i = 0 := by rw [h]; rfl
  have r (i : Nat) : s.rowOut i = (s, some (s.row i)) := by
    unfold State.rowOut State.readChk checkOf
    split
    · rename_i g
      have k : spadRow (i / 768) (i % 768) = i := by unfold spadRow; omega
      simp [k, e]
    · split
      · rename_i g
        have k : deepRow ((i - 2 ^ 27) / 16384) ((i - 2 ^ 27) % 16384) = i := by unfold deepRow; omega
        rw [k]; simp [e]
      · simp [e]
  induction l with
  | nil => rfl
  | cons i l ih => simp [State.rowsOut, r, ih]
theorem wit_slot_rows : let s := stTrain { Train.init with st := 1, step := 4, writing := some (1, 9) }
    ∃ b, s.stateRows s.train.step s.train.data = (s, some b) := by
  intro s
  have h : s.trainStreams = [] := by decide +kernel
  exact ⟨_, by unfold State.stateRows; rw [stRowsOut s rfl]; simp only [h]; rfl⟩
theorem wit_slot_written : let s := stTrain { Train.init with st := 1, step := 4, writing := some (1, 9) }
    s.trains = true ∧ s.train.writing = some (1, 9) ∧ 9 ≠ 4 * 2 ^ 56 + s.boot.hctr ∧ s.beat.abandoned = false ∧
      ({ s with img := { s.img with load := some ⟨5, 3, [], [], [], none⟩ } } : State).img.load.isSome = true := by decide
def stMirror (b : Bytes) : State :=
  stTrain { Train.init with
    st := 1, step := 4, verifyLeft := 3, writing := some (1, 9), mirrors := [(7, 5)], mirrorRows := [(14, b)],
    slotA := some ⟨0, 3, 0, 1, 0, 0, 0, 0, 0, [], [], [], []⟩ }
theorem wit_mirror_differs : ∃ b, let s := stMirror b
    s.trains = true ∧ s.beat.abandoned = false ∧ s.mirrorDiffers = some 7 ∧ s.train.writing = some (1, 9) ∧ 9 ≠ 5 * 2 ^ 56 + s.boot.hctr ∧
      s.train.slot 0 = some ⟨0, 3, 0, 1, 0, 0, 0, 0, 0, [], [], [], []⟩ := by
  have key (b : Bytes) (h : sha512 b ≠ sha512 ((stMirror []).halfBytes 7 4)) : (stMirror b).mirrorDiffers = some 7 := by
    have e : (stMirror b).mirrorDiffers =
        [7].find? fun t => Tab.get 0 [(7, 5)] t == 4 + 1 &&
          sha512 (Tab.get [] [(14, b)] (mirrorKey t 4)) != sha512 ((stMirror []).halfBytes t 4) := rfl
    have g : Tab.get [] [(14, b)] (mirrorKey 7 4) = b := rfl
    rw [e, List.find?_cons_of_pos]
    show ((5 : Nat) == 5 && sha512 (Tab.get [] [(14, b)] (mirrorKey 7 4)) != sha512 ((stMirror []).halfBytes 7 4)) = true
    rw [g]
    simp [h]
  by_cases h : sha512 [1] = sha512 ((stMirror []).halfBytes 7 4)
  · have h2 : sha512 [2] ≠ sha512 ((stMirror []).halfBytes 7 4) := by rw [← h]; decide +kernel
    exact ⟨[2], rfl, rfl, key [2] h2, rfl, by decide, rfl⟩
  · exact ⟨[1], rfl, rfl, key [1] h, rfl, by decide, rfl⟩

def stChry : Chry :=
  { flags := 0, step := 4, loss := 6, ntensor := 0, nstream := 0, ninput := 0, rows := 0, time := 0, handle := 1, image := [], hash := [], data := [],
    state := [] }
theorem wit_restore : let s := stTrain { Train.init with st := 1, step := 4, slotA := some stChry }
    s.boot.done = true ∧ s.sess 31 = some stSess ∧ s.img.load = none ∧ s.trainOpen = true ∧ s.train.restoring = none ∧ s.train.st ≠ 4 ∧
      s.train.writing = none ∧ s.setting 0x7800 0x0A = 2 ∧ s.train.newest = some 0 ∧ s.train.slot 0 = some stChry ∧ s.boot.attOff = false ∧
      (s.putSetting 0x7800 0x0A 3).setting 0x7800 0x0A = 3 ∧ (s.putSetting 0x7800 0x0A 3).importOf [] = none ∧
      (stTrain Train.init).train.newest = none := by decide
theorem wit_replay : let s (t : List Nat) : State := stTrain { Train.init with st := 3, step := 4, slotA := some stChry, slotB := some stChry, tried := t, restoring := some (1, 4, 9) }
    (s []).train.restoring = some (1, 4, 9) ∧ (s []).trainState = 2 ∧ (s []).beat.abandoned = false ∧ (s []).train.lossOf 5 = some 6 ∧
      (s [1]).train.lossOf 5 ≠ some 7 ∧ (s [1]).train.slot 0 = some stChry ∧ 0 ∉ (s [1]).train.tried ∧ 1 - 0 ∈ (s [1]).train.tried ∧
      (∀ l < 2, (s [0, 1]).train.slot l = none ∨ l ∈ (s [0, 1]).train.tried) := by decide

theorem wit_power : Memory.wf (stSupply .off true).mem = true ∧ (stSupply .off true).boot.supply = .off ∧ (stSupply .off true).boot.vinOk = true ∧
    (stSupply .off true).boot.latched = false ∧ (stSupply .off true).pins.pwrEn = true ∧ (stSupply .rising true).boot.supply = .rising ∧
    (stSupply .falling true).mayPowerUp = true ∧ (stSupply .falling false).mayPowerUp = false ∧ (stSupply .falling true).boot.supply ≠ .rising := by decide

theorem wit_resets : let s := { stOp State.reset with boot := { (stOp State.reset).boot with wd := true } }
    Memory.wf s.mem = true ∧ s.boot.supply = .on ∧ (Instr.watchdogExpiry, 4) ∈ [(Instr.mrstN true, 2), (Instr.watchdogExpiry, 4), (Instr.jtagReset, 5)] ∧
      s.boot.wd = true ∧ s.pins.vsb = true ∧ s.boot.done = true ∧ s.sess 31 = some stSess ∧ stSess.role = .operator ∧ s.flash.epoch < 2 ^ 32 ∧
      5 ≠ s.flash.epoch ∧ s.boot.rst = true ∧ s.boot.pg = true ∧ s.pins.mrstN = true ∧ (stSupply .off true).boot.supply ≠ .on := by decide

def stBank : Bank := { Bank.blank with st := 2, good := true, gen := 2, tried := true }
theorem wit_bringup : StepAt (stStep 1 .delivered) 1 ∧ StepAt (stStep 2 .delivered) 2 ∧ Flash.delivered.cap.valid = true ∧
    StepAt (stStep 2 { Flash.delivered with cap := { capF with valid := false }, volt := { voltF with valid := false } }) 2 ∧
    Flash.delivered.lics = [] ∧ StepAt (stStep 3 .delivered) 3 ∧ (stStep 3 .delivered).bestBank = some 0 ∧
    (Flash.delivered.bank 0).st ≠ 2 ∧ (stStep 3 { Flash.delivered with bankA := { stBank with good := false } }).bestBank = none ∧
    (stStep 3 { Flash.delivered with bankB := stBank }).bestBank = some 1 ∧ StepAt (stStep 4 .delivered) 4 ∧
    bitOf Flash.delivered.cap.stackMask 0 = true ∧ Tab.get 0 Flash.delivered.fp.stks 0 % 256 = 1 ∧ StepAt (stStep 5 .delivered) 5 ∧
    Memory.wf (stStep 5 .delivered).mem = true ∧ (stStep 5 .delivered).boot.supply = .on ∧ (stOp State.reset).boot.done = true := by
  refine ⟨?_, ?_, ?_, ?_, ?_, ?_, ?_, ?_, ?_, ?_, ?_, ?_, ?_, ?_, ?_, ?_, ?_⟩ <;> first | (simp only [StepAt]; decide) | decide
/-- A module with stack 0 alone, at step 4, after its training. -/
def stHbmOne : State := stStep 4 { Flash.delivered with cap := { capF with stackMask := 1 } }
theorem wit_halt_step_four : StepAt stHbmOne 4 ∧ ((stHbmOne.stepHbm []).stack 0).st = 1 ∧
    (∀ k < 24, k % 2 = 1 → ((stHbmOne.stepHbm []).stack k).st ≠ 1) := by
  refine ⟨by simp only [StepAt]; decide, by decide +kernel, by decide +kernel⟩

def stFloor (n : Nat) (x : Bool) : State := { State.reset with boot := { Boot.init with rst := false, step := n, s7 := x } }
theorem wit_floor : StepAt (stFloor 6 false) 6 ∧ (stFloor 6 false).boot.s7 = false ∧ cfgForm 0 ((stFloor 6 false).cfgWidth 0) = true ∧
    (stFloor 6 false).cfgWidth 0 = 800 ∧ (stFloor 6 false).cfgWidth 1 = 0 ∧ (∀ i < 800 / 200, 0 + i ∈ [0, 1, 2, 3]) ∧
    Tab.get 0 (stFloor 6 false).fp.ports 4 ≠ 0 ∧ StepAt (stFloor 8 true) 8 ∧ StepAt (stFloor 9 true) 9 ∧ (stFloor 9 true).boot.s7 = true ∧
    (stFloor 9 true).img.load = none ∧ (stFloor 9 true).flt.todo = [] ∧ (stFloor 9 true).pins.coolantOk = true := by
  refine ⟨?_, ?_, ?_, ?_, ?_, ?_, ?_, ?_, ?_, ?_, ?_, ?_, ?_⟩ <;> first | (simp only [StepAt]; decide) | decide
theorem wit_floor_states : let f := { Flash.delivered with fp0 := { fpF with region := [(1, 5), (2, 4)], fenced := [7] }, moultMk := 8 }
    Tab.get 0 f.fp.region 1 = 5 ∧ Tab.get 0 f.fp.region 2 = 4 ∧ bitOf f.moultMk 3 = true ∧ 7 ∈ f.fp.fenced := by decide

theorem wit_ports : let s := stOp { State.reset with
      ports := [(0, { Port.init with up := true }), (4, { Port.init with retr := some 9 })], stks := [(0, { Stack.init with st := 1, live := 1 })],
      boot := { Boot.init with lane := 0 } }
    s.boot.done = true ∧ s.sess 31 = some stSess ∧ stSess.role = .operator ∧ s.boot.hctr < 2 ^ 56 ∧ s.cfgWidth 0 ≠ 0 ∧ (s.port 0).retr = none ∧
      s.cfgWidth 1 = 0 ∧ (s.port 4).retr = some 9 ∧ s.setting 0x5400 2 = 0 ∧ (s.stack 0).st = 1 ∧ (s.stack 0).retr = none ∧
      bitOf (s.stack 0).live 0 = true ∧ s.flt.todo = [] ∧ s.setting 0x5400 3 = 0 ∧ (s.port 0).up = true ∧ (s.port 1).up = false ∧ s.img.load = none ∧
      0 + 4 ≤ s.cfgWidth 4 / 200 ∧ (4 + 0) % 4 = 0 ∧ s.cfgWidth 4 ≤ 800 ∧ s.boot.lane < 2 ∧ 2 ≤ State.reset.boot.lane ∧
      (State.reset.stack 0).st ≠ 1 := by decide

def stFw : State := stOp { State.reset with
  boot := { Boot.init with fwRun := some 9 }, flash := { Flash.delivered with bankA := { Flash.delivered.bankA with svn := 6 } } }
theorem wit_firmware : stFw.boot.done = true ∧ stFw.sess 31 = some stSess ∧ stSess.role = .operator ∧ stFw.boot.hctr < 2 ^ 56 ∧
    stFw.boot.fwRun = some 9 ∧ stFw.blob 0x9000 1 = [] ∧ (stOp State.reset).boot.fwRun = none ∧ stFw.setting 0x9000 5 ≤ 6 ∧
    6 ≤ (stFw.flash.bank stFw.boot.bank).svn ∧ (stFw.flash.bank stFw.boot.bank).svn < 7 := by decide
/-- A staged image of one byte, whatever the signature check answers of it: the update is refused or it runs. -/
theorem wit_firmware_staged (h : Config.fwVerifies [1] = true) :
    let s := stOp { State.reset with fordan := { Fordan.init with volB := [(0x900001, [1])] } }
    s.blob 0x9000 1 = [1] ∧ Config.fwVerifies (s.blob 0x9000 1) = true ∧ s.img.load.isSome = false ∧ s.boot.fwRun.isSome = false ∧
      ¬ Config.fwSvn [1] < s.setting 0x9000 5 := by
  refine ⟨by decide, h, by decide, by decide, Nat.not_lt_zero _⟩

def stVendor (s : State) : State :=
  { s with boot := { s.boot with done := true }, fordan := { s.fordan with sess := [(31, some { stSess with role := .vendor, nonce := stZ 64 })] } }
theorem wit_licences : let s := stVendor { State.reset with flash := { Flash.delivered with lics := [stLicence 2, { stLicence 3 with serial := 2 }] } }
    s.boot.done = true ∧ s.sess 31 = some { stSess with role := .vendor, nonce := stZ 64 } ∧ s.boot.hctr < 2 ^ 56 ∧ (s.blob 0x9010 1).length ≠ 512 ∧
      (∀ l ∈ s.flash.lics, l.serial ≠ 3) ∧ s.flash.lics.find? (fun y => y.serial == 1) = some (stLicence 2) ∧ s.featureUsed 2 = false ∧
      (∀ y ∈ s.flash.lics, y.feature = 1 → 4 ≤ y.limit) ∧ ({ s with img := stTraining } : State).training = true := by decide
theorem wit_licence_partitions : let s := stVendor { State.reset with flash := { Flash.delivered with
      lics := [{ stLicence 1 with limit := 6 }], objs := [(0x400001, some 1), (0x400101, some 1), (0x400201, some 1), (0x400301, some 1), (0x400401, some 1)] } }
    s.flash.lics.find? (fun y => y.serial == 1) = some { stLicence 1 with limit := 6 } ∧
      4 < ((upTo 16).filter fun p => s.partState p != 0).length ∧ (∀ y ∈ s.flash.lics, y.serial ≠ 1 → y.feature ≠ 1) := by decide
theorem wit_attestation : let s := { stOp State.reset with fordan := { Fordan.init with sess := [(31, some { stSess with nonce := stZ 64 })] } }
    s.sess 31 = some { stSess with nonce := stZ 64 } ∧ (stZ 64).length = 64 ∧ stSess.role ≠ .vendor ∧ s.boot.attOff = false ∧
      stSess.nonce.length ≠ 64 ∧ s.boot.hctr < 2 ^ 56 := by decide
/-- A licence that passes every check exists or not by the licence key (log entry 13): where one does, it meets the hypothesis. -/
theorem wit_licence_good (b : Bytes) (h : (stOp State.reset).licCheck b = none) : (stOp State.reset).licRefused b = none := by
  simp only [State.licRefused, h]
  rfl

theorem wit_sessions : (stBootAt 8 true).serving = true ∧ (stBootAt 8 true).sessions.length < 32 ∧ (stBootAt 8 true).sess 1 = none ∧
    (∀ j < 1, (stBootAt 8 true).sess j ≠ none) ∧ (∀ c ∈ (stBootAt 8 true).sessions, c.2.role ≠ .vendor) ∧ (stBootAt 8 true).claimed = true ∧
    (stBootAt 8 false).claimed = false ∧ (stBootAt 8 true).blob 0x1101 3 ≠ [] ∧ (stBootAt 8 true).blob 0x1100 0x11 ≠ [] ∧ (stBootAt 7 true).boot.step < 8 ∧
    (stBootAt 8 true).sess 31 = some { stSess with exportH := 9 } ∧ ((stBootAt 8 true).hnd 9).st = 1 ∧ (stBootAt 8 true).sess 2 = none ∧
    (stBootAt 8 true).fordan.addrNew = true ∧ Tab.wf none (stBootAt 8 true).fordan.sess = true ∧ State.reset.fordan.addrNew = false := by decide
/-- Where a certificate is self-signed, an unclaimed device gives it the operator's session. -/
theorem wit_claim (h : Config.certSelfSigned [1#8] = true) :
    (stBootAt 8 false).roleOf [1#8] = some (.operator, 0x110011) := by
  simp [State.roleOf, State.anchored, show (stBootAt 8 false).blob 0x1100 0x11 = [] from by decide,
    show (stBootAt 8 false).blob 0x1100 0x12 = [] from by decide, show (stBootAt 8 false).blob 0x1100 0x13 = [] from by decide,
    show (stBootAt 8 false).blob 0x1100 0x14 = [] from by decide, show (stBootAt 8 false).claimed = false from by decide, h, objKey]

theorem wit_objects : let s := stOp State.reset
    s.boot.done = true ∧ s.sess 31 = some stSess ∧ stSess.role = .operator ∧ (stBootAt 8 true).boot.done = false ∧
      (stBootAt 8 true).sess 31 = some { stSess with exportH := 9 } ∧ s.cfgWidth 0 ≠ 0 ∧ (s.port 0).retr = none ∧ s.boot.hctr < 2 ^ 56 := by decide
theorem wit_partition_reads : ({ State.reset with fordan := { Fordan.init with sess := [(3, some { stSess with role := .partition 2 })] } } : State).sess 3 =
    some { stSess with role := .partition 2 } := by decide

def stXfer (t : Xfer) (f : Flash) : State :=
  { State.reset with flash := f, boot := { Boot.init with done := true }, fordan := { Fordan.init with sess := [(31, some stSess)], xfers := [t] } }
def stWrite (ix sub n : Nat) : Xfer := ⟨31, 4, ix, sub, false, n, 0, [], [], [], 0, 0⟩
def stRead : Xfer := ⟨31, 4, 0x8000, 6, true, 3000, 0, [], [], stZ 3000, 1340, 3000⟩
theorem wit_transfers : let s := stXfer (stWrite 0x8000 2 1024) { Flash.delivered with blobs := [(0x800006, [1, 2])] }
    s.boot.done = true ∧ s.sess 31 = some stSess ∧ stSess.role = .operator ∧ s.xferOf 31 4 = some (stWrite 0x8000 2 1024) ∧ s.xferOf 31 5 = none ∧
      s.blob 0x8000 6 ≠ [] ∧ s.segMax = 1340 ∧ (∃ t ∈ s.fordan.xfers, t.read = false ∧ t.ix = 0x8000 ∧ t.sub = 2) ∧
      (∀ t ∈ s.fordan.xfers, t.read = false → ¬ (t.ix = 0x9000 ∧ t.sub = 1)) ∧ (stZ 1024).length = 1024 := by
  refine ⟨rfl, rfl, rfl, ?_, ?_, ?_, ?_, ?_, ?_, ?_⟩ <;> decide +kernel
theorem wit_transfer_read : (stXfer stRead .delivered).xferOf 31 4 = some stRead ∧ stRead.nxt < 1341 ∧ stRead.sent = stRead.len ∧ stRead.nxt < stRead.len ∧
    stRead.ix ≠ 0x6002 ∧ (stXfer (stWrite 0x9000 1 3) .delivered).xferOf 31 4 = some (stWrite 0x9000 1 3) ∧
    (stXfer (stWrite 0x9020 2 64) .delivered).xferOf 31 4 = some (stWrite 0x9020 2 64) := by
  refine ⟨?_, ?_, ?_, ?_, ?_, ?_, ?_⟩ <;> decide +kernel

def stSubs (q : Sess) : State := { stOp State.reset with fordan := { Fordan.init with sess := [(31, some q)] }, boot := { Boot.init with lane := 0 } }
def stSubd : Sess := { stSess with subs := [⟨0x7000, 1, 0, [], 0, false⟩, ⟨0x4800, 8, 5, [1], 0, true⟩, ⟨0x2820, 1, 5, [0], 0, false⟩] }
theorem wit_subscriptions : (stSubs stSubd).sess 31 = some stSubd ∧ stSubd.role = .operator ∧ (stSubd.subOf 0x7000 1).isSome = true ∧
    stSubd.subs.length < 64 ∧ (stSubd.subOf 0x4800 8).isSome = true ∧ (stSubs stSubd).valueOf stSubd 0x4800 8 ≠ [1] ∧
    (stSubs stSubd).time.now < 0 + 5 * 1000000 ∧ (stSubs stSubd).valueOf stSubd 0x2820 1 = [0] ∧ stSubd.subOf 0x3020 1 = none ∧
    (stSubs stSubd).boot.lane < 2 ∧ (stSubs stSubd).sess 2 = none := by
  refine ⟨?_, ?_, ?_, ?_, ?_, ?_, ?_, ?_, ?_, ?_, ?_⟩ <;> decide +kernel
theorem wit_subscription_due : let q := { stSess with subs := [⟨0x4800, 8, 5, [1], 0, false⟩] }
    (stSubs q).sess 31 = some q ∧ q.subOf 0x4800 8 = some ⟨0x4800, 8, 5, [1], 0, false⟩ ∧ (stSubs q).valueOf q 0x4800 8 ≠ [1] := by
  refine ⟨?_, ?_, ?_⟩ <;> decide +kernel
theorem wit_subscriptions_full : let q := { stSess with subs := List.replicate 64 ⟨0x4800, 8, 5, [1], 0, false⟩ }
    (stSubs q).sess 31 = some q ∧ q.subOf 0x7000 1 = none ∧ 64 ≤ q.subs.length := by
  refine ⟨?_, ?_, ?_⟩ <;> decide +kernel

theorem wit_min_svn : let s := stOp { State.reset with flash := { Flash.delivered with bankA := { Flash.delivered.bankA with svn := 6 } } }
    s.boot.done = true ∧ s.sess 31 = some stSess ∧ stSess.role = .operator ∧ s.setting 0x9000 5 ≤ 6 ∧ 6 ≤ (s.flash.bank s.boot.bank).svn ∧
      (s.flash.bank s.boot.bank).svn < 7 := by decide
theorem wit_min_svn_step : StepAt (stStep 3 .delivered) 3 := by simp only [StepAt]; decide

theorem wit_csr : let s := State.reset
    (0x40000001 : Nat) % 4 ≠ 0 ∧ (0x240000000 - 1) % 16 = 15 ∧ s.csr.alertMask < 2 ^ 10 ∧ s.csr.alertMask % 4 = 3 ∧ (s.mbx 0).tmo < 2 ^ 32 ∧
      (s.wrm 0).sel &&& 0xF000FFFF = (s.wrm 0).sel ∧ (s.mbx 0).full = false ∧ (s.mbx 0).send.length = 64 ∧ (⟨3, false⟩ : Hart).machine = false := by decide

def stWrm (sel : Nat) : State := { State.reset with csr := { Csr.init with wrm := [(3, { Wrm.init with sel := sel, pending := true })] } }
theorem wit_wide : ((stWrm (2 ^ 28)).wrm 3).pending = true ∧ ((stWrm (2 ^ 28)).wrm 3).sel / 2 ^ 28 = 1 ∧ ((stWrm (2 ^ 28)).wrm 3).sel % 2 ^ 16 = 0 ∧
    ((stWrm (3 * 2 ^ 28 + 506)).wrm 3).sel % 2 ^ 16 = 31 * 16 + 10 ∧ ((stWrm (4 * 2 ^ 28 + 188)).wrm 3).sel % 2 ^ 16 = 23 * 8 + 4 ∧
    ((stWrm (7 * 2 ^ 28 + 1013)).wrm 3).sel % 2 ^ 16 = 31 * 32 + 21 ∧ ((stWrm (8 * 2 ^ 28)).wrm 3).sel / 2 ^ 28 = 8 ∧
    (State.reset.wrm 3).pending = false ∧ (stOp State.reset).boot.done = true ∧ (stOp State.reset).sess 31 = some stSess ∧
    stSess.role = .operator ∧ State.reset.jtag.drive = false ∧ State.reset.pins.vsb = true ∧ State.reset.boot.pg = true := by decide

def stMbx (c : Nat) (m : Mbx) : State := { State.reset with csr := { Csr.init with mbx := [(c, m)] } }
theorem wit_mailbox : ((stMbx 3 { Mbx.init with full := true, waiting := true, len := 2 }).mbx 3).full = true ∧
    ((stMbx 3 { Mbx.init with full := true, waiting := true, len := 2 }).mbx 3).waiting = true ∧
    ((stMbx 3 { Mbx.init with full := true }).mbx 3).tmo ≠ 0 ∧ (State.reset.mbx 11).full = false ∧ (State.reset.mbx 0).send.length = 64 ∧
    bitOf (0x000F0001 : W32).toNat 0 = true ∧ 8 ≤ 11 ∧ (⟨3, true⟩ : Hart).machine = true ∧ (⟨3, false⟩ : Hart).machine = false := by decide

def stCoco (q : CocoReq) : State := { State.reset with csr := { Csr.init with
  coco := [q], cocoOut := [stZ 64], mbx := [(8, { Mbx.init with full := true, send := [9, 7, 0, 1] ++ stZ 60 })] } }
def stCocoReq (svc : Nat) (b : Bytes) : CocoReq := { svc := svc, tag := 42, parts := 1, got := 1, data := b, bad := false }
theorem wit_cocoon : (stCoco (stCocoReq 2 [])).csr.coco = stCocoReq 2 [] :: [] ∧ (stCocoReq 2 []).got = (stCocoReq 2 []).parts ∧
    (stCocoReq 2 []).refusedBad = false ∧ (stZ 68).length = 68 ∧ leAt (stZ 68) 0 1 = 0 ∧ leAt (leBytes 4 0) 0 4 = (stCoco (stCocoReq 5 (leBytes 4 0))).flash.epoch ∧
    leAt (leBytes 4 1) 0 4 ≠ (stCoco (stCocoReq 5 (leBytes 4 1))).flash.epoch ∧ (stCoco (stCocoReq 5 [])).boot.supply = .on ∧
    ((stCoco (stCocoReq 2 [])).mbx 9).full = false ∧ (stCoco (stCocoReq 2 [])).csr.cocoOut = stZ 64 :: [] ∧
    ((stCoco (stCocoReq 2 [])).mbx 9).send.length = 64 ∧ ((stCoco (stCocoReq 2 [])).mbx 8).full = true ∧
    ((stCoco (stCocoReq 2 [])).mbx 8).send.take 4 = leBytes 1 9 ++ leBytes 1 7 ++ leBytes 1 0 ++ leBytes 1 1 ∧
    ((stCoco (stCocoReq 2 [])).mbx 8).send.length = 64 ∧ ((stCoco (stCocoReq 2 [])).mbx 8).len = 0 := by
  refine ⟨?_, ?_, ?_, ?_, ?_, ?_, ?_, ?_, ?_, ?_, ?_, ?_, ?_, ?_, ?_⟩ <;> decide +kernel

theorem wit_sideband : State.reset.pins.vsb = true ∧ State.reset.boot.pg = true ∧ State.reset.i2c.ptr = 0 ∧
    ({ State.reset with pins := { Pins.init with vsb := false } } : State).pins.vsb = false ∧
    ({ State.reset with boot := { Boot.init with pg := false } } : State).boot.pg = false := by decide

theorem wit_step : State.reset.pending = [] := rfl

theorem wit_queue : (∃ u, exec (.nop 0) { State.reset with pending := [.powerGood] } = .next u) ∧
    (∃ u, step { State.reset with pending := [.powerGood, .nop 0] } = .next u) := ⟨⟨_, rfl⟩, ⟨_, rfl⟩⟩
theorem wit_units : (Instr.nop 0).wf = true ∧ (Instr.nop 96).wf = false ∧ (Instr.hbmPatrol 24 []).wf = false ∧
    QueueWf { State.reset with pending := [.nop 0, .powerGood] } := by
  refine ⟨by decide, by decide, by decide, ?_⟩
  intro c hc
  simp only [List.mem_cons, List.not_mem_nil, or_false] at hc
  rcases hc with rfl | rfl <;> decide

/-- A non-empty memory in canonical form, and a command that writes to it. -/
theorem wit_memory : let s := { stWord 0 Tile.init with mem := [(3, 7), (9, 1)] }
    Memory.wf s.mem = true ∧ (∃ u, exec (.nop 0) s = .next u) := ⟨by decide, _, rfl⟩

theorem test_reset_views : (State.reset.flpStates 0 = 0x22222222) ∧ State.reset.flpInstar = 0 ∧ State.reset.stackStat 0 = 0 := by decide

theorem wit_completes_limits : let s := stOp State.reset
    s.pwr.pcap = false ∧ ({ s with pwr := { s.pwr with pcap := true } } : State).pwr.pcap = true ∧ s.boot.done = true ∧ s.sess 31 = some stSess ∧
      stSess.role = .operator ∧ s.moduleCommitted ≤ 6000 * 1000 ∧ s.csr.alertMask < 2 ^ 10 ∧ s.csr.alertMask % 4 = 3 := by decide
theorem wit_completes_heat : let s (h : Bool) : State := State.reset.updRegion 0 fun r => { r with temps := [11000], hotSince := 5, heatOff := h }
    let w := { State.reset with regions := [(0, { Region.init with heatOff := true })] }
    11000 ≤ ((s false).region 0).temp ∧ ((s false).region 0).hotSince ≠ 0 ∧ ((s false).region 0).st.code ≤ 3 ∧ ((s false).region 0).heatOff = false ∧
      (w.region 0).heatOff = true ∧ (w.region 0).temp < 9000 ∧ State.reset.therm.tripped = false ∧ State.reset.therm.halted = false ∧
      ({ State.reset with therm := { Therm.init with halted := true } } : State).coolEnough = true := by decide
theorem wit_completes_disputes : let s := { stFault true 1 with tiles := [(0, { Tile.init with capture := some stCap })] }
    s.checkerCore 0 = some 1 ∧ s.nextCapture 0 = some stCap ∧ ({ stFault false 1 with tiles := s.tiles } : State).checkerCore 0 = none ∧
      ({ stFault true 1 with flt := { Flt.init with todo := [(4, .declare 0)] } } : State).stopClass = some 4 ∧ 4 ≤ (stDispute 4).age := by decide
theorem wit_completes_training : let s := stTrain { Train.init with st := 1, step := 4 }
    s.trains = true ∧ s.mirrored 7 = true ∧ s.bad = [] ∧ Tab.get 0 s.train.mirrors 7 ≠ s.train.step + 1 ∧ 7 ∉ s.train.late ∧ s.trainOpen = true ∧
      s.img.load = none ∧ s.train.snapReq = none ∧ s.beat.abandoned = false ∧ s.train.writing = none ∧ s.sess 31 = some stSess ∧ s.boot.done = true := by
  decide
theorem wit_completes_transfers : (stXfer (stWrite 0x8000 2 1024) .delivered).xferOf 31 4 = some (stWrite 0x8000 2 1024) ∧
    (stXfer (stWrite 0x9000 1 8) .delivered).xferOf 31 5 = none ∧ (stWrite 0x8000 2 1024).got = [] ∧
    (stXfer stRead .delivered).xferOf 31 4 = some stRead ∧ stRead.nxt < 1341 ∧ 1341 ≤ stRead.sent ∧ 1341 < stRead.len ∧
    (stXfer stRead .delivered).segMax = 1340 := by
  refine ⟨?_, ?_, ?_, ?_, ?_, ?_, ?_, ?_⟩ <;> decide +kernel

/-! ### Well-formedness: an ill-formed command for each check -/

theorem test_wf_mcore : (Instr.nop 96).wf = false ∧ (Instr.nop 0).wf = true := by decide
theorem test_wf_vcore : (Instr.vcoreStatusReport 0 0).wf = false ∧ (Instr.vcoreStatusReport 96 0).wf = true := by decide
theorem test_wf_score : (Instr.recvBoundExpiry 96).wf = false ∧ (Instr.recvBoundExpiry 144).wf = true := by decide
theorem test_wf_tile : (Instr.scrubRead 2688 []).wf = false ∧ (Instr.scrubRead 2687 []).wf = true := by decide
theorem test_wf_slot : (Instr.rbFlush 96 4).wf = false ∧ (Instr.rbFlush 0 0).wf = false ∧ (Instr.rbFlush 144 3).wf = true := by decide
theorem test_wf_restart : (Instr.coreRestart 144 0).wf = false ∧ (Instr.coreRestart 96 0).wf = true := by decide
theorem test_wf_region : (Instr.beatReport 32).wf = false ∧ (Instr.beatReport 31).wf = true := by decide
theorem test_wf_producer : (Instr.faultReport 0 (.engine 96)).wf = false ∧ (Instr.faultReport 0 (.engine 95)).wf = true := by decide
theorem test_wf_engine : (Instr.copyWrite 96).wf = false ∧ (Instr.copyWrite 95).wf = true := by decide
theorem test_wf_stack : (Instr.hbmPatrol 24 []).wf = false ∧ (Instr.hbmPatrol 23 []).wf = true := by decide
theorem test_wf_field : (Instr.timeWordLoss 16 false).wf = false ∧ (Instr.timeWordLoss 15 false).wf = true := by decide
theorem test_wf_regions : (Instr.frequencyChangeRequest [0, 32] 0 0 false).wf = false ∧ (Instr.frequencyChangeRequest [0, 31] 0 0 false).wf = true := by decide
theorem test_wf_short : (Instr.storeShortCircuit (.store 32)).wf = false ∧ (Instr.storeShortCircuit (.plane 16)).wf = false := by decide
theorem test_wf_partition : (Instr.rateBucketRefill 16).wf = false ∧ (Instr.rateBucketRefill 15).wf = true := by decide
theorem test_wf_lane : (Instr.frontPortDown 16).wf = false ∧ (Instr.frontPortDown 15).wf = true := by decide
theorem test_wf_channel : (Instr.mbxTimeout 12).wf = false ∧ (Instr.mbxTimeout 11).wf = true := by decide
theorem test_ill_formed_faults : exec (.nop 96) State.reset = .fault .noSuchUnit := rfl

/-! ### The manual's worked examples -/

/-- 00_scope.md, after R10: tile T(17,23). -/
theorem test_tile_17_23 : let t := tileIx 17 23
    tileField t = 5 ∧ tileHalf t = 1 ∧ tileRegion t = 11 ∧ tileCluster t = 131 ∧ tileKind t = .v := by decide
/-- 02_number_formats.md: 0.3 in the two FP8 formats. -/
theorem test_fp8_of_three_tenths : (convert .e4m3 .rne false 0x3E99999A).w = 0x2A ∧ (convert .e5m2 .rne false 0x3E99999A).w = 0x35 := by decide
/-- 02_number_formats.md, after R37: 13.0 and 0.7 in MXFP4. -/
theorem test_mxfp4_block : (mxEncode fE2M1 [(ofF32 0x41500000, .rne), (ofF32 0x3F333333, .rne)]).1 = 0x80 ∧
    (mxEncode fE2M1 [(ofF32 0x41500000, .rne), (ofF32 0x3F333333, .rne)]).2.map (·.w) = [7, 1] := by decide
/-- 02_number_formats.md, after R44: a block of an MXFP4 column against E4M3, on an accumulator of 2^24. -/
theorem test_block_into_accumulator : accAdd 0x4B800000 ((sumExact [(fE2M1.decode 0x7).mul (fE4M3.decode 0x2A), (fE2M1.decode 0x1).mul (fE4M3.decode 0x40),
    (fE2M1.decode 0xB).mul (fE4M3.decode 0xB8)]).scale2 1) = 0x4B800004 := by decide
/-- 02_number_formats.md, after R50: the two BF16 parts of 1/3. -/
theorem test_split_of_a_third : splitBf16 0x3EAAAAAB = (0x3EAB, 0xBA2B) := by decide
/-- 04_structured_sparsity.md, after R105: the header 0x0206 and three codes of an E4M3 block. -/
theorem test_compressed_block : (xcmpBlock fE4M3 (0x0206 + 2 ^ 16 * (0x12 + 2 ^ 6 * 0x06 + 2 ^ 12 * 0x0D)) 1 0).toOption.map (fun x => (x.1.take 3, x.2)) =
    some ([0x3A, 0x00, 0xC1], 208) := by decide
/-- 12_energy_metering.md: the worked example's slot. -/
theorem test_slot_charge : let w : Work := ⟨1, 768, 0, 0⟩
    2 ^ 24 * 10240 / 76677120 = 2240 ∧ w.activity 2240 = 18497536 ∧
      (charge 14013 159900000 (6144 * 18497536) 18497536 w).dec = 23604 ∧ (charge 14013 159900000 (6144 * 18497536) 18497536 w).ctx = 2421 ∧
      (charge 14013 159900000 (6144 * 18497536) 18497536 w).total = 40038 := by decide
/-- 13_power_delivery.md: J = 187.4 A of 340 A takes stretch 7/8, then P5. -/
theorem test_cap_stretch : pcapStretch 3400 1874 = 7 ∧ pointFor 3400 1874 = 5 := by decide
/-- R405's table: an 800GbE port on lanes 8 to 11. -/
theorem test_port_forms : let form (a b : List Nat) := (formsOf 8 800).find? (PortForm.trained a b)
    form [8, 9, 10, 11] [8, 9, 10, 11] = some ⟨8, 4, 200⟩ ∧ form [8, 9, 11] [8, 9, 11] = some ⟨8, 2, 200⟩ ∧
      form [8, 9, 11] [8, 9, 10, 11] = some ⟨8, 2, 200⟩ ∧ form [] [8, 9, 10, 11] = some ⟨8, 4, 100⟩ ∧ form [11] [11] = some ⟨11, 1, 200⟩ ∧
      form [] [11] = some ⟨11, 1, 100⟩ ∧ form [] [] = none := by decide
/-- 15_bringup_identity_licences.md: the handles of the steps and of the instar commit. -/
theorem test_bringup_handles : stepHandle 1 = 0x0A00000000000001 ∧ stepHandle 9 = 0x0A00000000000009 ∧
    (({ State.reset with boot := { Boot.init with hctr := 10 } } : State).issue 8 16 32).1 = 0x080000000000000A := by decide
/-- R433's worked example: the headers, and MBX_CTL of secure channel 0 in the alias window. -/
theorem test_sign_request : leNat (cocoHeader 1 0x2A 0 2) = 0x02002A01 ∧ leNat (cocoHeader 1 0x2A 1 2) = 0x02012A01 ∧
    leNat (cocoHeader 0 0x2A 2 3) = 0x03022A00 ∧ regAt ((0x203000108 - 0x200000000) / 16 * 4) = .mbxCtl 8 ∧
    (Mbx.init.wrCtl 0x000F0001).full = true ∧ (Mbx.init.wrCtl 0x000F0001).len = 15 := by decide
/-- R433's worked example: clearing TIMEOUT at CLEAR leaves FULL and LEN. -/
theorem test_clear_timeout : let s := stMbx 8 { Mbx.init with full := true, len := 15, timeout := true }
    (s.aliasWrite 0 (.mbxCtl 8) (s.regOwn 0 (.mbxCtl 8) &&& (0xFFFFFFFF - 2)) 2).mbx 8 = { s.mbx 8 with timeout := false } := by decide
/-- The opcode table gives no row bits: no word spells a command. -/
theorem test_no_word_decodes : decodeTableWord 0 0 = none ∧ decodeTableWord 32 0xFFFFFFFF = none := by decide

end Sys2Proof.Tests
end

section
/-
The proofs of this section are elaborated one after another: the check's memory limit counts the stack of every thread
that would otherwise wait for the model's own proofs.
-/
set_option Elab.async false

section
/-!
What event records, handles and the Fordan server's answers do to the state (R14, R384, R385, R415, R418, R419).
-/

namespace Sys2Proof.Machine

/-! ### Notifications -/

/-- A notification touches the Fordan server only. -/
theorem notifyTo_frame (s : State) (k ix sub : Nat) (v : Bytes) : { s.notifyTo k ix sub v with fordan := s.fordan } = s := by
  unfold State.notifyTo; split <;> rfl

/-- Steps that touch the Fordan server only, one after another, touch the Fordan server only. -/
theorem each_fordan_frame (l : List Nat) {f : State → Nat → State} (hf : ∀ v i, { f v i with fordan := v.fordan } = v) (s : State) :
    { s.each l f with fordan := s.fordan } = s := by
  induction l generalizing s with
  | nil => rfl
  | cons i l ih =>
    have tail := congrArg (fun v : State => { v with fordan := s.fordan }) (ih (f s i))
    exact tail.trans (hf s i)

/-- Every session is as it was, but for the count of its notifications. -/
def SessKept (s u : State) : Prop :=
  ∀ k, (u.sess k).map (fun q => { q with nseq := 0 }) = (s.sess k).map fun q => { q with nseq := 0 }

theorem SessKept.trans {s u v : State} (h : SessKept s u) (g : SessKept u v) : SessKept s v := fun k => (g k).trans (h k)

/-- A session that is kept keeps its report. -/
theorem SessKept.some {s u : State} (h : SessKept s u) {k : Nat} {q : Sess} (hq : s.sess k = some q) :
    ∃ v, u.sess k = some v ∧ v.att = q.att := by
  have hk := h k
  rw [hq] at hk
  obtain ⟨v, hv, e⟩ := Option.map_eq_some_iff.mp hk
  exact ⟨v, hv, by have q := congrArg Sess.att e; exact q⟩

theorem notifyTo_sess (s : State) (k ix sub : Nat) (v : Bytes) : SessKept s (s.notifyTo k ix sub v) := by
  intro j
  unfold State.notifyTo
  split
  · rfl
  · rename_i q hq
    by_cases e : j = k
    · subst e
      simp [State.sess, hq]
    · simp [State.sess, Tab.get_put_ne, e]

theorem each_sessKept (l : List Nat) {f : State → Nat → State} (hf : ∀ v i, SessKept v (f v i)) (s : State) : SessKept s (s.each l f) := by
  induction l generalizing s with
  | nil => exact fun _ => rfl
  | cons i l ih => exact (hf s i).trans (ih (f s i))

/-! ### Event records (R384) -/

/-- The notifications of an event record touch the Fordan server only. -/
theorem event_notified (s : State) (e : Ev) :
    ∃ flt, { s.event e with fordan := s.fordan } = ({ s with flt := flt } : State).alert (alertOf e.code) ∧
      flt.evNext = s.flt.evNext + 1 ∧
      ∃ r, flt.log.getLast? = some r ∧ r.seq = s.flt.evNext ∧ r.code = e.code ∧ r.region = e.region ∧ r.d0 = e.d0 ∧ r.d1 = e.d1 :=
  ⟨_, each_fordan_frame _ (fun v k => notifyTo_frame v k ..) _, rfl, _, List.getLast?_concat .., rfl, rfl, rfl, rfl, rfl⟩

/-- An event record touches the log, the alert bits and the Fordan server only. -/
theorem event_frame (s : State) (e : Ev) : { s.event e with flt := s.flt, csr := s.csr, fordan := s.fordan } = s := by
  obtain ⟨flt, h, -⟩ := event_notified s e
  exact congrArg (fun v : State => { v with flt := s.flt, csr := s.csr }) h

theorem event_csr (s : State) (e : Ev) : (s.event e).csr = { s.csr with alertSrc := s.csr.alertSrc ||| alertOf e.code } := by
  obtain ⟨flt, h, -⟩ := event_notified s e
  exact congrArg State.csr h

/-- R384: the record stands last in the log. -/
theorem event_recordedLast (s : State) (e : Ev) : RecordedLast s (s.event e) e.code e.region e.d0 e.d1 := by
  obtain ⟨flt, h, hn, r, hr⟩ := event_notified s e
  have hf : (s.event e).flt = flt := congrArg State.flt h
  refine ⟨by rw [hf, hn], by rw [event_csr], r, ?_⟩
  rw [hf]; exact hr

/-- A record written after steps that write none. -/
theorem RecordedLast.of_same {s v u : State} {code region d0 d1 : Nat} (h : RecordedLast v u code region d0 d1) (hf : v.flt = s.flt)
    (hc : v.csr = s.csr) : RecordedLast s u code region d0 d1 := by
  simpa only [RecordedLast, hf, hc] using h

theorem event_sess (s : State) (e : Ev) : SessKept s (s.event e) :=
  each_sessKept _ (f := fun v k => v.notifyTo k 0x7000 1 _) (fun v k => notifyTo_sess v k _ _ _) _

/-! ### Handles (R14, R15) -/

/-- The handle that the next action of a kind gets. -/
def State.nextHandle (s : State) (kind : Nat) : Nat := kind * 2 ^ 56 + s.boot.hctr

theorem issue_fst (s : State) (kind part k : Nat) : (s.issue kind part k).1 = s.nextHandle kind := rfl

/-- A handle issued is running, and the counter moves on. -/
theorem issue_snd (s : State) (kind part k : Nat) :
    { (s.issue kind part k).2 with boot := s.boot } = s ∧ (s.issue kind part k).2.boot.hctr = s.boot.hctr + 1 ∧
      (s.issue kind part k).2.hnd (s.nextHandle kind) = ⟨1, 0, 0, part, k⟩ :=
  ⟨rfl, rfl, Tab.get_put_self hndNone s.boot.handles (s.nextHandle kind) ⟨1, 0, 0, part, k⟩⟩

/-- What the end of a handle does beside its notifications. -/
theorem finish_notified (s : State) (h st code : Nat) :
    ∃ r d p, { s.finish h st code with fordan := s.fordan } =
      { s.updHnd h (fun x => { x with st := st, code := code }) with
        boot := { (s.updHnd h (fun x => { x with st := st, code := code })).boot with retention := r, lastDone := d, partDone := p } } := by
  refine ⟨_, _, _, each_fordan_frame _ (fun v k => ?_) _⟩
  dsimp only
  split
  · split
    · exact notifyTo_frame ..
    · rfl
  · rfl

/-- The end of a handle touches the handles and the Fordan server only. -/
theorem finish_frame (s : State) (h st code : Nat) : { s.finish h st code with boot := s.boot, fordan := s.fordan } = s := by
  obtain ⟨r, d, p, e⟩ := finish_notified s h st code
  exact congrArg (fun v : State => { v with boot := s.boot }) e

theorem finish_sess (s : State) (h st code : Nat) : SessKept s (s.finish h st code) := by
  refine each_sessKept _ (fun v k => ?_) _
  split
  · split
    · exact notifyTo_sess _ _ _ _ _
    · exact fun _ => rfl
  · exact fun _ => rfl

/-- R418: a handle that ends shows how it ended. -/
theorem finish_hnd (s : State) (h st code : Nat) : (s.finish h st code).hnd h = { s.hnd h with st := st, code := code } := by
  obtain ⟨r, d, p, e⟩ := finish_notified s h st code
  have hb := congrArg (fun v : State => v.hnd h) e
  exact hb.trans (updHnd_hnd_self s h fun x => { x with st := st, code := code })

/-- The end of a handle keeps everything else that bring-up and the reset logic hold. -/
theorem finish_boot (s : State) (h st code : Nat) :
    { (s.finish h st code).boot with
      handles := s.boot.handles, retention := s.boot.retention, lastDone := s.boot.lastDone, partDone := s.boot.partDone } = s.boot := by
  obtain ⟨r, d, p, e⟩ := finish_notified s h st code
  exact congrArg (fun v : State => { v.boot with
    handles := s.boot.handles, retention := s.boot.retention, lastDone := s.boot.lastDone, partDone := s.boot.partDone }) e

/-- What an event record and the end of a handle after it do. -/
theorem event_finish_spec (v : State) (e : Ev) (h st code : Nat) :
    let u := (v.event e).finish h st code
    { u with boot := v.boot, flt := v.flt, csr := v.csr, fordan := v.fordan } = v ∧ RecordedLast v u e.code e.region e.d0 e.d1 ∧
      (u.hnd h).st = st ∧ (u.hnd h).code = code ∧
      { u.boot with handles := v.boot.handles, retention := v.boot.retention, lastDone := v.boot.lastDone, partDone := v.boot.partDone } =
        v.boot := by
  intro u
  have hf := finish_frame (v.event e) h st code
  have hflt : u.flt = (v.event e).flt := by have q := congrArg State.flt hf; exact q
  have hcsr : u.csr = (v.event e).csr := by have q := congrArg State.csr hf; exact q
  have hboot : (v.event e).boot = v.boot := by have q := congrArg State.boot (event_frame v e); exact q
  refine ⟨?_, ?_, ?_, ?_, ?_⟩
  · exact (congrArg (fun w : State => { w with boot := v.boot, flt := v.flt, csr := v.csr, fordan := v.fordan }) hf).trans
      (congrArg (fun w : State => { w with boot := v.boot }) (event_frame v e))
  · simpa only [RecordedLast, hflt, hcsr] using event_recordedLast v e
  · rw [finish_hnd]
  · rw [finish_hnd]
  · rw [← hboot]; exact finish_boot (v.event e) h st code

/-! ### Answers (R415, R419) -/

/-- A response touches the Fordan server's output only. -/
theorem respond_frame (s : State) (k x svc status ix sub : Nat) (data : Bytes) :
    { s.respond k x svc status ix sub data with fordan := s.fordan } = s := rfl

theorem respond_answered (s : State) (k x svc status ix sub : Nat) (data : Bytes) :
    Answered (s.respond k x svc status ix sub data) k x svc status ix sub data := List.getLast?_concat ..

/-- R419: what a role may write or invoke is decided by the object, the service and whether bring-up has ended. -/
def Role.writeGate (r : Role) (done : Bool) (ix sub svc : Nat) : Option Nat :=
  match objRow ix sub with
  | none => some (if sub = 0 ∧ (objTop ix).isSome then stAccess else stNoObject)
  | some o =>
    if secureOnly ix sub && r != .vendor then some stSecureOnly
    else if !mayWrite r ix sub then some stRole
    else if !o.service svc then some stType
    else if o.acc == .ro || o.acc == .const then some stAccess
    else if !done && !inBringup ix sub then some stBringup
    else none

theorem writeGate_eq (s : State) (q : Sess) (ix sub svc : Nat) : s.writeGate q ix sub svc = q.role.writeGate s.boot.done ix sub svc := by
  unfold State.writeGate Role.writeGate; rfl

section
variable {s : State} {k : Nat} {q : Sess} (x : Nat) {ix sub : Nat}

/-- An action that its object's rules take answers with its handle. -/
theorem sessAct_ok {f : State → ARes} {h : Nat} {v : State} (hs : s.sess k = some q) (hg : q.role.writeGate s.boot.done ix sub 6 = none)
    (hf : f s = .ok h v) : s.sessAct k x ix sub f = v.respond k x 6 0 ix sub (leBytes 8 h) := by
  simp only [State.sessAct, hs, writeGate_eq, hg, hf]; rfl

/-- An action that its object's rules refuse changes nothing, and answers REFUSED. -/
theorem sessAct_refused {f : State → ARes} {d : Nat} (hs : s.sess k = some q) (hg : q.role.writeGate s.boot.done ix sub 6 = none)
    (hf : f s = .fail d) : s.sessAct k x ix sub f = s.respond k x 6 0x0A ix sub (leBytes 4 d) := by
  simp only [State.sessAct, hs, writeGate_eq, hg, hf]; rfl

/-- An action that the checks before the object's rules stop changes nothing, and answers their status. -/
theorem sessAct_gated (f : State → ARes) {st : Nat} (hs : s.sess k = some q) (hg : q.role.writeGate s.boot.done ix sub 6 = some st) :
    s.sessAct k x ix sub f = s.respond k x 6 st ix sub (leBytes 4 0) := by
  simp only [State.sessAct, hs, writeGate_eq, hg]; rfl

/-- A write that the object's rules take. -/
theorem sessWrite_ok {f : State → Bytes → WRes} {b : Bytes} {r : ObjRow} {v : State} (hs : s.sess k = some q)
    (hg : q.role.writeGate s.boot.done ix sub 2 = none) (hr : objRow ix sub = some r) (hb : r.ty.fits b = true) (hf : f s b = .ok v) :
    s.sessWrite k x ix sub b f = v.respond k x 2 0 ix sub [] := by
  simp [State.sessWrite, hs, writeGate_eq, hg, hr, hb, hf, stOk]

/-- A write that the object's rules refuse changes nothing, and answers their status. -/
theorem sessWrite_refused {f : State → Bytes → WRes} {b : Bytes} {r : ObjRow} {st d : Nat} (hs : s.sess k = some q)
    (hg : q.role.writeGate s.boot.done ix sub 2 = none) (hr : objRow ix sub = some r) (hb : r.ty.fits b = true) (hf : f s b = .fail st d) :
    s.sessWrite k x ix sub b f = s.respond k x 2 st ix sub (leBytes 4 d) := by
  simp [State.sessWrite, hs, writeGate_eq, hg, hr, hb, hf, State.failed]

/-- A write of bytes that are no value of the object's type answers TYPE. -/
theorem sessWrite_type {f : State → Bytes → WRes} {b : Bytes} {r : ObjRow} (hs : s.sess k = some q)
    (hg : q.role.writeGate s.boot.done ix sub 2 = none) (hr : objRow ix sub = some r) (hb : r.ty.fits b = false) :
    s.sessWrite k x ix sub b f = s.respond k x 2 5 ix sub (leBytes 4 0) := by
  simp [State.sessWrite, hs, writeGate_eq, hg, hr, hb, State.failed, stType]

/-- A write that the checks before the object's rules stop changes nothing, and answers their status. -/
theorem sessWrite_gated (f : State → Bytes → WRes) (b : Bytes) {st : Nat} (hs : s.sess k = some q)
    (hg : q.role.writeGate s.boot.done ix sub 2 = some st) : s.sessWrite k x ix sub b f = s.respond k x 2 st ix sub (leBytes 4 0) := by
  simp only [State.sessWrite, hs, writeGate_eq, hg]; rfl

end

/-- The bytes of a number that fits its object's width. -/
theorem numBytes_fit {ix sub v n : Nat} {r : ObjRow} (hr : objRow ix sub = some r) (hn : r.ty.size = some n) (hv : v < 2 ^ (8 * n)) :
    numBytes ix sub v = leBytes n v := by
  simp [numBytes, hr, hn, hv]

theorem leNat_leBytes_of_lt {n v : Nat} (hv : v < 2 ^ (8 * n)) : leNat (leBytes n v) = v := by
  rw [leNat_leBytes, show (256 : Nat) ^ n = 2 ^ (8 * n) by rw [Nat.pow_mul]]
  exact Nat.mod_eq_of_lt hv

/-- Bytes of a number's width are a value of its type, whatever they hold. -/
theorem fits_of_size {t : ObjTy} {n : Nat} (hn : t.size = some n) (hb : t ≠ .bool) {b : Bytes} (hl : b.length = n) : t.fits b = true := by
  cases t <;> simp_all [ObjTy.fits, ObjTy.size]

/-- A write of a number is the write of its bytes. -/
theorem numWrite_eq (s : State) (k x : Nat) {ix sub v n : Nat} {r : ObjRow} (f : State → Nat → WRes) (hr : objRow ix sub = some r)
    (hn : r.ty.size = some n) (hv : v < 2 ^ (8 * n)) :
    s.numWrite k x ix sub v f = s.sessWrite k x ix sub (leBytes n v) fun s b => f s (leNat b) := by
  rw [State.numWrite, numBytes_fit hr hn hv]

/-! ### Stored settings (R421) -/

theorem setting_putSetting_self (s : State) (ix sub v : Nat) : (s.putSetting ix sub v).setting ix sub = v := by
  unfold State.setting State.putSetting
  by_cases h : persistentObj ix sub <;> simp [h]

theorem putSetting_frame (s : State) (ix sub v : Nat) : { s.putSetting ix sub v with flash := s.flash, fordan := s.fordan } = s := by
  unfold State.putSetting; split <;> rfl

end Sys2Proof.Machine
end

section
/-!
Firmware banks and updates (R397 to R399).
-/

namespace Sys2Proof.Machine

/-! ### Banks -/

theorem updBank_frame (s : State) (i : Nat) (g : Bank → Bank) :
    { s.updBank i g with flash := { (s.updBank i g).flash with bankA := s.flash.bankA, bankB := s.flash.bankB } } = s := by
  unfold State.updBank; split <;> rfl

/-- A change of the inactive bank. -/
theorem updBank_inactive (s : State) (b : Nat) (g : Bank → Bank) :
    (s.updBank (1 - b) g).flash.bank (1 - b) = g (s.flash.bank (1 - b)) := by
  unfold State.updBank Flash.bank; split <;> simp

/-- A change of the inactive bank leaves the active bank as it is. -/
theorem updBank_active (s : State) (b : Nat) (g : Bank → Bank) : (s.updBank (1 - b) g).flash.bank b = s.flash.bank b := by
  unfold State.updBank Flash.bank
  by_cases h : b = 0
  · simp [h]
  · simp [h, show 1 - b = 0 by omega]

/-! ### FW_UPDATE (R398) -/

/-- R398: what refuses an update. -/
def State.fwRefused (s : State) : Prop :=
  s.img.load.isSome = true ∨ s.boot.fwRun.isSome = true ∨ Config.fwVerifies (s.blob 0x9000 1) = false ∨
    Config.fwSvn (s.blob 0x9000 1) < s.setting 0x9000 5 ∨ 96 * 2 ^ 20 < (s.blob 0x9000 1).length ∨ s.blob 0x9000 1 = []

/-- R398: an update that begins: its handle runs, and the inactive bank is in state 1. -/
def State.fwStarted (s : State) (k : Nat) : State :=
  let v := (s.issue 3 (s.handlePart k) k).2
  let v := v.updBank (1 - v.boot.bank) fun x => { x with st := 1, good := false }
  { v with boot := { v.boot with fwRun := some (s.nextHandle 3) }, flash := { v.flash with fwMk := true } }

theorem actFwUpdate_refused {s : State} (k : Nat) (h : s.fwRefused) : State.actFwUpdate k s = .fail 0xE3 := by
  unfold State.actFwUpdate
  refine if_pos ?_
  simp only [Bool.or_eq_true, Bool.not_eq_true', decide_eq_true_eq, or_assoc]
  exact h

theorem actFwUpdate_ok {s : State} (k : Nat) (h : ¬ s.fwRefused) : State.actFwUpdate k s = .ok (s.nextHandle 3) (s.fwStarted k) := by
  unfold State.actFwUpdate
  refine if_neg fun hc => h ?_
  simp only [Bool.or_eq_true, Bool.not_eq_true', decide_eq_true_eq, or_assoc] at hc
  exact hc

theorem fwStarted_frame (s : State) (k : Nat) :
    { s.fwStarted k with boot := s.boot, flash := { (s.fwStarted k).flash with fwMk := s.flash.fwMk, bankA := s.flash.bankA, bankB := s.flash.bankB } } = s := by
  exact congrArg (fun v : State => { v with boot := s.boot, flash := { v.flash with fwMk := s.flash.fwMk} })
    (updBank_frame (s.issue 3 (s.handlePart k) k).2 (1 - s.boot.bank) fun x => { x with st := 1, good := false })

/-- The update's handle runs, and is known as the one in progress. -/
theorem fwStarted_handle (s : State) (k : Nat) :
    ((s.fwStarted k).hnd (s.nextHandle 3)).st = 1 ∧ (s.fwStarted k).boot.hctr = s.boot.hctr + 1 ∧
      (s.fwStarted k).boot.fwRun = some (s.nextHandle 3) := by
  refine ⟨?_, rfl, rfl⟩
  exact congrArg Hnd.st (issue_snd s 3 (s.handlePart k) k).2.2

/-- R398: the inactive bank is in state 1, the active bank as it was. -/
theorem fwStarted_banks (s : State) (k : Nat) :
    (s.fwStarted k).flash.bank s.boot.bank = s.flash.bank s.boot.bank ∧
    (s.fwStarted k).flash.bank (1 - s.boot.bank) = { s.flash.bank (1 - s.boot.bank) with st := 1, good := false } :=
  ⟨updBank_active (s.issue 3 (s.handlePart k) k).2 s.boot.bank _, updBank_inactive (s.issue 3 (s.handlePart k) k).2 s.boot.bank _⟩

/-! ### FW_UPDATE_COMPLETE (R398) -/

/-- R398: the update in progress has ended, its bank not yet marked. -/
def State.fwEnded (s : State) : State :=
  { s with boot := { s.boot with fwRun := none }, flash := { s.flash with fwMk := false } }

/-- R398: the bank that an image read back leaves. -/
def State.fwTrialBank (s : State) : Bank :=
  { st := 2, gen := (s.flash.bank s.boot.bank).gen + 1, tried := false, good := true, svn := Config.fwSvn (s.blob 0x9000 1),
    version := Config.fwVersion (s.blob 0x9000 1), digest := sha512 (s.blob 0x9000 1) }

theorem exec_fwUpdateComplete (ok : Bool) (s : State) : exec (.fwUpdateComplete ok) s = execFwUpdateComplete ok s := rfl

theorem exec_fwUpdateComplete_ok {s : State} {h : Nat} (hr : s.boot.fwRun = some h) :
    exec (.fwUpdateComplete true) s =
      .next (((s.fwEnded.updBank (1 - s.boot.bank) fun _ => s.fwTrialBank).event { code := 0xE4, handle := h }).finish h 2 0xE4) := by
  rw [exec_fwUpdateComplete]; simp only [execFwUpdateComplete, hr]; rfl

theorem exec_fwUpdateComplete_bad {s : State} {h : Nat} (hr : s.boot.fwRun = some h) :
    exec (.fwUpdateComplete false) s = .next ((s.fwEnded.event { code := 0xE3, handle := h }).finish h 3 0xE3) := by
  rw [exec_fwUpdateComplete]; simp only [execFwUpdateComplete, hr]; rfl

end Sys2Proof.Machine

open Sys2Proof Sys2Proof.Machine

/-- Settles O44. -/
theorem firmwareUpdates : Obligations.FirmwareUpdates := by
  intro s
  refine ⟨?_, ?_, ?_, ?_⟩
  · intro k x q hd hs hr hh b bad
    have hg : q.role.writeGate s.boot.done 0x9000 2 6 = none := by
      rw [hd]; rcases hr with hr | hr <;> rw [hr] <;> decide
    by_cases hb : s.fwRefused
    · refine ⟨_, congrArg Host.Outcome.next (sessAct_refused x hs hg (actFwUpdate_refused k hb)), rfl, fun _ => ⟨rfl, rfl, respond_answered ..⟩, fun h => absurd hb h⟩
    · refine ⟨_, congrArg Host.Outcome.next (sessAct_ok x hs hg (actFwUpdate_ok k hb)), ?_, fun h => absurd h hb, fun _ => ?_⟩
      · exact congrArg (fun v : State => { v with flash := s.flash, fordan := s.fordan }) (fwStarted_frame s k)
      · obtain ⟨h1, h2, h3⟩ := fwStarted_handle s k
        exact ⟨⟨respond_answered .., h2, h1⟩, h3, rfl, congrArg State.flash (fwStarted_frame s k), fwStarted_banks s k⟩
  · intro h hr
    refine ⟨⟨_, exec_fwUpdateComplete_ok hr, ?_⟩, _, exec_fwUpdateComplete_bad hr, ?_⟩
    · obtain ⟨hf, hrec, hst, hcode, hboot⟩ :=
        event_finish_spec (s.fwEnded.updBank (1 - s.boot.bank) fun _ => s.fwTrialBank) { code := 0xE4, handle := h } h 2 0xE4
      have hflash := congrArg State.flash hf
      have hbank := updBank_frame s.fwEnded (1 - s.boot.bank) fun _ => s.fwTrialBank
      refine ⟨?_, congrArg Boot.fwRun hboot, hst, hcode, hrec, ?_, ?_, ?_, ?_⟩
      · exact congrArg (fun v : State => { v with boot := s.boot, flash := s.flash }) hf
      · exact (congrArg (fun f : Flash => { f with fwMk := s.flash.fwMk, bankA := s.flash.bankA, bankB := s.flash.bankB }) hflash).trans
          (congrArg (fun v : State => { v.flash with fwMk := s.flash.fwMk }) hbank)
      · exact (congrArg Flash.fwMk hflash).trans (congrArg (fun v : State => v.flash.fwMk) hbank)
      · exact (congrArg (fun f : Flash => f.bank s.boot.bank) hflash).trans (updBank_active s.fwEnded s.boot.bank _)
      · exact (congrArg (fun f : Flash => f.bank (1 - s.boot.bank)) hflash).trans (updBank_inactive s.fwEnded s.boot.bank _)
    · obtain ⟨hf, hrec, hst, hcode, hboot⟩ := event_finish_spec s.fwEnded { code := 0xE3, handle := h } h 3 0xE3
      refine ⟨?_, congrArg Boot.fwRun hboot, hst, hcode, hrec, congrArg State.flash hf⟩
      exact congrArg (fun v : State => { v with boot := s.boot, flash := s.flash }) hf
  · intro hr ok
    rw [exec_fwUpdateComplete]; simp only [execFwUpdateComplete, hr]
  · intro k x v ⟨hd, q, hs, hr⟩ hv
    have hg : q.role.writeGate s.boot.done 0x9000 5 2 = none := by rw [hd, hr]; decide
    have hrow : objRow 0x9000 5 = some ⟨0x9000, 0x9000, 0x05, 0x05, .u32, .rw, 0⟩ := by decide
    have he := numWrite_eq s k x State.wrMinSvn hrow rfl hv
    have hfit := fits_of_size (t := .u32) rfl (by decide) (leBytes_length 4 v)
    have hnat : leNat (leBytes 4 v) = v := leNat_leBytes_of_lt hv
    refine ⟨fun h1 h2 => ?_, fun h => ?_⟩
    · have hf : s.wrMinSvn (leNat (leBytes 4 v)) = .ok (s.putSetting 0x9000 5 v) := by rw [hnat]; exact if_pos ⟨h1, h2⟩
      refine ⟨_, congrArg Host.Outcome.next (he.trans (sessWrite_ok x hs hg hrow hfit hf)), ?_, respond_answered .., ?_, rfl⟩
      · exact congrArg (fun v : State => { v with fordan := s.fordan }) (putSetting_frame s 0x9000 5 v)
      · exact setting_putSetting_self s 0x9000 5 v
    · have hf : s.wrMinSvn (leNat (leBytes 4 v)) = .fail 0x0A 0 := by
        rw [hnat]; exact if_neg fun ⟨h1, h2⟩ => by rcases h with h | h <;> [exact absurd h1 (by exact Nat.not_le.mpr h); omega]
      exact ⟨_, congrArg Host.Outcome.next (he.trans (sessWrite_refused x hs hg hrow hfit hf)), rfl, respond_answered ..⟩
end

section
/-!
Licences (R400 to R402) and attestation reports (R403).
-/

namespace Sys2Proof.Machine

/-! ### LIC_INSTALL (R401, R402) -/

/-- R401: a licence that a check refuses: its handle fails with the check's number in the record, and nothing is written. -/
theorem actLicInstall_refused {s : State} {n : Nat} (k : Nat) (h : s.licRefused (s.blob 0x9010 1) = some n) :
    State.actLicInstall k s = .ok (s.nextHandle 0x0B)
      (((s.issue 0x0B (s.handlePart k) k).2.event { code := 0xE5, handle := s.nextHandle 0x0B, d0 := n }).finish (s.nextHandle 0x0B) 3 0xE5) := by
  have h' : (s.issue 0x0B (s.handlePart k) k).2.licRefused (s.blob 0x9010 1) = some n := h
  simp only [State.actLicInstall, h']; rfl

/-- The licence that a string holds. -/
def licOf (b : Bytes) : Lic := { feature := licFeature b, serial := licSerial b, limit := licLimit b, valid := true, data := b }

/-- R402: the store with a licence in place of any earlier one for its feature. -/
def State.withLic (s : State) (b : Bytes) : State :=
  { s with flash := { s.flash with lics := s.flash.lics.filter (fun (y : Lic) => y.feature != licFeature b) ++ [licOf b] } }

theorem withLic_licensed (s : State) (b : Bytes) : (s.withLic b).licensed (licFeature b) = true := by
  simp [State.licensed, State.withLic, licOf]

/-- R402: a licence that passes every check is installed. -/
theorem actLicInstall_ok {s : State} (k : Nat) (h : s.licRefused (s.blob 0x9010 1) = none) :
    State.actLicInstall k s = .ok (s.nextHandle 0x0B)
      ((((s.issue 0x0B (s.handlePart k) k).2.withLic (s.blob 0x9010 1)).event { code := 0xE6, handle := s.nextHandle 0x0B }).finish
        (s.nextHandle 0x0B) 2 0xE6) := by
  have h' : (s.issue 0x0B (s.handlePart k) k).2.licRefused (s.blob 0x9010 1) = none := h
  simp only [State.actLicInstall, h']; rfl

/-- R401: a string that has not a licence's form fails check 1. -/
theorem licRefused_form {s : State} {b : Bytes} (h : b.length ≠ 512 ∨ leAt b 4 2 ≠ 1) : s.licRefused b = some 1 := by
  have hc : s.licCheck b = some 1 := by
    refine if_pos ?_
    rcases h with h | h <;> simp [h]
  simp only [State.licRefused, hc]

/-! ### LIC_REMOVE (R402) -/

theorem wrLicRemove_absent {s : State} {v : Nat} (h : ∀ l ∈ s.flash.lics, l.serial ≠ v) : s.wrLicRemove v = .fail 0x0A 0 := by
  have hf : (s.flash.lics.find? fun l => l.serial == v) = none := by simpa using h
  simp only [State.wrLicRemove, hf]; rfl

/-- The store without a licence. -/
def State.withoutLic (s : State) (v : Nat) : State :=
  { s with flash := { s.flash with lics := s.flash.lics.filter fun y => y.serial != v } }

/-- R273: the partitions in use. -/
def State.partsInUse (s : State) : Nat := ((upTo 16).filter fun p => s.partState p != 0).length

theorem wrLicRemove_used {s : State} {v : Nat} {l : Lic} (hl : (s.flash.lics.find? fun y => y.serial == v) = some l)
    (h : (l.feature = 1 ∧ (s.withoutLic v).partLimit < s.partsInUse) ∨ s.featureUsed l.feature = true) :
    s.wrLicRemove v = .fail 0x0A 0 := by
  simp only [State.wrLicRemove, hl]
  exact if_pos h

theorem wrLicRemove_free {s : State} {v : Nat} {l : Lic} (hl : (s.flash.lics.find? fun y => y.serial == v) = some l)
    (hp : l.feature = 1 → s.partsInUse ≤ (s.withoutLic v).partLimit) (hu : s.featureUsed l.feature = false) :
    s.wrLicRemove v = .ok ((s.withoutLic v).event { code := 0xE7 }) := by
  simp only [State.wrLicRemove, hl]
  refine if_neg ?_
  rintro (⟨h1, h2⟩ | h)
  · exact absurd h2 (Nat.not_lt.mpr (hp h1))
  · rw [hu] at h; cases h

/-- R273: without a licence for more, the device has four partitions. -/
theorem partLimit_unlicensed {s : State} (h : ∀ y ∈ s.flash.lics, y.feature ≠ 1) : s.partLimit = 4 := by
  have hf : (s.flash.lics.find? fun l => l.feature == 1 && l.valid) = none := by
    simp only [List.find?_eq_none, Bool.and_eq_true, beq_iff_eq, not_and]
    exact fun y hy e => absurd e (h y hy)
  simp only [State.partLimit, hf]

theorem le_partLimit {s : State} {n : Nat} (hn : n ≤ 4) (h : ∀ y ∈ s.flash.lics, y.feature = 1 → 4 ≤ y.limit) : n ≤ s.partLimit := by
  unfold State.partLimit
  split
  · rename_i l hl
    have hp := List.find?_some hl
    simp only [Bool.and_eq_true, beq_iff_eq] at hp
    exact hn.trans (h l (List.mem_of_find?_eq_some hl) hp.1)
  · exact hn

/-! ### ATT_REPORT (R403) -/

/-- R403: a session's report, with its signature. -/
def State.attReport (s : State) (h : Nat) (nonce : Bytes) : Bytes :=
  s.attBody h nonce ++ ecdsaSign attestationKey (sha512 (s.attBody h nonce))

theorem actAtt_refused {s : State} {k : Nat} {q : Sess} (hs : s.sess k = some q) (h : q.nonce.length ≠ 64 ∨ s.boot.attOff = true) :
    State.actAtt k s = .fail 0 := by
  simp only [State.actAtt, hs]
  exact if_pos h

theorem actAtt_ok {s : State} {k : Nat} {q : Sess} (hs : s.sess k = some q) (hn : q.nonce.length = 64) (ho : s.boot.attOff = false) :
    State.actAtt k s = .ok (s.nextHandle 0x0C)
      ((((s.issue 0x0C (s.handlePart k) k).2.updSess k fun q' => { q' with att := s.attReport (s.nextHandle 0x0C) q.nonce }).event
        { code := 0xE8, handle := s.nextHandle 0x0C }).finish (s.nextHandle 0x0C) 2 0xE8) := by
  simp only [State.actAtt, hs]
  rw [if_neg (by simp [hn, ho])]; rfl

theorem beBytes_length (n w : Nat) : (beBytes n w).length = n := by simp [beBytes]

theorem ecdsaSign_length (d : Nat) (m : Bytes) : (ecdsaSign d m).length = 132 := by simp [ecdsaSign, beBytes_length]

/-- A field that stands behind other bytes. -/
theorem slice_field {a b c : Bytes} {o n : Nat} (ha : a.length = o) (hb : b.length = n) : slice (a ++ b ++ c) o n = b := by
  subst ha
  rw [slice_append_left (by simp [hb]), ← Nat.add_zero a.length, slice_append_right, slice_self b hb]

/-- R403: the first 48 bytes of a report. -/
def State.attHead (s : State) (h : Nat) : Bytes :=
  ascii "HATT" ++ leBytes 2 1 ++ leBytes 2 0 ++ leBytes 8 h ++ leBytes 8 (if s.time.valid then s.time.now else 0) ++ leBytes 1 s.time.st.code ++
  leBytes 1 s.boot.cause ++ leBytes 1 s.boot.bank ++ leBytes 1 (s.setting 0x2000 7) ++ leBytes 4 s.instar ++ leBytes 4 s.flash.epoch ++
  leBytes 4 (s.flash.bank s.boot.bank).svn ++ leBytes 4 s.licMask ++ leBytes 4 0

/-- R403: a report's digests after those of the device and its capability record. -/
def State.attTail (s : State) : Bytes :=
  sha512 s.flash.volt.bytes ++ s.fp.digest s.flash.cap ++ slice (s.flash.bank s.boot.bank).digest 0 64 ++
  sha512 (s.flash.licSorted.flatMap fun l => slice l.data 0 512) ++ slice s.img.content 0 64 ++ sha512 s.keyBytes ++
  sha512 (encodePub (Pt.mul meteringKey Pt.base)) ++ List.replicate 204 0

theorem attBody_eq (s : State) (h : Nat) (nonce : Bytes) :
    s.attBody h nonce = s.attHead h ++ (slice nonce 0 64 ++ (devId ++ (s.flash.cap.digest ++ s.attTail))) := by
  unfold State.attBody State.attHead State.attTail
  generalize devId = d
  generalize sha512 (encodePub (Pt.mul meteringKey Pt.base)) = m
  simp only [List.append_assoc]

theorem attHead_length (s : State) (h : Nat) : (s.attHead h).length = 48 := by
  simp only [State.attHead, List.length_append, leBytes_length]; rfl

theorem attTail_length (s : State) : s.attTail.length = 652 := by
  simp only [State.attTail, FpRec.digest, List.length_append, sha512_length, slice_length, List.length_replicate]

theorem attBody_length (s : State) (h : Nat) (nonce : Bytes) : (s.attBody h nonce).length = 892 := by
  simp only [attBody_eq, List.length_append, attHead_length, slice_length, devId_length, CapRec.digest, sha512_length, attTail_length]

theorem attHead_magic (s : State) (h : Nat) : slice (s.attHead h) 0 4 = ascii "HATT" := by
  simp only [State.attHead, List.append_assoc]
  exact slice_field (a := []) rfl rfl

theorem attHead_handle (s : State) (h : Nat) : slice (s.attHead h) 8 8 = leBytes 8 h := by
  obtain ⟨c, e⟩ : ∃ c, s.attHead h = ascii "HATT" ++ leBytes 2 1 ++ leBytes 2 0 ++ leBytes 8 h ++ c :=
    ⟨_, by simp only [State.attHead, List.append_assoc]; rfl⟩
  rw [e]; exact slice_field rfl (leBytes_length ..)

theorem attHead_instar (s : State) (h : Nat) : slice (s.attHead h) 28 4 = leBytes 4 s.instar := by
  obtain ⟨c, e⟩ : ∃ c, s.attHead h = ascii "HATT" ++ leBytes 2 1 ++ leBytes 2 0 ++ leBytes 8 h ++
      leBytes 8 (if s.time.valid then s.time.now else 0) ++ leBytes 1 s.time.st.code ++ leBytes 1 s.boot.cause ++ leBytes 1 s.boot.bank ++
      leBytes 1 (s.setting 0x2000 7) ++ leBytes 4 s.instar ++ c := ⟨_, by simp only [State.attHead, List.append_assoc]; rfl⟩
  rw [e]; exact slice_field (by simp only [List.length_append, leBytes_length]; rfl) (leBytes_length ..)

/-- A field of a report's first 48 bytes. -/
theorem attReport_head (s : State) (h : Nat) (nonce : Bytes) {o n : Nat} (hn : o + n ≤ 48) :
    slice (s.attReport h nonce) o n = slice (s.attHead h) o n := by
  rw [State.attReport, slice_append_left (by rw [attBody_length]; omega), attBody_eq, slice_append_left (by rw [attHead_length]; exact hn)]

/-- R403: what a report holds of the nonce and of the device. -/
theorem attReport_fields (s : State) (h : Nat) {nonce : Bytes} (hn : nonce.length = 64) :
    slice (s.attReport h nonce) 48 64 = nonce ∧ slice (s.attReport h nonce) 112 64 = devId ∧
      slice (s.attReport h nonce) 176 64 = s.flash.cap.digest := by
  obtain ⟨c, e⟩ : ∃ c, s.attReport h nonce = s.attHead h ++ (nonce ++ (devId ++ (s.flash.cap.digest ++ c))) :=
    ⟨s.attTail ++ ecdsaSign attestationKey (sha512 (s.attBody h nonce)), by
      simp only [State.attReport, attBody_eq, slice_self nonce hn, List.append_assoc]⟩
  have hh := attHead_length s h
  have hd := devId_length
  have hc : s.flash.cap.digest.length = 64 := sha512_length _
  rw [e]
  generalize devId = d at hd ⊢
  refine ⟨?_, ?_, ?_⟩
  · simpa only [List.append_assoc] using slice_field (a := s.attHead h) (b := nonce) (c := d ++ (s.flash.cap.digest ++ c)) hh hn
  · simpa only [List.append_assoc] using slice_field (a := s.attHead h ++ nonce) (b := d) (c := s.flash.cap.digest ++ c)
      (by rw [List.length_append, hh, hn]) hd
  · simpa only [List.append_assoc] using slice_field (a := s.attHead h ++ nonce ++ d) (b := s.flash.cap.digest) (c := c)
      (by rw [List.length_append, List.length_append, hh, hn, hd]) hc

/-- R403: the signature of a report covers what stands before it. -/
theorem attReport_signed (s : State) (h : Nat) (nonce : Bytes) :
    (s.attReport h nonce).length = 1024 ∧
      (s.attReport h nonce).drop 892 = ecdsaSign attestationKey (sha512 ((s.attReport h nonce).take 892)) := by
  have ht : (s.attReport h nonce).take 892 = s.attBody h nonce := List.take_left' (attBody_length s h nonce)
  have hd : (s.attReport h nonce).drop 892 = ecdsaSign attestationKey (sha512 (s.attBody h nonce)) :=
    List.drop_left' (attBody_length s h nonce)
  refine ⟨?_, by rw [ht, hd]⟩
  rw [State.attReport, List.length_append, attBody_length, ecdsaSign_length]

end Sys2Proof.Machine

open Sys2Proof Sys2Proof.Machine

/-- Settles O45. -/
theorem licencesAndAttestation : Obligations.LicencesAndAttestation := by
  intro s
  refine ⟨?_, ?_, ?_, ?_⟩
  · intro k x q hd hs hr _ b h
    have hg : q.role.writeGate s.boot.done 0x9010 2 6 = none := by
      rw [hd]; rcases hr with hr | hr <;> rw [hr] <;> decide
    cases hc : s.licRefused b with
    | some n =>
      obtain ⟨hf, hrec, hst, hcode, -⟩ :=
        event_finish_spec (s.issue 0x0B (s.handlePart k) k).2 { code := 0xE5, handle := h, d0 := n } h 3 0xE5
      have hflash := congrArg State.flash hf
      refine ⟨_, congrArg Host.Outcome.next (sessAct_ok x hs hg (actLicInstall_refused k hc)), ?_, respond_answered .., ?_, ?_, ?_⟩
      · exact congrArg (fun v : State => { v with boot := s.boot, flash := s.flash }) hf
      · rintro m hm
        obtain rfl : n = m := Option.some.inj hm
        exact ⟨hflash, hrec, hst, hcode⟩
      · intro hform
        obtain rfl : n = 1 := Option.some.inj (hc.symm.trans (licRefused_form hform))
        exact ⟨hflash, hrec⟩
      · intro hn; cases hn
    | none =>
      obtain ⟨hf, hrec, hst, hcode, -⟩ :=
        event_finish_spec ((s.issue 0x0B (s.handlePart k) k).2.withLic b) { code := 0xE6, handle := h } h 2 0xE6
      have hflash := congrArg State.flash hf
      refine ⟨_, congrArg Host.Outcome.next (sessAct_ok x hs hg (actLicInstall_ok k hc)), ?_, respond_answered .., ?_, ?_, ?_⟩
      · exact congrArg (fun v : State => { v with boot := s.boot, flash := s.flash }) hf
      · intro n hn; cases hn
      · intro hform; rw [licRefused_form hform] at hc; cases hc
      · intro _
        refine ⟨hflash, ?_, hrec, hst, hcode⟩
        exact (congrArg (fun v : State => v.licensed (licFeature b)) hf).trans (withLic_licensed s b)
  · intro k x v q hd hs hr hv
    have hg : q.role.writeGate s.boot.done 0x9010 6 2 = none := by rw [hd, hr]; decide
    have hrow : objRow 0x9010 6 = some ⟨0x9010, 0x9010, 0x06, 0x06, .u64, .wo, 0⟩ := by decide
    have he := numWrite_eq s k x State.wrLicRemove hrow rfl hv
    have hfit := fits_of_size (t := .u64) rfl (by decide) (leBytes_length 8 v)
    have hnat : leNat (leBytes 8 v) = v := leNat_leBytes_of_lt hv
    have refused (hf : s.wrLicRemove v = .fail 0x0A 0) :
        ∃ u, exec (.licRemove k x v) s = .next u ∧ { u with fordan := s.fordan } = s ∧ Answered u k x 2 0x0A 0x9010 6 (leBytes 4 0) :=
      ⟨_, congrArg Host.Outcome.next (he.trans (sessWrite_refused x hs hg hrow hfit (by rw [hnat]; exact hf))), rfl, respond_answered ..⟩
    refine ⟨fun h => refused (wrLicRemove_absent h), fun l hl h => refused (wrLicRemove_used hl ?_), fun l hl hu hp hlim => ?_⟩
    · rcases h with ⟨h2, ht⟩ | ⟨h1, hn, ho⟩
      · exact Or.inr (by simp [State.featureUsed, h2, ht])
      · refine Or.inl ⟨h1, ?_⟩
        rw [partLimit_unlicensed fun y hy => ?_]
        · exact hn
        · obtain ⟨hm, hne⟩ := List.mem_filter.mp hy
          exact ho y hm (by simpa using hne)
    · have hle : 4 ≤ (s.withoutLic v).partLimit := le_partLimit le_rfl fun y hy => hlim y (List.mem_filter.mp hy).1
      have hf := wrLicRemove_free hl (fun h1 => (hp h1).trans hle) hu
      have hev := event_frame (s.withoutLic v) { code := 0xE7 }
      refine ⟨_, congrArg Host.Outcome.next (he.trans (sessWrite_ok x hs hg hrow hfit (by rw [hnat]; exact hf))), ?_, respond_answered ..,
        event_recordedLast (s.withoutLic v) { code := 0xE7 }, congrArg State.flash hev⟩
      exact congrArg (fun w : State => { w with flash := s.flash }) hev
  · intro k x v ⟨hd, q, hs, hr⟩
    have hg : q.role.writeGate s.boot.done 0x9010 6 2 = some 4 := by rw [hd, hr]; decide
    exact ⟨_, congrArg Host.Outcome.next (sessWrite_gated x _ _ hs hg), rfl, respond_answered ..⟩
  · intro k x q hs hr hh
    have hg : q.role.writeGate s.boot.done 0x9020 1 6 = none := by
      cases hq : q.role with
      | vendor => exact absurd hq hr
      | operator => cases s.boot.done <;> decide
      | partition p => cases s.boot.done <;> rfl
    refine ⟨fun hn ho => ?_, fun h => ?_⟩
    · have hok := actAtt_ok hs hn ho
      generalize hb : s.attReport (s.nextHandle 0x0C) q.nonce = att at hok
      generalize hv : ((s.issue 0x0C (s.handlePart k) k).2.updSess k fun q' => { q' with att := att }) = v at hok
      have hvf : { v with boot := s.boot, fordan := s.fordan } = s := by
        subst hv
        exact congrArg (fun w : State => { w with boot := s.boot, fordan := s.fordan }) (updSess_frame (s.issue 0x0C (s.handlePart k) k).2 k _)
      have hvs : v.sess k = some { q with att := att } := by
        subst hv
        rw [updSess_sess_self]
        exact congrArg _ hs
      obtain ⟨hf, hrec, hst, hcode, -⟩ := event_finish_spec v { code := 0xE8, handle := s.nextHandle 0x0C } (s.nextHandle 0x0C) 2 0xE8
      obtain ⟨w, hw, hatt⟩ := ((event_sess v { code := 0xE8, handle := s.nextHandle 0x0C }).trans
        (finish_sess _ (s.nextHandle 0x0C) 2 0xE8)).some hvs
      obtain ⟨hlen, hsig⟩ := attReport_signed s (s.nextHandle 0x0C) q.nonce
      obtain ⟨hnonce, hdev, hcap⟩ := attReport_fields s (s.nextHandle 0x0C) hn
      have hflt : v.flt = s.flt := by have q := congrArg State.flt hvf; exact q
      have hcsr : v.csr = s.csr := by have q := congrArg State.csr hvf; exact q
      rw [hb] at hlen hsig hnonce hdev hcap
      refine ⟨_, w, congrArg Host.Outcome.next (sessAct_ok x hs hg hok), ?_, respond_answered .., ?_, hst, hw, ?_⟩
      · exact (congrArg (fun w : State => { w with boot := s.boot, flt := s.flt, csr := s.csr, fordan := s.fordan }) hf).trans
          ((congrArg (fun w : State => { w with flt := s.flt, csr := s.csr }) hvf))
      · exact hrec.of_same hflt hcsr
      · rw [hatt]
        have hhead {o n : Nat} (h : o + n ≤ 48) := attReport_head s (s.nextHandle 0x0C) q.nonce h
        rw [hb] at hhead
        refine ⟨hlen, ?_, ?_, ?_, hnonce, hdev, hcap, hsig⟩
        · exact (hhead (by decide)).trans (attHead_magic ..)
        · rw [leAt, hhead (by decide), attHead_handle]
          exact leNat_leBytes_of_lt (by unfold State.nextHandle; omega)
        · rw [leAt, hhead (by decide), attHead_instar, leNat_leBytes]; rfl
    · exact ⟨_, congrArg Host.Outcome.next (sessAct_refused x hs hg (actAtt_refused hs h)), rfl, respond_answered ..⟩
end

section
/-!
What the loss of a region touches (R24, R25, R185, R186), stated by projections that leave out what may change.
-/

namespace Sys2Proof.Machine

/-! ### Steps one after another -/

/-- A projection that every step keeps is kept by the steps one after another. -/
theorem each_keeps {α : Type} (π : State → α) {f : State → Nat → State} (hf : ∀ v i, π (f v i) = π v) (l : List Nat) (s : State) :
    π (s.each l f) = π s := by
  induction l generalizing s with
  | nil => rfl
  | cons i l ih => exact (ih (f s i)).trans (hf s i)

theorem foldl_keeps {α β : Type} (π : State → α) {f : State → β → State} (hf : ∀ v i, π (f v i) = π v) (l : List β) (s : State) :
    π (l.foldl f s) = π s := by
  induction l generalizing s with
  | nil => rfl
  | cons i l ih => exact (ih (f s i)).trans (hf s i)

/-! ### Fences and records -/

/-- The state without its tiles, networks, fault unit, CSR window and Fordan server. -/
def State.sansFabric (s : State) : State :=
  { s with tiles := [], net := [], ringOut := [], flt := .init, csr := .init, fordan := .init }

theorem mem_of_fabric {s u : State} (h : u.sansFabric = s.sansFabric) : u.mem = s.mem := (congrArg State.mem h :)

@[simp] theorem event_fabric (s : State) (e : Ev) : (s.event e).sansFabric = s.sansFabric :=
  (congrArg State.sansFabric (event_frame s e) :)

@[simp] theorem report_fabric (s : State) (t w0 w1 w2 w3 : Nat) : (s.report t w0 w1 w2 w3).sansFabric = s.sansFabric :=
  (congrArg State.sansFabric (report_frame s t w0 w1 w2 w3) :)

@[simp] theorem updTile_fabric (s : State) (t : Nat) (f : Tile → Tile) : (s.updTile t f).sansFabric = s.sansFabric := rfl

@[simp] theorem fabReport_fabric (s : State) (t code port : Nat) (msg : Bool) (label unit w2 w3 : Nat) :
    (s.fabReport t code port msg label unit w2 w3).sansFabric = s.sansFabric := by simp [State.fabReport]

@[simp] theorem breach_fabric (s : State) (t port : Nat) (msg : Bool) (label n : Nat) :
    (s.breach t port msg label n).sansFabric = s.sansFabric := by
  simp [State.breach, State.count, State.occur, apply_ite State.sansFabric]

@[simp] theorem fenceBlock_fabric (s : State) (t key port label unit : Nat) :
    (s.fenceBlock t key port label unit).sansFabric = s.sansFabric := by simp [State.fenceBlock, State.occur, State.block]

@[simp] theorem flushPort_fabric (s : State) (t port : Nat) : (s.flushPort t port).sansFabric = s.sansFabric := by
  simp [State.flushPort, apply_ite State.sansFabric, each_keeps]

@[simp] theorem setRingOut_fabric (s : State) (l : Tab (List Packet)) : ({ s with ringOut := l } : State).sansFabric = s.sansFabric := rfl

@[simp] theorem flushRing_fabric (s : State) (t port : Nat) : (s.flushRing t port).sansFabric = s.sansFabric := by
  simp [State.flushRing, State.count, State.occur, apply_ite State.sansFabric]

/-- One tile's ports toward the ring and toward other regions. -/
theorem fenceRegion_fabric (s : State) (g : Nat) : (s.fenceRegion g).sansFabric = s.sansFabric := by
  refine each_keeps State.sansFabric (fun v u => ?_) _ s
  rw [each_keeps State.sansFabric, each_keeps State.sansFabric]
  · intro v p; exact flushRing_fabric ..
  · intro v p
    cases neighbour u p with
    | none => rfl
    | some t => simp [apply_ite State.sansFabric]

/-! ### A region that goes down (R24, R25) -/

/-- The state without what the loss of a region touches: memory, the regions and their queues of leave, and what fences and records touch. -/
def State.sansRegions (s : State) : State :=
  { s.sansFabric with mem := [], bad := [], fields := [], regions := [] }

theorem regions_of_fabric {s u : State} (h : u.sansFabric = s.sansFabric) : u.sansRegions = s.sansRegions :=
  (congrArg (fun v : State => { v with mem := [], bad := [], fields := [], regions := [] }) h :)

@[simp] theorem updRegion_regions' (s : State) (g : Nat) (f : Region → Region) : (s.updRegion g f).sansRegions = s.sansRegions := rfl

@[simp] theorem updField_regions' (s : State) (g : Nat) (f : Field → Field) : (s.updField g f).sansRegions = s.sansRegions := rfl

@[simp] theorem event_regions' (s : State) (e : Ev) : (s.event e).sansRegions = s.sansRegions := regions_of_fabric (event_fabric s e)

@[simp] theorem fenceRegion_regions' (s : State) (g : Nat) : (s.fenceRegion g).sansRegions = s.sansRegions :=
  regions_of_fabric (fenceRegion_fabric s g)

@[simp] theorem dropFreq_regions' (s : State) (g cause : Nat) : (s.dropFreq g cause).sansRegions = s.sansRegions := by
  simp [State.dropFreq, apply_ite State.sansRegions, foldl_keeps, State.changeDropped]

@[simp] theorem powerOff_regions' (s : State) (g : Nat) (deep : Bool) : (s.powerOff g deep).sansRegions = s.sansRegions := rfl

/-- What a region's going down to Dark touches: a moult in progress there goes on. -/
@[simp] theorem regionDown_dark_regions (s : State) (g : Nat) : (s.regionDown g .dark).sansRegions = s.sansRegions := by
  have moults (r : RegSt) : (r == .moulting && (if r.code < RegSt.dark.code then RegSt.dark else r) != .moulting) = false := by
    cases r <;> rfl
  simp [State.regionDown, apply_ite State.sansRegions, moults]

/-! ### The other regions, and the region itself -/

theorem region_of_fabric {s u : State} (h : u.sansFabric = s.sansFabric) (j : Nat) : u.region j = s.region j :=
  (congrArg (fun v : State => v.region j) h :)

@[simp] theorem event_region (s : State) (e : Ev) (j : Nat) : (s.event e).region j = s.region j := region_of_fabric (event_fabric s e) j

@[simp] theorem fenceRegion_region (s : State) (g j : Nat) : (s.fenceRegion g).region j = s.region j :=
  region_of_fabric (fenceRegion_fabric s g) j

theorem changeDropped_all_region (s : State) (g cause j : Nat) (l : List (Nat × Nat)) :
    (l.foldl (fun s c => s.changeDropped g cause c) s).region j = s.region j :=
  foldl_keeps (fun v : State => v.region j) (fun _ _ => event_region ..) l s

theorem dropFreq_region_ne (s : State) (g cause : Nat) {j : Nat} (h : j ≠ g) : (s.dropFreq g cause).region j = s.region j := by
  simp only [State.dropFreq, apply_ite State.region, ite_apply, updRegion_region_ne _ _ _ h, changeDropped_all_region, ite_self]

theorem dropFreq_st (s : State) (g cause : Nat) : ((s.dropFreq g cause).region g).st = (s.region g).st := by
  have set (r : Region) (l : List (Nat × Nat)) : (r.setChanges l).st = r.st := by cases l <;> rfl
  unfold State.dropFreq
  split
  · rfl
  · rw [updRegion_region_self, set, changeDropped_all_region]

theorem powerOff_region_ne (s : State) (g : Nat) (deep : Bool) {j : Nat} (h : j ≠ g) : (s.powerOff g deep).region j = s.region j := by
  unfold State.powerOff
  extract_lets a ts b c
  exact updRegion_region_ne c g _ h

theorem powerOff_st (s : State) (g : Nat) (deep : Bool) : ((s.powerOff g deep).region g).st = (s.region g).st := by
  unfold State.powerOff
  extract_lets a ts b
  rw [updRegion_region_self]
  rfl

theorem regionDown_dark_region_ne (s : State) (g : Nat) {j : Nat} (h : j ≠ g) : (s.regionDown g .dark).region j = s.region j := by
  have moults (r : RegSt) : (r == .moulting && (if r.code < RegSt.dark.code then RegSt.dark else r) != .moulting) = false := by
    cases r <;> rfl
  simp only [State.regionDown, apply_ite State.region, ite_apply, moults, updRegion_region_ne _ _ _ h, powerOff_region_ne _ _ _ h,
    dropFreq_region_ne _ _ _ h, fenceRegion_region, ite_self, Bool.false_eq_true, if_false]

/-- R25: a region that goes down to Dark is Dark where its state was above, and in its state where that is lower. -/
theorem regionDown_dark_st (s : State) (g : Nat) :
    ((s.regionDown g .dark).region g).st = if (s.region g).st.code < 2 then .dark else (s.region g).st := by
  unfold State.regionDown
  extract_lets old new a b c d
  have hnew : new = if old.code < 2 then .dark else old := rfl
  have ha : (a.region g).st = old := by
    unfold a
    split
    · rw [updRegion_region_self]; exact dropFreq_st ..
    · rfl
  have hb : (b.region g).st = old := by
    unfold b
    split
    · rw [fenceRegion_region, ha]
    · exact ha
  have hc : (c.region g).st = new := by
    unfold c
    split
    · rename_i e; rw [hb]; exact (beq_iff_eq.mp e).symm
    · rw [updRegion_region_self]
  have hd : d = c := by
    unfold d
    rw [hnew]
    cases old <;> rfl
  rw [hd, ← hnew]
  split
  · rw [powerOff_st, hc]
  · exact hc

end Sys2Proof.Machine
end

section
/-!
What the removal of an image leaves (R261, R316).
-/

namespace Sys2Proof.Machine

/-! ### A step for each of several units -/

/-- A predicate that each step keeps holds after the steps one after another. -/
theorem each_ind {P : State → Prop} {f : State → Nat → State} {l : List Nat} (hf : ∀ v, ∀ i ∈ l, P v → P (f v i)) {s : State} (h : P s) :
    P (s.each l f) := by
  induction l generalizing s with
  | nil => exact h
  | cons i l ih => exact ih (fun v j hj => hf v j (List.mem_cons_of_mem _ hj)) (hf s i List.mem_cons_self h)

/-- Steps each of which changes the unit that it names leave every unit not named as it was. -/
theorem each_unit_ne {α : Type} (unit : State → Nat → α) {f : State → Nat → State}
    (hne : ∀ v i j, j ≠ i → unit (f v i) j = unit v j) {l : List Nat} {j : Nat} (hj : j ∉ l) (s : State) :
    unit (s.each l f) j = unit s j := by
  induction l generalizing s with
  | nil => rfl
  | cons i l ih =>
    simp only [List.mem_cons, not_or] at hj
    exact (ih hj.2 (f s i)).trans (hne s i j hj.1)

/-- Steps each of which changes the unit that it names: a unit named once takes its own step. -/
theorem each_unit {α : Type} (unit : State → Nat → α) {f : State → Nat → State}
    (hne : ∀ v i j, j ≠ i → unit (f v i) j = unit v j) {l : List Nat} (hl : l.Nodup) {j : Nat} (hj : j ∈ l) (s : State) :
    ∃ v, unit v j = unit s j ∧ unit (s.each l f) j = unit (f v j) j := by
  induction l generalizing s with
  | nil => cases hj
  | cons i l ih =>
    obtain ⟨hi, hl⟩ := List.nodup_cons.mp hl
    by_cases e : j = i
    · subst e
      exact ⟨s, rfl, each_unit_ne unit hne hi (f s j)⟩
    · obtain ⟨v, hv, hu⟩ := ih hl ((List.mem_cons.mp hj).resolve_left e) (f s i)
      exact ⟨v, hv.trans (hne s i j e), hu⟩

theorem upTo_nodup (n : Nat) : (upTo n).Nodup := List.nodup_range

theorem mem_upTo {n j : Nat} : j ∈ upTo n ↔ j < n := List.mem_range

/-! ### Rows that lose their supply -/

theorem wfFrom_filter {n : Nat} {l : List (Nat × Byte)} (p : Nat × Byte → Bool) (h : Memory.wfFrom n l = true) :
    Memory.wfFrom n (l.filter p) = true := by
  induction l generalizing n with
  | nil => rfl
  | cons c l ih =>
    obtain ⟨k, v⟩ := c
    simp only [Memory.wfFrom, Bool.and_eq_true, decide_eq_true_eq] at h
    rw [List.filter_cons]
    split
    · simp only [Memory.wfFrom, Bool.and_eq_true, decide_eq_true_eq]
      exact ⟨h.1, ih h.2⟩
    · exact wfFrom_mono (by omega) (ih h.2)

theorem get_filter {p : Nat → Bool} {a : Nat} (ha : p a = true) (l : List (Nat × Byte)) :
    Tab.get (0 : Byte) (l.filter fun c => p c.1) a = Tab.get 0 l a := by
  induction l with
  | nil => rfl
  | cons c l ih =>
    obtain ⟨k, v⟩ := c
    rw [List.filter_cons]
    split
    · simp only [Tab.get, ih]
    · rename_i hk
      have hne : a ≠ k := fun e => hk (by rw [← e]; exact ha)
      rw [ih, Tab.get, if_neg hne]

/-- Memory in canonical form in which a byte holds a value. -/
def Holds (a : Nat) (b : Byte) (s : State) : Prop := Memory.wf s.mem = true ∧ s.byteAt a = b

theorem Holds.of_mem {a : Nat} {b : Byte} {s u : State} (h : Holds a b s) (e : u.mem = s.mem) : Holds a b u := by
  simpa only [Holds, State.byteAt, e] using h

/-- Rows that lose their supply leave every byte of the others as it was. -/
theorem Holds.dropRows {a : Nat} {b : Byte} {s : State} (h : Holds a b s) {p : Nat → Bool} (hp : p (a / 512) = false) :
    Holds a b (s.dropRows p) := by
  obtain ⟨hw, hb⟩ := h
  have hw' : Memory.wf (s.dropRows p).mem = true := wfFrom_filter _ hw
  refine ⟨hw', ?_⟩
  rw [byteAt_eq hw', ← hb, byteAt_eq hw]
  exact get_filter (p := fun k => !p (k / 512)) (by simp [hp]) s.mem

theorem dropFreq_mem (s : State) (g cause : Nat) : (s.dropFreq g cause).mem = s.mem := by
  have all (l : List (Nat × Nat)) : (l.foldl (fun s c => s.changeDropped g cause c) s).mem = s.mem :=
    foldl_keeps State.mem (fun _ _ => mem_of_fabric (event_fabric ..)) l s
  simp only [State.dropFreq, apply_ite State.mem, updRegion_mem, all, ite_self]

theorem fenceRegion_mem (s : State) (g : Nat) : (s.fenceRegion g).mem = s.mem := mem_of_fabric (fenceRegion_fabric s g)

/-- R24: a region that goes down to Dark loses the rows of its logic tier alone. -/
theorem Holds.regionDown_dark {a : Nat} {b : Byte} {s : State} (h : Holds a b s) {g : Nat} (hg : logicRowOf g (a / 512) = false) :
    Holds a b (s.regionDown g .dark) := by
  unfold State.regionDown
  extract_lets old new v w x y
  have hv : v.mem = s.mem := by
    unfold v; split
    · rw [updRegion_mem, dropFreq_mem]
    · rfl
  have hw : w.mem = v.mem := by
    unfold w; split
    · exact fenceRegion_mem ..
    · rfl
  have hx : x.mem = w.mem := by unfold x; split <;> rfl
  have hy : y = x := by
    have hnew : new = if old.code < 2 then .dark else old := rfl
    unfold y
    rw [hnew]
    cases old <;> rfl
  have hy : Holds a b y := hy ▸ h.of_mem (hx.trans (hw.trans hv))
  split
  · unfold State.powerOff
    extract_lets c ts d e
    exact (hy.dropRows (p := fun id => logicRowOf g id || (false && deepRowOf g id)) (by rw [hg]; rfl)).of_mem rfl
  · exact hy

/-- Every region down to Dark. -/
def State.darken (s : State) : State := s.each (upTo 32) fun s g => s.regionDown g .dark

theorem darken_regions (s : State) : s.darken.sansRegions = s.sansRegions :=
  each_keeps State.sansRegions (fun v g => regionDown_dark_regions v g) _ s

/-- R25: after that no region is above Dark. -/
theorem darken_st (s : State) {g : Nat} (hg : g < 32) :
    (s.darken.region g).st = if (s.region g).st.code < 2 then .dark else (s.region g).st := by
  obtain ⟨v, hv, hu⟩ := each_unit State.region (f := fun s g => s.regionDown g .dark) (fun v i j h => regionDown_dark_region_ne v i h)
    (upTo_nodup 32) (mem_upTo.mpr hg) s
  rw [← hv, ← regionDown_dark_st v g, ← hu]; rfl

/-- The bytes outside the logic tier stay. -/
theorem darken_byteAt {s : State} (h : Memory.wf s.mem = true) {a : Nat} (ha : ∀ g < 32, logicRowOf g (a / 512) = false) :
    s.darken.byteAt a = s.byteAt a :=
  (each_ind (P := Holds a (s.byteAt a)) (fun _ g hg hv => hv.regionDown_dark (ha g (mem_upTo.mp hg))) ⟨h, rfl⟩).2

/-- R261: the tables of an image go, with the region records, the leave tables and the plans. -/
def State.clearTables (s : State) : State :=
  let ts : Tab Tile := s.tiles.map fun c => (c.1, c.2.unloaded)
  let s := { s with tiles := ts.filter fun c => decide (c.2 ≠ Tile.init) }
  let s := s.each (upTo 32) fun s g => s.updRegion g fun r => { r with rg := .none, sup := noTile, standby := noTile, lost := false }
  let s := s.each (upTo 16) fun s f => s.updField f fun x => { x with leave := [] }
  s.each (upTo 96) fun s e => s.updEngine e fun x => { Engine.init with wq := x.wq, wBusy := x.wBusy, ctr := x.ctr, tele := x.tele }

/-- The state without the units whose tables an image fills. -/
def State.sansTables (s : State) : State := { s with tiles := [], regions := [], fields := [], engines := [] }

theorem clearTables_tables (s : State) : s.clearTables.sansTables = s.sansTables := by
  simp only [State.clearTables]
  rw [each_keeps State.sansTables, each_keeps State.sansTables, each_keeps State.sansTables]
  all_goals intros; rfl

theorem each_updField_region (f : Field → Field) (l : List Nat) (s : State) (g : Nat) :
    (s.each l fun s i => s.updField i f).region g = s.region g :=
  each_keeps (fun v => v.region g) (f := fun s i => s.updField i f) (fun _ _ => rfl) l s

theorem each_updEngine_region (f : Engine → Engine) (l : List Nat) (s : State) (g : Nat) :
    (s.each l fun s i => s.updEngine i f).region g = s.region g :=
  each_keeps (fun v => v.region g) (f := fun s i => s.updEngine i f) (fun _ _ => rfl) l s

theorem each_updEngine_field (f : Engine → Engine) (l : List Nat) (s : State) (j : Nat) :
    (s.each l fun s i => s.updEngine i f).field j = s.field j :=
  each_keeps (fun v => v.field j) (f := fun s i => s.updEngine i f) (fun _ _ => rfl) l s

theorem clearTables_region (s : State) {g : Nat} (hg : g < 32) :
    s.clearTables.region g = { s.region g with rg := .none, sup := noTile, standby := noTile, lost := false } := by
  simp only [State.clearTables]
  rw [each_updEngine_region, each_updField_region]
  obtain ⟨v, hv, hu⟩ := each_unit State.region
    (f := fun s g => s.updRegion g fun r => { r with rg := .none, sup := noTile, standby := noTile, lost := false })
    (fun v i j h => updRegion_region_ne v i _ h) (upTo_nodup 32) (mem_upTo.mpr hg)
    { s with tiles := (s.tiles.map fun c => (c.1, c.2.unloaded)).filter fun c => decide (c.2 ≠ Tile.init) }
  rw [hu, updRegion_region_self, hv]; rfl

theorem clearTables_leave (s : State) {f : Nat} (hf : f < 16) : (s.clearTables.field f).leave = [] := by
  simp only [State.clearTables]
  rw [each_updEngine_field]
  obtain ⟨v, -, hu⟩ := each_unit State.field (f := fun s f => s.updField f fun x => { x with leave := [] })
    (fun v i j h => updField_field_ne v i _ h) (upTo_nodup 16) (mem_upTo.mpr hf) _
  rw [hu, updField_field_self]

theorem clearTables_engine (s : State) {e : Nat} (he : e < 96) : (s.clearTables.engine e).planN = 0 ∧ (s.clearTables.engine e).busy = none := by
  simp only [State.clearTables]
  obtain ⟨v, -, hu⟩ := each_unit State.engine
    (f := fun s e => s.updEngine e fun x => { Engine.init with wq := x.wq, wBusy := x.wBusy, ctr := x.ctr, tele := x.tele })
    (fun v i j h => updEngine_engine_ne v i _ h) (upTo_nodup 96) (mem_upTo.mpr he) _
  rw [hu, updEngine_engine_self]
  exact ⟨rfl, rfl⟩

/-! ### The end of training -/

/-- The state without what the end of its training touches. -/
def State.sansTraining (s : State) : State :=
  { s with
    train := .init, flt := .init, csr := .init, fordan := .init,
    boot := { s.boot with handles := [], retention := 0, lastDone := 0, partDone := [] } }

@[simp] theorem finish_training (s : State) (h st code : Nat) : (s.finish h st code).sansTraining = s.sansTraining := by
  have hf := (congrArg State.sansTraining (finish_frame s h st code) :)
  have hb := congrArg (fun b : Boot => { b with handles := [], retention := 0, lastDone := 0, partDone := [] }) (finish_boot s h st code)
  calc (s.finish h st code).sansTraining
      = { ({ s.finish h st code with boot := s.boot, fordan := s.fordan } : State).sansTraining with
          boot := { (s.finish h st code).boot with handles := [], retention := 0, lastDone := 0, partDone := [] } } := rfl
    _ = s.sansTraining := by rw [hf]; exact congrArg (fun b => { s.sansTraining with boot := b }) hb

@[simp] theorem event_training (s : State) (e : Ev) : (s.event e).sansTraining = s.sansTraining :=
  (congrArg State.sansTraining (event_frame s e) :)

@[simp] theorem dropSlotWrite_training (s : State) : s.dropSlotWrite.sansTraining = s.sansTraining := by
  unfold State.dropSlotWrite
  split
  · rfl
  · exact (event_training _ _).trans rfl

@[simp] theorem endTraining_training (s : State) : s.endTraining.sansTraining = s.sansTraining := by
  unfold State.endTraining
  extract_lets v hs w
  have hw : w.sansTraining = v.sansTraining :=
    foldl_keeps State.sansTraining (fun x h => by rw [apply_ite State.sansTraining, finish_training, ite_self]) hs v
  exact (show State.sansTraining _ = w.sansTraining from rfl).trans (hw.trans (dropSlotWrite_training s))

theorem endTraining_train (s : State) : s.endTraining.train = Train.init := rfl

theorem finish_hnd_ne (s : State) {h j : Nat} (st code : Nat) (hj : j ≠ h) : (s.finish h st code).hnd j = s.hnd j := by
  obtain ⟨r, d, p, e⟩ := finish_notified s h st code
  have hb := (congrArg (fun v : State => v.hnd j) e :)
  exact hb.trans (updHnd_hnd_ne s h (fun x => { x with st := st, code := code }) hj)

/-- The handles that end leave a handle alone that is not among them. -/
theorem finishAll_hnd {h : Nat} {hs : List Nat} (hall : h ∉ hs) (s : State) :
    (hs.foldl (fun s h => if h = 0 then s else s.finish h 3 0x8A) s).hnd h = s.hnd h := by
  induction hs generalizing s with
  | nil => rfl
  | cons x l ih =>
    obtain ⟨hx, hl⟩ := not_or.mp fun e => hall (List.mem_cons.mpr e)
    rw [List.foldl_cons, ih hl]
    split
    · rfl
    · exact finish_hnd_ne s _ _ hx

/-- The end of training leaves a handle alone that it does not know. -/
theorem endTraining_hnd {s : State} {h : Nat} (hw : s.train.writing = none) (hq : s.train.snapReq ≠ some h)
    (hr : ∀ r, s.train.restoring = some r → r.2.2 ≠ h) : s.endTraining.hnd h = s.hnd h := by
  have hd : s.dropSlotWrite = s := by simp only [State.dropSlotWrite, hw]
  unfold State.endTraining
  rw [hd]
  refine finishAll_hnd (fun hx => ?_) s
  rcases List.mem_append.mp hx with hx | hx
  · exact hq (Option.mem_toList.mp hx)
  · cases hc : s.train.restoring with
    | none => rw [hc] at hx; cases hx
    | some r =>
      rw [hc] at hx
      exact hr r hc (List.mem_singleton.mp hx).symm

end Sys2Proof.Machine
end

section
/-!
Image loads and unloads (R259 to R264).
-/

namespace Sys2Proof.Machine

/-! ### The removal of an image (R261) -/

/-- R261: every region Dark and the tables gone. -/
def State.cleared (s : State) : State := s.darken.clearTables

/-- R261, R316: no image is loaded, P_BASE is 0, and nothing is admitted; the header and the load are those of `c`. -/
def State.imageGone (s c : State) : State :=
  ({ s with
    img := { Img.init with hdr := c.img.hdr, load := c.img.load },
    meter := { c.meter with pBase := 0, qualN := 0, qualE := 0, wctx := [], initial := false } } : State).closeAdm 0x11

theorem removeImage_eq (s : State) : s.removeImage = s.cleared.endTraining.imageGone s.cleared := by
  unfold State.cleared State.removeImage State.darken State.clearTables State.imageGone
  dsimp only

/-- The state without the units that the removal of an image touches. -/
def State.sansUnits (s : State) : State := s.sansRegions.sansTables

theorem units_of_regions {s u : State} (h : u.sansRegions = s.sansRegions) : u.sansUnits = s.sansUnits := congrArg State.sansTables h
theorem units_of_tables {s u : State} (h : u.sansTables = s.sansTables) : u.sansUnits = s.sansUnits := (congrArg State.sansRegions h :)

theorem cleared_units (s : State) : s.cleared.sansUnits = s.sansUnits :=
  (units_of_tables (clearTables_tables s.darken)).trans (units_of_regions (darken_regions s))

section
variable {s u : State} (h : u.sansUnits = s.sansUnits)
include h

theorem img_of_units : u.img = s.img := (congrArg State.img h :)
theorem meter_of_units : u.meter = s.meter := (congrArg State.meter h :)
theorem train_of_units : u.train = s.train := (congrArg State.train h :)
theorem hnd_of_units (j : Nat) : u.hnd j = s.hnd j := (congrArg (fun v : State => v.hnd j) h :)

end

/-- The state without what the removal of an image touches. -/
def State.sansImage (s : State) : State := { s.sansUnits.sansTraining with img := .init, adm := .init, meter := .init }

theorem image_of_units {s u : State} (h : u.sansUnits = s.sansUnits) : u.sansImage = s.sansImage := (congrArg State.sansImage h :)
theorem image_of_training {s u : State} (h : u.sansTraining = s.sansTraining) : u.sansImage = s.sansImage := (congrArg State.sansImage h :)
theorem imageGone_image (s c : State) : (s.imageGone c).sansImage = s.sansImage := rfl

theorem removeImage_image (s : State) : s.removeImage.sansImage = s.sansImage := by
  rw [removeImage_eq, imageGone_image, image_of_training (endTraining_training _), image_of_units (cleared_units s)]

/-- What the removal of an image keeps. -/
theorem kept_of_image {s u : State} (h : u.sansImage = s.sansImage) :
    u.flash = s.flash ∧ u.reqs = s.reqs ∧ u.parts = s.parts ∧ u.stks = s.stks ∧ u.time = s.time ∧ u.boot.hctr = s.boot.hctr :=
  ⟨(congrArg State.flash h :), (congrArg State.reqs h :), (congrArg State.parts h :), (congrArg State.stks h :), (congrArg State.time h :),
    (congrArg (fun v : State => v.boot.hctr) h :)⟩

theorem imageGone_img (s c : State) : (s.imageGone c).img = { Img.init with hdr := c.img.hdr, load := c.img.load } := rfl
theorem imageGone_meter (s c : State) :
    (s.imageGone c).meter = { c.meter with pBase := 0, qualN := 0, qualE := 0, wctx := [], initial := false } := rfl
theorem imageGone_isOpen (s c : State) : (s.imageGone c).adm.isOpen = false := rfl
theorem imageGone_train (s c : State) : (s.imageGone c).train = s.train := rfl
theorem imageGone_region (s c : State) (g : Nat) : (s.imageGone c).region g = s.region g := rfl
theorem imageGone_field (s c : State) (f : Nat) : (s.imageGone c).field f = s.field f := rfl
theorem imageGone_engine (s c : State) (e : Nat) : (s.imageGone c).engine e = s.engine e := rfl
theorem imageGone_byteAt (s c : State) (a : Nat) : (s.imageGone c).byteAt a = s.byteAt a := rfl
theorem imageGone_hnd (s c : State) (h : Nat) : (s.imageGone c).hnd h = s.hnd h := rfl

section
variable {s u : State} (h : u.sansTraining = s.sansTraining)
include h

theorem region_of_training (g : Nat) : u.region g = s.region g := (congrArg (fun v : State => v.region g) h :)
theorem field_of_training (f : Nat) : u.field f = s.field f := (congrArg (fun v : State => v.field f) h :)
theorem engine_of_training (e : Nat) : u.engine e = s.engine e := (congrArg (fun v : State => v.engine e) h :)
theorem byteAt_of_training (a : Nat) : u.byteAt a = s.byteAt a := (congrArg (fun v : State => v.byteAt a) h :)

end

theorem byteAt_of_tables {s u : State} (h : u.sansTables = s.sansTables) (a : Nat) : u.byteAt a = s.byteAt a :=
  (congrArg (fun v : State => v.byteAt a) h :)

theorem removeImage_train (s : State) : s.removeImage.train = Train.init := by rw [removeImage_eq, imageGone_train, endTraining_train]

theorem removeImage_isOpen (s : State) : s.removeImage.adm.isOpen = false := by rw [removeImage_eq, imageGone_isOpen]

theorem removeImage_img (s : State) : s.removeImage.img = { Img.init with hdr := s.img.hdr, load := s.img.load } := by
  rw [removeImage_eq, imageGone_img, img_of_units (cleared_units s)]

theorem removeImage_meter (s : State) :
    s.removeImage.meter = { s.meter with pBase := 0, qualN := 0, qualE := 0, wctx := [], initial := false } := by
  rw [removeImage_eq, imageGone_meter, meter_of_units (cleared_units s)]

theorem removeImage_region (s : State) {g : Nat} (hg : g < 32) :
    (s.removeImage.region g).rg = .none ∧ (s.removeImage.region g).sup = noTile ∧
      (s.removeImage.region g).st = if (s.region g).st.code < 2 then .dark else (s.region g).st := by
  rw [removeImage_eq, imageGone_region, region_of_training (endTraining_training _), State.cleared, clearTables_region _ hg]
  dsimp only
  exact ⟨rfl, rfl, darken_st s hg⟩

theorem removeImage_leave (s : State) {f : Nat} (hf : f < 16) : (s.removeImage.field f).leave = [] := by
  rw [removeImage_eq, imageGone_field, field_of_training (endTraining_training _), State.cleared, clearTables_leave _ hf]

theorem removeImage_engine (s : State) {e : Nat} (he : e < 96) :
    (s.removeImage.engine e).planN = 0 ∧ (s.removeImage.engine e).busy = none := by
  rw [removeImage_eq, imageGone_engine, engine_of_training (endTraining_training _), State.cleared]
  exact clearTables_engine _ he

/-- R24, R261: the rows outside the logic tier stay. -/
theorem removeImage_byteAt {s : State} (h : Memory.wf s.mem = true) {a : Nat} (ha : ∀ g < 32, logicRowOf g (a / 512) = false) :
    s.removeImage.byteAt a = s.byteAt a := by
  rw [removeImage_eq, imageGone_byteAt, byteAt_of_training (endTraining_training _), State.cleared,
    byteAt_of_tables (clearTables_tables _), darken_byteAt h ha]

/-! ### The handles that end with training -/

/-- A handle without how it ended. -/
def Hnd.unended (x : Hnd) : Hnd := { x with st := 0, code := 0 }

theorem finish_unended (s : State) (h st code j : Nat) : ((s.finish h st code).hnd j).unended = (s.hnd j).unended := by
  by_cases e : j = h
  · subst e; rw [finish_hnd]; rfl
  · rw [finish_hnd_ne s st code e]

theorem dropSlotWrite_hnd (s : State) (j : Nat) : s.dropSlotWrite.hnd j = s.hnd j := by
  unfold State.dropSlotWrite
  split
  · rfl
  · exact (congrArg (fun v : State => v.hnd j) (event_frame _ _) :)

theorem finishAll_unended (hs : List Nat) (s : State) (j : Nat) :
    ((hs.foldl (fun s h => if h = 0 then s else s.finish h 3 0x8A) s).hnd j).unended = (s.hnd j).unended := by
  refine foldl_keeps (fun v : State => (v.hnd j).unended) (fun v h => ?_) hs s
  split
  · rfl
  · exact finish_unended ..

theorem endTraining_unended (s : State) (j : Nat) : (s.endTraining.hnd j).unended = (s.hnd j).unended := by
  rw [← dropSlotWrite_hnd s j]
  exact finishAll_unended _ s.dropSlotWrite j

theorem removeImage_unended (s : State) (j : Nat) : (s.removeImage.hnd j).unended = (s.hnd j).unended := by
  rw [removeImage_eq, imageGone_hnd, endTraining_unended, hnd_of_units (cleared_units s)]

theorem removeImage_hnd {s : State} {h : Nat} (hw : s.train.writing = none) (hq : s.train.snapReq ≠ some h)
    (hr : ∀ r, s.train.restoring = some r → r.2.2 ≠ h) : s.removeImage.hnd h = s.hnd h := by
  rw [← train_of_units (cleared_units s)] at hw hq hr
  rw [removeImage_eq, imageGone_hnd, endTraining_hnd hw hq hr, hnd_of_units (cleared_units s)]

end Sys2Proof.Machine
end

section
/-!
The steps of a load (R260), its failures (R261), and what is installed.
-/

namespace Sys2Proof.Machine

/-! ### The steps that the handle names -/

/-- The state with another image part and another boot part: the two parts that the steps of a load are kept in. -/
def State.withImg (s : State) (a : Img) (b : Boot) : State := { s with img := a, boot := b }

@[simp] theorem withImg_withImg (s : State) (a a' : Img) (b b' : Boot) : (s.withImg a b).withImg a' b' = s.withImg a' b' := rfl

theorem updTile_withImg (s : State) (a : Img) (b : Boot) (t : Nat) (f : Tile → Tile) :
    (s.withImg a b).updTile t f = (s.updTile t f).withImg a b := rfl

theorem setRows_withImg (s : State) (a : Img) (b : Boot) (l : List (Nat × Bytes)) :
    (s.withImg a b).setRows l = (s.setRows l).withImg a b := by
  induction l generalizing s with
  | nil => rfl
  | cons c l ih => exact ih (s.setRow c.1 c.2)

theorem each_withImg {f : State → Nat → State} {a : Img} {b : Boot} (hf : ∀ v i, f (v.withImg a b) i = (f v i).withImg a b) (l : List Nat)
    (s : State) : (s.withImg a b).each l f = (s.each l f).withImg a b := by
  induction l generalizing s with
  | nil => rfl
  | cons i l ih =>
    have tail := ih (f s i)
    rw [← hf] at tail
    exact tail

theorem stageWeights_withImg (s : State) (a : Img) (b : Boot) (i : Image) :
    (s.withImg a b).stageWeights i = (s.stageWeights i).withImg a b := setRows_withImg ..

theorem installTile_withImg (s : State) (a : Img) (b : Boot) (i : Image) (t : Nat) :
    (s.withImg a b).installTile i t = (s.installTile i t).withImg a b := by
  unfold State.installTile
  dsimp only
  simp only [updTile_withImg]
  split
  · rfl
  · rw [setRows_withImg]; rfl

theorem installTables_withImg (s : State) (a : Img) (b : Boot) (i : Image) :
    (s.withImg a b).installTables i = (s.installTables i).withImg a b := by
  unfold State.installTables
  dsimp only
  rw [each_withImg fun v t => installTile_withImg v a b i t, each_withImg (f := fun s g => s.putRegion g (i.region g)) fun _ _ => rfl,
    each_withImg (f := fun s f => s.updField f fun x => { x with leave := i.leaveOf f }) fun _ _ => rfl, each_withImg]
  intro v e
  rw [apply_ite (fun w : State => w.withImg a b)]
  rfl

theorem writeClkLists_withImg (s : State) (a : Img) (b : Boot) : (s.withImg a b).writeClkLists = s.writeClkLists.withImg a b := by
  refine each_withImg (fun v t => ?_) _ s
  dsimp only
  rw [apply_ite (fun w : State => w.withImg a b)]
  rfl

/-- R260 step 6 after the clock lists: the beat of length `len`, and what Wenwyn fixes for the image. -/
def State.started (s : State) (i : Image) (len : Nat) : State :=
  let s := { s with beat := { s.beat with len := len, nextMark := if s.time.valid then markAfter s.time.now len else s.beat.nextMark } }
  let s := { s with adm := { s.adm with pps := cdiv (hPPlan i.hdr * 1000) (hBroods i.hdr * 128), book := [] } }
  let wc := i.models.zipIdx.foldl (fun (t : Tab Nat) c => Tab.put 0 t c.2 (wctxOf i c.1)) []
  s.updMeter fun u => { u with wctx := wc, pBase := 0, qualN := 0, qualE := 0, initial := true }

theorem startImage_eq (s : State) (i : Image) : s.startImage i = s.writeClkLists.started i (s.setting 0x8000 4) := rfl

theorem started_withImg (s : State) (a : Img) (b : Boot) (i : Image) (len : Nat) :
    (s.withImg a b).started i len = (s.started i len).withImg a b := rfl

theorem setting_withImg (s : State) (a : Img) (b : Boot) (ix sub : Nat) : (s.withImg a b).setting ix sub = s.setting ix sub := rfl

theorem startImage_withImg (s : State) (a : Img) (b : Boot) (i : Image) : (s.withImg a b).startImage i = (s.startImage i).withImg a b := by
  rw [startImage_eq, startImage_eq, setting_withImg, writeClkLists_withImg, started_withImg]

/-- `u` is `x` with the load `l` at step `n`, which its handle names. -/
def LoadsAt (l : Load) (n : Nat) (x u : State) : Prop :=
  u = x.withImg u.img u.boot ∧ u.img = { x.img with load := some { l with step := n } } ∧
    u.hnd l.handle = { x.hnd l.handle with step := n } ∧ { u.boot with handles := x.boot.handles } = x.boot

theorem loadStep_loadsAt {s : State} {l : Load} (h : s.img.load = some l) (n : Nat) : LoadsAt l n s (s.loadStep n) := by
  simp only [State.loadStep, h]
  exact ⟨rfl, rfl, updHnd_hnd_self _ _ fun x => { x with step := n }, rfl⟩

theorem LoadsAt.loadStep {l : Load} {m : Nat} {x u : State} (h : LoadsAt l m x u) (n : Nat) : LoadsAt l n x (u.loadStep n) := by
  obtain ⟨hu, hi, hh, hb⟩ := h
  have hl : u.img.load = some { l with step := m } := by rw [hi]
  obtain ⟨gu, gi, gh, gb⟩ := loadStep_loadsAt hl n
  refine ⟨?_, ?_, ?_, ?_⟩
  · exact gu.trans (congrArg (fun v : State => v.withImg (u.loadStep n).img (u.loadStep n).boot) hu :)
  · rw [gi, hi]
  · exact gh.trans (by rw [hh])
  · have e := congrArg (fun b : Boot => { b with handles := x.boot.handles }) gb
    exact e.trans hb

/-- A part of the load that reads and writes neither the image part nor the boot part. -/
theorem LoadsAt.map {l : Load} {n : Nat} {x u : State} (h : LoadsAt l n x u) {f : State → State}
    (hf : ∀ a b, f (x.withImg a b) = (f x).withImg a b) : LoadsAt l n (f x) (f u) := by
  obtain ⟨hu, hi, hh, hb⟩ := h
  have hx : f x = (f x).withImg x.img x.boot := hf x.img x.boot
  have hxi : (f x).img = x.img := (congrArg State.img hx :)
  have hxb : (f x).boot = x.boot := (congrArg State.boot hx :)
  have hfu : f u = (f x).withImg u.img u.boot := by rw [← hf, ← hu]
  have hfi : (f u).img = u.img := (congrArg State.img hfu :)
  have hfb : (f u).boot = u.boot := (congrArg State.boot hfu :)
  have hhnd (v : State) (h : v.boot = u.boot) : v.hnd l.handle = u.hnd l.handle := congrArg (fun b : Boot => Tab.get hndNone b.handles l.handle) h
  refine ⟨?_, ?_, ?_, ?_⟩
  · rw [hfi, hfb]; exact hfu
  · rw [hfi, hi, hxi]
  · rw [hhnd _ hfb, hh]
    exact congrArg (fun b : Boot => { Tab.get hndNone b.handles l.handle with step := n }) hxb.symm
  · rw [hfb, hxb]; exact hb

/-! ### A load that ends with a code (R261) -/

theorem finish_img (s : State) (h st code : Nat) : (s.finish h st code).img = s.img := (congrArg State.img (finish_frame s h st code) :)

/-- R261: from step 2 on the end of a load removes what is installed, and its handle names the step. -/
theorem endLoad_spec {s : State} {l : Load} (h : s.img.load = some l) (hn : 1 < l.step) (code : Nat) :
    (s.endLoad code).img.load = none ∧ (s.endLoad code).img.loaded = none ∧
      (s.endLoad code).hnd l.handle = { s.hnd l.handle with st := 3, step := l.step, code := code } := by
  have ended (x y : Hnd) (e : x.unended = y.unended) :
      ({ x with st := 3, step := l.step, code := code } : Hnd) = { y with st := 3, step := l.step, code := code } :=
    congrArg (fun z : Hnd => { z with st := 3, step := l.step, code := code }) e
  have hh := removeImage_unended s l.handle
  have hi := removeImage_img s
  simp only [State.endLoad, h, if_neg (Nat.not_le.mpr hn)]
  generalize s.removeImage = r at hh hi
  refine ⟨?_, ?_, ?_⟩
  · rw [finish_img]; rfl
  · rw [finish_img]
    exact congrArg Img.loaded hi
  · rw [finish_hnd, updHnd_hnd_self]
    exact ended (r.hnd l.handle) (s.hnd l.handle) hh

theorem LoadsAt.endLoad {l : Load} {n : Nat} {x u : State} (h : LoadsAt l n x u) (hn : 1 < n) (code : Nat) :
    (u.endLoad code).img.load = none ∧ (u.endLoad code).img.loaded = none ∧
      (u.endLoad code).hnd l.handle = { x.hnd l.handle with st := 3, step := n, code := code } := by
  obtain ⟨-, hi, hh, -⟩ := h
  obtain ⟨h1, h2, h3⟩ := endLoad_spec (l := { l with step := n }) (s := u) (by rw [hi]) hn code
  exact ⟨h1, h2, h3.trans (by rw [hh])⟩

end Sys2Proof.Machine
end

section
/-!
What a load installs (R260).
-/

namespace Sys2Proof.Machine

/-! ### Tables and weights -/

/-- The state without what the weights and the tables of an image are put in. -/
def State.sansInstalled (s : State) : State := { s with mem := [], bad := [], tiles := [], regions := [], fields := [], engines := [] }

theorem updRegion_installed (s : State) (g : Nat) (f : Region → Region) : (s.updRegion g f).sansInstalled = s.sansInstalled := rfl

theorem setRows_installed (s : State) (l : List (Nat × Bytes)) : (s.setRows l).sansInstalled = s.sansInstalled :=
  (congrArg State.sansInstalled (setRows_frame s l) :)

/-- The tables of a tile go into the tile, and its initial descriptors into its rows. -/
theorem installTile_frame (s : State) (i : Image) (t : Nat) :
    { s.installTile i t with tiles := s.tiles, mem := s.mem, bad := s.bad } = s := by
  unfold State.installTile
  dsimp only
  split
  · rfl
  · have h (v : State) (l : List (Nat × Bytes)) : { v.setRows l with tiles := s.tiles, mem := s.mem, bad := s.bad } =
        { v with tiles := s.tiles, mem := s.mem, bad := s.bad } :=
      congrArg (fun w : State => { w with tiles := s.tiles, mem := s.mem, bad := s.bad }) (setRows_frame v l)
    rw [h]; rfl

/-- A plan section of an engine comes into force. -/
def State.putPlan (i : Image) (s : State) (e : Nat) : State :=
  let p := (recordsOf 32 ((i.sec 0x0030 e).getD [])).map leNat
  if p.isEmpty ∧ (s.engine e).planN = 0 then s
  else s.updEngine e fun x => { x with plan := tabOf 0 p, planN := p.length, ix := p.length, repl := [], busy := none }

theorem installTables_eq (s : State) (i : Image) :
    s.installTables i =
      ((((s.each i.tiles fun s t => s.installTile i t).each (upTo 32) fun s g => s.putRegion g (i.region g)).each (upTo 16) fun s f =>
        s.updField f fun x => { x with leave := i.leaveOf f }).each (upTo 96) (State.putPlan i)) := rfl

theorem putPlan_keeps {α : Type} (π : State → α) (hπ : ∀ v e f, π (v.updEngine e f) = π v) (i : Image) (v : State) (e : Nat) :
    π (v.putPlan i e) = π v := by
  unfold State.putPlan
  dsimp only
  split
  · rfl
  · exact hπ ..

theorem installTile_keeps {α : Type} {π : State → α} (hπ : ∀ v T m b, π { v with tiles := T, mem := m, bad := b } = π v) (v : State) (i : Image)
    (t : Nat) : π (v.installTile i t) = π v :=
  (hπ (v.installTile i t) v.tiles v.mem v.bad).symm.trans (congrArg π (installTile_frame v i t))

/-- A projection that tile, field and engine tables leave alone. -/
theorem installTables_keeps {α : Type} {π : State → α} (ht : ∀ v T m b, π { v with tiles := T, mem := m, bad := b } = π v)
    (hf : ∀ v f l, π (v.updField f fun x => { x with leave := l }) = π v) (he : ∀ v e f, π (v.updEngine e f) = π v) (s : State) (i : Image) :
    ∃ v, π v = π s ∧ π (s.installTables i) = π (v.each (upTo 32) fun s g => s.putRegion g (i.region g)) := by
  refine ⟨s.each i.tiles fun s t => s.installTile i t, each_keeps π (fun v t => installTile_keeps ht v i t) _ s, ?_⟩
  rw [installTables_eq, each_keeps π fun v e => putPlan_keeps π he i v e, each_keeps π fun v f => hf v f (i.leaveOf f)]

theorem installTables_installed (s : State) (i : Image) : (s.installTables i).sansInstalled = s.sansInstalled := by
  obtain ⟨v, hv, hu⟩ := installTables_keeps (π := State.sansInstalled) (fun _ _ _ _ => rfl) (fun _ _ _ => rfl) (fun _ _ _ => rfl) s i
  exact hu.trans ((each_keeps State.sansInstalled (fun v g => updRegion_installed v g _) _ v).trans hv)

/-- R254, R260: a region has the record that the image has of it. -/
theorem installTables_region (s : State) (i : Image) {g : Nat} (hg : g < 32) :
    (s.installTables i).region g = { s.region g with rg := i.region g, sup := (i.region g).sup, standby := (i.region g).standby } := by
  obtain ⟨v, hv, hu⟩ := installTables_keeps (π := fun w => w.region g) (fun _ _ _ _ => rfl) (fun _ _ _ => rfl) (fun _ _ _ => rfl) s i
  obtain ⟨w, hw, hx⟩ := each_unit State.region (f := fun s g => s.putRegion g (i.region g)) (fun v g j h => updRegion_region_ne v g _ h)
    (upTo_nodup 32) (mem_upTo.mpr hg) v
  rw [hu, hx, ← hv, ← hw]
  exact updRegion_region_self ..

/-- The leave tables leave a field's supply alone. -/
theorem installTables_planeOff (s : State) (i : Image) (f : Nat) : ((s.installTables i).field f).planeOff = (s.field f).planeOff := by
  have leave (v : State) (j : Nat) (l : List LeaveEntry) : ((v.updField j fun x => { x with leave := l }).field f).planeOff = (v.field f).planeOff := by
    by_cases h : f = j
    · subst h; rw [updField_field_self]
    · rw [updField_field_ne v j _ h]
  obtain ⟨v, hv, hu⟩ := installTables_keeps (π := fun w => (w.field f).planeOff) (fun _ _ _ _ => rfl) leave (fun _ _ _ => rfl) s i
  exact hu.trans ((each_keeps (fun w => (w.field f).planeOff) (fun v g => congrArg Field.planeOff (updRegion_field v g _ f)) _ v).trans hv)

/-- R260 step 6: the clock lists. -/
theorem writeClkLists_frame (s : State) : { s.writeClkLists with tiles := [] } = { s with tiles := [] } := by
  refine each_keeps (fun v : State => { v with tiles := [] }) (fun v t => ?_) _ s
  dsimp only
  split <;> rfl

theorem writeClkLists_tile (s : State) (t : Nat) : { s.writeClkLists.tile t with clk := none } = { s.tile t with clk := none } := by
  refine each_keeps (fun v : State => { v.tile t with clk := none }) (fun v j => ?_) _ s
  dsimp only
  split
  · rfl
  · by_cases h : t = j
    · subst h; rw [updTile_tile_self]
    · rw [updTile_tile_ne _ _ _ h]

end Sys2Proof.Machine
end

section
/-!
The course of a load (R260).
-/

namespace Sys2Proof.Machine

/-! ### The wakes that a load begins -/

/-- R260 step 8: a region that the image uses begins to wake where it may. -/
def State.wakeUsed (turn : Bool) (s : State) (g : Nat) : State := if s.inUse g && s.mayWake g then s.beginWake g false turn else s

theorem wakeImage_eq (s : State) (turn : Bool) : s.wakeImage turn = s.each (upTo 32) (State.wakeUsed turn) := rfl

theorem wakeImage_frame (s : State) (turn : Bool) : { s.wakeImage turn with regions := [] } = { s with regions := [] } := by
  refine each_keeps (fun v : State => { v with regions := [] }) (f := State.wakeUsed turn) (fun v g => ?_) _ s
  unfold State.wakeUsed
  split <;> rfl

/-- A region's own step, taken where everything but the other regions is as it was. -/
theorem wakeImage_region (s : State) (turn : Bool) {g : Nat} (hg : g < 32) :
    ∃ v : State, v.region g = s.region g ∧ { v with regions := [] } = { s with regions := [] } ∧
      (s.wakeImage turn).region g = (v.wakeUsed turn g).region g := by
  obtain ⟨v, hv, hu⟩ := each_unit (fun (v : State) j => (v.region j, ({ v with regions := [] } : State))) (f := State.wakeUsed turn)
    (fun v i j h => by
      unfold State.wakeUsed
      split
      · exact Prod.ext (updRegion_region_ne _ _ _ h) rfl
      · rfl)
    (upTo_nodup 32) (mem_upTo.mpr hg) s
  simp only [Prod.mk.injEq] at hv hu
  rw [wakeImage_eq]
  exact ⟨v, hv.1, hv.2, hu.1⟩

theorem wakeUsed_kept (v : State) (turn : Bool) (g : Nat) :
    ((v.wakeUsed turn g).region g).rg = (v.region g).rg ∧ ((v.wakeUsed turn g).region g).sup = (v.region g).sup ∧
      ((v.wakeUsed turn g).region g).st = (v.region g).st := by
  unfold State.wakeUsed
  split
  · unfold State.beginWake
    rw [updRegion_region_self]
    exact ⟨rfl, rfl, rfl⟩
  · exact ⟨rfl, rfl, rfl⟩

theorem wakeUsed_waking {v : State} {g : Nat} (hi : v.inUse g = true) (hw : v.mayWake g = true) (turn : Bool) :
    ((v.wakeUsed turn g).region g).waking = true ∧ ((v.wakeUsed turn g).region g).wakeK = 0 := by
  unfold State.wakeUsed State.beginWake
  rw [if_pos (by rw [hi, hw]; rfl), updRegion_region_self]
  exact ⟨rfl, rfl⟩

/-! ### Training -/

theorem startTraining_eq (s : State) (i : Image) :
    ∃ r, s.startTraining i = { s with train := r } ∧ r.st = if bitOf (Machine.imgFlags i.hdr) 1 then 1 else 0 := by
  unfold State.startTraining State.beginVerify
  split
  · split
    · exact ⟨_, rfl, rfl⟩
    · exact ⟨_, rfl, rfl⟩
  · exact ⟨_, rfl, rfl⟩

/-! ### The checks of a load -/

section
variable {l : Load} {n : Nat} {x u : State} (h : LoadsAt l n x u)
include h

theorem LoadsAt.formsStaged (i : Image) : u.formsStaged i = x.formsStaged i := by rw [h.1]; rfl
theorem LoadsAt.parityOk (i : Image) : u.parityOk i = x.parityOk i := by rw [h.1]; rfl
theorem LoadsAt.tablesBad (i : Image) : u.tablesBad i = x.tablesBad i := by rw [h.1]; rfl
theorem LoadsAt.setting (ix sub : Nat) : u.setting ix sub = x.setting ix sub := by rw [h.1]; rfl

end

/-- R260 step 4: the state with the weights of the image staged. -/
def State.staged (s : State) (i : Image) : State := (s.loadStep 4).stageWeights i

/-- R260 step 5: and with its tables installed. -/
def State.tabled (s : State) (i : Image) : State := (((s.staged i).loadStep 5).installTables i).loadStep 6

/-- R260 step 7, R263: an image of content `c` is the image loaded, at the instar in force. -/
def State.loadedAs (s : State) (i : Image) (c : Bytes) : State :=
  { s with img := { s.img with loaded := some i, content := c, runsAt := s.instar } }

/-- R260 steps 6 and 7 of an image that needs no repair. -/
def State.begun (s : State) (l : Load) (i : Image) : State := (((s.tabled i).startImage i).loadStep 7).loadedAs i (hContent l.hdr)

section
variable {s : State} {l : Load}

theorem buildImage_table (h : ¬ (tableBad l.hdr l.entries = false ∧ l.strayed = false ∧ l.padBad = false)) :
    s.buildImage l = s.endLoad 0x81 := by
  have h' : (tableBad l.hdr l.entries || l.strayed || l.padBad) = true := by
    by_contra hn
    simp only [Bool.not_eq_true, Bool.or_eq_false_iff, and_assoc] at hn
    exact h hn
  unfold State.buildImage
  rw [if_pos h']

variable (hwhole : tableBad l.hdr l.entries = false ∧ l.strayed = false ∧ l.padBad = false)
include hwhole

theorem buildImage_content (h : l.contentOf ≠ hContent l.hdr) : s.buildImage l = s.endLoad 0x87 := by
  obtain ⟨h1, h2, h3⟩ := hwhole
  unfold State.buildImage
  rw [h1, h2, h3, if_neg (by decide), if_pos (bne_iff_ne.mpr h)]

variable (hcontent : l.contentOf = hContent l.hdr)
include hcontent

theorem buildImage_absent (h : s.absentNamed (imageOf l.hdr l.secs) = true) : s.buildImage l = s.endLoad 0x83 := by
  obtain ⟨h1, h2, h3⟩ := hwhole
  unfold State.buildImage
  rw [h1, h2, h3, if_neg (by decide), if_neg (by simp [hcontent]), if_pos h]

variable (habsent : s.absentNamed (imageOf l.hdr l.secs) = false)
include habsent

/-- The load once its bytes are whole and name nothing absent. -/
theorem buildImage_named :
    s.buildImage l = match s.repairsAt (imageOf l.hdr l.secs) with
      | none => s.endLoad 0x85
      | some r =>
        let i := imageOf l.hdr l.secs
        if !(s.staged i).formsStaged i || !(s.staged i).parityOk i then (s.staged i).endLoad 0x89
        else if ((s.staged i).loadStep 5).tablesBad i then ((s.staged i).loadStep 5).endLoad 0x8D
        else if !(leList (leAt l.hdr 0x02F 1) 4 (slice l.hdr 0x030 16)).contains ((s.tabled i).setting 0x8000 4) then (s.tabled i).endLoad 0x8C
        else ((((s.begun l i).repairImage l.handle r).startTraining i).loadStep 8).wakeImage false := by
  obtain ⟨h1, h2, h3⟩ := hwhole
  unfold State.buildImage
  rw [h1, h2, h3, if_neg (by decide), if_neg (by simp [hcontent]), if_neg (by simp [habsent])]
  cases s.repairsAt (imageOf l.hdr l.secs) with
  | none => rfl
  | some r =>
    unfold State.begun State.tabled State.staged State.loadedAs
    dsimp only

end
/-! ### The state that a load leaves -/

theorem stageWeights_installed (s : State) (i : Image) : (s.stageWeights i).sansInstalled = s.sansInstalled := setRows_installed ..

/-- The state with an image's weights staged and its tables installed. -/
def State.installed (s : State) (i : Image) : State := (s.stageWeights i).installTables i

theorem installed_installed (s : State) (i : Image) : (s.installed i).sansInstalled = s.sansInstalled :=
  (installTables_installed _ i).trans (stageWeights_installed s i)

/-- The state without what the start of an image sets. -/
def State.sansStart (s : State) : State := { s with tiles := [], beat := .init, adm := .init, meter := .init }

theorem started_start (s : State) (i : Image) (len : Nat) : (s.started i len).sansStart = s.sansStart := rfl

theorem start_of_tiles {s u : State} (h : ({ u with tiles := [] } : State) = { s with tiles := [] }) : u.sansStart = s.sansStart :=
  (congrArg State.sansStart h :)

theorem startImage_start (s : State) (i : Image) : (s.startImage i).sansStart = s.sansStart := by
  rw [startImage_eq, started_start, start_of_tiles (writeClkLists_frame s)]

theorem started_tile (s : State) (i : Image) (len t : Nat) : (s.started i len).tile t = s.tile t := rfl
theorem started_len (s : State) (i : Image) (len : Nat) : (s.started i len).beat.len = len := rfl

theorem startImage_tile (s : State) (i : Image) (t : Nat) : { (s.startImage i).tile t with clk := none } = { s.tile t with clk := none } := by
  rw [startImage_eq, started_tile, writeClkLists_tile]

theorem startImage_len (s : State) (i : Image) : (s.startImage i).beat.len = s.setting 0x8000 4 := by
  rw [startImage_eq, started_len]

section
variable {s : State} {l : Load} (hl : s.img.load = some l) (i : Image)
include hl

theorem staged_loadsAt : LoadsAt l 4 (s.stageWeights i) (s.staged i) :=
  (loadStep_loadsAt hl 4).map (f := fun v => v.stageWeights i) fun a b => stageWeights_withImg s a b i

theorem tabled_loadsAt : LoadsAt l 6 (s.installed i) (s.tabled i) :=
  (((staged_loadsAt hl i).loadStep 5).map (f := fun v => v.installTables i) fun a b => installTables_withImg _ a b i).loadStep 6

theorem started_loadsAt : LoadsAt l 7 ((s.installed i).startImage i) (((s.tabled i).startImage i).loadStep 7) :=
  ((tabled_loadsAt hl i).map (f := fun v => v.startImage i) fun a b => startImage_withImg _ a b i).loadStep 7

end

/-- R260 step 8: the load before its regions wake. -/
theorem LoadsAt.loadedAs {l : Load} {z v : State} (h : LoadsAt l 7 z v) (i : Image) (c : Bytes) (r : Train) :
    ∃ a b, ({ v.loadedAs i c with train := r } : State).loadStep 8 = { z with img := a, boot := b, train := r } ∧
      a.loaded = some i ∧ a.load = some { l with step := 8 } ∧ a.content = c ∧ a.runsAt = z.instar ∧
      Tab.get hndNone b.handles l.handle = { z.hnd l.handle with step := 8 } ∧ { b with handles := z.boot.handles } = z.boot := by
  obtain ⟨u, hu⟩ : ∃ u : State, u = { v.loadedAs i c with train := r } := ⟨_, rfl⟩
  rw [← hu]
  obtain ⟨hv, hvi, hvh, hvb⟩ := h
  have hui : u.img = { v.img with loaded := some i, content := c, runsAt := v.instar } := (congrArg State.img hu :)
  have hub : u.boot = v.boot := (congrArg State.boot hu :)
  have huh : u.hnd l.handle = v.hnd l.handle := (congrArg (fun b : Boot => Tab.get hndNone b.handles l.handle) hub :)
  have hload : u.img.load = some { l with step := 7 } := by rw [hui, hvi]
  obtain ⟨h8, h8i, h8h, h8b⟩ := loadStep_loadsAt hload 8
  refine ⟨(u.loadStep 8).img, (u.loadStep 8).boot, ?_, ?_, ?_, ?_, ?_, ?_, ?_⟩
  · have e : u = { z with img := u.img, boot := u.boot, train := r } := by rw [hu, hv]; rfl
    have e' := (congrArg (fun w : State => w.withImg (u.loadStep 8).img (u.loadStep 8).boot) e :)
    exact h8.trans e'
  · rw [h8i, hui]
  · rw [h8i]
  · rw [h8i, hui]
  · rw [h8i, hui, hv]; rfl
  · exact h8h.trans (by rw [huh, hvh])
  · rw [hub] at h8b
    have e := (congrArg (fun b : Boot => { b with handles := z.boot.handles }) h8b :)
    exact e.trans hvb

end Sys2Proof.Machine
end

section
/-!
The actions of image loads and unloads (R259, R261).
-/

namespace Sys2Proof.Machine

/-! ### IMAGE_LOAD (R259, R261) -/

/-- R260: sections of the image with header `hdr` are awaited under handle `h`. -/
def State.awaiting (s : State) (h : Nat) (hdr : Bytes) : State :=
  let s := s.updHnd h fun x => { x with step := 3 }
  { s with img := { s.img with load := some { handle := h, step := 3, hdr := hdr, bytes := [], got := [], image := none } } }

section
variable {s : State} (k : Nat)

theorem actLoad_busy (h : s.busyForLoad = true ∨ s.img.load.isSome = true) : State.actLoad k s = .fail 0x8B := by
  have h' : (s.busyForLoad || s.img.load.isSome) = true := by simpa using h
  unfold State.actLoad
  rw [if_pos h']

variable (hb : s.busyForLoad = false) (hl : s.img.load = none)
include hb hl

theorem actLoad_header {c : Nat} (h : s.hdrCode (slice s.img.hdr 0 1024) = some c) :
    State.actLoad k s = .ok (s.nextHandle 2)
      ((((s.issue 2 (s.handlePart k) k).2.updHnd (s.nextHandle 2) fun x => { x with step := 1 })).finish (s.nextHandle 2) 3 c) := by
  have h' : (s.issue 2 (s.handlePart k) k).2.hdrCode (slice (s.issue 2 (s.handlePart k) k).2.img.hdr 0 1024) = some c := h
  unfold State.actLoad
  rw [hb, hl, if_neg (by decide)]
  dsimp only
  rw [h']; rfl

theorem actLoad_awaits (h : s.hdrCode (slice s.img.hdr 0 1024) = none) :
    State.actLoad k s = .ok (s.nextHandle 2)
      ((s.issue 2 (s.handlePart k) k).2.removeImage.awaiting (s.nextHandle 2) (slice s.img.hdr 0 1024)) := by
  have hi : (s.issue 2 (s.handlePart k) k).2.img = s.img := rfl
  have h' : (s.issue 2 (s.handlePart k) k).2.hdrCode (slice s.img.hdr 0 1024) = none := h
  unfold State.actLoad
  rw [hb, hl, if_neg (by decide)]
  dsimp only
  rw [hi, h']
  dsimp only [State.awaiting, issue_fst]

end

/-- R259: a device that is not busy writes no slot. -/
theorem writing_of_not_busy {s : State} (h : s.busyForLoad = false) : s.train.writing = none := by
  simp only [State.busyForLoad, Bool.or_eq_false_iff, Option.isSome_eq_false_iff, Option.isNone_iff_eq_none] at h
  exact h.1.2

section
variable (r : State) (h : Nat) (hdr : Bytes)

theorem awaiting_frame : { r.awaiting h hdr with img := r.img, boot := r.boot } = r := rfl

theorem awaiting_img : (r.awaiting h hdr).img = { r.img with load := some ⟨h, 3, hdr, [], [], none⟩ } := rfl

theorem awaiting_hctr : (r.awaiting h hdr).boot.hctr = r.boot.hctr := rfl

theorem awaiting_hnd : (r.awaiting h hdr).hnd h = { r.hnd h with step := 3 } := updHnd_hnd_self r h fun x => { x with step := 3 }

end

/-- What an image load leaves (R259, R260 steps 1 and 2, R261). -/
theorem awaiting_spec {w : State} (h : Nat) (hdr : Bytes) (hm : Memory.wf w.mem = true) (hw : w.train.writing = none)
    (hq : w.train.snapReq ≠ some h) (hr : ∀ r, w.train.restoring = some r → r.2.2 ≠ h) :
    let u := w.removeImage.awaiting h hdr
    u.img = { Img.init with hdr := w.img.hdr, load := some ⟨h, 3, hdr, [], [], none⟩ } ∧ u.boot.hctr = w.boot.hctr ∧
      u.hnd h = { w.hnd h with step := 3 } ∧ u.adm.isOpen = false ∧
      (∀ g < 32, (u.region g).rg = RegRec.none ∧ (u.region g).sup = noTile ∧
        (u.region g).st = (if (w.region g).st.code < 2 then .dark else (w.region g).st)) ∧
      (∀ f < 16, (u.field f).leave = []) ∧ (∀ e < 96, (u.engine e).planN = 0 ∧ (u.engine e).busy = none) ∧
      (∀ a, (∀ g < 32, logicRowOf g (a / 512) = false) → u.byteAt a = w.byteAt a) ∧
      u.flash = w.flash ∧ u.reqs = w.reqs ∧ u.parts = w.parts ∧ u.stks = w.stks ∧ u.time = w.time ∧ u.train = Train.init ∧
      u.meter = { w.meter with pBase := 0, qualN := 0, qualE := 0, wctx := [], initial := false } := by
  have hi := removeImage_img w
  have ho := removeImage_isOpen w
  have hg (g : Nat) (h : g < 32) := removeImage_region w h
  have hl (f : Nat) (h : f < 16) := removeImage_leave w h
  have he (e : Nat) (h : e < 96) := removeImage_engine w h
  have hb (a : Nat) (h : ∀ g < 32, logicRowOf g (a / 512) = false) := removeImage_byteAt hm h
  have ht := removeImage_train w
  have hmt := removeImage_meter w
  have hh := removeImage_hnd hw hq hr
  obtain ⟨hf, hrq, hp, hs, htm, hc⟩ := kept_of_image (removeImage_image w)
  generalize w.removeImage = r at *
  refine ⟨?_, hc, ?_, ho, hg, hl, he, hb, hf, hrq, hp, hs, htm, ht, hmt⟩
  · rw [awaiting_img, hi]
  · rw [awaiting_hnd, hh]

/-! ### UNLOAD (R259, R261) -/

theorem actUnload_idle {s : State} (k : Nat) (hb : s.busyForLoad = false) (hl : s.img.load = none) :
    State.actUnload k s = .ok (s.nextHandle 2) ((s.issue 2 (s.handlePart k) k).2.removeImage.finish (s.nextHandle 2) 2 0) := by
  have he : s.endLoad 0x8A = s := by simp only [State.endLoad, hl]
  unfold State.actUnload
  rw [hb, he, Bool.and_false, if_neg (by decide)]
  rfl

end Sys2Proof.Machine
end

section
/-!
The outcomes of the checks of a load (R260 to R263), and the state it leaves.
-/

namespace Sys2Proof.Machine

/-! ### LOAD_SECTIONS_HELD (R260 to R264) -/

theorem loadSectionsHeld_eq {s : State} {l : Load} (hl : s.img.load = some l) (h3 : l.step = 3) (ha : l.allHeld = true) :
    exec .loadSectionsHeld s = .next (s.buildImage l) := by
  show execLoadSectionsHeld s = _
  simp only [execLoadSectionsHeld, hl, h3, ha, and_self, if_true]

/-- R261: a load that has ended with a code. -/
def LoadEnded (s u : State) (l : Load) (n c : Nat) : Prop :=
  u.img.load = none ∧ u.img.loaded = none ∧ u.hnd l.handle = { s.hnd l.handle with st := 3, step := n, code := c }

theorem endLoad_ended {s : State} {l : Load} (hl : s.img.load = some l) (h3 : l.step = 3) (c : Nat) : LoadEnded s (s.endLoad c) l 3 c := by
  have h := endLoad_spec hl (by omega) c
  rw [h3] at h
  exact h

theorem installed_boot (s : State) (i : Image) : (s.installed i).boot = s.boot := (congrArg State.boot (installed_installed s i) :)

theorem boot_of_installed {s u : State} (h : u.sansInstalled = s.sansInstalled) : u.boot = s.boot := (congrArg State.boot h :)

theorem hnd_of_boot {s u : State} (h : u.boot = s.boot) (j : Nat) : u.hnd j = s.hnd j := congrArg (fun b : Boot => Tab.get hndNone b.handles j) h

theorem installed_setting (s : State) (i : Image) (ix sub : Nat) : (s.installed i).setting ix sub = s.setting ix sub :=
  (congrArg (fun v : State => v.setting ix sub) (installed_installed s i) :)

/-- A load that ends at step 4 or later ends from the state with its weights, and its tables. -/
theorem LoadsAt.ended {s : State} {l : Load} {n : Nat} {x u : State} (h : LoadsAt l n x u) (hx : x.boot = s.boot) (hn : 1 < n) (c : Nat) : LoadEnded s (u.endLoad c) l n c := by
  obtain ⟨h1, h2, h3⟩ := h.endLoad hn c
  exact ⟨h1, h2, h3.trans (by rw [hnd_of_boot hx])⟩

section
variable {s : State} {l : Load} (hl : s.img.load = some l)
include hl

variable (hwhole : tableBad l.hdr l.entries = false ∧ l.strayed = false ∧ l.padBad = false) (hcontent : l.contentOf = hContent l.hdr)
  {i : Image} (hi : i = imageOf l.hdr l.secs) (habsent : s.absentNamed i = false)
include hwhole hcontent hi habsent

theorem buildImage_unrepaired (h3 : l.step = 3) (h : s.repairsAt i = none) : LoadEnded s (s.buildImage l) l 3 0x85 := by
  subst hi
  rw [buildImage_named hwhole hcontent habsent, h]
  exact endLoad_ended hl h3 _

variable (hrepair : s.repairsAt i ≠ none)
include hrepair

theorem buildImage_forms (h : (s.stageWeights i).formsStaged i = false ∨ (s.stageWeights i).parityOk i = false) :
    LoadEnded s (s.buildImage l) l 4 0x89 := by
  subst hi
  have hs := staged_loadsAt hl (imageOf l.hdr l.secs)
  obtain ⟨r, hr⟩ := Option.ne_none_iff_exists'.mp hrepair
  rw [buildImage_named hwhole hcontent habsent, hr]
  dsimp only
  rw [hs.formsStaged, hs.parityOk, if_pos (by simpa using h)]
  exact hs.ended (boot_of_installed (stageWeights_installed _ _)) (by omega) _

variable (hforms : (s.stageWeights i).formsStaged i = true) (hparity : (s.stageWeights i).parityOk i = true)
include hforms hparity

theorem buildImage_tables (h : (s.stageWeights i).tablesBad i = true) : LoadEnded s (s.buildImage l) l 5 0x8D := by
  subst hi
  have hs := staged_loadsAt hl (imageOf l.hdr l.secs)
  obtain ⟨r, hr⟩ := Option.ne_none_iff_exists'.mp hrepair
  rw [buildImage_named hwhole hcontent habsent, hr]
  dsimp only
  rw [hs.formsStaged, hs.parityOk, hforms, hparity, if_neg (by decide), (hs.loadStep 5).tablesBad, if_pos h]
  exact (hs.loadStep 5).ended (boot_of_installed (stageWeights_installed _ _)) (by omega) _

variable (htables : (s.stageWeights i).tablesBad i = false)
include htables

theorem buildImage_beat (h : s.setting 0x8000 4 ∉ leList (leAt l.hdr 0x02F 1) 4 (slice l.hdr 0x030 16)) :
    LoadEnded s (s.buildImage l) l 6 0x8C := by
  subst hi
  have hs := staged_loadsAt hl (imageOf l.hdr l.secs)
  have ht := tabled_loadsAt hl (imageOf l.hdr l.secs)
  obtain ⟨r, hr⟩ := Option.ne_none_iff_exists'.mp hrepair
  rw [buildImage_named hwhole hcontent habsent, hr]
  dsimp only
  rw [hs.formsStaged, hs.parityOk, hforms, hparity, if_neg (by decide), (hs.loadStep 5).tablesBad, htables, if_neg (by decide),
    ht.setting, installed_setting, if_pos (by simpa using h)]
  exact ht.ended (installed_boot _ _) (by omega) _

theorem buildImage_loads (hinstar : hInstar l.hdr = s.instar)
    (h : s.setting 0x8000 4 ∈ leList (leAt l.hdr 0x02F 1) 4 (slice l.hdr 0x030 16)) :
    s.buildImage l = (((s.begun l i).startTraining i).loadStep 8).wakeImage false := by
  have hs := staged_loadsAt hl i
  have ht := tabled_loadsAt hl i
  have hr : s.repairsAt i = some ([], none) := by
    unfold State.repairsAt
    rw [if_pos (by rw [hi]; exact hinstar)]
  subst hi
  rw [buildImage_named hwhole hcontent habsent, hr]
  dsimp only
  rw [hs.formsStaged, hs.parityOk, hforms, hparity, if_neg (by decide), (hs.loadStep 5).tablesBad, htables, if_neg (by decide),
    ht.setting, installed_setting, if_neg (by simpa using h)]
  rfl

end

/-- A region that the image uses wakes where it might before the load. -/
theorem wakeImage_installed {s w y : State} {i : Image} (hw : w.sansInstalled = s.sansInstalled)
    (hregion : ∀ g < 32, w.region g = { s.region g with rg := i.region g, sup := (i.region g).sup, standby := (i.region g).standby })
    (hplane : ∀ f, (w.field f).planeOff = (s.field f).planeOff) (hyw : y.regions = w.regions ∧ y.fields = w.fields ∧ y.therm = w.therm ∧ y.flt = w.flt)
    (hbarred : y.boot.barred = w.boot.barred) (hl : y.img.loaded = some i) {g : Nat} (hg : g < 32) :
    (((y.wakeImage false).region g).rg = i.region g ∧ ((y.wakeImage false).region g).sup = (i.region g).sup ∧
        ((y.wakeImage false).region g).st = (s.region g).st) ∧
      (((i.region g).work || (i.region g).reserve) = true → s.mayWake g = true →
        ((y.wakeImage false).region g).waking = true ∧ ((y.wakeImage false).region g).wakeK = 0) := by
  obtain ⟨hyr, hyf, hyt, hyl⟩ := hyw
  obtain ⟨v, hvr, hvy, hu⟩ := wakeImage_region y false hg
  have hr : v.region g = { s.region g with rg := i.region g, sup := (i.region g).sup, standby := (i.region g).standby } := by
    rw [hvr, ← hregion g hg]
    exact congrArg (Tab.get Region.init · g) hyr
  obtain ⟨h1, h2, h3⟩ := wakeUsed_kept v false g
  rw [hu]
  refine ⟨⟨by rw [h1, hr], by rw [h2, hr], by rw [h3, hr]⟩, fun hwork hmay => wakeUsed_waking ?_ ?_ false⟩
  · have hi : v.img.loaded = some i := (congrArg (fun v : State => v.img.loaded) hvy :).trans hl
    unfold State.inUse
    rw [hi, hr]
    exact hwork
  · have hf : (v.field (g / 2)).planeOff = (s.field (g / 2)).planeOff := by
      rw [← hplane]
      have e : v.fields = w.fields := (congrArg State.fields hvy :).trans hyf
      exact congrArg (fun t => (Tab.get Field.init t (g / 2)).planeOff) e
    have ht : v.therm = s.therm := (congrArg State.therm hvy :).trans (hyt.trans (congrArg State.therm hw :))
    have hfl : v.flt = s.flt := (congrArg State.flt hvy :).trans (hyl.trans (congrArg State.flt hw :))
    have hb : v.boot.barred = s.boot.barred :=
      (congrArg (fun v : State => v.boot.barred) hvy :).trans (hbarred.trans (congrArg (fun v : State => v.boot.barred) hw :))
    unfold State.mayWake at hmay ⊢
    rw [hr, hf, ht, hfl, hb]
    exact hmay

/-- What a load leaves alone from its tables on. -/
def State.sansKept (s : State) : State :=
  { s with img := .init, boot := .init, train := .init, regions := [], tiles := [], beat := .init, adm := .init, meter := .init }

/-- R260 step 8: the state once the regions of the image begin to wake. `w` has its tables, `z` is started, `y` is loaded. -/
theorem woken_spec {s w z y u : State} {a : Img} {b : Boot} {r : Train} {l : Load} {i : Image} (hw : w.sansInstalled = s.sansInstalled)
    (hregion : ∀ g < 32, w.region g = { s.region g with rg := i.region g, sup := (i.region g).sup, standby := (i.region g).standby })
    (hplane : ∀ f, (w.field f).planeOff = (s.field f).planeOff) (hz : z.sansStart = w.sansStart)
    (htile : ∀ t, { z.tile t with clk := none } = { w.tile t with clk := none }) (hlen : z.beat.len = w.setting 0x8000 4)
    (hy : y = { z with img := a, boot := b, train := r }) (h1 : a.loaded = some i) (h2 : a.load = some { l with step := 8 })
    (h3 : a.content = hContent l.hdr) (h4 : a.runsAt = z.instar)
    (h5 : Tab.get hndNone b.handles l.handle = { z.hnd l.handle with step := 8 }) (h6 : { b with handles := z.boot.handles } = z.boot)
    (hst : r.st = if bitOf (Machine.imgFlags i.hdr) 1 then 1 else 0) (hu : u = y.wakeImage false) :
    (u.img.loaded = some i ∧ u.img.load = some { l with step := 8 } ∧ u.img.content = hContent l.hdr ∧ u.img.runsAt = s.instar ∧
      u.hnd l.handle = { s.hnd l.handle with step := 8 }) ∧ (u.mem = w.mem ∧ u.bad = w.bad ∧
      u.engines = w.engines ∧ u.fields = w.fields ∧
      (∀ t, { u.tile t with clk := none } = { w.tile t with clk := none })) ∧
      (∀ g < 32, (u.region g).rg = i.region g ∧ (u.region g).sup = (i.region g).sup ∧ (u.region g).st = (s.region g).st ∧
        (((i.region g).work || (i.region g).reserve) = true → s.mayWake g = true → (u.region g).waking = true ∧ (u.region g).wakeK = 0)) ∧
      u.beat.len = s.setting 0x8000 4 ∧ u.train.st = (if bitOf (Machine.imgFlags i.hdr) 1 then 1 else 0) ∧ u.flash = s.flash ∧
      u.reqs = s.reqs ∧ u.parts = s.parts ∧ u.flt = s.flt := by
  have hset : w.setting 0x8000 4 = s.setting 0x8000 4 := (congrArg (fun v : State => v.setting 0x8000 4) hw :)
  have hf := wakeImage_frame y false
  rw [← hu] at hf
  have hui : u.img = a := (congrArg State.img hf :).trans (congrArg State.img hy)
  have hub : u.boot = b := (congrArg State.boot hf :).trans (congrArg State.boot hy)
  have huz : ({ u with img := .init, boot := .init, train := .init, regions := [] } : State) =
      { z with img := .init, boot := .init, train := .init, regions := [] } :=
    (congrArg (fun v : State => ({ v with img := .init, boot := .init, train := .init } : State)) hf :).trans
      (congrArg (fun v : State => ({ v with img := .init, boot := .init, train := .init, regions := [] } : State)) hy :)
  have huw : u.sansKept = w.sansKept := (congrArg State.sansKept huz :).trans (congrArg State.sansKept hz :)
  have hus : u.sansKept.sansInstalled = s.sansKept.sansInstalled := (congrArg State.sansInstalled huw :).trans (congrArg State.sansKept hw :)
  have hzb : z.boot = s.boot := (congrArg State.boot hz :).trans (congrArg State.boot hw :)
  have hzi : z.instar = s.instar := (congrArg State.instar hz :).trans (congrArg State.instar hw :)
  have hbarred : b.barred = z.boot.barred := (congrArg Boot.barred h6 :)
  refine ⟨⟨?_, ?_, ?_, ?_, ?_⟩, ⟨(congrArg State.mem huw :), (congrArg State.bad huw :), (congrArg State.engines huw :),
    (congrArg State.fields huw :), fun t => ?_⟩, fun g hg => ?_, ?_, ?_, (congrArg State.flash hus :), (congrArg State.reqs hus :),
    (congrArg State.parts hus :), (congrArg State.flt hus :)⟩
  · rw [hui, h1]
  · rw [hui, h2]
  · rw [hui, h3]
  · rw [hui, h4, hzi]
  · rw [hnd_of_boot hzb] at h5
    exact (congrArg (fun b : Boot => Tab.get hndNone b.handles l.handle) hub).trans h5
  · rw [← htile t]
    exact (congrArg (fun v : State => ({ v.tile t with clk := none } : Tile)) huz :)
  · have hyz : y.regions = w.regions ∧ y.fields = w.fields ∧ y.therm = w.therm ∧ y.flt = w.flt := by
      rw [hy]
      exact ⟨(congrArg State.regions hz :), (congrArg State.fields hz :), (congrArg State.therm hz :), (congrArg State.flt hz :)⟩
    obtain ⟨⟨g1, g2, g3⟩, g4⟩ := wakeImage_installed hw hregion hplane hyz
      (by rw [hy]; exact hbarred.trans (congrArg (fun v : State => v.boot.barred) hz :)) (by rw [hy]; exact h1) hg
    rw [← hu] at g1 g2 g3 g4
    exact ⟨g1, g2, g3, g4⟩
  · rw [← hset, ← hlen]
    exact (congrArg (fun v : State => v.beat.len) huz :)
  · rw [← hst]
    exact (congrArg (fun v : State => v.train.st) hf :).trans (congrArg (fun v : State => v.train.st) hy :)

/-- R260: the image is loaded, and its regions wake. -/
theorem loaded_spec {s : State} {l : Load} (hl : s.img.load = some l) (i : Image) (u : State)
    (hu : u = (((s.begun l i).startTraining i).loadStep 8).wakeImage false) :
    (u.img.loaded = some i ∧ u.img.load = some { l with step := 8 } ∧ u.img.content = hContent l.hdr ∧ u.img.runsAt = s.instar ∧
      u.hnd l.handle = { s.hnd l.handle with step := 8 }) ∧ (u.mem = (s.installed i).mem ∧ u.bad = (s.installed i).bad ∧
      u.engines = (s.installed i).engines ∧ u.fields = (s.installed i).fields ∧
      (∀ t, { u.tile t with clk := none } = { (s.installed i).tile t with clk := none })) ∧
      (∀ g < 32, (u.region g).rg = i.region g ∧ (u.region g).sup = (i.region g).sup ∧ (u.region g).st = (s.region g).st ∧
        (((i.region g).work || (i.region g).reserve) = true → s.mayWake g = true → (u.region g).waking = true ∧ (u.region g).wakeK = 0)) ∧
      u.beat.len = s.setting 0x8000 4 ∧ u.train.st = (if bitOf (Machine.imgFlags i.hdr) 1 then 1 else 0) ∧ u.flash = s.flash ∧
      u.reqs = s.reqs ∧ u.parts = s.parts ∧ u.flt = s.flt := by
  have hreg (g : Nat) : (s.stageWeights i).region g = s.region g := (congrArg (fun v : State => v.region g) (setRows_frame s _) :)
  have hfld (f : Nat) : (s.stageWeights i).field f = s.field f := (congrArg (fun v : State => v.field f) (setRows_frame s _) :)
  obtain ⟨r, hr, hst⟩ := startTraining_eq (s.begun l i) i
  obtain ⟨a, b, h8, h1, h2, h3, h4, h5, h6⟩ := (started_loadsAt hl i).loadedAs i (hContent l.hdr) r
  rw [hr, State.begun, h8] at hu
  refine woken_spec (installed_installed s i) (fun g hg => ?_) (fun f => ?_) (startImage_start _ i) (startImage_tile _ i) (startImage_len _ i)
    rfl h1 h2 h3 h4 h5 h6 hst hu
  · rw [← hreg g]; exact installTables_region _ i hg
  · rw [← hfld f]; exact installTables_planeOff _ i f

end Sys2Proof.Machine
end

section
/-!
The commands of image loads and unloads (R259 to R264), and the settling of O24.
-/

namespace Sys2Proof.Machine

/-! ### The commands -/

/-- R419: the operator may load and unload once bring-up has ended. -/
theorem operator_gate {s : State} {k : Nat} (h : OperatorSession s k) (ix sub svc : Nat)
    (hg : Role.operator.writeGate true ix sub svc = none) :
    ∃ q, s.sess k = some q ∧ q.role.writeGate s.boot.done ix sub svc = none := by
  obtain ⟨hd, q, hs, hr⟩ := h
  exact ⟨q, hs, by rw [hr, hd]; exact hg⟩

theorem imageLoad_awaits {s : State} {k x h : Nat} {hdr : Bytes} (hop : OperatorSession s k) (hb : s.busyForLoad = false) (hl : s.img.load = none)
    (hh : hdr = slice s.img.hdr 0 1024) (hn : h = s.nextHandle 2) (hc : s.hdrCode hdr = none) :
    exec (.imageLoad k x) s =
      .next (((s.issue 2 (s.handlePart k) k).2.removeImage.awaiting h hdr).respond k x 6 0 0x8000 1 (leBytes 8 h)) := by
  obtain ⟨q, hs, hg⟩ := operator_gate hop 0x8000 1 6 (by decide)
  subst hh hn
  exact congrArg Host.Outcome.next (sessAct_ok x hs hg (actLoad_awaits k hb hl hc))

theorem imageLoad_header {s : State} {k x c : Nat} (hop : OperatorSession s k) (hb : s.busyForLoad = false) (hl : s.img.load = none)
    (hc : s.hdrCode (slice s.img.hdr 0 1024) = some c) :
    exec (.imageLoad k x) s =
      .next (((((s.issue 2 (s.handlePart k) k).2.updHnd (s.nextHandle 2) fun x => { x with step := 1 })).finish (s.nextHandle 2) 3 c).respond
        k x 6 0 0x8000 1 (leBytes 8 (s.nextHandle 2))) := by
  obtain ⟨q, hs, hg⟩ := operator_gate hop 0x8000 1 6 (by decide)
  exact congrArg Host.Outcome.next (sessAct_ok x hs hg (actLoad_header k hb hl hc))

theorem imageLoad_refused {s : State} {k : Nat} (x : Nat) (hop : OperatorSession s k) (h : s.busyForLoad = true ∨ s.img.load.isSome = true) :
    exec (.imageLoad k x) s = .next (s.respond k x 6 0x0A 0x8000 1 (leBytes 4 0x8B)) := by
  obtain ⟨q, hs, hg⟩ := operator_gate hop 0x8000 1 6 (by decide)
  exact congrArg Host.Outcome.next (sessAct_refused x hs hg (actLoad_busy k h))

theorem unload_idle {s : State} {k : Nat} (x : Nat) (hop : OperatorSession s k) (hb : s.busyForLoad = false) (hl : s.img.load = none) :
    exec (.unload k x) s =
      .next (((s.issue 2 (s.handlePart k) k).2.removeImage.finish (s.nextHandle 2) 2 0).respond k x 6 0 0x8000 0x0E (leBytes 8 (s.nextHandle 2))) := by
  obtain ⟨q, hs, hg⟩ := operator_gate hop 0x8000 0x0E 6 (by decide)
  exact congrArg Host.Outcome.next (sessAct_ok x hs hg (actUnload_idle k hb hl))

/-- R260: the regions that the image uses are up. -/
theorem loadComplete_eq {s : State} {l : Load} (hl : s.img.load = some l) (h8 : l.step = 8)
    (hup : ∀ g < 32, s.inUse g = true → (s.region g).lost = true ∨ (s.region g).st ≠ .dark ∧ (s.region g).st ≠ .moulting) :
    exec .loadComplete s = .next (({ s with img := { s.img with load := none, firstMark := true } } : State).finish l.handle 2 0) := by
  have h : ((upTo 32).all fun g =>
      !s.inUse g || (s.region g).lost || ((s.region g).st != .dark && (s.region g).st != .moulting)) = true := by
    refine List.all_eq_true.mpr fun g hg => ?_
    have := hup g (mem_upTo.mp hg)
    cases hi : s.inUse g with
    | false => rfl
    | true => simpa [hi] using this hi
  show execLoadComplete s = _
  simp only [execLoadComplete, hl, h8, h, and_self, if_true]

/-- What an unload leaves (R261). -/
theorem unloaded_spec (w : State) (h : Nat) :
    let u := w.removeImage.finish h 2 0
    u.hnd h = { w.hnd h with st := 2, code := 0 } ∧ u.img = { Img.init with hdr := w.img.hdr, load := w.img.load } ∧ u.train = Train.init ∧
      u.adm.isOpen = false ∧
      (∀ g < 32, (u.region g).rg = RegRec.none ∧
        (u.region g).st = (if (w.region g).st.code < 2 then .dark else (w.region g).st)) ∧
      u.flash = w.flash ∧ u.reqs = w.reqs ∧ u.parts = w.parts ∧ u.stks = w.stks := by
  have hi := removeImage_img w
  have ho := removeImage_isOpen w
  have hg (g : Nat) (h : g < 32) := removeImage_region w h
  have ht := removeImage_train w
  have hh := removeImage_unended w h
  obtain ⟨hf, hrq, hp, hs, -, -⟩ := kept_of_image (removeImage_image w)
  generalize w.removeImage = r at *
  have e := finish_frame r h 2 0
  have hend : (r.finish h 2 0).hnd h = { w.hnd h with st := 2, code := 0 } := by
    rw [finish_hnd]
    exact congrArg (fun z : Hnd => { z with st := 2, code := 0 }) hh
  have er (g : Nat) : (r.finish h 2 0).region g = r.region g := (congrArg (fun v : State => v.region g) e :)
  have ei : (r.finish h 2 0).img = r.img := (congrArg State.img e :)
  have et : (r.finish h 2 0).train = r.train := (congrArg State.train e :)
  have eo : (r.finish h 2 0).adm = r.adm := (congrArg State.adm e :)
  have ef : (r.finish h 2 0).flash = r.flash := (congrArg State.flash e :)
  have eq : (r.finish h 2 0).reqs = r.reqs := (congrArg State.reqs e :)
  have ep : (r.finish h 2 0).parts = r.parts := (congrArg State.parts e :)
  have es : (r.finish h 2 0).stks = r.stks := (congrArg State.stks e :)
  simp only [er, ei, et, eo, ef, eq, ep, es]
  exact ⟨hend, hi, ht, ho, fun g hg' => ⟨(hg g hg').1, (hg g hg').2.2⟩, hf, hrq, hp, hs⟩

end Sys2Proof.Machine

open Sys2Proof Sys2Proof.Machine

/-- Settles O24, clause by clause: the steps of a load are tracked by `LoadsAt`, its end by `LoadEnded`, the removal of an image by
`removeImage_image`. -/
theorem imagesLoadAndUnload : Obligations.ImagesLoadAndUnload := by
  unfold Obligations.ImagesLoadAndUnload
  intro s
  refine ⟨?_, ?_, ?_, ?_, ?_, ?_⟩
  case refine_1 =>
    intro k x hdr h hop hb hl hh hn hc hm hq hr
    have hex := imageLoad_awaits (x := x) hop hb hl hh hn hc
    have hsp := awaiting_spec (w := (s.issue 2 (s.handlePart k) k).2) h hdr hm (writing_of_not_busy hb) hq hr
    dsimp only at hsp
    generalize (s.issue 2 (s.handlePart k) k).2.removeImage.awaiting h hdr = v at hex hsp
    obtain ⟨hi, hct, hnd, hrest⟩ := hsp
    have hn' : h = s.nextHandle 2 := hn
    subst hn'
    rw [(issue_snd s 2 _ k).2.2] at hnd
    exact ⟨_, hex, ⟨respond_answered .., hct, congrArg Hnd.st hnd⟩, hi, hrest⟩
  case refine_2 =>
    intro k x c hop hb hl hc
    have hex := imageLoad_header (x := x) hop hb hl hc
    have hf := finish_frame ((s.issue 2 (s.handlePart k) k).2.updHnd (s.nextHandle 2) fun x => { x with step := 1 }) (s.nextHandle 2) 3 c
    have hh := finish_hnd ((s.issue 2 (s.handlePart k) k).2.updHnd (s.nextHandle 2) fun x => { x with step := 1 }) (s.nextHandle 2) 3 c
    have hb := finish_boot ((s.issue 2 (s.handlePart k) k).2.updHnd (s.nextHandle 2) fun x => { x with step := 1 }) (s.nextHandle 2) 3 c
    rw [updHnd_hnd_self, (issue_snd s 2 _ k).2.2] at hh
    generalize ((s.issue 2 (s.handlePart k) k).2.updHnd (s.nextHandle 2) fun x => { x with step := 1 }).finish (s.nextHandle 2) 3 c = v at hex hf hh hb
    exact ⟨_, hex, (congrArg (fun w : State => { w with boot := s.boot }) hf :), respond_answered .., hh, (congrArg Boot.hctr hb :)⟩
  case refine_3 =>
    intro k x hop h
    exact ⟨_, imageLoad_refused x hop h, rfl, respond_answered ..⟩
  case refine_4 =>
    intro l i v whole staged hl h3 ha hi hv hwhole hstaged
    subst hv hwhole hstaged
    rw [loadSectionsHeld_eq hl h3 ha]
    refine ⟨?_, ?_⟩
    · rintro c n (⟨rfl, rfl, h⟩ | ⟨rfl, rfl, hw, h⟩ | ⟨rfl, rfl, hw, hc, h⟩ | ⟨rfl, rfl, hw, hc, hn, h⟩ | ⟨rfl, rfl, ⟨hw, hc, hn, hr⟩, h⟩ |
        ⟨rfl, rfl, ⟨hw, hc, hn, hr⟩, hf, hp, h⟩ | ⟨rfl, rfl, ⟨hw, hc, hn, hr⟩, hf, hp, ht, h⟩)
      · exact ⟨_, rfl, by rw [buildImage_table h]; exact endLoad_ended hl h3 _⟩
      · exact ⟨_, rfl, by rw [buildImage_content hw h]; exact endLoad_ended hl h3 _⟩
      · exact ⟨_, rfl, by rw [buildImage_absent hw hc (hi ▸ h)]; exact endLoad_ended hl h3 _⟩
      · exact ⟨_, rfl, buildImage_unrepaired hl hw hc hi hn h3 h⟩
      · exact ⟨_, rfl, buildImage_forms hl hw hc hi hn hr h⟩
      · exact ⟨_, rfl, buildImage_tables hl hw hc hi hn hr hf hp h⟩
      · exact ⟨_, rfl, buildImage_beat hl hw hc hi hn hr hf hp ht h⟩
    · rintro ⟨hw, hc, hn, hr⟩ hin hf hp ht h
      obtain ⟨⟨h1, h2, h3, h4, h5⟩, ⟨h6, h7, h8, h9, h10⟩, h11, h12, h13, h14⟩ :=
        loaded_spec hl i _ (buildImage_loads hl hw hc hi hn hr hf hp ht hin h)
      rw [show i.hdr = l.hdr by rw [hi]; rfl] at h13
      exact ⟨_, rfl, h1, h2, h3, h4, h5, h6, h7, h8, h9, h10, h11, h12, h13, h14⟩
  case refine_5 =>
    intro l hl h8 hup
    have hex := loadComplete_eq hl h8 hup
    have hf := finish_frame ({ s with img := { s.img with load := none, firstMark := true } } : State) l.handle 2 0
    have hh := finish_hnd ({ s with img := { s.img with load := none, firstMark := true } } : State) l.handle 2 0
    generalize ({ s with img := { s.img with load := none, firstMark := true } } : State).finish l.handle 2 0 = v at hex hf hh
    exact ⟨_, hex, (congrArg (fun w : State => { w with img := s.img }) hf :), (congrArg State.img hf :), hh⟩
  case refine_6 =>
    intro k x hop hb hl
    have hex := unload_idle x hop hb hl
    have hsp := unloaded_spec (s.issue 2 (s.handlePart k) k).2 (s.nextHandle 2)
    dsimp only at hsp
    generalize (s.issue 2 (s.handlePart k) k).2.removeImage.finish (s.nextHandle 2) 2 0 = v at hex hsp
    obtain ⟨h1, h2, h3⟩ := hsp
    rw [(issue_snd s 2 _ k).2.2] at h1
    rw [show (s.issue 2 (s.handlePart k) k).2.img = s.img from rfl, hl] at h2
    exact ⟨_, hex, respond_answered .., h1, h2, h3⟩

end

section
/-!
An instar commit that leaves an item due (R25, R213, R371, R375): the counterexample to O43.
-/

namespace Sys2Proof.Machine

/-! ### What the loss of a region under moult touches -/

/-- The state without what the loss of a region touches, a moult there included. -/
def State.sansMoult (s : State) : State :=
  { s.sansRegions with
    boot := { s.boot with handles := [], retention := 0, lastDone := 0, partDone := [] },
    flash := { s.flash with moultMk := 0, retestMk := 0 } }

theorem moult_of_regions {s u : State} (h : u.sansRegions = s.sansRegions) : u.sansMoult = s.sansMoult := (congrArg State.sansMoult h :)

theorem moult_of_fabric {s u : State} (h : u.sansFabric = s.sansFabric) : u.sansMoult = s.sansMoult := moult_of_regions (regions_of_fabric h)

theorem finish_moult (s : State) (h st code : Nat) : (s.finish h st code).sansMoult = s.sansMoult := by
  have hf := (congrArg State.sansMoult (finish_frame s h st code) :)
  have hb := (congrArg (fun b : Boot => { b with handles := [], retention := 0, lastDone := 0, partDone := [] }) (finish_boot s h st code) :)
  generalize s.finish h st code = u at *
  exact (show u.sansMoult = { ({ u with boot := s.boot, fordan := s.fordan } : State).sansMoult with
    boot := { u.boot with handles := [], retention := 0, lastDone := 0, partDone := [] } } from rfl).trans
    (by rw [hf, hb]; rfl)

theorem endMoult_moult (s : State) (g r : Nat) : (s.endMoult g r).sansMoult = s.sansMoult := by
  have clear (v : State) : (v.clearMarker g).sansMoult = v.sansMoult := rfl
  have event (v : State) (e : Ev) : (v.event e).sansMoult = v.sansMoult := moult_of_fabric (event_fabric v e)
  unfold State.endMoult
  split
  · rfl
  · dsimp only
    split <;> split <;> simp only [finish_moult, event, clear] <;> rfl

theorem regionDown_moult (s : State) (g : Nat) (st : RegSt) (deep : Bool) : (s.regionDown g st deep).sansMoult = s.sansMoult := by
  unfold State.regionDown
  extract_lets old new a b c d
  have ha : a.sansMoult = s.sansMoult := by
    unfold a; split
    · exact moult_of_regions (dropFreq_regions' s g 2)
    · rfl
  have hb : b.sansMoult = a.sansMoult := by
    unfold b; split
    · exact moult_of_fabric (fenceRegion_fabric a g)
    · rfl
  have hc : c.sansMoult = b.sansMoult := by unfold c; split <;> rfl
  have hd : d.sansMoult = c.sansMoult := by
    unfold d; split
    · exact endMoult_moult ..
    · rfl
  have he : d.sansMoult = s.sansMoult := hd.trans (hc.trans (hb.trans ha))
  split
  · exact (moult_of_regions (powerOff_regions' d g deep)).trans he
  · exact he

theorem fp_of_moult {s u : State} (h : u.sansMoult = s.sansMoult) : u.fp = s.fp := (congrArg State.fp h :)
theorem due_of_moult {s u : State} (h : u.sansMoult = s.sansMoult) : u.boot.commitDue = s.boot.commitDue :=
  (congrArg (fun v : State => v.boot.commitDue) h :)

theorem event_due (s : State) (e : Ev) : (s.event e).boot.commitDue = s.boot.commitDue := due_of_moult (moult_of_fabric (event_fabric s e))

theorem finish_due (s : State) (h st code : Nat) : (s.finish h st code).boot.commitDue = s.boot.commitDue := due_of_moult (finish_moult ..)

/-! ### What waits for a commit stays -/

/-- An item that waits for a commit. -/
def Due (x : LogItem) (s : State) : Prop := x ∈ s.boot.commitDue

theorem Due.of_eq {x : LogItem} {s u : State} (h : Due x s) (e : u.boot.commitDue = s.boot.commitDue) : Due x u := by
  unfold Due; rw [e]; exact h

theorem addCommit_due (s : State) (cls : Nat) (x : LogItem) : Due x (s.addCommit cls [x]) := by
  unfold Due State.addCommit
  by_cases h : x ∈ s.boot.commitDue <;> simp [h]

theorem Due.addCommit {x : LogItem} {s : State} (h : Due x s) (cls : Nat) (l : List LogItem) : Due x (s.addCommit cls l) :=
  List.mem_append_left _ h

theorem Due.heatDown {x : LogItem} {s : State} (h : Due x s) (g : Nat) : Due x (s.heatDown g) := by
  unfold State.heatDown
  split
  · dsimp only
    split
    · exact h.of_eq (due_of_moult (regionDown_moult ..))
    · exact (h.of_eq (due_of_moult (regionDown_moult ..))).addCommit ..
  · exact h.of_eq (due_of_moult (regionDown_moult ..))

/-- R351, R451: a region under moult that goes down is Untested from the next instar on. -/
theorem heatDown_moulting {s : State} {g : Nat} (h : (s.region g).st = .moulting) (hf : s.fp.region = []) :
    Due ⟨8, 4, g⟩ (s.heatDown g) := by
  have hfp := fp_of_moult (regionDown_moult s g .untested false)
  unfold State.heatDown
  rw [h, if_pos (by decide)]
  dsimp only
  rw [hfp, hf, if_neg (show ¬ Tab.get 0 [] g = 4 from (by decide : ¬ (0 : Nat) = 4))]
  exact addCommit_due ..

/-- R353: every region down, one under moult among them. -/
theorem allDown_moulting {s : State} (h : (s.region 0).st = .moulting) (hf : s.fp.region = []) : Due ⟨8, 4, 0⟩ s.allDown := by
  unfold State.allDown
  extract_lets v beat w x y
  have hx : x.sansTraining = w.sansTraining := dropSlotWrite_training w
  have hr : (x.region 0).st = .moulting := by rw [region_of_training hx]; exact h
  have hfp : x.fp.region = [] := by rw [show x.fp = w.fp from (congrArg State.fp hx :)]; exact hf
  obtain ⟨l, hl⟩ : ∃ l, upTo 32 = 0 :: l := ⟨_, rfl⟩
  have hy : y = (x.heatDown 0).each l State.heatDown := by unfold y; rw [hl]; rfl
  clear_value x
  have hd : Due ⟨8, 4, 0⟩ y := by
    rw [hy]
    exact each_ind (fun _ g _ hv => hv.heatDown g) (heatDown_moulting hr hfp)
  exact hd.of_eq (each_keeps (fun v : State => v.boot.commitDue) (fun v k => by split <;> rfl) _ y)

/-- R375: a whole-device fault while a region is under moult and no request is held. -/
theorem wholeFault_moulting {s : State} (h : (s.region 0).st = .moulting) (hf : s.fp.region = []) (hw : s.flt.whole = false) (hq : s.reqs = []) :
    Due ⟨8, 4, 0⟩ (s.wholeFault 0) := by
  have he := event_fabric s { code := 0x9E, d0 := 0 }
  have hr := region_of_fabric he 0
  have hfp : (s.event { code := 0x9E, d0 := 0 }).fp = s.fp := (congrArg State.fp he :)
  have hrq : (s.event { code := 0x9E, d0 := 0 }).reqs = s.reqs := (congrArg State.reqs he :)
  unfold State.wholeFault
  rw [hw, if_neg (by decide)]
  dsimp only
  rw [if_neg (by decide)]
  generalize s.event { code := 0x9E, d0 := 0 } = v at *
  have hl (u : State) (hu : u.reqs = []) : u.endAll 0x45 = u := by
    unfold State.endAll State.reqList
    rw [hu]; rfl
  rw [hl]
  refine allDown_moulting ?_ ?_
  · exact (congrArg Region.st hr).trans h
  · exact (congrArg FpRec.region hfp).trans hf
  · exact hrq.trans hq

/-! ### A stack restored whose tables are held nowhere else -/

/-- An image with a weight row at the first row of stack 0. -/
def lostImage : Image := ⟨[], [], [], [], [], [], [], [⟨0, 0, 0, 0, 0, 0, 0, 0, 0, [⟨0, 0, 0, 0, 1, 0⟩]⟩], 0, []⟩

/-- What makes the restoring of stack 0 lose the control cores' memory: stacks 0 and 2 alone are populated, so neither has a twin. -/
structure Doomed (s : State) : Prop where
  fp0 : s.flash.fp0.stks = [] ∧ s.flash.fp0.region = []
  fp1 : s.flash.fp1.stks = [] ∧ s.flash.fp1.region = []
  cap : s.flash.cap = { capF with stackMask := 5 }
  moulting : (s.region 0).st = .moulting
  image : s.img.loaded = some lostImage
  whole : s.flt.whole = false
  reqs : s.reqs = []

theorem Doomed.fp {s : State} (h : Doomed s) : s.fp.stks = [] ∧ s.fp.region = [] := by
  unfold State.fp Flash.fp
  split
  · exact h.fp0
  · exact h.fp1

theorem Doomed.populated {s : State} (h : Doomed s) : s.populated = [0, 2] := by
  unfold State.populated
  rw [h.cap]; decide

theorem Doomed.twinStack {s : State} (h : Doomed s) : s.twinStack 0 = none := by
  unfold State.twinStack State.copyStacks
  rw [h.populated]; rfl

theorem Doomed.groups {s : State} (h : Doomed s) : s.groups = [] := by
  unfold State.groups
  rw [h.image]; rfl

theorem Doomed.contentAt {s : State} (h : Doomed s) (hl : (s.stack 0).live = 0) : s.contentAt 0 0 = .reserved .control 0 := by
  have hr : s.reservedAt 0 = 0 := by
    unfold State.reservedAt
    rw [hl, h.cap]; decide
  unfold State.contentAt
  rw [hr, h.populated]; rfl

theorem Doomed.rewriteRow {s : State} (h : Doomed s) (hl : (s.stack 0).live = 0) : Due ⟨8, 4, 0⟩ (s.rewriteRow (2 ^ 32)) := by
  unfold State.rewriteRow
  rw [if_neg (by decide), if_neg (by decide)]
  unfold State.rewriteHbm
  rw [show (2 ^ 32 - 2 ^ 32) / 2 ^ 27 = 0 from rfl, show (2 ^ 32 - 2 ^ 32) % 2 ^ 27 = 0 from rfl, h.contentAt hl]
  dsimp only
  unfold State.rewriteReserved State.twinRow
  dsimp only
  rw [h.twinStack]
  exact wholeFault_moulting h.moulting h.fp.2 h.whole h.reqs

theorem Doomed.stackRestore {s : State} (h : Doomed s) (hl : (s.stack 0).live = 0) : Due ⟨8, 4, 0⟩ (s.stackRestore 0) := by
  have hi : s.restoreItems 0 = s := by
    unfold State.restoreItems
    rw [h.twinStack]
  unfold State.stackRestore
  rw [hi]
  dsimp only
  rw [h.image, h.groups]
  exact h.rewriteRow hl

theorem Doomed.restoreStacks {s : State} (h : Doomed s) (ht : s.flt.todo = [(8, .stack 0)]) : Due ⟨8, 4, 0⟩ s.restoreStacks := by
  unfold State.restoreStacks
  rw [ht]
  dsimp only [List.filterMap_cons, List.filterMap_nil, State.each, List.foldl_cons, List.foldl_nil]
  refine Doomed.stackRestore ?_ ?_
  · exact ⟨h.fp0, h.fp1, h.cap, h.moulting, h.image, h.whole, h.reqs⟩
  · rw [updStack_stack_self]
    exact congrArg (fun t => Tab.get 0 t 0 / 256) h.fp.1

/-! ### The commit -/

theorem flt_of_tiles {s u : State} (e : ({ u with tiles := [] } : State) = { s with tiles := [] }) : u.flt = s.flt := (congrArg State.flt e :)

theorem doomed_of_tiles {s u : State} (e : ({ u with tiles := [] } : State) = { s with tiles := [] }) (h : Doomed s) : Doomed u := by
  have hf : u.flash = s.flash := (congrArg State.flash e :)
  have hr : u.region 0 = s.region 0 := (congrArg (fun v : State => v.region 0) e :)
  have hi : u.img = s.img := (congrArg State.img e :)
  have hl := flt_of_tiles e
  have hq : u.reqs = s.reqs := (congrArg State.reqs e :)
  exact ⟨by rw [hf]; exact h.fp0, by rw [hf]; exact h.fp1, by rw [hf]; exact h.cap, by rw [hr]; exact h.moulting, by rw [hi]; exact h.image,
    by rw [hl]; exact h.whole, by rw [hq]; exact h.reqs⟩

/-- The floor plan with a front port's form in it names no stack and no region that the one before it did not. -/
theorem nextFp_port (s : State) (l : Nat) : (s.nextFp [⟨9, 0, l⟩]).stks = s.fp.stks ∧ (s.nextFp [⟨9, 0, l⟩]).region = s.fp.region :=
  ⟨rfl, rfl⟩

/-- R371: the record of the next instar and its marker; the clock lists come after. -/
def State.marked (s : State) : State :=
  let items := s.boot.commitDue
  let new := s.nextFp items
  let f := s.flash
  let f := if f.area = 0 then { f with fp1 := new } else { f with fp0 := new }
  let s := { s with flash := f, boot := { s.boot with commitDue := [], commitCls := 0 } }
  { s with flt := { s.flt with hwFenced := s.flt.hwFenced.filter fun t => !new.fenced.contains t && !new.unusable.contains t } }

theorem commitInstar_eq (s : State) : s.commitInstar = s.marked.writeClkLists := by
  unfold State.commitInstar State.marked
  dsimp only

theorem Doomed.marked {s : State} (h : Doomed s) {l : Nat} (hd : s.boot.commitDue = [⟨9, 0, l⟩]) : Doomed s.marked := by
  have hn := nextFp_port s l
  rw [h.fp.1, h.fp.2] at hn
  unfold State.marked
  rw [hd]
  extract_lets items new f f' v
  have hf : (f'.fp0.stks = [] ∧ f'.fp0.region = []) ∧ (f'.fp1.stks = [] ∧ f'.fp1.region = []) ∧ f'.cap = f.cap := by
    unfold f'
    split
    · exact ⟨h.fp0, hn, rfl⟩
    · exact ⟨hn, h.fp1, rfl⟩
  exact ⟨hf.1, hf.2.1, hf.2.2.trans h.cap, h.moulting, h.image, h.whole, h.reqs⟩

theorem Doomed.commitInstar {s : State} (h : Doomed s) {l : Nat} (hd : s.boot.commitDue = [⟨9, 0, l⟩]) :
    Doomed s.commitInstar ∧ s.commitInstar.flt.todo = s.flt.todo := by
  have hc := writeClkLists_frame s.marked
  rw [commitInstar_eq]
  exact ⟨doomed_of_tiles hc (h.marked hd), (congrArg Flt.todo (flt_of_tiles hc) :)⟩

theorem Doomed.addCommit {s : State} (h : Doomed s) {cls : Nat} {l : List LogItem} : Doomed (s.addCommit cls l) :=
  ⟨h.fp0, h.fp1, h.cap, h.moulting, h.image, h.whole, h.reqs⟩

/-- R371, R375: a commit that is to return stack 0 to service leaves the region under moult due for the next. -/
theorem Doomed.commitIfDue {s : State} (h : Doomed s) {l : Nat} (hd : s.boot.commitDue = [⟨9, 0, l⟩]) (hdone : s.boot.done = true)
    (ht : s.flt.todo = [(8, .stack 0)]) (hl : s.img.load = none) (hw : s.train.writing = none) : Due ⟨8, 4, 0⟩ s.commitIfDue := by
  have he : s.endLoad 0x8A = s := by simp only [State.endLoad, hl]
  have hs : s.dropSlotWrite = s := by simp only [State.dropSlotWrite, hw]
  obtain ⟨r, hr⟩ : ∃ r, s.beginVerify = { s with train := r } := by
    unfold State.beginVerify
    split
    · exact ⟨_, rfl⟩
    · exact ⟨_, rfl⟩
  unfold State.commitIfDue State.commitNow
  rw [hd, hdone, he, hs, hr, List.isEmpty_cons, if_neg (by decide)]
  dsimp only
  have hi : Doomed (({ s with train := r } : State).issue 8 16 32).2 := ⟨h.fp0, h.fp1, h.cap, h.moulting, h.image, h.whole, h.reqs⟩
  obtain ⟨hc, hct⟩ := hi.commitInstar hd
  generalize (({ s with train := r } : State).issue 8 16 32).2.commitInstar = v at *
  exact ((hc.restoreStacks (hct.trans ht)).of_eq (event_due _ _)).of_eq (finish_due _ _ _ _)

/-- A device whose front port 0 has lost its link for good, while a stack waits to return and a region is under moult. -/
def lostPort : State :=
  { State.reset with
    boot := { Boot.init with done := true },
    ports := [(0, { Port.init with retr := some 5 })],
    regions := [(0, { Region.init with st := .moulting })],
    flash := { Flash.delivered with cap := { capF with stackMask := 5 }, fp0 := { fpF with stks := [] } },
    flt := { Flt.init with todo := [(8, .stack 0)] },
    img := { Img.init with loaded := some lostImage } }

/-- The port comes back in no form. -/
def lostPortDown : State := lostPort.updPort 0 fun p => p.come none

theorem event_flt (s : State) (e : Ev) : (s.event e).flt.todo = s.flt.todo ∧ (s.event e).flt.whole = s.flt.whole := by
  unfold State.event
  extract_lets r inReg ev full f g v
  have h := each_fordan_frame (v.subscribers 0x7000 1) (f := fun s k => s.notifyTo k 0x7000 1 ev.bytes) (fun v k => notifyTo_frame v k ..) v
  have hf : (v.each (v.subscribers 0x7000 1) fun s k => s.notifyTo k 0x7000 1 ev.bytes).flt = v.flt := (congrArg State.flt h :)
  rw [hf]
  exact ⟨rfl, rfl⟩

theorem portNarrow_eq (s : State) (l h : Nat) : s.portNarrow l h = s ∨ s.portNarrow l h = s.event { code := 0xD8, handle := h, d0 := l } := by
  unfold State.portNarrow
  split
  · exact .inr rfl
  · exact .inl rfl

theorem lostPortDown_doomed : Doomed lostPortDown := ⟨⟨rfl, rfl⟩, ⟨rfl, rfl⟩, rfl, rfl, rfl, rfl, rfl⟩

theorem Doomed.event {s : State} (h : Doomed s) (e : Ev) : Doomed (s.event e) := by
  have he := event_fabric s e
  have hf : (s.event e).flash = s.flash := (congrArg State.flash he :)
  have hr := region_of_fabric he 0
  have hi : (s.event e).img = s.img := (congrArg State.img he :)
  have hl := (event_flt s e).2
  have hq : (s.event e).reqs = s.reqs := (congrArg State.reqs he :)
  exact ⟨by rw [hf]; exact h.fp0, by rw [hf]; exact h.fp1, by rw [hf]; exact h.cap, by rw [hr]; exact h.moulting, by rw [hi]; exact h.image,
    by rw [hl]; exact h.whole, by rw [hq]; exact h.reqs⟩

/-- R405: an instar is committed where the form of port `l` is not that of the floor plan. -/
def State.portSettled (s : State) (l : Nat) : State := if s.portMoved l then (s.addCommit 0 [⟨9, 0, l⟩]).commitIfDue else s

/-- R405: a port that comes back in no form. -/
theorem portRetrainComplete_down {s : State} {l h lanes rate : Nat} (hl : l < 16) (hr : (s.port l).retr = some h)
    (hf : ((formsOf l (s.cfgWidth l)).find? fun f => f.mask == lanes && f.rate == rate) = none) :
    let u := ((s.updPort l fun p => p.come none).portNarrow l h).portSettled l
    exec (.portRetrainComplete l lanes rate) s = .next (u.finish h 2 (if (u.port l).width < u.cfgWidth l then 0xD8 else 0)) := by
  show execPortRetrainComplete l lanes rate s = _
  unfold execPortRetrainComplete
  rw [onLane_ok hl]
  dsimp only
  rw [hr]
  dsimp only
  rw [hf]
  rfl

theorem lostPort_moved : (lostPortDown.portNarrow 0 5).portMoved 0 = true := by
  have moved (v : State) (hp : v.ports = lostPortDown.ports) (hf : v.fp = lostPortDown.fp) : v.portMoved 0 = true := by
    unfold State.portMoved State.portEntry State.port
    rw [hp, hf]; decide
  rcases portNarrow_eq lostPortDown 0 5 with e | e
  · rw [e]; exact moved _ rfl rfl
  · rw [e]
    have he := event_fabric lostPortDown { code := 0xD8, handle := 5, d0 := 0 }
    exact moved _ (congrArg State.ports he :) (congrArg State.fp he :)

/-- The form is not that of the floor plan, so an instar is committed. -/
theorem lostPort_settled :
    (lostPortDown.portNarrow 0 5).portSettled 0 = ((lostPortDown.portNarrow 0 5).addCommit 0 [⟨9, 0, 0⟩]).commitIfDue := by
  unfold State.portSettled
  rw [if_pos lostPort_moved]

theorem lostPort_due : ∃ u, exec (.portRetrainComplete 0 0 0) lostPort = .next u ∧ Due ⟨8, 4, 0⟩ u := by
  have hf : ((formsOf 0 (lostPort.cfgWidth 0)).find? fun f => f.mask == 0 && f.rate == 0) = none := by decide
  refine ⟨_, portRetrainComplete_down (s := lostPort) (l := 0) (h := 5) (by decide) rfl hf, Due.of_eq ?_ (finish_due ..)⟩
  change Due _ ((lostPortDown.portNarrow 0 5).portSettled 0)
  rw [lostPort_settled]
  rcases portNarrow_eq lostPortDown 0 5 with e | e
  · rw [e]
    exact lostPortDown_doomed.addCommit.commitIfDue rfl rfl rfl rfl rfl
  · rw [e]
    have he := event_fabric lostPortDown { code := 0xD8, handle := 5, d0 := 0 }
    have hd := lostPortDown_doomed.event { code := 0xD8, handle := 5, d0 := 0 }
    have hb : (lostPortDown.event { code := 0xD8, handle := 5, d0 := 0 }).boot = lostPortDown.boot := (congrArg State.boot he :)
    have hi : (lostPortDown.event { code := 0xD8, handle := 5, d0 := 0 }).img = lostPortDown.img := (congrArg State.img he :)
    have ht : (lostPortDown.event { code := 0xD8, handle := 5, d0 := 0 }).train = lostPortDown.train := (congrArg State.train he :)
    have hl := (event_flt lostPortDown { code := 0xD8, handle := 5, d0 := 0 }).1
    generalize lostPortDown.event { code := 0xD8, handle := 5, d0 := 0 } = v at *
    refine hd.addCommit.commitIfDue (l := 0) ?_ ?_ ?_ ?_ ?_
    · unfold State.addCommit; rw [hb]; rfl
    · exact congrArg Boot.done hb
    · exact hl
    · exact congrArg Img.load hi
    · exact congrArg Train.writing ht

end Sys2Proof.Machine

open Sys2Proof Sys2Proof.Machine

/-- Refutes O43: from `lostPort` the commit that PORT_RETRAIN_COMPLETE makes returns stack 0 to service, finds the control cores' memory lost
in both copies, and takes the region under moult down, so an item is due again where the statement has none. -/
theorem not_portsLanesAndChannels : ¬ Obligations.PortsLanesAndChannels := by
  unfold Obligations.PortsLanesAndChannels
  intro h
  obtain ⟨-, -, h3, -⟩ := h lostPort
  obtain ⟨u, hu, -, -, hdown, -, -, -, -, hmoved⟩ := (h3 0 (by decide)).2.1 5 0 0 rfl
  obtain ⟨v, hv, hdue⟩ := lostPort_due
  obtain rfl : u = v := Host.Outcome.next.inj (hu.symm.trans hv)
  have hentry : u.portEntry 0 ≠ Tab.get 0 lostPort.fp.ports 0 := by
    unfold State.portEntry
    rw [hdown rfl]; decide
  unfold Due at hdue
  rw [(hmoved hentry).1 rfl] at hdue
  cases hdue

end

section
/-!
READ, WRITE and ACTION of Fordan objects (R410, R415, R416, R419 to R422): the settling of O47.
-/

namespace Sys2Proof.Machine

/-! ### Reads -/

/-- R419: what a role may read is decided by the object and the service. -/
def Role.readGate (r : Role) (ix sub svc : Nat) : Option Nat :=
  match objRow ix sub with
  | none => if sub = 0 ∧ (objTop ix).isSome then (if mayRead r ix 0 then (if svc = 3 then some stType else none) else some stRole) else some stNoObject
  | some o =>
    if secureOnly ix sub && r != .vendor then some stSecureOnly
    else if !mayRead r ix sub then some stRole
    else if !o.service svc then some stType
    else if o.acc == .wo then some stAccess
    else none

theorem readGate_eq (q : Sess) (ix sub svc : Nat) : readGate q ix sub svc = q.role.readGate ix sub svc := by
  unfold readGate Role.readGate; rfl

section
variable {s : State} {k : Nat} {q : Sess} (x : Nat) {ix sub : Nat} (hs : s.sess k = some q)
include hs

/-- A read answers the object's value. -/
theorem fordanRead_ok (hg : q.role.readGate ix sub 1 = none) (hf : fecCount ix sub = false) :
    exec (.fordanRead k x ix sub) s = .next (s.respond k x 1 0 ix sub (s.valueOf q ix sub)) := by
  show execFordanRead k x ix sub s = _
  simp only [execFordanRead, hs, readGate_eq, hg, hf]; rfl

/-- A read that the role has no right to changes nothing. -/
theorem fordanRead_gated {st : Nat} (hg : q.role.readGate ix sub 1 = some st) :
    exec (.fordanRead k x ix sub) s = .next (s.respond k x 1 st ix sub (leBytes 4 0)) := by
  show execFordanRead k x ix sub s = _
  simp only [execFordanRead, hs, readGate_eq, hg]; rfl

end

/-- An object whose value is not stored as written. -/
def isLive (ix sub : Nat) : Bool := sub != 0 && (objRow ix sub).any fun r => !(r.acc == .rw && !sessionObj ix sub)

theorem valueOf_live (s : State) (q : Sess) {ix sub : Nat} (h : isLive ix sub = true) : s.valueOf q ix sub = s.liveValue q ix sub := by
  simp only [isLive, Bool.and_eq_true, bne_iff_ne, Option.any_eq_true, Bool.not_eq_true'] at h
  obtain ⟨h0, r, hr, hl⟩ := h
  unfold State.valueOf
  rw [if_neg h0, hr]
  dsimp only
  rw [hl]; rfl

/-- A number stored as written, of `n` bytes. -/
def isStored (ix sub n : Nat) : Bool :=
  sub != 0 && (objRow ix sub).any fun r => r.acc == .rw && !sessionObj ix sub && r.ty != .str && r.ty != .blob && r.ty.size == some n

theorem valueOf_stored (s : State) (q : Sess) {ix sub n : Nat} (h : isStored ix sub n = true) :
    s.valueOf q ix sub = leBytes n (s.setting ix sub) := by
  simp only [isStored, Bool.and_eq_true, bne_iff_ne, Option.any_eq_true, beq_iff_eq, Bool.not_eq_true', ne_eq] at h
  obtain ⟨h0, r, hr, ⟨⟨⟨hacc, hsess⟩, hstr⟩, hblob⟩, hn⟩ := h
  have hrw : (r.acc == .rw && !sessionObj ix sub) = true := by rw [hacc, hsess]; rfl
  have hsc : scalar ix sub (s.setting ix sub) = leBytes n (s.setting ix sub) := by simp only [scalar, hr, hn, Option.getD_some]
  unfold State.valueOf
  rw [if_neg h0, hr]
  dsimp only
  rw [if_pos hrw, ← hsc]
  split
  · exact absurd ‹_› hstr
  · exact absurd ‹_› hblob
  · rfl

/-! ### Writes -/

/-- A write is decided by what the object's rules do with its bytes in the state it finds. -/
theorem sessWrite_congr {s : State} {f g : State → Bytes → WRes} {b : Bytes} (k x ix sub : Nat) (h : f s b = g s b) :
    s.sessWrite k x ix sub b f = s.sessWrite k x ix sub b g := by
  simp only [State.sessWrite, h]

/-- A number's bytes are written as the number. -/
def isNumber (ix sub n : Nat) : Bool := (objRow ix sub).any fun r => r.ty != .str && r.ty.size == some n

theorem wrAny_number {ix sub n : Nat} (h : isNumber ix sub n = true) (k : Nat) (s : State) (b : Bytes) :
    State.wrAny k ix sub s b = s.wrNum k ix sub (leNat b) := by
  simp only [isNumber, Option.any_eq_true, Bool.and_eq_true, bne_iff_ne, ne_eq] at h
  obtain ⟨r, hr, ht, -⟩ := h
  unfold State.wrAny
  rw [hr]
  dsimp only
  rw [if_neg (by simpa using ht)]

/-- A WRITE of a number is the command that writes it. -/
theorem fordanWrite_number {s : State} {k ix sub n v : Nat} {f : State → Nat → WRes} (x : Nat) (h : isNumber ix sub n = true)
    (hv : v < 2 ^ (8 * n)) (hf : s.wrNum k ix sub v = f s v) :
    exec (.fordanWrite k x ix sub (leBytes n v)) s = .next (s.numWrite k x ix sub v f) := by
  have hw := wrAny_number h k s (leBytes n v)
  simp only [isNumber, Option.any_eq_true, Bool.and_eq_true, beq_iff_eq] at h
  obtain ⟨r, hr, -, hn⟩ := h
  rw [numWrite_eq s k x f hr hn hv]
  refine congrArg Host.Outcome.next (sessWrite_congr k x ix sub ?_)
  rw [hw, leNat_leBytes_of_lt hv, hf]

/-! ### Actions -/

/-- An ACTION without parameters is the command of its object. -/
theorem action_eq {f : State → ARes} (s : State) (k x : Nat) {ix sub : Nat} (h : State.actAny k ix sub s = f s) :
    exec (.action k x ix sub []) s = .next (s.sessAct k x ix sub f) := by
  have hc : s.sessAct k x ix sub (State.actAny k ix sub) = s.sessAct k x ix sub f := by simp only [State.sessAct, h]
  show execAction k x ix sub [] s = _
  unfold execAction
  cases s.sess k with
  | none => exact congrArg Host.Outcome.next hc
  | some q =>
    dsimp only
    rw [show (!List.isEmpty ([] : Bytes)) = false from rfl, Bool.and_false, if_neg (by decide), hc]

/-- An ACTION with parameters has the wrong length. -/
theorem action_parameters {s : State} {k : Nat} {q : Sess} (x : Nat) {ix sub : Nat} (b : Byte) (v : Bytes) (hs : s.sess k = some q)
    (hg : q.role.writeGate s.boot.done ix sub 6 = none) :
    exec (.action k x ix sub (b :: v)) s = .next (s.respond k x 6 5 ix sub (leBytes 4 0)) := by
  show execAction k x ix sub (b :: v) s = _
  unfold execAction
  simp only [hs, writeGate_eq, hg]; rfl

end Sys2Proof.Machine
end

section
/-!
The tables of objects that O47 names: which gates they pass, and what their rules do.
-/

namespace Sys2Proof.Machine

/-! ### The values read -/

/-- The operator reads these, and none is a counter of a port. -/
theorem operator_reads : ∀ c ∈ [(0x1000, 0), (0x1100, 1), (0x1100, 0x0B), (0x1800, 1), (0x1800, 2), (0x1800, 6), (0x1800, 7), (0x2000, 4),
    (0x2800, 1), (0x2808, 2), (0x2820, 1), (0x3000, 1), (0x3020, 1), (0x4400, 3), (0x4800, 8), (0x5010, 3), (0x5410, 2), (0x6000, 2),
    (0x7000, 1), (0x7002, 1), (0x7800, 2), (0x8000, 0x0D), (0x9000, 3)],
    Role.operator.readGate c.1 c.2 1 = none ∧ fecCount c.1 c.2 = false := by decide

/-- No partition reads these; among them another partition's objects and its own key. -/
theorem partition_reads : ∀ p < 16, ∀ c ∈ [(0x7000, 1), (0x9000, 3), (0x2000, 4), (0x4000 + (p + 1) % 16, 1), (0x4000 + p, 4)],
    (Role.partition p).readGate c.1 c.2 1 = some 3 := by decide

/-- What the operator reads of the device's state, and of its session. -/
def liveValues (s : State) (q : Sess) : List (Nat × Nat × Bytes) :=
  [(0x1100, 1, leBytes 1 s.boot.lane), (0x1800, 1, leBytes 1 s.boot.cause), (0x1800, 2, leBytes 4 s.boot.abandoned),
    (0x1800, 6, leBytes 4 s.flash.epoch), (0x1800, 7, leBytes 8 q.hq), (0x2000, 4, leBytes 4 s.pwr.pIn), (0x2800, 1, leBytes 8 s.time.now),
    (0x2808, 2, leBytes 8 s.beat.count), (0x2820, 1, leBytes 1 (s.region 0).op), (0x3000, 1, leBytes 4 s.instar),
    (0x3020, 1, leBytes 1 (s.region 0).st.code), (0x4800, 8, leBytes 8 s.adm.admitted), (0x5010, 3, leBytes 2 (s.port 0).width),
    (0x5410, 2, leBytes 2 (s.stack 0).live), (0x6000, 2, leBytes 1 s.meter.st), (0x7000, 1, leBytes 8 s.flt.evNext),
    (0x7002, 1, leBytes 4 s.csr.alertSrc), (0x7800, 2, leBytes 8 s.train.step), (0x8000, 0x0D, leBytes 4 s.img.runsAt),
    (0x9000, 3, leBytes 1 s.flash.bankA.st)]

theorem live_objs : ∀ c ∈ [(0x1100, 1), (0x1800, 1), (0x1800, 2), (0x1800, 6), (0x1800, 7), (0x2000, 4), (0x2800, 1), (0x2808, 2), (0x2820, 1),
    (0x3000, 1), (0x3020, 1), (0x4800, 8), (0x5010, 3), (0x5410, 2), (0x6000, 2), (0x7000, 1), (0x7002, 1), (0x7800, 2), (0x8000, 0x0D),
    (0x9000, 3)], isLive c.1 c.2 = true := by decide

theorem liveValues_read (s : State) (q : Sess) : ∀ c ∈ liveValues s q, s.liveValue q c.1 c.2.1 = c.2.2 := by
  simp only [liveValues, List.forall_mem_cons]
  exact ⟨rfl, rfl, rfl, rfl, rfl, rfl, rfl, rfl, rfl, rfl, rfl, rfl, rfl, rfl, rfl, rfl, rfl, rfl, rfl, rfl, by simp⟩

theorem valueOf_liveValues {s : State} {q : Sess} {c : Nat × Nat × Bytes} (h : c ∈ liveValues s q) : s.valueOf q c.1 c.2.1 = c.2.2 :=
  (valueOf_live s q (live_objs (c.1, c.2.1) (List.mem_map_of_mem (f := fun c : Nat × Nat × Bytes => (c.1, c.2.1)) h))).trans
    (liveValues_read s q c h)

theorem valueOf_zero (s : State) (q : Sess) : s.valueOf q 0x1000 0 = leBytes 1 9 := by
  have ht : objTop 0x1000 = some 9 := by decide
  unfold State.valueOf
  rw [if_pos rfl, ht]; rfl

/-! ### The writes refused -/

theorem write_gates : ∀ c ∈ [(0x1001, 1, 1), (0x7000, 1, 2), (0x9010, 6, 4), (0x8000, 1, 5)],
    Role.operator.writeGate true c.1 c.2.1 2 = some c.2.2 := by decide

/-- The operator may write the object, and the bytes are, or are not, a value of its type. -/
def writable (ix sub : Nat) (v : Bytes) (good : Bool) : Bool :=
  (Role.operator.writeGate true ix sub 2).isNone && (objRow ix sub).any fun r => r.ty.fits v == good

theorem write_types : ∀ c ∈ [(0x4800, 2, List.replicate 2 0), (0x4000, 2, [0xFF])], writable c.1 c.2.1 c.2.2 false = true := by decide

theorem write_ranges : ∀ c ∈ [(0x4800, 2, 1, 9), (0x8000, 4, 4, 1999), (0x1100, 5, 2, 4095), (0x5010, 1, 2, 300)],
    writable c.1 c.2.1 (leBytes c.2.2.1 c.2.2.2) true = true ∧ isNumber c.1 c.2.1 c.2.2.1 = true ∧ c.2.2.2 < 2 ^ (8 * c.2.2.1) := by decide

theorem range_failures (s : State) (k : Nat) : ∀ c ∈ [(0x4800, 2, 1, 9), (0x8000, 4, 4, 1999), (0x1100, 5, 2, 4095), (0x5010, 1, 2, 300)],
    s.wrNum k c.1 c.2.1 c.2.2.2 = .fail 6 0 := by
  simp only [List.forall_mem_cons]
  exact ⟨rfl, rfl, rfl, rfl, by simp⟩

section
variable {s : State} {k : Nat} (x : Nat) (hop : OperatorSession s k) {ix sub : Nat}
include hop

theorem fordanWrite_gated {st : Nat} (v : Bytes) (hg : Role.operator.writeGate true ix sub 2 = some st) :
    exec (.fordanWrite k x ix sub v) s = .next (s.respond k x 2 st ix sub (leBytes 4 0)) := by
  obtain ⟨hd, q, hs, hr⟩ := hop
  exact congrArg Host.Outcome.next (sessWrite_gated x _ v hs (by rw [hr, hd]; exact hg))

theorem fordanWrite_type {v : Bytes} (hw : writable ix sub v false = true) :
    exec (.fordanWrite k x ix sub v) s = .next (s.respond k x 2 5 ix sub (leBytes 4 0)) := by
  obtain ⟨hd, q, hs, hr⟩ := hop
  simp only [writable, Bool.and_eq_true, Option.isNone_iff_eq_none, Option.any_eq_true, beq_iff_eq] at hw
  obtain ⟨hg, r, hrow, hb⟩ := hw
  exact congrArg Host.Outcome.next (sessWrite_type x hs (by rw [hr, hd]; exact hg) hrow hb)

theorem fordanWrite_range {n v : Nat} (hw : writable ix sub (leBytes n v) true = true) (hn : isNumber ix sub n = true) (hv : v < 2 ^ (8 * n))
    (hf : s.wrNum k ix sub v = .fail 6 0) :
    exec (.fordanWrite k x ix sub (leBytes n v)) s = .next (s.respond k x 2 6 ix sub (leBytes 4 0)) := by
  obtain ⟨hd, q, hs, hr⟩ := hop
  simp only [writable, Bool.and_eq_true, Option.isNone_iff_eq_none, Option.any_eq_true, beq_iff_eq] at hw
  obtain ⟨hg, r, hrow, hb⟩ := hw
  refine congrArg Host.Outcome.next (sessWrite_refused x hs (by rw [hr, hd]; exact hg) hrow hb ?_)
  rw [wrAny_number hn, leNat_leBytes_of_lt hv, hf]

theorem fordanWrite_ok {n v : Nat} {u : State} (hw : writable ix sub (leBytes n v) true = true) (hn : isNumber ix sub n = true)
    (hv : v < 2 ^ (8 * n)) (hf : s.wrNum k ix sub v = .ok u) :
    exec (.fordanWrite k x ix sub (leBytes n v)) s = .next (u.respond k x 2 0 ix sub []) := by
  obtain ⟨hd, q, hs, hr⟩ := hop
  simp only [writable, Bool.and_eq_true, Option.isNone_iff_eq_none, Option.any_eq_true, beq_iff_eq] at hw
  obtain ⟨hg, r, hrow, hb⟩ := hw
  refine congrArg Host.Outcome.next (sessWrite_ok x hs (by rw [hr, hd]; exact hg) hrow hb ?_)
  rw [wrAny_number hn, leNat_leBytes_of_lt hv, hf]

end

/-! ### The settings that are written and read back -/

/-- The objects, with the widths of their values. -/
def settingObjs : List (Nat × Nat × Nat) :=
  [(0x1100, 6, 2), (0x1100, 0x0A, 2), (0x1100, 0x0B, 1), (0x2803, 2, 4), (0x3400, 2, 1), (0x4000, 0x13, 2), (0x4800, 2, 1),
    (0x4800, 3, 1), (0x4800, 4, 2), (0x4800, 7, 4), (0x5400, 2, 1), (0x5400, 3, 1), (0x7000, 6, 4), (0x7800, 4, 2), (0x7800, 0x0A, 1),
    (0x8000, 4, 4), (0x8000, 5, 1)]

/-- Values within their ranges. -/
def settingVals : List (Nat × Nat × Nat) :=
  [(0x1100, 6, 9000), (0x1100, 0x0A, 10), (0x1100, 0x0A, 3600), (0x1100, 0x0B, 1), (0x2803, 2, 7), (0x3400, 2, 31),
    (0x4000, 0x13, 576), (0x4000, 0x13, 8192), (0x4800, 2, 8), (0x4800, 3, 7), (0x4800, 4, 4096), (0x4800, 7, 86400), (0x5400, 2, 23),
    (0x5400, 3, 15), (0x7000, 6, 0), (0x7000, 6, 65536), (0x7800, 4, 1024), (0x7800, 0x0A, 3), (0x8000, 4, 50000), (0x8000, 5, 1)]

theorem settingObjs_stored : ∀ c ∈ settingObjs, isStored c.1 c.2.1 c.2.2 = true ∧ isNumber c.1 c.2.1 c.2.2 = true ∧
    Role.operator.readGate c.1 c.2.1 1 = none ∧ fecCount c.1 c.2.1 = false ∧ c.2.1 < 256 := by decide

theorem settingVals_writable : ∀ c ∈ settingObjs, ∀ d ∈ settingVals, c.1 = d.1 → c.2.1 = d.2.1 →
    writable d.1 d.2.1 (leBytes c.2.2 d.2.2) true = true ∧ d.2.2 < 2 ^ (8 * c.2.2) := by decide

theorem settingVals_inRange (s : State) (k : Nat) : ∀ d ∈ settingVals, s.wrNum k d.1 d.2.1 d.2.2 = .ok (s.putSetting d.1 d.2.1 d.2.2) := by
  simp only [settingVals, List.forall_mem_cons]
  exact ⟨rfl, rfl, rfl, rfl, rfl, rfl, rfl, rfl, rfl, rfl, rfl, rfl, rfl, rfl, rfl, rfl, rfl, rfl, rfl, rfl, by simp⟩

/-- R421: a setting written leaves every other as it was. -/
theorem setting_putSetting_ne (s : State) {ix sub i j : Nat} (v : Nat) (hs : sub < 256) (hj : j < 256) (h : (i, j) ≠ (ix, sub)) :
    (s.putSetting ix sub v).setting i j = s.setting i j := by
  have hk : objKey i j ≠ objKey ix sub := by
    unfold objKey
    intro e
    exact h (Prod.ext (by omega) (by omega))
  unfold State.putSetting State.setting
  by_cases hp : persistentObj ix sub <;> by_cases hq : persistentObj i j <;> simp [hp, hq, Tab.get_put_ne, hk]

theorem putSetting_objs (s : State) (ix sub v : Nat) : { (s.putSetting ix sub v).flash with objs := s.flash.objs } = s.flash := by
  unfold State.putSetting; split <;> rfl

theorem putSetting_sess (s : State) (ix sub v k : Nat) : (s.putSetting ix sub v).sess k = s.sess k := by
  unfold State.putSetting; split <;> rfl

end Sys2Proof.Machine
end

section
/-!
The objects that have a command of their own, and the settling of O47.
-/

namespace Sys2Proof.Machine

/-! ### Numbers with a command of their own -/

theorem command_numbers : (∀ c ∈ [(0x1800, 5, 4), (0x2000, 1, 4), (0x2000, 2, 4), (0x9000, 5, 4), (0x2800, 6, 8), (0x2801, 6, 8), (0x2803, 1, 8),
    (0x6002, 5, 8), (0x9010, 6, 8), (0x2000, 7, 1)], isNumber c.1 c.2.1 c.2.2 = true) := by decide

theorem quota_numbers : ∀ p < 16, ∀ j < 6, 1 ≤ j → isNumber (quotaObj p) j 4 = true := by decide

theorem binding_numbers : ∀ p < 16, ∀ j < 10, 6 ≤ j → isNumber (partObj p) j 8 = true := by decide

theorem partState_numbers : ∀ p < 16, isNumber (partObj p) 1 1 = true := by decide

theorem wrNum_quota (s : State) (k v : Nat) {p : Nat} (hp : p < 16) (j : Nat) : s.wrNum k (quotaObj p) j v = State.wrQuota p j s v := by
  unfold State.wrNum State.wr4000 quotaObj
  rw [if_neg (by omega), if_neg (by omega), if_neg (by omega), if_pos (by omega), if_neg (by omega), if_pos (by omega), Nat.add_sub_cancel_left]

theorem wrNum_part (s : State) (k v : Nat) {p : Nat} (hp : p < 16) (j : Nat) :
    s.wrNum k (partObj p) j v = s.wr4000 (partObj p) j v := by
  unfold State.wrNum partObj
  rw [if_neg (by omega), if_neg (by omega), if_neg (by omega), if_pos (by omega)]

theorem wrNum_partState (s : State) (k v : Nat) {p : Nat} (hp : p < 16) : s.wrNum k (partObj p) 1 v = State.wrPartState p s v := by
  rw [wrNum_part s k v hp]
  unfold State.wr4000 partObj
  rw [if_pos (by omega), Nat.add_sub_cancel_left]
  rfl

theorem wrNum_binding (s : State) (k v : Nat) {p j : Nat} (hp : p < 16) (h6 : 6 ≤ j) (h9 : j ≤ 9) :
    s.wrNum k (partObj p) j v = State.wrBinding p j s v := by
  rw [wrNum_part s k v hp]
  unfold State.wr4000 partObj
  rw [if_pos (by omega), Nat.add_sub_cancel_left]
  obtain rfl | rfl | rfl | rfl : j = 6 ∨ j = 7 ∨ j = 8 ∨ j = 9 := by omega
  all_goals rfl

/-- R415, R416, R419: a WRITE of four bytes is the command of its object. -/
theorem fordanWrite_commands4 (s : State) (k x v : Nat) (hv : v < 2 ^ 32) :
    exec (.fordanWrite k x 0x1800 5 (leBytes 4 v)) s = exec (.resetReq k x v) s ∧
      exec (.fordanWrite k x 0x2000 1 (leBytes 4 v)) s = exec (.moduleInMaxWrite k x v) s ∧
      exec (.fordanWrite k x 0x2000 2 (leBytes 4 v)) s = exec (.pcapLimitWrite k x v) s ∧
      exec (.fordanWrite k x 0x9000 5 (leBytes 4 v)) s = exec (.fwMinSvnWrite k x v) s ∧
      ∀ p < 16, ∀ j, 1 ≤ j → j ≤ 5 → exec (.fordanWrite k x (0x4400 + p) j (leBytes 4 v)) s = exec (.quotaWrite k x p j v) s := by
  refine ⟨?_, ?_, ?_, ?_, fun p hp j h1 h5 => ?_⟩
  · exact fordanWrite_number x (command_numbers (0x1800, 5, 4) (by decide)) hv (f := State.wrResetReq) rfl
  · exact fordanWrite_number x (command_numbers (0x2000, 1, 4) (by decide)) hv (f := State.wrModuleInMax) rfl
  · exact fordanWrite_number x (command_numbers (0x2000, 2, 4) (by decide)) hv (f := State.wrPcapLimit) rfl
  · exact fordanWrite_number x (command_numbers (0x9000, 5, 4) (by decide)) hv (f := State.wrMinSvn) rfl
  · exact (fordanWrite_number x (quota_numbers p hp j (by omega) h1) hv (wrNum_quota s k v hp j)).trans
      (onPart_ok hp s fun s => s.numWrite k x (quotaObj p) j v (State.wrQuota p j)).symm

/-- Of eight bytes. -/
theorem fordanWrite_commands8 (s : State) (k x v : Nat) (hv : v < 2 ^ 64) :
    exec (.fordanWrite k x 0x2800 6 (leBytes 8 v)) s = exec (.timeStepTo k x v) s ∧
      exec (.fordanWrite k x 0x2801 6 (leBytes 8 v)) s = exec (.freerunSet k x v) s ∧
      exec (.fordanWrite k x 0x2803 1 (leBytes 8 v)) s = exec (.ppsNextSecond k x v) s ∧
      exec (.fordanWrite k x 0x6002 5 (leBytes 8 v)) s = exec (.ackSeq k x v) s ∧
      exec (.fordanWrite k x 0x9010 6 (leBytes 8 v)) s = exec (.licRemove k x v) s ∧
      ∀ p < 16, ∀ j, 6 ≤ j → j ≤ 9 → exec (.fordanWrite k x (0x4000 + p) j (leBytes 8 v)) s = exec (.bindingWrite k x p j v) s := by
  refine ⟨?_, ?_, ?_, ?_, ?_, fun p hp j h6 h9 => ?_⟩
  · exact fordanWrite_number x (command_numbers (0x2800, 6, 8) (by decide)) hv (f := State.wrTimeStep) rfl
  · exact fordanWrite_number x (command_numbers (0x2801, 6, 8) (by decide)) hv (f := State.wrFreerun) rfl
  · exact fordanWrite_number x (command_numbers (0x2803, 1, 8) (by decide)) hv (f := State.wrPpsNext) rfl
  · exact fordanWrite_number x (command_numbers (0x6002, 5, 8) (by decide)) hv (f := State.wrAckSeq k) rfl
  · exact fordanWrite_number x (command_numbers (0x9010, 6, 8) (by decide)) hv (f := State.wrLicRemove) rfl
  · exact (fordanWrite_number x (binding_numbers p hp j (by omega) h6) hv (wrNum_binding s k v hp h6 h9)).trans
      (onPart_ok hp s fun s => s.numWrite k x (partObj p) j v (State.wrBinding p j)).symm

/-- Of one byte. -/
theorem fordanWrite_commands1 (s : State) (k x v : Nat) (hv : v < 256) :
    exec (.fordanWrite k x 0x2000 7 (leBytes 1 v)) s = exec (.marginModeWrite k x v) s ∧
      ∀ p < 16, exec (.fordanWrite k x (0x4000 + p) 1 (leBytes 1 v)) s = exec (.partitionStateWrite k x p v) s := by
  refine ⟨?_, fun p hp => ?_⟩
  · exact fordanWrite_number x (command_numbers (0x2000, 7, 1) (by decide)) hv (f := State.wrMarginMode) rfl
  · exact (fordanWrite_number x (partState_numbers p hp) hv (wrNum_partState s k v hp)).trans
      (onPart_ok hp s fun s => s.numWrite k x (partObj p) 1 v (State.wrPartState p)).symm

/-! ### Actions with a command of their own -/

theorem actAny_port (s : State) (k : Nat) {l : Nat} (hl : l < 16) : State.actAny k (0x5010 + l) 6 s = State.actPortRetrain k l s := by
  unfold State.actAny
  rw [if_neg (by omega), if_pos (by omega), Nat.add_sub_cancel_left]

theorem action_port (s : State) (k x : Nat) {l : Nat} (hl : l < 16) :
    exec (.action k x (0x5010 + l) 6 []) s = exec (.frontPortRetrain k x l) s :=
  (action_eq s k x (actAny_port s k hl)).trans
    (onLane_ok hl s fun s => s.sessAct k x (0x5010 + l) 6 (State.actPortRetrain k l)).symm

theorem action_moult (s : State) {k : Nat} (x : Nat) (hk : k < 32) {g : Nat} (hg : g < 32) :
    exec (.action k x 0x3400 1 []) s = exec (.moult k x g) s := by
  have hn : ¬ k = noSession := by unfold noSession; omega
  refine (action_eq s k x (f := State.actMoult k) rfl).trans ?_
  show _ = execMoult k x g s
  simp [execMoult, onRegion, onUnit, hg, hn]

theorem actPortRetrain_ok {s : State} (k : Nat) {l : Nat} (hw : s.cfgWidth l ≠ 0) (hr : (s.port l).retr = none) :
    State.actPortRetrain k l s = .ok (s.nextHandle 9)
      ((s.issue 9 (s.handlePart k) k).2.updPort l fun p => { (p.come none) with retr := some (s.nextHandle 9) }) := by
  unfold State.actPortRetrain
  rw [if_neg (by rw [hr]; simpa using hw)]
  rfl

theorem port_gates : ∀ l < 16, Role.operator.writeGate true (0x5010 + l) 6 6 = none := by decide

/-! ### Settings -/

/-- A WRITE that is refused with a status, and changes nothing. -/
def Refused (s : State) (k x ix sub : Nat) (v : Bytes) (status : Nat) : Prop :=
  ∃ u, exec (.fordanWrite k x ix sub v) s = .next u ∧ { u with fordan := s.fordan } = s ∧ Answered u k x 2 status ix sub (leBytes 4 0)

/-- R420, R421: a setting within its range is what is written, and what is read. -/
theorem setting_written {s : State} {k ix sub n v : Nat} (x : Nat) (hop : OperatorSession s k) (hn : (ix, sub, n) ∈ settingObjs)
    (hv : (ix, sub, v) ∈ settingVals) :
    ∃ u, exec (.fordanWrite k x ix sub (leBytes n v)) s = .next u ∧ { u with flash := s.flash, fordan := s.fordan } = s ∧ Accepted u k x ix sub ∧
      u.setting ix sub = v ∧ { u.flash with objs := s.flash.objs } = s.flash ∧
      (∀ i j, i < 2 ^ 16 → j < 256 → (i, j) ≠ (ix, sub) → u.setting i j = s.setting i j) ∧
      ∃ w, exec (.fordanRead k x ix sub) u = .next w ∧ Answered w k x 1 0 ix sub (leBytes n v) := by
  obtain ⟨hstored, hnumber, hread, hfec, hsub⟩ := settingObjs_stored _ hn
  obtain ⟨hwrite, hlt⟩ := settingVals_writable _ hn _ hv rfl rfl
  have hex := fordanWrite_ok x hop hwrite hnumber hlt (settingVals_inRange s k _ hv)
  obtain ⟨hd, q, hs, hr⟩ := hop
  have hself : ((s.putSetting ix sub v).respond k x 2 0 ix sub []).setting ix sub = v := setting_putSetting_self s ix sub v
  have hsess : ((s.putSetting ix sub v).respond k x 2 0 ix sub []).sess k = some q := (putSetting_sess s ix sub v k).trans hs
  refine ⟨_, hex, ?_, respond_answered .., hself, putSetting_objs s ix sub v, fun i j _ hj h => setting_putSetting_ne s v hsub hj h, _,
    fordanRead_ok x hsess (by rw [hr]; exact hread) hfec, ?_⟩
  · exact putSetting_frame s ix sub v
  · rw [valueOf_stored _ q hstored, hself]
    exact respond_answered ..

end Sys2Proof.Machine

open Sys2Proof Sys2Proof.Machine

/-- Settles O47, clause by clause: the gates and the types of the named objects are decided on the object table, and the object's own rules
are those of its command. -/
theorem objectsReadWriteAction : Obligations.ObjectsReadWriteAction := by
  unfold Obligations.ObjectsReadWriteAction
  intro s
  refine ⟨?_, ?_, ?_, ?_, ?_, ?_, ?_, ?_, ?_⟩
  case refine_1 =>
    intro k x q ix sub v hs hr hm
    obtain ⟨hg, hf⟩ := operator_reads (ix, sub) (List.mem_map_of_mem (f := fun c : Nat × Nat × Bytes => (c.1, c.2.1)) hm)
    have hv : s.valueOf q ix sub = v := by
      have hm' : (ix, sub, v) = (0x1000, 0, leBytes 1 9) ∨ (ix, sub, v) = (0x1100, 0x0B, leBytes 1 (s.setting 0x1100 0x0B)) ∨
          (ix, sub, v) = (0x4400, 3, leBytes 4 (s.setting 0x4400 3)) ∨ (ix, sub, v) ∈ liveValues s q := by
        simp only [List.mem_cons, liveValues] at hm ⊢
        tauto
      obtain h | h | h | h := hm'
      · cases h; exact valueOf_zero s q
      · cases h; exact valueOf_stored s q (by decide)
      · cases h; exact valueOf_stored s q (by decide)
      · exact valueOf_liveValues h
    rw [← hv]
    exact ⟨_, fordanRead_ok x hs (by rw [hr]; exact hg) hf, rfl, respond_answered ..⟩
  case refine_2 =>
    intro k x q p ix sub hs hr hp hm
    exact ⟨_, fordanRead_gated x hs (by rw [hr]; exact partition_reads p hp (ix, sub) hm), rfl, respond_answered ..⟩
  case refine_3 =>
    intro k x ix sub v status hop hm
    have gated (c : Nat × Nat × Nat) (hc : c ∈ [(0x1001, 1, 1), (0x7000, 1, 2), (0x9010, 6, 4), (0x8000, 1, 5)]) (v : Bytes) :
        Refused s k x c.1 c.2.1 v c.2.2 := ⟨_, fordanWrite_gated x hop v (write_gates c hc), rfl, respond_answered ..⟩
    have typed (c : Nat × Nat × Bytes) (hc : c ∈ [(0x4800, 2, List.replicate 2 0), (0x4000, 2, [0xFF])]) :
        Refused s k x c.1 c.2.1 c.2.2 5 := ⟨_, fordanWrite_type x hop (write_types c hc), rfl, respond_answered ..⟩
    have ranged (c : Nat × Nat × Nat × Nat) (hc : c ∈ [(0x4800, 2, 1, 9), (0x8000, 4, 4, 1999), (0x1100, 5, 2, 4095), (0x5010, 1, 2, 300)]) :
        Refused s k x c.1 c.2.1 (leBytes c.2.2.1 c.2.2.2) 6 := by
      obtain ⟨hw, hn, hv⟩ := write_ranges c hc
      exact ⟨_, fordanWrite_range x hop hw hn hv (range_failures s k c hc), rfl, respond_answered ..⟩
    show Refused s k x ix sub v status
    simp only [List.mem_cons, List.not_mem_nil, or_false] at hm
    obtain h | h | h | h | h | h | h | h | h | h := hm <;> cases h
    · exact gated (0x1001, 1, 1) (by decide) _
    · exact gated (0x7000, 1, 2) (by decide) _
    · exact gated (0x9010, 6, 4) (by decide) _
    · exact typed (0x4800, 2, List.replicate 2 0) (by decide)
    · exact gated (0x8000, 1, 5) (by decide) _
    · exact typed (0x4000, 2, [0xFF]) (by decide)
    · exact ranged (0x4800, 2, 1, 9) (by decide)
    · exact ranged (0x8000, 4, 4, 1999) (by decide)
    · exact ranged (0x1100, 5, 2, 4095) (by decide)
    · exact ranged (0x5010, 1, 2, 300) (by decide)
  case refine_4 =>
    intro k x q v hs hr hd
    have hg : q.role.writeGate s.boot.done 0x4800 2 2 = some 0x0B := by rw [hr, hd]; decide
    exact ⟨_, congrArg Host.Outcome.next (sessWrite_gated x _ v hs hg), rfl, respond_answered ..⟩
  case refine_5 =>
    intro k x ix sub n v hop hn hv
    exact setting_written x hop hn hv
  case refine_6 =>
    intro k x v hk
    exact ⟨fordanWrite_commands4 s k x v, fordanWrite_commands8 s k x v, fordanWrite_commands1 s k x v⟩
  case refine_7 =>
    intro k x hk
    exact ⟨action_eq s k x rfl, action_eq s k x rfl, action_eq s k x rfl, action_eq s k x rfl, action_eq s k x rfl, action_eq s k x rfl,
      action_eq s k x rfl, action_eq s k x rfl, action_eq s k x rfl, action_eq s k x rfl, fun l hl => action_port s k x hl,
      fun g hg => action_moult s x hk hg⟩
  case refine_8 =>
    intro k x l hop hl hh hw hr
    obtain ⟨q, hs, hg⟩ := operator_gate hop (0x5010 + l) 6 6 (port_gates l hl)
    refine ⟨_, (action_eq s k x (actAny_port s k hl)).trans
      (congrArg Host.Outcome.next (sessAct_ok x hs hg (actPortRetrain_ok k hw hr))), ⟨respond_answered .., rfl, ?_⟩, ?_⟩
    · exact congrArg Hnd.st (issue_snd s 9 (s.handlePart k) k).2.2
    · exact congrArg Port.up (updPort_port_self (s.issue 9 (s.handlePart k) k).2 l fun p => { (p.come none) with retr := some (s.nextHandle 9) })
  case refine_9 =>
    intro k x b v hop
    obtain ⟨q, hs, hg⟩ := operator_gate hop 0x5400 1 6 (by decide)
    exact ⟨_, action_parameters x b v hs hg, rfl, respond_answered ..⟩

end

section
/-!
No command touches the queue of waiting commands (R10): one rule for each operation that makes a state.
-/

namespace Sys2Proof.Machine

/-- The queue of waiting commands is the same in the two states. -/
def Kept (s u : State) : Prop := u.pending = s.pending

@[simp] theorem kept_iff (s u : State) : Kept s u ↔ u.pending = s.pending := by unfold Kept; exact Iff.rfl

theorem with_adm_pending (s : State) (a : Adm) : ({ s with adm := a } : State).pending = s.pending := rfl
theorem with_beat_pending (s : State) (b : Beat) : ({ s with beat := b } : State).pending = s.pending := rfl

/-! ### Choices and repetitions -/

@[simp] theorem ite_pending (c : Prop) [Decidable c] (a b : State) : (if c then a else b).pending = if c then a.pending else b.pending :=
  apply_ite State.pending c a b

@[simp] theorem each_pending {f : State → Nat → State} (h : ∀ v i, Kept v (f v i)) (s : State) (l : List Nat) :
    (s.each l f).pending = s.pending := each_keeps State.pending h l s

@[simp] theorem foldl_pending {α : Type} {f : State → α → State} (h : ∀ v x, Kept v (f v x)) (s : State) (l : List α) :
    (l.foldl f s).pending = s.pending := foldl_keeps State.pending h l s

@[simp] theorem whenB_pending {s : State} {c : Bool} {f : State → State} (h : Kept s (f s)) : (s.whenB c f).pending = s.pending := by
  unfold State.whenB; split <;> [exact h; rfl]

/-- The state of a pair that an operation with an answer gives. -/
theorem pending_of_eq {α : Type} {s u : State} {p : State × α} {a : α} (h : p = (u, a)) (hp : p.1.pending = s.pending) : u.pending = s.pending := by
  rw [← hp, h]

/-- The outcome of an object's rules for a write leaves the queue as it was. -/
def WRes.Keeps (s : State) : WRes → Prop
  | .ok u => u.pending = s.pending
  | .fail _ _ => True

@[simp] theorem WRes.keeps_ok (s u : State) : (WRes.ok u).Keeps s ↔ u.pending = s.pending := Iff.rfl
@[simp] theorem WRes.keeps_fail (s : State) (st d : Nat) : (WRes.fail st d).Keeps s := trivial
@[simp] theorem WRes.keeps_ite (s : State) (c : Prop) [Decidable c] (a b : WRes) :
    (if c then a else b).Keeps s ↔ if c then a.Keeps s else b.Keeps s := by split <;> rfl

@[simp] theorem keeps_refusedBy (s : State) (c : Nat) : (refusedBy c).Keeps s := trivial

/-- The outcome of an action's rules leaves the queue as it was. -/
def ARes.Keeps (s : State) : ARes → Prop
  | .ok _ u => u.pending = s.pending
  | .fail _ => True

@[simp] theorem ARes.keeps_ok (s u : State) (h : Nat) : (ARes.ok h u).Keeps s ↔ u.pending = s.pending := Iff.rfl
@[simp] theorem ARes.keeps_fail (s : State) (d : Nat) : (ARes.fail d).Keeps s := trivial
@[simp] theorem ARes.keeps_ite (s : State) (c : Prop) [Decidable c] (a b : ARes) :
    (if c then a else b).Keeps s ↔ if c then a.Keeps s else b.Keeps s := by split <;> rfl

theorem ARes.Keeps.of_eq {s u : State} {r : ARes} (h : r.Keeps u) (hu : u.pending = s.pending) : r.Keeps s := by
  cases r with
  | ok i v => exact Eq.trans h hu
  | fail d => trivial

/-- A state, where there is one, has the queue of `s`. -/
def OptKeeps (s : State) (o : Option State) : Prop := ∀ u, o = some u → u.pending = s.pending

@[simp] theorem optKeeps_none (s : State) : OptKeeps s none := fun _ h => by cases h
@[simp] theorem optKeeps_some (s u : State) : OptKeeps s (some u) ↔ u.pending = s.pending :=
  ⟨fun h => h u rfl, fun h _ e => by cases e; exact h⟩
@[simp] theorem optKeeps_ite (s : State) (c : Prop) [Decidable c] (a b : Option State) :
    OptKeeps s (if c then a else b) ↔ if c then OptKeeps s a else OptKeeps s b := by split <;> rfl

/-- What an operation that may have no result leaves, the state itself where there is none. -/
theorem getD_pending {s v : State} {o : Option State} (h : OptKeeps v o) (hv : v.pending = s.pending) : (o.getD s).pending = s.pending := by
  cases o with
  | none => rfl
  | some u => exact (h u rfl).trans hv

/-- A command answers a next state with the same queue where its unit exists (`ok`), and the fault elsewhere. -/
def Answers (s : State) (ok : Bool) (o : Host.Outcome State Fault Refusal) : Prop := ∃ f : State → State, o = onUnit ok s f ∧ Kept s (f s)

@[simp] theorem answers_next (s u : State) : Answers s true (.next u) ↔ u.pending = s.pending := by
  constructor
  · rintro ⟨f, hf, hk⟩
    cases hf
    exact hk
  · exact fun h => ⟨fun _ => u, rfl, h⟩

@[simp] theorem answers_onUnit {s : State} {ok : Bool} {f : State → State} (h : Kept s (f s)) : Answers s ok (onUnit ok s f) := ⟨f, rfl, h⟩

@[simp] theorem answers_onM {s : State} {t : Nat} {f : State → State} (h : Kept s (f s)) : Answers s (isTile .m t) (onM t s f) :=
  answers_onUnit h

@[simp] theorem answers_onV {s : State} {t : Nat} {f : State → State} (h : Kept s (f s)) : Answers s (isTile .v t) (onV t s f) :=
  answers_onUnit h

@[simp] theorem answers_onS {s : State} {t : Nat} {f : State → State} (h : Kept s (f s)) : Answers s (isTile .s t) (onS t s f) :=
  answers_onUnit h

@[simp] theorem answers_onTile {s : State} {t : Nat} {f : State → State} (h : Kept s (f s)) : Answers s (decide (t < nTiles)) (onTile t s f) :=
  answers_onUnit h

@[simp] theorem answers_onRegion {s : State} {g : Nat} {f : State → State} (h : Kept s (f s)) : Answers s (decide (g < 32)) (onRegion g s f) :=
  answers_onUnit h

@[simp] theorem answers_onStack {s : State} {k : Nat} {f : State → State} (h : Kept s (f s)) : Answers s (decide (k < 24)) (onStack k s f) :=
  answers_onUnit h

@[simp] theorem answers_onField {s : State} {n : Nat} {f : State → State} (h : Kept s (f s)) : Answers s (decide (n < 16)) (onField n s f) :=
  answers_onUnit h

@[simp] theorem answers_onPart {s : State} {p : Nat} {f : State → State} (h : Kept s (f s)) : Answers s (decide (p < 16)) (onPart p s f) :=
  answers_onUnit h

@[simp] theorem answers_onLane {s : State} {l : Nat} {f : State → State} (h : Kept s (f s)) : Answers s (decide (l < 16)) (onLane l s f) :=
  answers_onUnit h

@[simp] theorem answers_onEngine {s : State} {e : Nat} {f : State → State} (h : Kept s (f s)) : Answers s (decide (e < 96)) (onEngine e s f) :=
  answers_onUnit h

end Sys2Proof.Machine
end

section
/-!
One rule for each operation and command of the model: none touches the queue of waiting commands (R10).
-/

namespace Sys2Proof.Machine

/-! ### Named operations, handles and events -/

@[simp] theorem setRows_pending (s : State) (x1 : List (Nat × Bytes)) : (s.setRows x1).pending = s.pending := by
  induction x1 generalizing s with
  | nil => rfl
  | cons x r ih => simp [State.setRows, ih]

@[simp] theorem updReq_pending (s : State) (r : Nat) (f : Req → Req) : (s.updReq r f).pending = s.pending := by unfold State.updReq; split <;> rfl
@[simp] theorem fresh_pending (s : State) (w : Nat) : (s.fresh w).2.pending = s.pending := rfl

@[simp] theorem notifyTo_pending (s : State) (k ix sub : Nat) (v : Bytes) : (s.notifyTo k ix sub v).pending = s.pending := by
  unfold State.notifyTo; split <;> rfl

@[simp] theorem event_pending (s : State) (e : Ev) : (s.event e).pending = s.pending := by simp [State.event]
@[simp] theorem issue_pending (s : State) (kind part sess : Nat) : (s.issue kind part sess).2.pending = s.pending := rfl

@[simp] theorem finish_pending (s : State) (h st code : Nat) : (s.finish h st code).pending = s.pending := by
  unfold State.finish
  refine (each_pending (fun v k => ?_) _ _).trans (by simp)
  (repeat' split) <;> simp

@[simp] theorem launch_pending (s : State) (t rr : Nat) (x : Snd) : (s.launch t rr x).pending = s.pending := by unfold State.launch; split <;> rfl
@[simp] theorem sendOn_pending (s : State) (t rr : Nat) (kind : SndKind) (words : List W64) (bound : Nat) :
    (s.sendOn t rr kind words bound).pending = s.pending := by unfold State.sendOn; split <;> simp

@[simp] theorem sendLater_pending (s : State) (t rr : Nat) (kind : SndKind) (words : List W64) : (s.sendLater t rr kind words).pending = s.pending := by
  unfold State.sendLater; split <;> simp

@[simp] theorem sendNext_pending (s : State) (t rr : Nat) : (s.sendNext t rr).pending = s.pending := by unfold State.sendNext; split <;> simp
@[simp] theorem report_pending (s : State) (t w0 w1 w2 w3 : Nat) : (s.report t w0 w1 w2 w3).pending = s.pending := by simp [State.report]
@[simp] theorem count_pending (s : State) (t k n : Nat) : (s.count t k n).pending = s.pending := rfl
@[simp] theorem memReport_pending (s : State) (t code : Nat) (deep : Bool) (r mask req : Nat) :
    (s.memReport t code deep r mask req).pending = s.pending := by simp [State.memReport]
@[simp] theorem readChk_pending (s : State) (t : Nat) (deep : Bool) (r req : Nat) (es : List Ecc) (nth : Nat) :
    (s.readChk t deep r req es nth).1.pending = s.pending := by unfold State.readChk; dsimp only; split <;> simp

@[simp] theorem readRows_pending (s : State) (t : Nat) (deep : Bool) (req : Nat) (es : List Ecc) (x1 : Nat) (x2 : List Nat) :
    (s.readRows t deep req es x1 x2).1.pending = s.pending := by
  induction x2 generalizing s x1 with
  | nil => rfl
  | cons r rs ih =>
    have h1 := readChk_pending s t deep r req es x1
    unfold State.readRows
    split
    next h => simp [pending_of_eq h h1]
    next u b h =>
      have h2 := ih u (x1 + 1)
      split
      next h' => exact (pending_of_eq h' h2).trans (pending_of_eq h h1)
      next h' => exact (pending_of_eq h' h2).trans (pending_of_eq h h1)

@[simp] theorem setSpad_pending (s : State) (t r : Nat) (b : Bytes) : (s.setSpad t r b).pending = s.pending := rfl
@[simp] theorem dropLeave_pending (s : State) (t : Nat) : (s.dropLeave t).pending = s.pending := by unfold State.dropLeave; split <;> rfl
@[simp] theorem coreFault_pending (s : State) (t code tag ix : Nat) (w1 w2 : Nat) (mma : Bool) (side : Nat) :
    (s.coreFault t code tag ix w1 w2 mma side).pending = s.pending := by simp [State.coreFault]
@[simp] theorem issueFault_pending (s : State) (t code tag : Nat) : (s.issueFault t code tag).pending = s.pending := by simp [State.issueFault]

/-! ### Settings -/

@[simp] theorem putSetting_pending (s : State) (ix sub v : Nat) : (s.putSetting ix sub v).pending = s.pending := by
  unfold State.putSetting; split <;> rfl

@[simp] theorem putBlob_pending (s : State) (ix sub : Nat) (v : Bytes) : (s.putBlob ix sub v).pending = s.pending := by
  unfold State.putBlob; split <;> rfl

/-! ### The two networks -/

@[simp] theorem occur_pending (s : State) (t code : Nat) : (s.occur t code).pending = s.pending := rfl
@[simp] theorem fabReport_pending (s : State) (t code port : Nat) (msg : Bool) (label unit w2 w3 : Nat) :
    (s.fabReport t code port msg label unit w2 w3).pending = s.pending := by simp [State.fabReport]

@[simp] theorem labelDiscard_pending (s : State) (t port label n : Nat) : (s.labelDiscard t port label n).pending = s.pending := by
  simp [State.labelDiscard]

@[simp] theorem breach_pending (s : State) (t port : Nat) (msg : Bool) (label n : Nat) : (s.breach t port msg label n).pending = s.pending := by
  simp [State.breach]

@[simp] theorem block_pending (s : State) (t key : Nat) : (s.block t key).pending = s.pending := rfl

@[simp] theorem fenceBlock_pending (s : State) (t key port label unit : Nat) : (s.fenceBlock t key port label unit).pending = s.pending := by
  simp [State.fenceBlock]

@[simp] theorem flushPort_pending (s : State) (t port : Nat) : (s.flushPort t port).pending = s.pending := by simp [State.flushPort]
@[simp] theorem flushRing_pending (s : State) (t port : Nat) : (s.flushRing t port).pending = s.pending := by simp [State.flushRing]

@[simp] theorem fenceTile_pending (s : State) (u : Nat) : (s.fenceTile u).pending = s.pending := by
  unfold State.fenceTile
  refine (each_pending (fun v k => ?_) _ _).trans (by simp)
  dsimp only; (repeat' split) <;> simp

@[simp] theorem fenceRegion_pending (s : State) (g : Nat) : (s.fenceRegion g).pending = s.pending := by
  unfold State.fenceRegion
  refine each_pending (fun v k => (each_pending (fun w k => ?_) _ _).trans (by simp)) _ _
  (repeat' split) <;> simp

@[simp] theorem inject_pending (s : State) (t rr xp : Nat) (row : Bytes) : (s.inject t rr xp row).pending = s.pending := by simp [State.inject]

@[simp] theorem injectAll_pending (s : State) (t rr : Nat) (x1 : List Bytes) : (s.injectAll t rr x1).pending = s.pending := by
  induction x1 generalizing s with
  | nil => rfl
  | cons x r ih => simp [State.injectAll, ih]

@[simp] theorem accepted_pending (s : State) (t rr : Nat) : (s.accepted t rr).pending = s.pending := by unfold State.accepted; split <;> simp

@[simp] theorem channelStall_pending (s : State) (t : Nat) (x : Snd) : (s.channelStall t x).pending = s.pending := by
  unfold State.channelStall; split <;> simp

@[simp] theorem naked_pending (s : State) (t rr : Nat) : (s.naked t rr).pending = s.pending := by unfold State.naked; split <;> simp
@[simp] theorem takeMsg_pending (s : State) (m : Msg) : OptKeeps s (s.takeMsg m) := by simp only [State.takeMsg]; (repeat' split) <;> simp

/-! ### Leave -/

@[simp] theorem grant_pending (s : State) (g tile inc : Nat) (entry : Option Nat) (start : Nat) :
    (s.grant g tile inc entry start).2.pending = s.pending := rfl
@[simp] theorem answerLeave_pending (s : State) (t result n : Nat) : (s.answerLeave t result n).pending = s.pending := rfl
@[simp] theorem leaveEvent_pending (s : State) (t inc us : Nat) : (s.leaveEvent t inc us).pending = s.pending := by simp [State.leaveEvent]
@[simp] theorem serveLeave_pending (s : State) (f : Nat) : (s.serveLeave f).pending = s.pending := by unfold State.serveLeave; split <;> rfl

@[simp] theorem queueLeave_pending (s : State) (t inc us bound : Nat) (inrush : Bool) : (s.queueLeave t inc us bound inrush).pending = s.pending := by
  simp [State.queueLeave]

@[simp] theorem endGrant_pending (s : State) (g : Nat) (p : Grant → Bool) : (s.endGrant g p).pending = s.pending := rfl

/-! ### Regions leaving Active -/

@[simp] theorem dropRows_pending (s : State) (p : Nat → Bool) : (s.dropRows p).pending = s.pending := rfl
@[simp] theorem powerOff_pending (s : State) (g : Nat) (deep : Bool) : (s.powerOff g deep).pending = s.pending := rfl

@[simp] theorem changeDropped_pending (s : State) (g cause : Nat) (c : Nat × Nat) : (s.changeDropped g cause c).pending = s.pending := by
  simp [State.changeDropped]

@[simp] theorem dropFreq_pending (s : State) (g cause : Nat) : (s.dropFreq g cause).pending = s.pending := by simp [State.dropFreq]
@[simp] theorem clearMarker_pending (s : State) (g : Nat) : (s.clearMarker g).pending = s.pending := rfl

@[simp] theorem endMoult_pending (s : State) (g : Nat) (result : Nat) : (s.endMoult g result).pending = s.pending := by
  unfold State.endMoult; split <;> simp

@[simp] theorem regionDown_pending (s : State) (g : Nat) (st : RegSt) (deep : Bool) : (s.regionDown g st deep).pending = s.pending := by
  simp [State.regionDown]

@[simp] theorem stopAll_pending (s : State) : s.stopAll.pending = s.pending := by simp [State.stopAll]
@[simp] theorem closeAdm_pending (s : State) (why : Nat) : (s.closeAdm why).pending = s.pending := rfl
@[simp] theorem queueMoult_pending (s : State) (g cls : Nat) : (s.queueMoult g cls).pending = s.pending := by simp [State.queueMoult]
@[simp] theorem addTodo_pending (s : State) (cls : Nat) (a : Repair) : (s.addTodo cls a).pending = s.pending := by unfold State.addTodo; split <;> rfl
@[simp] theorem loseMirrors_pending (s : State) (g : Nat) : (s.loseMirrors g).pending = s.pending := by simp [State.loseMirrors]
@[simp] theorem regionLoss_pending (s : State) (g cls : Nat) : (s.regionLoss g cls).pending = s.pending := by simp [State.regionLoss]

/-! ### Signed records of the flash -/

@[simp] theorem writeClkLists_pending (s : State) : s.writeClkLists.pending = s.pending := by simp [State.writeClkLists]
@[simp] theorem commitInstar_pending (s : State) : s.commitInstar.pending = s.pending := by simp [State.commitInstar]
@[simp] theorem addCommit_pending (s : State) (cls : Nat) (l : List LogItem) : (s.addCommit cls l).pending = s.pending := rfl

/-! ### Program images -/

@[simp] theorem stageWeights_pending (s : State) (i : Image) : (s.stageWeights i).pending = s.pending := by simp [State.stageWeights]

@[simp] theorem installTile_pending (s : State) (i : Image) (t : Nat) : (s.installTile i t).pending = s.pending := by
  unfold State.installTile; dsimp only; split <;> simp

@[simp] theorem putRegion_pending (s : State) (g : Nat) (r : RegRec) : (s.putRegion g r).pending = s.pending := rfl
@[simp] theorem installTables_pending (s : State) (i : Image) : (s.installTables i).pending = s.pending := by simp [State.installTables]

@[simp] theorem applyWrite_pending (s : State) (detour : Bool) (w : WriteRec) : (s.applyWrite detour w).pending = s.pending := by
  unfold State.applyWrite; (repeat' split) <;> simp

@[simp] theorem applyWrites_pending (s : State) (detour : Bool) (x1 : List WriteRec) : (s.applyWrites detour x1).pending = s.pending := by
  induction x1 generalizing s with
  | nil => rfl
  | cons x r ih => simp [State.applyWrites, ih]

@[simp] theorem restage_pending (s : State) (g : Nat) : (s.restage g).pending = s.pending := by unfold State.restage; split <;> simp
@[simp] theorem applyPatch_pending (s : State) (p : Patch) (handle : Nat) : (s.applyPatch p handle).pending = s.pending := by simp [State.applyPatch]

/-! ### Requests and Gyper messages -/

@[simp] theorem sendMsg_pending (s : State) (p n : Nat) (peer : Bytes) (peerPort type handle cref : Nat) (body : Bytes) :
    (s.sendMsg p n peer peerPort type handle cref body).1.pending = s.pending := by unfold State.sendMsg; split <;> rfl
@[simp] theorem answer_pending (s : State) (f : From) (type handle cref : Nat) (body : Bytes) :
    (s.answer f type handle cref body).pending = s.pending := by simp [State.answer]
@[simp] theorem refuse_pending (s : State) (f : From) (handle cref reason detail : Nat) :
    (s.refuse f handle cref reason detail).pending = s.pending := by simp [State.refuse]
@[simp] theorem mapReqs_pending (s : State) (f : Req → Req) : (s.mapReqs f).pending = s.pending := rfl

@[simp] theorem journalPut_pending (s : State) (n : Nat) (b : JBody) : (s.journalPut n b).pending = s.pending := by
  unfold State.journalPut; split <;> rfl

@[simp] theorem journalAdmit_pending (s : State) (q : Req) : (s.journalAdmit q).pending = s.pending := by simp [State.journalAdmit]

@[simp] theorem journalToken_pending (s : State) (q : Req) (tok : Nat) : (s.journalToken q tok).pending = s.pending := by
  unfold State.journalToken; dsimp only; split <;> simp

@[simp] theorem journalEnd_pending (s : State) (q : Req) : (s.journalEnd q).pending = s.pending := by simp [State.journalEnd]

@[simp] theorem putStream_pending (s : State) (t i : Nat) (desc : Bytes) : (s.putStream t i desc).pending = s.pending := by
  unfold State.putStream; dsimp only
  split
  · rfl
  · split <;> (rename_i h; simp [pending_of_eq h (readChk_pending ..)])

@[simp] theorem seedStream_pending (s : State) (q : Req) (n : Nat) : (s.seedStream q n).pending = s.pending := by simp [State.seedStream]
@[simp] theorem seedAll_pending (s : State) : s.seedAll.pending = s.pending := by simp [State.seedAll]

@[simp] theorem tokenOut_pending (s : State) (r : Nat) (q : Req) (i : Nat) (t : TokRec) (why : Nat) : (s.tokenOut r q i t why).pending = s.pending := by
  unfold State.tokenOut; dsimp only
  split
  · simp
  · split <;> (rename_i h; simp [pending_of_eq h (sendMsg_pending ..)])

@[simp] theorem emitToken_pending (s : State) (r tok lp : Nat) : (s.emitToken r tok lp).pending = s.pending := by
  unfold State.emitToken; split <;> simp

@[simp] theorem releaseTokens_pending (s : State) : s.releaseTokens.pending = s.pending := by simp [State.releaseTokens]
@[simp] theorem unbook_pending (s : State) (r b : Nat) : (s.unbook r b).pending = s.pending := rfl
@[simp] theorem endReq_pending (s : State) (r why : Nat) : (s.endReq r why).pending = s.pending := by unfold State.endReq; split <;> simp
@[simp] theorem endAll_pending (s : State) (why : Nat) : (s.endAll why).pending = s.pending := by simp [State.endAll]
@[simp] theorem dropWaiting_pending (s : State) : s.dropWaiting.pending = s.pending := rfl

@[simp] theorem resumeRebuild_pending (s : State) (r why : Nat) : (s.resumeRebuild r why).pending = s.pending := by
  unfold State.resumeRebuild; split <;> simp

@[simp] theorem rebuild_pending (s : State) (r : Nat) : (s.rebuild r).pending = s.pending := by unfold State.rebuild; split <;> simp

/-! ### The training state and its restores -/

@[simp] theorem rowOut_pending (s : State) (id : Nat) : (s.rowOut id).1.pending = s.pending := by
  unfold State.rowOut; split <;> [simp; (split <;> simp)]

@[simp] theorem rowsOut_pending (s : State) (x1 : List Nat) : (s.rowsOut x1).1.pending = s.pending := by
  induction x1 generalizing s with
  | nil => rfl
  | cons r rs ih =>
    have h1 := rowOut_pending s r
    unfold State.rowsOut
    split
    next h => exact pending_of_eq h h1
    next u b h => split <;> (rename_i h'; exact (pending_of_eq h' (ih u)).trans (pending_of_eq h h1))

@[simp] theorem streamsOut_pending (s : State) (x1 : List (Nat × Nat)) : (s.streamsOut x1).1.pending = s.pending := by
  induction x1 generalizing s with
  | nil => rfl
  | cons c rs ih =>
    have h1 := readChk_pending s c.1 false (streamRow (s.tile c.1) c.2) 2 [] 0
    unfold State.streamsOut
    split
    next h => exact pending_of_eq h h1
    next u b h => split <;> (rename_i h'; exact (pending_of_eq h' (ih u)).trans (pending_of_eq h h1))

@[simp] theorem stateRows_pending (s : State) (k : Nat) (data : Tab Nat) : (s.stateRows k data).1.pending = s.pending := by
  unfold State.stateRows
  split
  next h => exact pending_of_eq h (rowsOut_pending ..)
  next u b h => split <;> (rename_i h'; exact (pending_of_eq h' (streamsOut_pending ..)).trans (pending_of_eq h (rowsOut_pending ..)))

@[simp] theorem putStateRows_pending (s : State) (c : Chry) : (s.putStateRows c).pending = s.pending := by simp [State.putStateRows]
@[simp] theorem dropSlotWrite_pending (s : State) : s.dropSlotWrite.pending = s.pending := by unfold State.dropSlotWrite; split <;> simp

@[simp] theorem endTraining_pending (s : State) : s.endTraining.pending = s.pending := by
  unfold State.endTraining
  refine (foldl_pending (fun v k => ?_) _ _).trans (by simp)
  split <;> simp

@[simp] theorem restoreSlot_pending (s : State) (i h : Nat) : (s.restoreSlot i h).pending = s.pending := by unfold State.restoreSlot; split <;> simp
@[simp] theorem stopTraining_pending (s : State) (h : Nat) : (s.stopTraining h).pending = s.pending := by simp [State.stopTraining]

@[simp] theorem restoreFailed_pending (s : State) : s.restoreFailed.pending = s.pending := by
  unfold State.restoreFailed; dsimp only; (repeat' split) <;> simp

@[simp] theorem restoreNewest_pending (s : State) : s.restoreNewest.pending = s.pending := by simp [State.restoreNewest]; split <;> simp
@[simp] theorem trainStop_pending (s : State) : s.trainStop.pending = s.pending := by simp [State.trainStop]

/-! ### Wenwyn's acts on the path of a fault -/

@[simp] theorem updStrike_pending (s : State) (u : Nat) (f : Strike → Strike) : (s.updStrike u f).pending = s.pending := rfl
@[simp] theorem transient_pending (s : State) (u cls : Nat) : (s.transient u cls).pending = s.pending := by simp [State.transient]
@[simp] theorem countUe_pending (s : State) (t cls : Nat) : (s.countUe t cls).pending = s.pending := by simp [State.countUe]
@[simp] theorem fenceUnit_pending (s : State) (t cls : Nat) : (s.fenceUnit t cls).pending = s.pending := by simp [State.fenceUnit]
@[simp] theorem declareFaulty_pending (s : State) (t cls : Nat) : (s.declareFaulty t cls).pending = s.pending := by simp [State.declareFaulty]

@[simp] theorem promote_pending (s : State) (g cls : Nat) : (s.promote g cls).pending = s.pending := by
  unfold State.promote; dsimp only; (repeat' split) <;> simp

@[simp] theorem removeImage_pending (s : State) : s.removeImage.pending = s.pending := by simp [State.removeImage]
@[simp] theorem endLoad_pending (s : State) (code : Nat) : (s.endLoad code).pending = s.pending := by unfold State.endLoad; split <;> simp
@[simp] theorem heatDown_pending (s : State) (g : Nat) : (s.heatDown g).pending = s.pending := by simp [State.heatDown]
@[simp] theorem allDown_pending (s : State) : s.allDown.pending = s.pending := by simp [State.allDown]
@[simp] theorem wholeFault_pending (s : State) (c : Nat) : (s.wholeFault c).pending = s.pending := by simp [State.wholeFault]
@[simp] theorem stagingLost_pending (s : State) : s.stagingLost.pending = s.pending := by unfold State.stagingLost; dsimp only; split <;> simp
@[simp] theorem slotLost_pending (s : State) (i : Nat) : (s.slotLost i).pending = s.pending := by unfold State.slotLost; split <;> simp
@[simp] theorem journalLost_pending (s : State) (lo hi : Nat) : (s.journalLost lo hi).pending = s.pending := by simp [State.journalLost]

@[simp] theorem bothLost_pending (s : State) (x : RItem) (k o : Nat) : (s.bothLost x k o).pending = s.pending := by
  unfold State.bothLost; split <;> simp

@[simp] theorem rewriteReserved_pending (s : State) (k a : Nat) (x : RItem) (o : Nat) : (s.rewriteReserved k a x o).pending = s.pending := by
  unfold State.rewriteReserved; (repeat' split) <;> simp

@[simp] theorem rewriteDeep_pending (s : State) (t d : Nat) : (s.rewriteDeep t d).pending = s.pending := by
  unfold State.rewriteDeep; split <;> [simp; (split <;> simp)]

@[simp] theorem rewriteHbm_pending (s : State) (k a : Nat) : (s.rewriteHbm k a).pending = s.pending := by
  unfold State.rewriteHbm; (repeat' split) <;> simp

@[simp] theorem rewriteRow_pending (s : State) (id : Nat) : (s.rewriteRow id).pending = s.pending := by simp [State.rewriteRow]
@[simp] theorem hbmLost_pending (s : State) (k a : Nat) : (s.hbmLost k a).pending = s.pending := by unfold State.hbmLost; split <;> simp

@[simp] theorem stackOut_pending (s : State) (k : Nat) (st : Nat) : (s.stackOut k st).pending = s.pending := by
  unfold State.stackOut; dsimp only; split <;> simp

@[simp] theorem restoreItems_pending (s : State) (k : Nat) : (s.restoreItems k).pending = s.pending := by unfold State.restoreItems; split <;> simp

@[simp] theorem stackRestore_pending (s : State) (k : Nat) : (s.stackRestore k).pending = s.pending := by
  unfold State.stackRestore; dsimp only; split <;> simp

@[simp] theorem strike_pending (s : State) (u cls : Nat) : (s.strike u cls).pending = s.pending := by
  unfold State.strike; dsimp only; (repeat' split) <;> simp

@[simp] theorem restageTile_pending (s : State) (t : Nat) : (s.restageTile t).pending = s.pending := by unfold State.restageTile; split <;> simp
@[simp] theorem actOn_pending (s : State) (c : Nat × Repair) : (s.actOn c).pending = s.pending := by unfold State.actOn; split <;> simp
@[simp] theorem faultStop_pending (s : State) (cls : Nat) (live : Bool) : (s.faultStop cls live).pending = s.pending := by simp [State.faultStop]
@[simp] theorem openDispute_pending (s : State) (d : Dispute) : (s.openDispute d).pending = s.pending := by simp [State.openDispute]
@[simp] theorem rebuildAfter_pending (s : State) : s.rebuildAfter.pending = s.pending := by simp [State.rebuildAfter]

@[simp] theorem rule_pending (s : State) (d : Dispute) (w : Ruling) : (s.rule d w).pending = s.pending := by
  unfold State.rule; (repeat' split) <;> simp

/-! ### Instar commits -/

@[simp] theorem restoreStacks_pending (s : State) : s.restoreStacks.pending = s.pending := by simp [State.restoreStacks]
@[simp] theorem beginVerify_pending (s : State) : s.beginVerify.pending = s.pending := by unfold State.beginVerify; split <;> rfl
@[simp] theorem commitNow_pending (s : State) : s.commitNow.pending = s.pending := by simp [State.commitNow]
@[simp] theorem commitIfDue_pending (s : State) : s.commitIfDue.pending = s.pending := by simp [State.commitIfDue]

/-! ### The matrix core -/

@[simp] theorem issueM_pending (s : State) (t cls : Nat) (bad : Nat → Option Nat) (f : Nat → State → State) (hf : ∀ w v, Kept v (f w v)) :
    (s.issueM t cls bad f).pending = s.pending := by simp only [kept_iff] at hf; unfold State.issueM; dsimp only; (repeat' split) <;> simp [hf]
@[simp] theorem setAccCol_pending (s : State) (t : Nat) (wide : Bool) (base c : Nat) (v : List Nat) :
    (setAccCol s t wide base c v).pending = s.pending := rfl

@[simp] theorem sendOut_pending (s : State) (t out d rr : Nat) (rows : List Bytes) : (s.sendOut t out d rr rows).pending = s.pending := by
  unfold State.sendOut; split <;> simp

@[simp] theorem countConv_pending (s : State) (t sat nan : Nat) : (s.countConv t sat nan).pending = s.pending := rfl

@[simp] theorem loadPart_pending (s : State) (t w : Nat) (c : Nat × Nat) (es : List Ecc) (nth : Nat) :
    (s.loadPart t w c es nth).1.pending = s.pending := by
  unfold State.loadPart; dsimp only; split <;> (rename_i h; exact pending_of_eq h (readRows_pending ..))

@[simp] theorem takePart_pending (s : State) (t w : Nat) (c : Nat × Nat) (es : List Ecc) (nth : Nat) :
    (s.takePart t w c es nth).1.pending = s.pending := by
  unfold State.takePart; dsimp only
  split
  · rfl
  · simp
  · split <;> (rename_i h; simp [pending_of_eq h (loadPart_pending ..)])

@[simp] theorem preload_pending (s : State) (t w p : Nat) (es : List Ecc) (nth : Nat) : (s.preload t w p es nth).1.pending = s.pending := by
  unfold State.preload; dsimp only
  split
  · rfl
  · split <;> (rename_i h; simp [pending_of_eq h (loadPart_pending ..)])

@[simp] theorem takeParts_pending (s : State) (t w p : Nat) (es : List Ecc) (x1 : List Nat) (x2 : Nat) (x3 : List (Nat × Nat)) :
    (s.takeParts t w p es x1 x2 x3).1.pending = s.pending := by
  induction x1 generalizing s x2 x3 with
  | nil => rfl
  | cons i r ih =>
    have h1 := takePart_pending s t w ((statParts w p).getD i (0, 0)) es x2
    unfold State.takeParts
    split
    next h => exact pending_of_eq h h1
    next h => exact (ih ..).trans (pending_of_eq h h1)

@[simp] theorem writeCapture_pending (s : State) (t : Nat) (stat : Bytes) (acc : List Bytes) : (s.writeCapture t stat acc).pending = s.pending := by
  simp [State.writeCapture]

@[simp] theorem mmaFault_pending (s : State) (t code : Nat) (r : MmaRun) (w1 w2 : Nat) : (s.mmaFault t code r w1 w2).pending = s.pending := by
  simp [State.mmaFault]

@[simp] theorem runGroup_pending (s : State) (t : Nat) (r : MmaRun) (set : TileSet) (es : List Ecc) (nth : Nat) :
    (s.runGroup t r set es nth).1.pending = s.pending := by
  unfold State.runGroup
  extract_lets w pt wide ncol base first last fromZero
  split
  next h => simp [pending_of_eq h (takeParts_pending ..)]
  next h =>
    have h1 := pending_of_eq h (takeParts_pending ..)
    split
    next h => simp [pending_of_eq h (preload_pending ..), h1]
    next h =>
      have h2 := pending_of_eq h (preload_pending ..)
      extract_lets
      split
      next h => simp [pending_of_eq h (readRows_pending ..), h1, h2]
      next s3 _ h =>
        have h3 := pending_of_eq h (readRows_pending ..)
        extract_lets due sampled acc s4 colVal re im sampled' s5 s6 s7 s8 out outIm s9 s10
        have h4 : s4.pending = s3.pending := by simp only [s4]; split <;> simp
        have h5 : s5.pending = s4.pending := by simp only [s5]; split <;> simp
        have h6 : s6.pending = s5.pending := by simp only [s6]; split <;> simp
        have h7 : s7.pending = s6.pending := by simp only [s7]; split <;> simp
        have h8 : s8.pending = s7.pending := by simp only [s8, updTile_pending]
        have h9 : s9.pending = s8.pending := by simp only [s9]; split <;> simp
        have h10 : s10.pending = s9.pending := by clear_value sampled'; simp only [s10]; (repeat' split) <;> rfl
        have h' := h10.trans (h9.trans (h8.trans (h7.trans (h6.trans (h5.trans (h4.trans (h3.trans (h2.trans h1))))))))
        clear_value s10
        split
        extract_lets rows s11 r' s12
        have h11 : s11.pending = s10.pending := by simp only [s11]; split <;> simp
        have h12 : s12.pending = s11.pending := by simp only [s12]; split <;> simp
        exact h12.trans (h11.trans h')

@[simp] theorem sideRow_pending (s : State) (t k : Nat) : OptKeeps s (s.sideRow t k) := by
  unfold State.sideRow; dsimp only
  (repeat' split) <;> simp
  all_goals exact pending_of_eq ‹State.readChk _ _ _ _ _ _ _ = _› (readChk_pending ..)

@[simp] theorem sideRows_pending (s : State) (t k : Nat) (x1 : Nat) : (s.sideRows t k x1).pending = s.pending := by
  induction x1 generalizing s with
  | zero => rfl
  | succ n ih =>
    unfold State.sideRows
    split
    next => rfl
    next u h => exact (ih u).trans (sideRow_pending s t k u h)

@[simp] theorem runSide_pending (s : State) (t : Nat) : (s.runSide t).pending = s.pending := by simp [State.runSide]

@[simp] theorem runArray_pending (s : State) (t : Nat) (es : List Ecc) (nth : Nat) (x1 : Nat) : (s.runArray t es nth x1).pending = s.pending := by
  induction x1 generalizing s nth with
  | zero => simp [State.runArray]
  | succ n ih =>
    unfold State.runArray; dsimp only
    split
    · split
      · simp
      · simp [ih]
    · simp

@[simp] theorem arrayGoes_pending (s : State) (t : Nat) : (s.arrayGoes t).pending = s.pending := by simp [State.arrayGoes]

@[simp] theorem execMma_answers (t : Nat) (es : List Ecc) (s : State) : Answers s (isTile .m t) (execMma t es s) := by
  refine answers_onM (issueM_pending _ _ _ _ _ fun w v => ?_)
  dsimp only; (repeat' split) <;> simp

@[simp] theorem beginSide_pending (s : State) (t w : Nat) (es : List Ecc) : (s.beginSide t w es).pending = s.pending := by simp [State.beginSide]
@[simp] theorem execMode_answers (t : Nat) (s : State) : Answers s (isTile .m t) (execMode t s) := by refine answers_onM ?_; simp [State.whenB]

@[simp] theorem execModeTakesEffect_answers (t : Nat) (s : State) : Answers s (isTile .m t) (execModeTakesEffect t s) := by
  refine answers_onM ?_; simp only [State.whenB]; (repeat' split) <;> simp

@[simp] theorem takeStart_pending (s : State) (t : Nat) : (s.takeStart t).pending = s.pending := by unfold State.takeStart; split <;> rfl
@[simp] theorem execPost_answers (t : Nat) (s : State) : Answers s (isTile .m t) (execPost t s) := by refine answers_onM ?_; simp [State.whenB]

@[simp] theorem execArrayStall_answers (t : Nat) (s : State) : Answers s (isTile .m t) (execArrayStall t s) := by
  refine answers_onM ?_; simp only [State.whenB]; (repeat' split) <;> simp

@[simp] theorem readTile_pending (s : State) (t w off : Nat) (es : List Ecc) : (s.readTile t w off es).1.pending = s.pending := by
  unfold State.readTile; extract_lets x pt rowAt head want headBad
  split
  · rfl
  · split
    · simp
    · split
      · rfl
      · split
        · rfl
        · split
          next h => exact pending_of_eq h (readRows_pending ..)
          next h => (repeat' split) <;> exact pending_of_eq h (readRows_pending ..)

@[simp] theorem readSet_pending (s : State) (t w : Nat) (es : List Ecc) (x1 : Nat) (x2 : Nat) (x3 : List Dense) :
    (s.readSet t w es x1 x2 x3).1.pending = s.pending := by
  induction x1 generalizing s x2 x3 with
  | zero => rfl
  | succ n ih =>
    unfold State.readSet
    split
    next h =>
      refine (ih ..).trans (Eq.trans ?_ (pending_of_eq h (readTile_pending ..)))
      (repeat' split) <;> simp
    next h => exact pending_of_eq h (readTile_pending ..)

@[simp] theorem execTileSetEnter_answers (t : Nat) (es : List Ecc) (s : State) : Answers s (isTile .m t) (execTileSetEnter t es s) := by
  refine answers_onM ?_; simp only [State.whenB]; (repeat' split) <;> simp

@[simp] theorem ringAppend_pending (s : State) (t : Nat) (b : Bytes) : (s.ringAppend t b).pending = s.pending := rfl
@[simp] theorem ringUe_pending (s : State) (t : Nat) : (s.ringUe t).pending = s.pending := by unfold State.ringUe; split <;> simp

/-! ### The data mesh -/

@[simp] theorem putOut_pending (s : State) (t port epd : Nat) (p : Packet) : OptKeeps s (s.putOut t port epd p) := by
  simp only [State.putOut]; (repeat' split) <;> simp

@[simp] theorem outPort_pending (s : State) (t port epd : Nat) (multi : Bool) (key unit : Nat) (p : Packet) :
    OptKeeps s (s.outPort t port epd multi key unit p) := by
  unfold State.outPort
  split
  · simp
  · intro u h
    obtain ⟨v, hv, rfl⟩ := Option.map_eq_some_iff.mp h
    simpa using putOut_pending s t port epd p v hv
  · dsimp only; split <;> simp

@[simp] theorem digestFail_pending (s : State) (t key code port unit : Nat) (p : Packet) :
    (s.digestFail t key code port unit p).pending = s.pending := by simp [State.digestFail]

@[simp] theorem forkTake_pending (s : State) (t port label : Nat) (outs : List Nat) (p : Packet) : OptKeeps s (s.forkTake t port label outs p) := by
  simp only [State.forkTake]; (repeat' split) <;> simp

@[simp] theorem route_pending (s : State) (t port label : Nat) (outs : List Nat) (epd key unit : Nat) (p : Packet) :
    OptKeeps s (s.route t port label outs epd key unit p) := by unfold State.route; split <;> simp
@[simp] theorem portFreed_pending (s : State) (t : Nat) : (s.portFreed t).pending = s.pending := by simp [State.portFreed]
@[simp] theorem forward_pending (s : State) (t port : Nat) (p : Packet) : OptKeeps s (s.forward t port p) := by simp [State.forward]

@[simp] theorem execPacketForward_answers (t port : Nat) (s : State) : Answers s (decide (t < nTiles)) (execPacketForward t port s) := by
  refine answers_onTile (whenB_pending ?_)
  split
  · simp
  · split
    · simp
    next h => have := forward_pending _ _ _ _ _ h; split <;> simpa using this

@[simp] theorem execForkBranchSend_answers (t k port : Nat) (s : State) : Answers s (decide (t < nTiles)) (execForkBranchSend t k port s) := by
  refine answers_onTile (whenB_pending ?_)
  (repeat' split) <;> try simp
  next h => simpa using outPort_pending _ _ _ _ _ _ _ _ _ h

@[simp] theorem execReductionAdd_answers (t u : Nat) (s : State) : Answers s (decide (t < nTiles)) (execReductionAdd t u s) := by
  refine answers_onTile (whenB_pending ?_)
  unfold Kept; extract_lets x c la lb take
  have h1 : (take s).pending = s.pending := rfl
  clear_value take la lb
  dsimp only
  split
  · simp
  · split
    · (repeat' split) <;> try simp [h1]
      exact getD_pending (route_pending _ _ _ _ _ _ _ _ _) h1
    · rfl

@[simp] theorem direct_pending (s : State) (g : Nat) : (s.direct g).pending = s.pending := by unfold State.direct; split <;> rfl
@[simp] theorem stopCores_pending (s : State) (ts : List Nat) : (s.stopCores ts).pending = s.pending := by simp [State.stopCores]

@[simp] theorem stopConsumers_pending (s : State) (l : List (Nat × Nat × Nat)) : (s.stopConsumers l).pending = s.pending := by
  simp [State.stopConsumers]

@[simp] theorem stopAfter_pending (s : State) (t port label unit : Nat) : (s.stopAfter t port label unit).pending = s.pending := by
  simp [State.stopAfter]

@[simp] theorem rowWritten_pending (s : State) (t ep : Nat) : (s.rowWritten t ep).pending = s.pending := by simp [State.rowWritten]

@[simp] theorem tilePort_pending (s : State) (t : Nat) (ring : Bool) : (s.tilePort t ring).pending = s.pending := by
  unfold State.tilePort; extract_lets x
  split
  · rfl
  · extract_lets w s' key d s2
    have h1 : s'.pending = s.pending := rfl
    clear_value s' x
    split
    · rfl
    · split
      · simp [h1]
      · split
        · have h2 : s2.pending = s.pending := (digestFail_pending ..).trans h1
          split <;> simp [h2]
        · (repeat' split) <;> simp [h1]

/-! ### The copy engines -/

@[simp] theorem copyEvent_pending (s : State) (e code row ix tag action : Nat) : (s.copyEvent e code row ix tag action).pending = s.pending := by
  simp [State.copyEvent]

@[simp] theorem countEngine_pending (s : State) (e k n : Nat) : (s.countEngine e k n).pending = s.pending := rfl
@[simp] theorem countStack_pending (s : State) (k c n : Nat) : (s.countStack k c n).pending = s.pending := rfl
@[simp] theorem setRun_pending (s : State) (e : Nat) (wen : Bool) (r : Option CopyRun) : (s.setRun e wen r).pending = s.pending := rfl

@[simp] theorem lateCopy_pending (s : State) (e : Nat) (wen : Bool) (r : CopyRun) : (s.lateCopy e wen r).pending = s.pending := by
  simp [State.lateCopy]

@[simp] theorem copyDone_pending (s : State) (e : Nat) (wen : Bool) (r : CopyRun) : (s.copyDone e wen r).pending = s.pending := by
  simp [State.copyDone]

@[simp] theorem copyEnd_pending (s : State) (e : Nat) (wen : Bool) (r : CopyRun) (code row : Nat) :
    (s.copyEnd e wen r code row).pending = s.pending := by simp [State.copyEnd]

@[simp] theorem hbmRead_pending (s : State) (k a : Nat) (es : List Ecc) (nth : Nat) : (s.hbmRead k a es nth).1.pending = s.pending := by
  unfold State.hbmRead; dsimp only; split <;> simp

@[simp] theorem hbmBad_pending (s : State) (e : Nat) (wen : Bool) (r : CopyRun) (k a : Nat) : (s.hbmBad e wen r k a).pending = s.pending := by
  simp [State.hbmBad]

@[simp] theorem hbmReads_pending (s : State) (es : List Ecc) (x1 : Nat) (x2 : List (Nat × Nat)) : (s.hbmReads es x1 x2).1.pending = s.pending := by
  induction x2 generalizing s x1 with
  | nil => rfl
  | cons c l ih =>
    have h1 := hbmRead_pending s c.1 c.2 es x1
    unfold State.hbmReads
    split
    next h => exact pending_of_eq h h1
    next u b h => split <;> (rename_i h'; exact (pending_of_eq h' (ih u _)).trans (pending_of_eq h h1))

@[simp] theorem ringInject_pending (s : State) (t port : Nat) (p : Packet) : OptKeeps s (s.ringInject t port p) := by simp [State.ringInject]

theorem ringTake_pending {s u : State} {t port label : Nat} {p : Packet} (h : s.ringTake t port label = some (p, u)) : u.pending = s.pending := by
  unfold State.ringTake at h; dsimp only at h
  split at h
  · cases h
  · cases h; rfl

@[simp] theorem rowDone_pending (s : State) (e : Nat) (wen : Bool) (r : CopyRun) : (s.rowDone e wen r).pending = s.pending := by simp [State.rowDone]

@[simp] theorem stepRead_pending (s : State) (e : Nat) (wen : Bool) (r : CopyRun) (es : List Ecc) : (s.stepRead e wen r es).pending = s.pending := by
  unfold State.stepRead; dsimp only
  split
  · rfl
  · split
    next h => simp [State.hbmBad, pending_of_eq h (hbmRead_pending ..)]
    next h =>
      split
      · rfl
      next h' => simp [ringInject_pending _ _ _ _ _ h', pending_of_eq h (hbmRead_pending ..)]

@[simp] theorem stepWrite_pending (s : State) (e : Nat) (wen : Bool) (r : CopyRun) : (s.stepWrite e wen r).pending = s.pending := by
  unfold State.stepWrite; dsimp only
  split
  · rfl
  · split
    next h => simp [ringTake_pending h]
    next => split <;> simp

@[simp] theorem stepMove_pending (s : State) (e : Nat) (wen : Bool) (r : CopyRun) (es : List Ecc) : (s.stepMove e wen r es).pending = s.pending := by
  unfold State.stepMove; dsimp only
  split
  · rfl
  · split <;> (rename_i h; simp [pending_of_eq h (hbmRead_pending ..)])

@[simp] theorem stepRelay_pending (s : State) (e : Nat) (wen : Bool) (r : CopyRun) : (s.stepRelay e wen r).pending = s.pending := by
  simp [State.stepRelay]

@[simp] theorem relayReply_pending (s : State) (e : Nat) (a : RelayReply) : (s.relayReply e a).pending = s.pending := by
  unfold State.relayReply; (repeat' split) <;> simp

@[simp] theorem pTake_pending (s : State) (p : Pool) (m : Bytes) (layer : Nat) (x : PPacket) (es : List Ecc) (nth : Nat) (x1 : List (Nat × Nat × Nat × Nat)) :
    (s.pTake p m layer x es nth x1).1.pending = s.pending := by
  induction x1 generalizing s nth with
  | nil => rfl
  | cons c l ih =>
    have hr : ∀ (v : State) (n : Nat) (b : Bytes) (pad : Nat), (match State.pTake v p m layer x es n l with
      | (s, .ok c) => (s, PGot.ok (b ++ List.replicate pad 0 ++ c))
      | r => r).1.pending = v.pending := fun v n b pad => by
        split
        next h => exact pending_of_eq h (ih v n)
        next h => exact ih v n
    unfold State.pTake; dsimp only
    split
    · exact hr ..
    · split
      · rfl
      · split
        next h => exact pending_of_eq h (hbmReads_pending ..)
        next h => exact (hr ..).trans (pending_of_eq h (hbmReads_pending ..))

@[simp] theorem stepPread_pending (s : State) (e : Nat) (wen : Bool) (r : CopyRun) (es : List Ecc) : (s.stepPread e wen r es).pending = s.pending := by
  unfold State.stepPread; dsimp only
  split
  · simp
  · split
    · simp
    · split
      · rfl
      · split
        next h => simp [pending_of_eq h (pTake_pending ..)]
        next h => simp [pending_of_eq h (pTake_pending ..)]
        next h =>
          split
          · rfl
          next h' => split <;> simp [ringInject_pending _ _ _ _ _ h', pending_of_eq h (pTake_pending ..)]

@[simp] theorem putSegment_pending (s : State) (rows : List (Nat × Nat)) (old : List Bytes) (off : Nat) (seg : Bytes) :
    (s.putSegment rows old off seg).pending = s.pending := by simp [State.putSegment]

@[simp] theorem putToken_pending (s : State) (e : Nat) (wen : Bool) (r : CopyRun) (p : Pool) (m : Bytes) (slot len : Nat) (buf : Bytes) (es : List Ecc) (nth : Nat) (x1 : List (Nat × Bool)) :
    (s.putToken e wen r p m slot len buf es nth x1).1.pending = s.pending := by
  induction x1 generalizing s nth with
  | nil => rfl
  | cons c l ih =>
    unfold State.putToken; dsimp only
    split
    · simp
    · split
      next h => simp [pending_of_eq h (hbmReads_pending ..)]
      next h => simp [ih, pending_of_eq h (hbmReads_pending ..)]

@[simp] theorem stepPappend_pending (s : State) (e : Nat) (wen : Bool) (r : CopyRun) (es : List Ecc) :
    (s.stepPappend e wen r es).pending = s.pending := by
  unfold State.stepPappend; dsimp only
  split
  · simp
  · split
    · simp
    · split
      · rfl
      · split
        · split <;> simp
        next h =>
          split
          · simp [ringTake_pending h]
          · split
            next h' => exact (pending_of_eq h' (putToken_pending ..)).trans (ringTake_pending h)
            next h' => split <;> simp [pending_of_eq h' (putToken_pending ..), ringTake_pending h]

@[simp] theorem copyStep_pending (s : State) (e : Nat) (wen : Bool) (r : CopyRun) (es : List Ecc) : (s.copyStep e wen r es).pending = s.pending := by
  unfold State.copyStep; split <;> simp

@[simp] theorem planStep_pending (s : State) (e opc : Nat) (es : List Ecc) : (s.planStep e opc es).pending = s.pending := by
  unfold State.planStep; split <;> simp

@[simp] theorem execPlanQueueStart_answers (e : Nat) (s : State) : Answers s (decide (e < 96)) (execPlanQueueStart e s) := by
  refine answers_onEngine ?_; simp only [State.whenB]; (repeat' split) <;> simp

@[simp] theorem execWenwynDescriptor_answers (e d : Nat) (es : List Ecc) (s : State) : Answers s (decide (e < 96)) (execWenwynDescriptor e d es s) := by
  refine answers_onEngine ?_; dsimp only; (repeat' split) <;> simp

@[simp] theorem execRelayCommand_answers (t : Nat) (s : State) : Answers s (decide (t < nTiles)) (execRelayCommand t s) := by
  refine answers_onTile ?_; simp only [State.whenB]; (repeat' split) <;> simp

@[simp] theorem execHbmPatrol_answers (k : Nat) (es : List Ecc) (s : State) : Answers s (decide (k < 24)) (execHbmPatrol k es s) := by
  refine answers_onStack ?_; simp only [State.whenB]; (repeat' split) <;> simp

@[simp] theorem startRetrain_pending (s : State) (k ch handle : Nat) : (s.startRetrain k ch handle).pending = s.pending := rfl
@[simp] theorem execChannelRetrain_answers (k ch : Nat) (cause : RetrainCause) (s : State) :
    Answers s (decide (k < 24)) (execChannelRetrain k ch cause s) := by refine answers_onStack ?_; simp only [State.whenB]; (repeat' split) <;> simp
@[simp] theorem retireChannel_pending (s : State) (k ch : Nat) : (s.retireChannel k ch).pending = s.pending := by simp [State.retireChannel]

@[simp] theorem execChannelRetrainDone_answers (k : Nat) (ok : Bool) (s : State) : Answers s (decide (k < 24)) (execChannelRetrainDone k ok s) := by
  refine answers_onStack ?_; dsimp only; (repeat' split) <;> simp

/-! ### What Fordan writes and actions share -/

@[simp] theorem updSess_pending (s : State) (k : Nat) (f : Sess → Sess) : (s.updSess k f).pending = s.pending := by
  unfold State.updSess; split <;> rfl

@[simp] theorem respond_pending (s : State) (k x svc status ix sub : Nat) (data : Bytes) :
    (s.respond k x svc status ix sub data).pending = s.pending := rfl
@[simp] theorem failed_pending (s : State) (k x svc status ix sub detail : Nat) : (s.failed k x svc status ix sub detail).pending = s.pending := rfl

@[simp] theorem sessWrite_pending (s : State) (k x ix sub : Nat) (v : Bytes) (f : State → Bytes → WRes) (hf : (f s v).Keeps s) :
    (s.sessWrite k x ix sub v f).pending = s.pending := by
  unfold State.sessWrite; dsimp only
  (repeat' split) <;> simp_all

@[simp] theorem numWrite_pending (s : State) (k x ix sub v : Nat) (f : State → Nat → WRes) (hf : ∀ v, (f s v).Keeps s) :
    (s.numWrite k x ix sub v f).pending = s.pending := by simp [State.numWrite, hf]

@[simp] theorem sessAct_pending (s : State) (k x ix sub : Nat) (f : State → ARes) (hf : (f s).Keeps s) :
    (s.sessAct k x ix sub f).pending = s.pending := by
  unfold State.sessAct
  (repeat' split) <;> simp_all

/-! ### External time -/

@[simp] theorem enterTime_pending (s : State) (st : TimeSt) : (s.enterTime st).pending = s.pending := by simp [State.enterTime]
@[simp] theorem keepCounters_pending (s : State) (d : Int) : (s.keepCounters d).pending = s.pending := by simp [State.keepCounters]
@[simp] theorem loopback_pending (s : State) (n : Nat) : (s.loopback n).pending = s.pending := by cases s; rfl
@[simp] theorem setTime_pending (s : State) (t : Nat) : (s.setTime t).pending = s.pending := by simp [State.setTime]
@[simp] theorem reselect_pending (s : State) : s.reselect.pending = s.pending := by unfold State.reselect; dsimp only; split <;> simp

@[simp] theorem measure_pending (s : State) (ref : Int) (sub : Nat) (known : Bool) : (s.measure ref sub known).pending = s.pending := by
  unfold State.measure; dsimp only; split <;> simp

@[simp] theorem takeSync_pending (s : State) (h : PtpHead) (origin sub : Nat) : (s.takeSync h origin sub).pending = s.pending := by
  simp [State.takeSync]

@[simp] theorem execPtpMessage_answers (m : PtpMsg) (s : State) : Answers s true (execPtpMessage m s) := by
  simp only [execPtpMessage, answers_next, State.whenB]; (repeat' split) <;> simp

@[simp] theorem wrTimeStep_pending (s : State) (v : Nat) : (s.wrTimeStep v).Keeps s := by simp [State.wrTimeStep]
@[simp] theorem wrFreerun_pending (s : State) (v : Nat) : (s.wrFreerun v).Keeps s := by simp [State.wrFreerun]
@[simp] theorem wrPpsNext_pending (s : State) (v : Nat) : (s.wrPpsNext v).Keeps s := rfl

/-! ### The meter -/

@[simp] theorem meterEvent_pending (s : State) (code : Nat) (d0 : Nat) : (s.meterEvent code d0).pending = s.pending := by simp [State.meterEvent]
@[simp] theorem beatSums_pending (s : State) : s.beatSums.2.pending = s.pending := by unfold State.beatSums; dsimp only; (repeat' split) <;> simp
@[simp] theorem judge_pending (s : State) (x : Sums) : (s.judge x).pending = s.pending := by simp [State.judge]

@[simp] theorem rebase_pending (s : State) (qualifies work : Bool) (eIn : Nat) : (s.rebase qualifies work eIn).pending = s.pending := by
  simp [State.rebase]

@[simp] theorem watchRing_pending (s : State) : s.watchRing.pending = s.pending := by simp [State.watchRing]

@[simp] theorem putBeat_pending (s : State) (x : MRec) (e : Nat) (d : Division) : (s.putBeat x e d).pending = s.pending := by
  unfold State.putBeat; split <;> [simp; (split <;> simp)]

@[simp] theorem meterBeat_pending (s : State) (lost : Bool) : (s.meterBeat lost).pending = s.pending := by simp [State.meterBeat]
@[simp] theorem seal_pending (s : State) (x : MRec) (cover : Option Nat) : (s.seal x cover).2.pending = s.pending := rfl

@[simp] theorem sealAll_pending (s : State) (batch : Bool) (x1 : List MRec) : (s.sealAll batch x1).pending = s.pending := by
  induction x1 generalizing s with
  | nil => rfl
  | cons x r ih => simp [State.sealAll, ih]

@[simp] theorem noteSealed_pending (s : State) : s.noteSealed.pending = s.pending := rfl
@[simp] theorem execGapRecord_answers (s : State) : Answers s true (execGapRecord s) := by unfold execGapRecord; split <;> simp
@[simp] theorem actExport_pending (k : Nat) (s : State) : (s.actExport k).Keeps s := by unfold State.actExport; split <;> simp
@[simp] theorem freePlaces_pending (s : State) : s.freePlaces.pending = s.pending := by simp [State.freePlaces]
@[simp] theorem wrAckSeq_pending (k : Nat) (s : State) (v : Nat) : (s.wrAckSeq k v).Keeps s := by simp only [State.wrAckSeq]; (repeat' split) <;> simp

/-! ### Admission of requests -/

@[simp] theorem ringWrite_pending (s : State) (p n : Nat) (d : Datagram) : (s.ringWrite p n d).pending = s.pending := by
  unfold State.ringWrite; dsimp only; split <;> simp

@[simp] theorem receive_pending (s : State) (type : Nat) (d : Datagram) : (s.receive type d).pending = s.pending := by
  unfold State.receive; split <;> simp

@[simp] theorem refuseReq_pending (s : State) (r reason detail : Nat) : (s.refuseReq r reason detail).pending = s.pending := by
  unfold State.refuseReq; split <;> simp

@[simp] theorem forget_pending (s : State) (r : Nat) : (s.forget r).pending = s.pending := by unfold State.forget; split <;> simp

@[simp] theorem makeRoom_pending (s : State) (need : Nat) (x1 : Nat) : (s.makeRoom need x1).pending = s.pending := by
  induction x1 generalizing s with
  | zero => rfl
  | succ n ih =>
    unfold State.makeRoom; dsimp only
    (repeat' split) <;> simp [ih]

@[simp] theorem sendAdmit_pending (s : State) (f : From) (q : Req) : (s.sendAdmit f q).pending = s.pending := by simp [State.sendAdmit]

@[simp] theorem admitOn_pending (s : State) (r : Nat) (q : Req) (c : SlotCand) (frames : List Nat) : (s.admitOn r q c frames).pending = s.pending := by
  simp [State.admitOn]

@[simp] theorem accept_pending (s : State) (r : Nat) : (s.accept r).pending = s.pending := by
  unfold State.accept; dsimp only; (repeat' split) <;> simp

@[simp] theorem settle_pending (s : State) (r : Nat) : (s.settle r).pending = s.pending := by unfold State.settle; split <;> simp

@[simp] theorem takeSubmit_pending (s : State) (p : Nat) (x : RingRec) : (s.takeSubmit p x).pending = s.pending := by
  unfold State.takeSubmit; (repeat' split) <;> simp

@[simp] theorem takePrompt_pending (s : State) (p : Nat) (x : RingRec) : (s.takePrompt p x).pending = s.pending := by
  unfold State.takePrompt; split <;> simp

@[simp] theorem sendStatus_pending (s : State) (f : From) (r : Nat) (q : Req) : (s.sendStatus f r q).pending = s.pending := by simp [State.sendStatus]

@[simp] theorem takeCancel_pending (s : State) (p : Nat) (x : RingRec) : (s.takeCancel p x).pending = s.pending := by
  unfold State.takeCancel; dsimp only; (repeat' split) <;> simp

@[simp] theorem sendChain_pending (s : State) (f : From) (q : Req) (asked : Nat) (l : List (Nat × MRec)) :
    (s.sendChain f q asked l).pending = s.pending := by simp [State.sendChain]

@[simp] theorem queryChain_pending (s : State) (f : From) (q : Req) (frm n : Nat) : (s.queryChain f q frm n).pending = s.pending := by
  simp [State.queryChain]

@[simp] theorem takeQuery_pending (s : State) (p : Nat) (x : RingRec) : (s.takeQuery p x).pending = s.pending := by
  unfold State.takeQuery; dsimp only
  split
  · simp
  · split
    · simp
    · split
      · simp
      · refine foldl_pending (fun v i => ?_) _ _
        (repeat' split) <;> simp
      · split <;> simp
      · split <;> simp
      · split <;> simp

/-! ### The token service -/

@[simp] theorem execReceiveRingTake_answers (s : State) : Answers s true (execReceiveRingTake s) := by
  unfold execReceiveRingTake; (repeat' split) <;> simp

@[simp] theorem execPromptIncomplete_answers (r : Nat) (s : State) : Answers s true (execPromptIncomplete r s) := by
  unfold execPromptIncomplete; split <;> simp

@[simp] theorem tokenComes_pending (s : State) (r : Nat) (q : Req) (tok lp b : Nat) (hold : Bool) :
    (s.tokenComes r q tok lp b hold).pending = s.pending := by simp [State.tokenComes]

@[simp] theorem execTokenSend_answers (r tok lp : Nat) (s : State) : Answers s true (execTokenSend r tok lp s) := by
  unfold execTokenSend; split <;> simp

@[simp] theorem sendComplete_pending (s : State) (r : Nat) : (s.sendComplete r).pending = s.pending := by
  unfold State.sendComplete
  split
  · rfl
  · split
    · rfl
    · split <;> (rename_i h; simp [pending_of_eq h (sendMsg_pending ..)])

@[simp] theorem execHeldMessageSend_answers (r : Nat) (s : State) : Answers s true (execHeldMessageSend r s) := by
  refine (answers_next _ _).mpr ?_
  split
  · rfl
  · refine (sendComplete_pending ..).trans (foldl_pending (fun v i => ?_) _ _)
    (repeat' split) <;> simp

@[simp] theorem execRateBucketRefill_answers (p : Nat) (s : State) : Answers s (decide (p < 16)) (execRateBucketRefill p s) := by
  refine answers_onField ?_; simp only [State.whenB]; (repeat' split) <;> simp

@[simp] theorem execRetentionExpiry_answers (r : Nat) (s : State) : Answers s true (execRetentionExpiry r s) := by
  unfold execRetentionExpiry; split <;> simp

@[simp] theorem wrPartState_pending (p : Nat) (s : State) (v : Nat) : (s.wrPartState p v).Keeps s := by simp [State.wrPartState]
@[simp] theorem wrBinding_pending (p sub : Nat) (s : State) (v : Nat) : (s.wrBinding p sub v).Keeps s := by simp [State.wrBinding]
@[simp] theorem putKey_pending (s : State) (p slot : Nat) (key : Bytes) : (s.putKey p slot key).pending = s.pending := by simp [State.putKey]
@[simp] theorem execKeySlotWrite_answers (k x p slot : Nat) (key : Bytes) (s : State) :
    Answers s (decide (p < 16)) (execKeySlotWrite k x p slot key s) := by refine answers_onField ?_; dsimp only; (repeat' split) <;> simp
@[simp] theorem resume_pending (s : State) (r : Nat) : (s.resume r).pending = s.pending := by unfold State.resume; split <;> simp
@[simp] theorem suspendAll_pending (s : State) : s.suspendAll.pending = s.pending := by simp [State.suspendAll]
@[simp] theorem wrQuota_pending (p sub : Nat) (s : State) (v : Nat) : (s.wrQuota p sub v).Keeps s := by simp [State.wrQuota]

/-! ### Power delivery -/

@[simp] theorem powerEvent_pending (s : State) (code g : Nat) (d0 : Nat) (d1 : Nat) : (s.powerEvent code g d0 d1).pending = s.pending := by
  simp [State.powerEvent]

@[simp] theorem putChange_pending (s : State) (g p n : Nat) : (s.putChange g p n).pending = s.pending := by simp [State.putChange]
@[simp] theorem dropRises_pending (s : State) (g : Nat) : (s.dropRises g).pending = s.pending := by simp [State.dropRises]
@[simp] theorem retarget_pending (s : State) (g : Nat) : (s.retarget g).pending = s.pending := by simp [State.retarget]

@[simp] theorem cutOne_pending (s : State) (crit : Bool) (need : Nat) : (s.cutOne crit need).1.pending = s.pending := by
  unfold State.cutOne; dsimp only; (repeat' split) <;> simp

@[simp] theorem budgets_pending (s : State) : s.budgets.pending = s.pending := by
  obtain ⟨u, h⟩ : ∃ u, s.budgets = u := ⟨_, rfl⟩
  rw [h]
  obtain ⟨f, hf⟩ : ∃ f, f = State.budgets := ⟨_, rfl⟩
  rw [← hf] at h
  delta State.budgets at hf
  subst hf
  beta_reduce at h
  extract_lets s1 need at h
  have h1 : s1.pending = s.pending := each_pending (fun v g => by dsimp only [kept_iff]; split <;> simp) _ _
  clear_value s1 need
  split at h
  next s2 need2 e2 =>
  split at h
  next s3 _ e3 =>
  have h2 := pending_of_eq e2 (cutOne_pending ..)
  have h3 := pending_of_eq e3 (cutOne_pending ..)
  rw [← h]
  refine (each_pending (fun v g => by simp) _ _).trans ((each_pending (fun v g => ?_) _ _).trans (h3.trans (h2.trans h1)))
  dsimp only [kept_iff]; split <;> simp

@[simp] theorem sixteenth_pending (s : State) (w : Nat) : (s.sixteenth w).pending = s.pending := by simp [State.sixteenth]

@[simp] theorem execPcapAssert_answers (s : State) : Answers s true (execPcapAssert s) := by
  refine (answers_next _ _).mpr (whenB_pending ?_)
  exact (alert_pending ..).trans ((suspendAll_pending ..).trans ((budgets_pending ..).trans (powerEvent_pending ..)))

@[simp] theorem inputCut_pending (s : State) (us : Nat) : (s.inputCut us).pending = s.pending := by simp [State.inputCut]
@[simp] theorem wrModuleInMax_pending (s : State) (v : Nat) : (s.wrModuleInMax v).Keeps s := by simp [State.wrModuleInMax]
@[simp] theorem wrPcapLimit_pending (s : State) (v : Nat) : (s.wrPcapLimit v).Keeps s := by simp [State.wrPcapLimit]
@[simp] theorem wrMarginMode_pending (s : State) (v : Nat) : (s.wrMarginMode v).Keeps s := by simp [State.wrMarginMode]
@[simp] theorem wrOpCeil_pending (g : Nat) (s : State) (v : Nat) : (s.wrOpCeil g v).Keeps s := by simp [State.wrOpCeil]

@[simp] theorem execLeaveTimeout_answers (f n : Nat) (s : State) : Answers s (decide (f < 16)) (execLeaveTimeout f n s) := by
  refine answers_onField ?_
  split <;> simp [Kept]

@[simp] theorem riseRail_pending (s : State) (g : Nat) : (s.riseRail g).pending = s.pending := by simp [State.riseRail]
@[simp] theorem regionUs_pending (s : State) (g : Nat) : (s.regionUs g).pending = s.pending := by simp [State.regionUs]
@[simp] theorem judgeLogic_pending (s : State) (m : Sample) (g : Nat) : (s.judgeLogic m g).pending = s.pending := by simp [State.judgeLogic]
@[simp] theorem railPassed_pending (s : State) (g rail : Nat) : (s.railPassed g rail).pending = s.pending := by simp [State.railPassed]
@[simp] theorem stackPassed_pending (s : State) (k : Nat) : (s.stackPassed k).pending = s.pending := by simp [State.stackPassed]
@[simp] theorem ringPassed_pending (s : State) : s.ringPassed.pending = s.pending := by simp [State.ringPassed]
@[simp] theorem judgeOthers_pending (s : State) (m : Sample) : (s.judgeOthers m).pending = s.pending := by simp [State.judgeOthers]
@[simp] theorem fieldUs_pending (s : State) (m : Sample) (f : Nat) : (s.fieldUs m f).pending = s.pending := by simp [State.fieldUs]
@[simp] theorem tick_pending (s : State) : s.tick.pending = s.pending := by simp [State.tick]
@[simp] theorem judgeEnvelopes_pending (s : State) : s.judgeEnvelopes.pending = s.pending := by simp [State.judgeEnvelopes]
@[simp] theorem beginWake_pending (s : State) (g : Nat) (m : Bool) (turn : Bool) : (s.beginWake g m turn).pending = s.pending := rfl
@[simp] theorem wakeImage_pending (s : State) (turn : Bool) : (s.wakeImage turn).pending = s.pending := by simp [State.wakeImage]

@[simp] theorem unusable_pending (s : State) (g code d0 d1 : Nat) (deep : Bool) : (s.unusable g code d0 d1 deep).pending = s.pending := by
  simp [State.unusable]

theorem execStoreShortCircuit_answers (w : StoreShort) (s : State) : Answers s (Instr.storeShortCircuit w).wf (execStoreShortCircuit w s) := by
  cases w <;> exact answers_onUnit (by simp)

/-! ### Temperature and coolant -/

@[simp] theorem trip_pending (s : State) : s.trip.pending = s.pending := by simp [State.trip]
@[simp] theorem halt_pending (s : State) (hbm : Bool) : (s.halt hbm).pending = s.pending := by simp [State.halt]
@[simp] theorem dropThrottle_pending (s : State) (g : Nat) : (s.dropThrottle g).pending = s.pending := by simp [State.dropThrottle]

@[simp] theorem execHaltEnd_answers (s : State) : Answers s true (execHaltEnd s) := by
  simp only [execHaltEnd, answers_next, State.whenB]; (repeat' split) <;> simp

@[simp] theorem throttleOn_pending (s : State) (g : Nat) : (s.throttleOn g).pending = s.pending := by simp [State.throttleOn]

@[simp] theorem readRegion_pending (s : State) (calm : Bool) (g : Nat) (l : List Int) : (s.readRegion calm g l).pending = s.pending := by
  simp [State.readRegion]

@[simp] theorem readStack_pending (s : State) (k : Nat) (t : Int) : (s.readStack k t).pending = s.pending := by simp [State.readStack]
@[simp] theorem heatMark_pending (s : State) (g : Nat) : (s.heatMark g).pending = s.pending := by simp [State.heatMark]

@[simp] theorem execHeatRewake_answers (g : Nat) (s : State) : Answers s (decide (g < 32)) (execHeatRewake g s) := by
  refine answers_onRegion ?_; simp only [State.whenB]; (repeat' split) <;> simp

/-! ### The S-core -/

@[simp] theorem beatLossAt_pending (s : State) (t n : Nat) : (s.beatLossAt t n).pending = s.pending := by simp [State.beatLossAt]

@[simp] theorem execLeave_answers (t : Nat) (arg : LeaveArg) (s : State) : Answers s (isTile .s t) (execLeave t arg s) := by
  refine answers_onS ?_; simp only [State.whenB]; (repeat' split) <;> simp

@[simp] theorem takeRecv_pending (s : State) (t : Nat) : (s.takeRecv t).pending = s.pending := by
  unfold State.takeRecv; dsimp only; (repeat' split) <;> simp

@[simp] theorem execRecvBoundExpiry_answers (t : Nat) (s : State) : Answers s (isTile .s t) (execRecvBoundExpiry t s) := by
  refine answers_onS ?_; simp only [State.whenB]; (repeat' split) <;> simp

@[simp] theorem supFence_pending (s : State) (u : Nat) : (s.supFence u).pending = s.pending := by simp [State.supFence]

/-! ### Region supervisors -/

@[simp] theorem faultPath_pending (s : State) (g : Nat) (r : Report) (p : Producer) (conseq : Bool) :
    (s.faultPath g r p conseq).pending = s.pending := by unfold State.faultPath; split <;> simp

@[simp] theorem execFaultReport_answers (g : Nat) (prod : Producer) (s : State) :
    Answers s (decide (g < 32) && Machine.producerOk prod) (execFaultReport g prod s) := by
  refine answers_onUnit ?_
  split
  · rfl
  · exact whenB_pending (by simp)

@[simp] theorem clearCtrs_pending (s : State) (ts : List Nat) : (s.clearCtrs ts).pending = s.pending := by simp [State.clearCtrs]
@[simp] theorem gather_pending (s : State) (g : Nat) : (s.gather g).pending = s.pending := by simp [State.gather]

@[simp] theorem execCoreRestart_answers (t ix : Nat) (s : State) : Answers s (isTile .m t || isTile .v t) (execCoreRestart t ix s) := by
  refine answers_onUnit ?_; simp [State.whenB]

/-! ### Beats and clocks -/

@[simp] theorem closeReq_pending (s : State) (r : Nat) : (s.closeReq r).pending = s.pending := by unfold State.closeReq; split <;> simp
@[simp] theorem retimeBooked_pending (s : State) (r : Nat) : (s.retimeBooked r).pending = s.pending := by simp [State.retimeBooked]

@[simp] theorem moveBooking_pending (s : State) (n brood from_ top : Nat) : (s.moveBooking n brood from_ top).pending = s.pending := by
  unfold State.moveBooking; split <;> simp

@[simp] theorem slipBooking_pending (s : State) (n brood : Nat) : (s.slipBooking n brood).pending = s.pending := by
  unfold State.slipBooking; split <;> simp

@[simp] theorem findSlot_pending (s : State) (r : Nat) : (s.findSlot r).pending = s.pending := by
  unfold State.findSlot; dsimp only; (repeat' split) <;> simp

@[simp] theorem displace_pending (s : State) (n brood : Nat) : (s.displace n brood).pending = s.pending := by simp [State.displace]
@[simp] theorem endBeatReqs_pending (s : State) (n : Nat) (ok : Bool) : (s.endBeatReqs n ok).pending = s.pending := by simp [State.endBeatReqs]
@[simp] theorem kvSlot_pending (s : State) (n r : Nat) (q : Req) : (s.kvSlot n r q).pending = s.pending := rfl
@[simp] theorem kvTables_pending (s : State) : s.kvTables.pending = s.pending := by simp [State.kvTables]
@[simp] theorem beginBeatReqs_pending (s : State) : s.beginBeatReqs.pending = s.pending := by simp [State.beginBeatReqs]
@[simp] theorem loseBeat_pending (s : State) (g : Nat) : (s.loseBeat g).pending = s.pending := by simp [State.loseBeat]
@[simp] theorem countSilence_pending (s : State) (g : Nat) : (s.countSilence g).pending = s.pending := by simp [State.countSilence]
@[simp] theorem ageStalls_pending (s : State) : s.ageStalls.pending = s.pending := by simp [State.ageStalls]
@[simp] theorem rampRail_pending (s : State) (g : Nat) : (s.rampRail g).pending = s.pending := by simp [State.rampRail]
@[simp] theorem marginMark_pending (s : State) : s.marginMark.pending = s.pending := by unfold State.marginMark; split <;> simp
@[simp] theorem readHbm_pending (s : State) : s.readHbm.pending = s.pending := by simp [State.readHbm]
@[simp] theorem firstMark_pending (s : State) : s.firstMark.pending = s.pending := by unfold State.firstMark; split <;> rfl
@[simp] theorem advanceMark_pending (s : State) : s.advanceMark.pending = s.pending := rfl
@[simp] theorem ageDisputes_pending (s : State) : s.ageDisputes.pending = s.pending := rfl
@[simp] theorem settleBeat_pending (s : State) (ok : Bool) : (s.settleBeat ok).pending = s.pending := by unfold State.settleBeat; split <;> rfl
@[simp] theorem overrun_pending (s : State) (g late ns : Nat) (y : Region) : (s.overrun g late ns y).pending = s.pending := by simp [State.overrun]
@[simp] theorem bwaitReturns_pending (s : State) (g late : Nat) : (s.bwaitReturns g late).pending = s.pending := by simp [State.bwaitReturns]
@[simp] theorem originLost_pending (s : State) (g : Nat) : (s.originLost g).pending = s.pending := by simp [State.originLost]

@[simp] theorem execClockInputLost_answers (t : Nat) (live : List Nat) (s : State) : Answers s (decide (t < nTiles)) (execClockInputLost t live s) := by
  refine answers_onTile ?_; simp only [State.whenB]; (repeat' split) <;> simp

@[simp] theorem execFrequencyChange_answers (g ns : Nat) (s : State) : Answers s (decide (g < 32)) (execFrequencyChange g ns s) := by
  refine answers_onRegion ?_; simp only [State.whenB]; (repeat' split) <;> simp

@[simp] theorem execDroopStretch_answers (g k : Nat) (s : State) : Answers s (decide (g < 32)) (execDroopStretch g k s) := by
  refine answers_onRegion ?_; simp only [State.whenB]; (repeat' split) <;> simp

/-! ### Training -/

@[simp] theorem execMirrorCopy_answers (tid : Nat) (s : State) : Answers s true (execMirrorCopy tid s) := by
  refine (answers_next _ _).mpr (whenB_pending ?_)
  split
  next h => exact pending_of_eq h (rowsOut_pending ..)
  next h => simp [pending_of_eq h (rowsOut_pending ..)]

@[simp] theorem actCheckpoint_pending (k : Nat) (s : State) : (s.actCheckpoint k).Keeps s := by simp [State.actCheckpoint]

@[simp] theorem commitSlot_pending (s : State) (loss : Nat) : (s.commitSlot loss).pending = s.pending := by
  unfold State.commitSlot; dsimp only
  split
  · rfl
  · split <;> (rename_i h; simp [pending_of_eq h (stateRows_pending ..)])

@[simp] theorem takeBatches_pending (s : State) : s.takeBatches.pending = s.pending := rfl
@[simp] theorem startSnapshot_pending (s : State) : s.startSnapshot.pending = s.pending := by unfold State.startSnapshot; dsimp only; split <;> simp
@[simp] theorem stepDone_pending (s : State) (loss : Nat) : (s.stepDone loss).pending = s.pending := rfl
@[simp] theorem restoreOlder_pending (s : State) : s.restoreOlder.pending = s.pending := by simp [State.restoreOlder]

@[simp] theorem execChrysalisCommit_answers (loss : Nat) (s : State) : Answers s true (execChrysalisCommit loss s) := by
  simp only [execChrysalisCommit, answers_next, State.whenB]; (repeat' split) <;> simp

@[simp] theorem beginRestore_pending (s : State) (k i : Nat) : (s.beginRestore k i).Keeps s := by simp [State.beginRestore]

@[simp] theorem actRestore_pending (k : Nat) (s : State) : (s.actRestore k).Keeps s := by
  unfold State.actRestore; extract_lets src older i
  clear_value i
  split
  · simp
  · split
    · simp
    · split
      · split
        · simp
        · exact (beginRestore_pending ..).of_eq rfl
      · split
        · simp
        · split
          · exact (beginRestore_pending ..).of_eq (dropSlotWrite_pending s)
          · simp

@[simp] theorem execVerificationReplay_answers (loss : Nat) (s : State) : Answers s true (execVerificationReplay loss s) := by
  unfold execVerificationReplay; split <;> simp

@[simp] theorem actChryExport_pending (k : Nat) (s : State) : (s.actChryExport k).Keeps s := by
  unfold State.actChryExport; split <;> [simp; (split <;> simp)]

@[simp] theorem putBatch_pending (s : State) (st ix : Nat) (data : Bytes) : (s.putBatch st ix data).pending = s.pending := rfl

@[simp] theorem execBatch_answers (k x st ix : Nat) (data : Bytes) (s : State) : Answers s true (execBatch k x st ix data s) := by
  unfold execBatch; split <;> [simp; (split <;> simp)]

/-! ### Image loads and unloads -/

@[simp] theorem actLoad_pending (k : Nat) (s : State) : (s.actLoad k).Keeps s := by simp [State.actLoad]; split <;> simp
@[simp] theorem loadStep_pending (s : State) (n : Nat) : (s.loadStep n).pending = s.pending := by unfold State.loadStep; split <;> rfl

@[simp] theorem startImage_pending (s : State) (i : Image) : (s.startImage i).pending = s.pending := by
  obtain ⟨u, h⟩ : ∃ u, s.startImage i = u := ⟨_, rfl⟩
  rw [h]
  unfold State.startImage at h
  extract_lets len s1 beat s2 adm s3 wc at h
  have h1 : s1.pending = s.pending := writeClkLists_pending s
  have h2 : s2.pending = s1.pending := with_beat_pending s1 _
  have h3 : s3.pending = s2.pending := with_adm_pending s2 _
  clear_value s3 s2 s1
  rw [← h, updMeter_pending, h3, h2, h1]

@[simp] theorem applyDetour_pending (s : State) (d : Detour) : (s.applyDetour d).pending = s.pending := by simp [State.applyDetour]

@[simp] theorem repairImage_pending (s : State) (h : Nat) (r : List Patch × Option Detour) : (s.repairImage h r).pending = s.pending := by
  unfold State.repairImage; split <;> simp

@[simp] theorem startTraining_pending (s : State) (i : Image) : (s.startTraining i).pending = s.pending := by simp [State.startTraining]
@[simp] theorem buildImage_pending (s : State) (l : Load) : (s.buildImage l).pending = s.pending := by simp [State.buildImage]; split <;> simp
@[simp] theorem execLoadSectionsHeld_answers (s : State) : Answers s true (execLoadSectionsHeld s) := by unfold execLoadSectionsHeld; split <;> simp
@[simp] theorem execLoadComplete_answers (s : State) : Answers s true (execLoadComplete s) := by unfold execLoadComplete; split <;> simp
@[simp] theorem actUnload_pending (k : Nat) (s : State) : (s.actUnload k).Keeps s := by simp [State.actUnload]
@[simp] theorem repairStop_pending (s : State) : s.repairStop.pending = s.pending := by simp [State.repairStop]
@[simp] theorem restartDue_pending (s : State) : s.restartDue.pending = s.pending := rfl
@[simp] theorem fromMirrors_pending (s : State) (i : Image) (t : Nat) : (s.fromMirrors i t).pending = s.pending := by simp [State.fromMirrors]

@[simp] theorem execUnitFenceRepair_answers (t : Nat) (s : State) : Answers s (decide (t < nTiles)) (execUnitFenceRepair t s) := by
  refine answers_onTile ?_; dsimp only; (repeat' split) <;> simp

@[simp] theorem rebuildBeyond_pending (s : State) : s.rebuildBeyond.pending = s.pending := by simp [State.rebuildBeyond]
@[simp] theorem losePlacement_pending (s : State) : s.losePlacement.pending = s.pending := by simp [State.losePlacement]

@[simp] theorem execDetourInstall_answers (s : State) : Answers s true (execDetourInstall s) := by
  unfold execDetourInstall; dsimp only; (repeat' split) <;> simp

@[simp] theorem restartRegion_pending (s : State) (g : Nat) : (s.restartRegion g).pending = s.pending := by cases s; rfl
@[simp] theorem retimeReplay_pending (s : State) : s.retimeReplay.pending = s.pending := by simp [State.retimeReplay]
@[simp] theorem reopen_pending (s : State) : s.reopen.pending = s.pending := by unfold State.reopen; split <;> rfl

/-! ### Power and reset -/

@[simp] theorem inReset_pending (s : State) (b : Boot) (keep : Nat → Bool) : (s.inReset b keep).pending = s.pending := by simp [State.inReset]
@[simp] theorem warmReset_pending (s : State) (cause : Nat) : (s.warmReset cause).pending = s.pending := by simp [State.warmReset]
@[simp] theorem powerUp_pending (s : State) : s.powerUp.pending = s.pending := rfl
@[simp] theorem startPowerDown_pending (s : State) : s.startPowerDown.pending = s.pending := by simp [State.startPowerDown]
@[simp] theorem holdSupplyFault_pending (s : State) : s.holdSupplyFault.pending = s.pending := rfl
@[simp] theorem internalReset_pending (s : State) (cause : Nat) : (s.internalReset cause).pending = s.pending := by simp [State.internalReset]
@[simp] theorem wrResetReq_pending (s : State) (v : Nat) : (s.wrResetReq v).Keeps s := by simp [State.wrResetReq]

/-! ### Firmware, licences and attestation -/

@[simp] theorem updBank_pending (s : State) (i : Nat) (g : Bank → Bank) : (s.updBank i g).pending = s.pending := rfl
@[simp] theorem verifyBanks_pending (s : State) : s.verifyBanks.pending = s.pending := by simp [State.verifyBanks]

@[simp] theorem chooseBank_pending (x1 : Nat) (s : State) : (s.chooseBank x1).2.pending = s.pending := by
  induction x1 generalizing s with
  | zero => rfl
  | succ n ih =>
    unfold State.chooseBank; dsimp only
    (repeat' split) <;> simp [ih]

@[simp] theorem actFwUpdate_pending (k : Nat) (s : State) : (s.actFwUpdate k).Keeps s := by simp [State.actFwUpdate]

@[simp] theorem execFwUpdateComplete_answers (ok : Bool) (s : State) : Answers s true (execFwUpdateComplete ok s) := by
  unfold execFwUpdateComplete; split <;> simp

@[simp] theorem wrMinSvn_pending (s : State) (v : Nat) : (s.wrMinSvn v).Keeps s := by simp [State.wrMinSvn]
@[simp] theorem actLicInstall_pending (k : Nat) (s : State) : (s.actLicInstall k).Keeps s := by unfold State.actLicInstall; dsimp only; split <;> simp
@[simp] theorem wrLicRemove_pending (s : State) (v : Nat) : (s.wrLicRemove v).Keeps s := by simp only [State.wrLicRemove]; (repeat' split) <;> simp
@[simp] theorem actAtt_pending (k : Nat) (s : State) : (s.actAtt k).Keeps s := by unfold State.actAtt; split <;> simp

/-! ### Ports, management lanes and channels -/

@[simp] theorem portNarrow_pending (s : State) (l handle : Nat) : (s.portNarrow l handle).pending = s.pending := by simp [State.portNarrow]
@[simp] theorem bringPorts_pending (s : State) (at200 at100 : List Nat) : (s.bringPorts at200 at100).pending = s.pending := by simp [State.bringPorts]
@[simp] theorem commitPorts_pending (s : State) : s.commitPorts.pending = s.pending := rfl
@[simp] theorem actPortRetrain_pending (k l : Nat) (s : State) : (s.actPortRetrain k l).Keeps s := by simp [State.actPortRetrain]
@[simp] theorem execPortRetrainComplete_answers (l lanes rate : Nat) (s : State) :
    Answers s (decide (l < 16)) (execPortRetrainComplete l lanes rate s) := by refine answers_onField ?_; dsimp only; (repeat' split) <;> simp

@[simp] theorem execFrontPortDown_answers (l : Nat) (s : State) : Answers s (decide (l < 16)) (execFrontPortDown l s) := by
  refine answers_onField ?_; simp only [State.whenB]; (repeat' split) <;> simp

@[simp] theorem actHbmRetrain_pending (k : Nat) (s : State) : (s.actHbmRetrain k).Keeps s := by simp [State.actHbmRetrain]

/-! ### Bring-up -/

@[simp] theorem endStep_pending (s : State) (n code : Nat) : (s.endStep n code).pending = s.pending := by simp [State.endStep]
@[simp] theorem toStep_pending (s : State) (n : Nat) : (s.toStep n).pending = s.pending := rfl
@[simp] theorem haltBoot_pending (s : State) (n : Nat) : (s.haltBoot n).pending = s.pending := by simp [State.haltBoot]

@[simp] theorem stepCocoon_pending (s : State) (selfTest puf met att : Bool) : (s.stepCocoon selfTest puf met att).pending = s.pending := by
  simp [State.stepCocoon]

@[simp] theorem badRecord_pending (s : State) (ok : Bool) (kind : Nat) : (s.badRecord ok kind).pending = s.pending := by simp [State.badRecord]

@[simp] theorem checkLics_pending (s : State) : s.checkLics.pending = s.pending := by
  unfold State.checkLics
  refine foldl_pending (fun v l => ?_) _ _
  split <;> simp

@[simp] theorem stepRecords_pending (s : State) : s.stepRecords.pending = s.pending := by simp [State.stepRecords]

@[simp] theorem stepBoot_pending (s : State) : s.stepBoot.pending = s.pending := by
  unfold State.stepBoot
  have h1 : (s.verifyBanks.chooseBank 3).2.pending = s.pending := by simp
  split <;> (rename_i h; rw [h] at h1; simpa using h1)

@[simp] theorem trainStack_pending (s : State) (failed : List (Nat × Nat)) (k : Nat) : (s.trainStack failed k).pending = s.pending := by
  simp [State.trainStack]

@[simp] theorem stepHbm_pending (s : State) (failed : List (Nat × Nat)) : (s.stepHbm failed).pending = s.pending := by simp [State.stepHbm]
@[simp] theorem stepSupervisor_pending (s : State) (started : Bool) : (s.stepSupervisor started).pending = s.pending := by simp [State.stepSupervisor]
@[simp] theorem stepMgmt_pending (s : State) (a b : Bool) : (s.stepMgmt a b).pending = s.pending := by simp [State.stepMgmt]
@[simp] theorem stepFront_pending (s : State) (at200 at100 : List Nat) : (s.stepFront at200 at100).pending = s.pending := by simp [State.stepFront]
@[simp] theorem startRegion_pending (s : State) (g : Nat) : (s.startRegion g).pending = s.pending := by simp [State.startRegion]
@[simp] theorem stepFloor_pending (s : State) : s.stepFloor.pending = s.pending := by simp [State.stepFloor]
@[simp] theorem stepEnd_pending (s : State) (res : StepRes) : (s.stepEnd res).pending = s.pending := by unfold State.stepEnd; split <;> simp

/-! ### Disputes, moults and whole-device faults -/

@[simp] theorem execFaultStop_answers (s : State) : Answers s true (execFaultStop s) := by unfold execFaultStop; split <;> simp
@[simp] theorem freeCapture_pending (s : State) (t : Nat) : (s.freeCapture t).pending = s.pending := rfl

@[simp] theorem execCheckerRecompute_answers (g : Nat) (dig : W64) (s : State) : Answers s (decide (g < 32)) (execCheckerRecompute g dig s) := by
  refine answers_onRegion ?_; dsimp only; (repeat' split) <;> simp

@[simp] theorem execRecomputeDrop_answers (g : Nat) (s : State) : Answers s (decide (g < 32)) (execRecomputeDrop g s) := by
  refine answers_onRegion ?_; dsimp only; (repeat' split) <;> simp

@[simp] theorem ruleNext_pending (s : State) (f : Dispute → Ruling) : (s.ruleNext f).pending = s.pending := by unfold State.ruleNext; split <;> simp
@[simp] theorem execDisputeTimeout_answers (s : State) : Answers s true (execDisputeTimeout s) := by unfold execDisputeTimeout; split <;> simp
@[simp] theorem startMoult_pending (s : State) (g h : Nat) : (s.startMoult g h).pending = s.pending := by simp [State.startMoult]
@[simp] theorem putMoult_pending (s : State) (g h : Nat) : (s.putMoult g h).pending = s.pending := by simp [State.putMoult]
@[simp] theorem actMoult_pending (k : Nat) (s : State) : (s.actMoult k).Keeps s := by simp [State.actMoult]

@[simp] theorem wenwynMoult_pending (s : State) (g : Nat) : (s.wenwynMoult g).pending = s.pending := by
  unfold State.wenwynMoult; split <;> [simp; (split <;> simp)]

@[simp] theorem execMoultPhaseDone_answers (g : Nat) (res : PhaseRes) (s : State) : Answers s (decide (g < 32)) (execMoultPhaseDone g res s) := by
  refine answers_onRegion ?_; dsimp only; (repeat' split) <;> simp

@[simp] theorem unfenceTile_pending (s : State) (u : Nat) : (s.unfenceTile u).pending = s.pending := by
  unfold State.unfenceTile
  refine (each_pending (fun v k => ?_) _ _).trans (by simp)
  (repeat' split) <;> simp

@[simp] theorem execMoultComplete_answers (g : Nat) (s : State) : Answers s (decide (g < 32)) (execMoultComplete g s) := by
  refine answers_onRegion ?_; dsimp only; (repeat' split) <;> simp

/-! ### The Fordan server -/

@[simp] theorem handshakeFails_pending (s : State) : s.handshakeFails.pending = s.pending := rfl

@[simp] theorem execFordanHandshake_answers (h : Handshake) (s : State) : Answers s true (execFordanHandshake h s) := by
  simp only [execFordanHandshake, answers_next, State.whenB]; (repeat' split) <;> simp

@[simp] theorem endSess_pending (s : State) (k : Nat) : (s.endSess k).pending = s.pending := by unfold State.endSess; split <;> simp
@[simp] theorem anchorGone_pending (s : State) (key : Nat) : (s.anchorGone key).pending = s.pending := by simp [State.anchorGone]

@[simp] theorem execFordanRead_answers (k x ix sub : Nat) (s : State) : Answers s true (execFordanRead k x ix sub s) := by
  unfold execFordanRead; split <;> [simp; (split <;> simp)]

@[simp] theorem inRange_pending (s : State) (ix sub : Nat) (ok : Bool) (v : Nat) : (s.inRange ix sub ok v).Keeps s := by simp [State.inRange]
@[simp] theorem wrCfgWidth_pending (l : Nat) (s : State) (v : Nat) : (s.wrCfgWidth l v).Keeps s := by simp [State.wrCfgWidth]
@[simp] theorem wrChain_pending (k : Nat) (s : State) (v : Nat) : (s.wrChain k v).Keeps s := by simp only [State.wrChain]; (repeat' split) <;> simp
@[simp] theorem clearAlerts_pending (s : State) (v : Nat) : (s.clearAlerts v).pending = s.pending := rfl
@[simp] theorem wrAlertMask_pending (s : State) (v : Nat) : (s.wrAlertMask v).Keeps s := rfl
@[simp] theorem wrHandleQuery_pending (s : State) (k v : Nat) : (s.wrHandleQuery k v).Keeps s := by simp [State.wrHandleQuery]

@[simp] theorem wr1000_pending (k ix sub : Nat) (s : State) (v : Nat) : (s.wr1000 k ix sub v).Keeps s := by
  unfold State.wr1000; split <;> [simp; (split <;> simp)]

@[simp] theorem wr2000_pending (ix sub : Nat) (s : State) (v : Nat) : (s.wr2000 ix sub v).Keeps s := by unfold State.wr2000; (repeat' split) <;> simp
@[simp] theorem wr4000_pending (ix sub : Nat) (s : State) (v : Nat) : (s.wr4000 ix sub v).Keeps s := by simp [State.wr4000]; split <;> simp
@[simp] theorem wr5000_pending (k ix sub : Nat) (s : State) (v : Nat) : (s.wr5000 k ix sub v).Keeps s := by simp [State.wr5000]; split <;> simp
@[simp] theorem wrNum_pending (k ix sub : Nat) (s : State) (v : Nat) : (s.wrNum k ix sub v).Keeps s := by simp [State.wrNum]
@[simp] theorem wrStr_pending (ix sub : Nat) (s : State) (v : Bytes) : (s.wrStr ix sub v).Keeps s := by simp [State.wrStr]
@[simp] theorem wrAny_pending (k ix sub : Nat) (s : State) (v : Bytes) : (s.wrAny k ix sub v).Keeps s := by unfold State.wrAny; split <;> simp
@[simp] theorem actAny_pending (k ix sub : Nat) (s : State) : (s.actAny k ix sub).Keeps s := by simp [State.actAny]
@[simp] theorem dropXfer_pending (s : State) (t : Xfer) : (s.dropXfer t).pending = s.pending := rfl
@[simp] theorem putXfer_pending (s : State) (t : Xfer) : (s.putXfer t).pending = s.pending := rfl
@[simp] theorem wrAnchor_pending (ix sub : Nat) (s : State) (v : Bytes) : (s.wrAnchor ix sub v).Keeps s := by simp [State.wrAnchor]

@[simp] theorem takeImgData_pending (s : State) (base : Nat) (v : Bytes) : (s.takeImgData base v).Keeps s := by
  simp only [State.takeImgData]; (repeat' split) <;> simp

@[simp] theorem wrBlob_pending (k ix sub base : Nat) (s : State) (v : Bytes) : (s.wrBlob k ix sub base v).Keeps s := by simp [State.wrBlob]

@[simp] theorem xferDone_pending (s : State) (t : Xfer) (svc : Nat) : (s.xferDone t svc).pending = s.pending := by
  unfold State.xferDone; dsimp only
  have h1 := wrBlob_pending t.sess t.ix t.sub t.base (s.dropXfer t) (memRead t.bytes 0 t.len)
  split <;> simp_all

@[simp] theorem sendSegs_pending (s : State) (t : Xfer) (frm : Nat) : (s.sendSegs t frm).pending = s.pending := rfl
@[simp] theorem readDone_pending (s : State) (t : Xfer) : (s.readDone t).pending = s.pending := by unfold State.readDone; dsimp only; split <;> simp

theorem imgRefused_pending {s u : State} {m : SegStart} {d : Nat} (h : s.imgRefused m = some (d, u)) : u.pending = s.pending := by
  unfold State.imgRefused at h
  split at h
  · cases h; rfl
  · (repeat' split at h) <;> cases h <;> simp

@[simp] theorem startWrite_pending (s : State) (k x : Nat) (q : Sess) (m : SegStart) : (s.startWrite k x q m).pending = s.pending := by
  unfold State.startWrite; dsimp only
  split
  · simp
  · split
    · simp
    · split
      · simp
      · split
        next h =>
          split at h
          · simp [imgRefused_pending h]
          · cases h
        next => split <;> simp

@[simp] theorem startRead_pending (s : State) (k x : Nat) (q : Sess) (m : SegStart) : (s.startRead k x q m).pending = s.pending := by
  unfold State.startRead; split <;> simp

@[simp] theorem execSegStart_answers (k x : Nat) (m : SegStart) (s : State) : Answers s true (execSegStart k x m s) := by
  unfold execSegStart; split <;> simp

@[simp] theorem execSegData_answers (k x off : Nat) (data : Bytes) (s : State) : Answers s true (execSegData k x off data s) := by
  unfold execSegData; split <;> [simp; (split <;> simp)]

@[simp] theorem execSegAck_answers (k x nxt : Nat) (s : State) : Answers s true (execSegAck k x nxt s) := by unfold execSegAck; split <;> simp

@[simp] theorem execSegmentResendTimeout_answers (k x : Nat) (s : State) : Answers s true (execSegmentResendTimeout k x s) := by
  unfold execSegmentResendTimeout; split <;> simp

@[simp] theorem execTransferAbandon_answers (k x : Nat) (s : State) : Answers s true (execTransferAbandon k x s) := by
  unfold execTransferAbandon; split <;> simp

@[simp] theorem execSubscribe_answers (k x ix sub minMs : Nat) (s : State) : Answers s true (execSubscribe k x ix sub minMs s) := by
  unfold execSubscribe; split <;> [simp; (split <;> simp)]

@[simp] theorem execUnsubscribe_answers (k x ix sub : Nat) (s : State) : Answers s true (execUnsubscribe k x ix sub s) := by
  unfold execUnsubscribe; split <;> [simp; (split <;> simp)]

@[simp] theorem execNotify_answers (k ix sub : Nat) (s : State) : Answers s true (execNotify k ix sub s) := by
  unfold execNotify; split <;> [simp; (split <;> simp)]

/-! ### The CSR window -/

@[simp] theorem wrWrmSel_pending (s : State) (h v : Nat) : (s.wrWrmSel h v).pending = s.pending := rfl

@[simp] theorem regWrite_pending (s : State) (h : Nat) (r : Reg) (v : Nat) : (s.regWrite h r v).pending = s.pending := by
  unfold State.regWrite; split <;> simp

@[simp] theorem accessFault_pending (s : State) (h : Hart) (secure : Bool) : (s.accessFault h secure).pending = s.pending := rfl
@[simp] theorem access_pending (s : State) (h : Hart) (addr o : Nat) (f : State → State) (hf : ∀ v, Kept v (f v)) :
    (s.access h addr o f).pending = s.pending := by simp only [kept_iff] at hf; unfold State.access; (repeat' split) <;> simp [hf]
@[simp] theorem csrAccess_pending (s : State) (h : Hart) (addr : Nat) (f : Reg → State → State) (hf : ∀ r v, Kept v (f r v)) :
    (s.csrAccess h addr f).pending = s.pending := by simp only [kept_iff] at hf; simp [State.csrAccess, hf]
@[simp] theorem aliasAccess_pending (s : State) (h : Hart) (addr w : Nat) (f : Reg → State → State) (hf : ∀ r v, Kept v (f r v)) :
    (s.aliasAccess h addr w f).pending = s.pending := by simp only [kept_iff] at hf; simp [State.aliasAccess, hf]

@[simp] theorem aliasWrite_pending (s : State) (h : Nat) (r : Reg) (rw w1c : Nat) : (s.aliasWrite h r rw w1c).pending = s.pending := by
  simp [State.aliasWrite]

@[simp] theorem execPwrAlertSrcClear_answers (who : AlertClear) (v : W32) (s : State) : Answers s true (execPwrAlertSrcClear who v s) := by
  unfold execPwrAlertSrcClear; split <;> simp

@[simp] theorem execWrmCopyDone_answers (h : Nat) (s : State) : Answers s true (execWrmCopyDone h s) := by
  simp only [execWrmCopyDone, answers_next, State.whenB]; (repeat' split) <;> simp

/-! ### The mailboxes -/

@[simp] theorem service_pending (s : State) (svc tag : Nat) (f : State → Bytes → Nat × Bytes) : (s.service svc tag f).pending = s.pending := by
  unfold State.service; split <;> simp

@[simp] theorem byAgent_pending (s : State) (who : Agent) (c : Nat) (f : State → State) (hf : ∀ v, Kept v (f v)) :
    (s.byAgent who c f).pending = s.pending := by simp only [kept_iff] at hf; unfold State.byAgent; split <;> simp [hf]

@[simp] theorem execMbxCtlPost_answers (who : Agent) (c : Nat) (v : W32) (data : Bytes) (s : State) :
    Answers s (decide (c < 12)) (execMbxCtlPost who c v data s) := by
  refine answers_onUnit (byAgent_pending _ _ _ _ fun v => ?_)
  (repeat' split) <;> simp

@[simp] theorem cocoTakes_pending (s : State) (c : Nat) : (s.cocoTakes c).pending = s.pending := by unfold State.cocoTakes; split <;> rfl

@[simp] theorem execMbxTake_answers (who : Agent) (c : Nat) (s : State) : Answers s (decide (c < 12)) (execMbxTake who c s) := by
  refine answers_onUnit (byAgent_pending _ _ _ _ fun v => ?_)
  dsimp only; (repeat' split) <;> simp

/-! ### The deep store -/

@[simp] theorem stageUe_pending (s : State) (t : Nat) : (s.stageUe t).pending = s.pending := by unfold State.stageUe; split <;> simp

@[simp] theorem ringFillFrom_pending (s : State) (t d : Nat) (es : List Ecc) : (s.ringFillFrom t d es).pending = s.pending := by
  unfold State.ringFillFrom; split <;> (rename_i h; simp [pending_of_eq h (readChk_pending ..)])

@[simp] theorem accldRow_pending (s : State) (t d a : Nat) (es : List Ecc) : (s.accldRow t d a es).pending = s.pending := by
  unfold State.accldRow
  have h1 : (s.readChk t true d 1 es 0).1.pending = s.pending := by simp
  split
  · rfl
  next h => rw [h] at h1; split <;> simpa using h1

@[simp] theorem tileWrite_pending (s : State) (t d ep : Nat) : (s.tileWrite t d ep).pending = s.pending := by unfold State.tileWrite; split <;> simp

@[simp] theorem vpServe_pending (s : State) (t : Nat) (q : VpReq) (es : List Ecc) : (s.vpServe t q es).pending = s.pending := by
  unfold State.vpServe; extract_lets dir
  have hd : ∀ v w, (dir v w).pending = v.pending := fun _ _ => rfl
  clear_value dir
  cases q with
  | ringFill d => simp [hd]
  | load d r => dsimp only; split <;> (rename_i h; simp [hd, pending_of_eq h (readChk_pending ..)])
  | save r d => dsimp only; split <;> (rename_i h; simp [hd, pending_of_eq h (readChk_pending ..)])
  | result d row => simp [hd]
  | accld d a => simp [hd]
  | tile d ep => simp
  | relayWrite d row ep => simp [hd]
  | relayRead d rr tag engine =>
    dsimp only; split
    next h =>
      have h1 := pending_of_eq h (readChk_pending ..)
      split <;> simp [hd, h1]
    next h => simp [hd, pending_of_eq h (readChk_pending ..)]

@[simp] theorem execVerticalPortGrant_answers (t : Nat) (reqs : List VpReq) (es : List Ecc) (s : State) :
    Answers s (decide (t < nTiles)) (execVerticalPortGrant t reqs es s) := by
  refine answers_onTile ?_; simp only [State.whenB]; (repeat' split) <;> simp

@[simp] theorem execStreamRingFill_answers (t : Nat) (src : RingSrc) (es : List Ecc) (s : State) :
    Answers s (isTile .m t) (execStreamRingFill t src es s) := by refine answers_onM ?_; simp only [State.whenB]; (repeat' split) <;> simp

@[simp] theorem execTransposedWrite_answers (t : Nat) (s : State) : Answers s (decide (t < nTiles)) (execTransposedWrite t s) := by
  refine answers_onTile ?_; simp only [State.whenB]; (repeat' split) <;> simp

@[simp] theorem execScrubRead_answers (t : Nat) (es : List Ecc) (s : State) : Answers s (decide (t < nTiles)) (execScrubRead t es s) := by
  refine answers_onTile ?_; simp only [State.whenB]; (repeat' split) <;> simp

/-! ### Messages reaching their endpoints -/

@[simp] theorem replyTo_pending (s : State) (m : Msg) (a : RelayReply) : (s.replyTo m a).pending = s.pending := by
  unfold State.replyTo; (repeat' split) <;> simp

@[simp] theorem msgMoved_pending (s : State) (m : Msg) : (s.msgMoved m).pending = s.pending := by simp [State.msgMoved]
@[simp] theorem answered_pending (s : State) (k : Nat) (m : Msg) (ok : Bool) : (s.answered k m ok).pending = s.pending := rfl

@[simp] theorem msgArrives_pending (s : State) (k : Nat) (m : Msg) : (s.msgArrives k m).pending = s.pending := by
  unfold State.msgArrives; dsimp only
  split
  · rfl
  · simp
  · split <;> simp
  · split
    next h =>
      have h1 := takeMsg_pending _ _ _ h
      (repeat' split) <;> simpa using h1
    next => split <;> simp

@[simp] theorem replyArrives_pending (s : State) (k : Nat) (m : Msg) (ok : Bool) : (s.replyArrives k m ok).pending = s.pending := by
  unfold State.replyArrives; dsimp only; split <;> simp

@[simp] theorem execMessageDeliver_answers (k : Nat) (s : State) : Answers s true (execMessageDeliver k s) := by
  unfold execMessageDeliver; split <;> [simp; (split <;> simp)]

@[simp] theorem execRetryWaitExpiry_answers (t rr : Nat) (s : State) : Answers s (decide (t < nTiles)) (execRetryWaitExpiry t rr s) := by
  refine answers_onTile ?_; simp only [State.whenB]; (repeat' split) <;> simp

/-! ### The row buffer -/

@[simp] theorem onRb_answers (t slot : Nat) (s : State) (f : State → State) (hf : Kept s (f s)) :
    Answers s ((isTile .v t || isTile .s t) && decide (slot < 4)) (onRb t slot s f) := by
  have hk : ((isTile .v t || isTile .s t) && decide (slot < 4)) = (decide (t < nTiles) && tileKind t != .m && decide (slot < 4)) := by
    unfold isTile; cases tileKind t <;> cases decide (t < nTiles) <;> rfl
  rw [hk]
  exact answers_onUnit (whenB_pending hf)

@[simp] theorem rbMisuse_pending (s : State) (t : Nat) : (s.rbMisuse t).pending = s.pending := by simp [State.rbMisuse]

@[simp] theorem execRbOpen_answers (t slot row : Nat) (es : List Ecc) (s : State) :
    Answers s ((isTile .v t || isTile .s t) && decide (slot < 4)) (execRbOpen t slot row es s) := by
  refine onRb_answers _ _ _ _ ?_
  dsimp only; split
  · simp
  · split <;> (rename_i h; simp [pending_of_eq h (readChk_pending ..)])

@[simp] theorem execRbLoad_answers (t size slot off : Nat) (s : State) :
    Answers s ((isTile .v t || isTile .s t) && decide (slot < 4)) (execRbLoad t size slot off s) := by
  refine onRb_answers _ _ _ _ ?_
  (repeat' split) <;> simp

@[simp] theorem execRbStore_answers (t size slot off : Nat) (v : W64) (s : State) :
    Answers s ((isTile .v t || isTile .s t) && decide (slot < 4)) (execRbStore t size slot off v s) := by
  refine onRb_answers _ _ _ _ ?_
  (repeat' split) <;> simp

@[simp] theorem rbWriteBack_pending (s : State) (t slot : Nat) : (s.rbWriteBack t slot).pending = s.pending := by
  unfold State.rbWriteBack; split <;> simp

@[simp] theorem rbEmpty_pending (s : State) (t slot : Nat) : (s.rbEmpty t slot).pending = s.pending := rfl

/-! ### I2C and JTAG -/

@[simp] theorem jtagDo_pending (s : State) (f : Jtag → Jtag) : (s.jtagDo f).pending = s.pending := by simp [State.jtagDo]

/-! ### The vector core -/

@[simp] theorem vFault_pending (s : State) (t code tag : Nat) : (s.vFault t code tag).pending = s.pending := by simp [State.vFault]
@[simp] theorem vDone_pending (s : State) (t : Nat) : (s.vDone t).pending = s.pending := rfl
@[simp] theorem setVreg_pending (s : State) (t v : Nat) (b : Bytes) : (s.setVreg t v b).pending = s.pending := rfl

@[simp] theorem readLocs_pending (s : State) (t : Nat) (es : List Ecc) (x1 : Nat) (x2 : List VLoc) : (s.readLocs t es x1 x2).1.pending = s.pending := by
  induction x2 generalizing s x1 with
  | nil => rfl
  | cons l r ih =>
    have h1 := fun a => readRows_pending s t false 2 es x1 ((upTo 4).map (a + ·))
    cases l with
    | reg v =>
      simp only [State.readLocs]
      split <;> (rename_i h; exact pending_of_eq h (ih ..))
    | rows a =>
      simp only [State.readLocs]
      split
      next h => exact h1 a
      next h => split <;> (rename_i h; exact (pending_of_eq h (ih ..)).trans (h1 a))

@[simp] theorem writeLoc_pending (s : State) (t : Nat) (l : VLoc) (b : Bytes) : (s.writeLoc t l b).pending = s.pending := by
  unfold State.writeLoc; split <;> rfl

@[simp] theorem setLane_pending (s : State) (t : Nat) (d : VLane) (v : Nat) : (s.setLane t d v).pending = s.pending := rfl

@[simp] theorem vCmd_pending (s : State) (t tag : Nat) (bad : Option Nat) (locs : List VLoc) (es : List Ecc) (f : List Bytes → State → State) (hf : ∀ l v, Kept v (f l v)) :
    (s.vCmd t tag bad locs es f).pending = s.pending := by
  unfold State.vCmd
  split
  · rfl
  · split
    · simp
    · split
      next h => simp [pending_of_eq h (readLocs_pending ..)]
      next h => exact (hf ..).trans (pending_of_eq h (readLocs_pending ..))

@[simp] theorem stream_pending (s : State) (t i : Nat) (es : List Ecc) (nth : Nat) : (s.stream t i es nth).1.pending = s.pending := by
  unfold State.stream; split <;> (rename_i h; simp [pending_of_eq h (readChk_pending ..)])

@[simp] theorem setCounter_pending (s : State) (t i c : Nat) : (s.setCounter t i c).pending = s.pending := rfl

@[simp] theorem drawing_pending (s : State) (t tag i n : Nat) (es : List Ecc) (nth : Nat) (f : Bytes → Nat → State → State) (hf : ∀ k c v, Kept v (f k c v)) :
    (s.drawing t tag i n es nth f).pending = s.pending := by
  unfold State.drawing
  split
  next h => simp [pending_of_eq h (stream_pending ..)]
  next h =>
    have h1 := pending_of_eq h (stream_pending ..)
    have h2 := fun k c => (hf k c _).trans h1
    split <;> simp [h1, h2]

@[simp] theorem vStore_pending (s : State) (t : Nat) (dst : VDst) (rows : List Bytes) : (s.vStore t dst rows).pending = s.pending := by
  unfold State.vStore; split <;> simp

@[simp] theorem execConversionAndStore_answers (t tag : Nat) (src : List VLoc) (fmt : VFmt) (rm : VRound) (nsat : Bool) (dst : VDst) (scales : Nat) (es : List Ecc) (s : State) :
    Answers s (isTile .v t) (execConversionAndStore t tag src fmt rm nsat dst scales es s) := by
  refine answers_onV ?_; simp only [State.whenB]; (repeat' split) <;> simp

@[simp] theorem writeOuts_pending (s : State) (t : Nat) (x1 : List VLoc) (x2 : List Bytes) (x3 : List (List Nat)) :
    (s.writeOuts t x1 x2 x3).pending = s.pending := by
  induction x1 generalizing s x2 x3 with
  | nil => rfl
  | cons d ds ih =>
    unfold State.writeOuts
    split
    next => simp_all
    next => rfl

@[simp] theorem execSoftmax_answers (t tag : Nat) (form : Part) (src : List VLoc) (n : Nat) (ms ms2 : VLane) (dst : List VLoc) (es : List Ecc) (s : State) :
    Answers s (isTile .v t) (execSoftmax t tag form src n ms ms2 dst es s) := by refine answers_onV ?_; dsimp only; (repeat' split) <;> simp

@[simp] theorem execNormalisation_answers (t tag : Nat) (layer : Bool) (form : NormPart) (src : List VLoc) (n : Nat) (par : NormPar) (sums sums2 : VLane) (dst : List VLoc) (es : List Ecc) (s : State) :
    Answers s (isTile .v t) (execNormalisation t tag layer form src n par sums sums2 dst es s) := by
  refine answers_onV ?_; dsimp only; (repeat' split) <;> simp

@[simp] theorem execRouting_answers (t tag : Nat) (par : RoutePar) (seqs : List RouteSeq) (es : List Ecc) (s : State) :
    Answers s (isTile .v t) (execRouting t tag par seqs es s) := by
  refine answers_onV (whenB_pending (vCmd_pending _ _ _ _ _ _ _ fun l v => ?_))
  split
  next h => simp [pending_of_eq h (readRows_pending ..)]
  next s1 _ h =>
    extract_lets picks s2 s3
    have h2 : s2.pending = s1.pending := by
      refine each_pending (fun w i => ?_) _ _
      split
      · rfl
      · exact each_pending (fun x j => by simp) _ _
    have h3 : s3.pending = s2.pending := each_pending (fun w e => injectAll_pending ..) _ _
    exact (vDone_pending ..).trans (h3.trans (h2.trans (pending_of_eq h (readRows_pending ..))))

@[simp] theorem readSlices_pending (s : State) (es : List Ecc) (x1 : Nat) (x2 : List LogitSlice) : (s.readSlices es x1 x2).1.pending = s.pending := by
  induction x2 generalizing s x1 with
  | nil => rfl
  | cons c r ih =>
    have h1 := readLocs_pending s c.tile es x1 c.locs
    unfold State.readSlices
    split
    next h => exact pending_of_eq h h1
    next u b h => split <;> (rename_i h'; exact (pending_of_eq h' (ih u _)).trans (pending_of_eq h h1))

@[simp] theorem execSampling_answers (t tag : Nat) (slices : List LogitSlice) (stream : Nat) (par : SamplePar) (d : VLane) (es : List Ecc) (s : State) :
    Answers s (isTile .v t) (execSampling t tag slices stream par d es s) := by
  refine answers_onV (vCmd_pending _ _ _ _ _ _ _ fun l v => ?_)
  split
  next h => simp [pending_of_eq h (readSlices_pending ..)]
  next h =>
    refine (drawing_pending _ _ _ _ _ _ _ _ fun k c v => ?_).trans (pending_of_eq h (readSlices_pending ..))
    dsimp only; split <;> simp

@[simp] theorem execOptimiser_answers (t tag : Nat) (rule : OptRule) (par : OptPar) (es : List Ecc) (s : State) :
    Answers s (isTile .v t) (execOptimiser t tag rule par es s) := by
  refine answers_onV (vCmd_pending _ _ _ _ _ _ _ fun l v => ?_)
  dsimp only
  split
  · simp
  · refine drawing_pending _ _ _ _ _ _ _ _ fun k c v => ?_
    simp

/-! ### Every command -/

theorem exec_answers (i : Instr) (s : State) : Answers s i.wf (exec i s) := by
  cases i
  case storeShortCircuit w => exact execStoreShortCircuit_answers w s
  all_goals
    unfold exec Instr.wf
    simp [execNop, execDrain, execAccld, execWait, execJump, execTilePortDeliver, execFabricStall, execDescriptorStart, execCopyRead, execCopyWrite,
      execCopyMove, execCopyPread, execCopyPappend, execCopyRelay, execTimePpsEdge, execPpsTimeout, execAnnounceTimeout, execRef25Qualify,
      execHoldoverLimit, execTimeStepTo, execFreerunSet, execPpsNextSecond, execSigningRoundClose, execEpochRecord, execMeterExport, execAckSeq,
      execSubmit, execPrompt, execCancel, execQuery, execCompleteSend, execSequenceRebuild, execPartitionStateWrite, execBindingWrite,
      execQuotaWrite, execFrequencyChangeRequest, execSixteenthBoundary, execPcapRelease, execModuleInMaxWrite, execPcapLimitWrite,
      execMarginModeWrite, execLeaveGrantEnd, execLeaveQueueServe, execMonitorSample, execRegionWake, execWakeStage, execWakeComplete,
      execPhaseFailure, execLogicShortCircuit, execCoolantLoss, execSensorRead, execHeatSwitchOff, execLeaveEnd, execSend, execRecv, execFence,
      execBeatReport, execSupervisorSilence, execNominalMark, execRegionMark, execBwait, execTimeWordLoss, execMirrorLate, execCheckpoint,
      execRestore, execChrysalisExport, execImageLoad, execUnload, execCleanRestart, execPwrEnHigh, execPowerGood, execPwrEnLow, execInputStop,
      execPackageBusFault, execPowerDownEnd, execStartThresholdMet, execMrstN, execVsb3v3Loss, execVsb3v3Return, execWatchdogExpiry,
      execResetReq, execFwUpdate, execFwMinSvnWrite, execLicInstall, execLicRemove, execAttReport, execFrontPortRetrain, execMgmtLaneLoss,
      execHbmRetrain, execReleaseEdge, execBringupStepEnd, execBringupStepTimeout, execDisputeVerdict, execInstarCommit, execMoult,
      execWholeDeviceFault, execSessionIdleTimeout, execMgmtAddressChange, execFordanWrite, execAction, execCsrWrite, execAliasSet,
      execAliasClear, execAliasFlip, execAliasView, execWrmSel, execSign, execHeartbeat, execSeal, execUnseal, execCocoonReset, execMbxTimeout,
      execSendReplyTimeout, execRbFlush, execRbClose, execRbDrop, execI2cPointerWrite, execI2cRead, execBypass, execSamplePreload, execExtest,
      execIdcode, execJtagReset, execVecElementwise, execTranscendental, execLaneReduction, execRotary, execVcoreStatusReport]

end Sys2Proof.Machine
end

section
/-!
What a command and a step answer (R10): the settling of O57.
-/

namespace Sys2Proof.Machine

/-! ### Steps -/

theorem Answers.next {s : State} {o : Host.Outcome State Fault Refusal} (h : Answers s true o) : ∃ u, o = .next u := by
  obtain ⟨f, rfl, -⟩ := h
  exact ⟨f s, rfl⟩

theorem Answers.fault {s : State} {o : Host.Outcome State Fault Refusal} (h : Answers s false o) : o = .fault .noSuchUnit := by
  obtain ⟨f, rfl, -⟩ := h
  rfl

theorem Answers.pending {s u : State} {ok : Bool} {o : Host.Outcome State Fault Refusal} (h : Answers s ok o) (e : o = .next u) :
    u.pending = s.pending := by
  obtain ⟨f, rfl, hk⟩ := h
  cases ok with
  | true => cases e; exact hk
  | false => cases e

theorem step_nil {s : State} (h : s.pending = []) : step s = .next s := by unfold step; rw [h]

theorem step_cons {s : State} {c : Instr} {r : List Instr} (h : s.pending = c :: r) : step s = exec c { s with pending := r } := by
  unfold step; rw [h]

end Sys2Proof.Machine

open Sys2Proof Sys2Proof.Machine

/-- Settles O57. -/
theorem everyUnitAnswers : Obligations.EveryUnitAnswers := by
  refine ⟨fun c s h => (h ▸ exec_answers c s).next, fun c s h => (h ▸ exec_answers c s).fault, fun s hq => ?_,
    fun c s u e => (exec_answers c s).pending e, fun s u e => ?_⟩
  · cases hp : s.pending with
    | nil => exact ⟨s, step_nil hp⟩
    | cons c r =>
      obtain ⟨u, hu⟩ := (hq c (hp ▸ List.mem_cons_self) ▸ exec_answers c { s with pending := r }).next
      exact ⟨u, (step_cons hp).trans hu⟩
  · cases hp : s.pending with
    | nil =>
      cases (step_nil hp).symm.trans e
      rw [hp]; rfl
    | cons c r => exact (exec_answers c { s with pending := r }).pending ((step_cons hp).symm.trans e)
end

end

section
/-
The proofs of this section are elaborated one after another, as those before it are and for the same reason: the check's memory limit.
-/
set_option Elab.async false

section
open Sys2Proof Sys2Proof.Machine

/-- Settles O59: the tables are empty at reset, so every unit stands at its initial value. -/
theorem resetValues : Obligations.ResetValues := by
  unfold Obligations.ResetValues
  intro s
  have hmem (a : Nat) : s.byteAt a = 0 := byteAt_eq (s := s) rfl a
  have hruns (t : Nat) : s.runs t = false := by
    have hon : s.tileOn t = false := rfl
    simp [State.runs, hon]
  exact ⟨rfl, rfl, hmem, fun _ => ⟨rfl, rfl⟩, fun t => ⟨rfl, hruns t⟩, fun _ => ⟨rfl, rfl⟩, fun _ => rfl, rfl, rfl, rfl, by decide, rfl, rfl,
    rfl, rfl, rfl, rfl, rfl, rfl, rfl, rfl, rfl, fun _ => rfl, fun _ => rfl, rfl, rfl, rfl, rfl, rfl, fun _ => ⟨rfl, rfl, rfl, rfl⟩,
    fun _ => ⟨rfl, rfl, rfl⟩, rfl, rfl, rfl, rfl, rfl⟩
end

section
/-!
The wakes of a region: begun, staged under inrush leave, completed (R23, R24, R335, R336, R354).
-/

namespace Sys2Proof.Machine

/-! ### What a wake restages (R23) -/

/-- The state with another table of regions. -/
def State.withRegions (s : State) (r : Tab Region) : State := { s with regions := r }

theorem updTile_withRegions (s : State) (r : Tab Region) (t : Nat) (f : Tile → Tile) :
    (s.withRegions r).updTile t f = (s.updTile t f).withRegions r := rfl

theorem setRows_withRegions (s : State) (r : Tab Region) (l : List (Nat × Bytes)) :
    (s.withRegions r).setRows l = (s.setRows l).withRegions r := by
  induction l generalizing s with
  | nil => rfl
  | cons c l ih => exact ih (s.setRow c.1 c.2)

theorem each_withRegions {f : State → Nat → State} {r : Tab Region} (hf : ∀ v i, f (v.withRegions r) i = (f v i).withRegions r) (l : List Nat)
    (s : State) : (s.withRegions r).each l f = (s.each l f).withRegions r := by
  induction l generalizing s with
  | nil => rfl
  | cons i l ih => exact (congrArg (fun w : State => w.each l f) (hf s i)).trans (ih (f s i))

theorem installTile_withRegions (s : State) (r : Tab Region) (i : Image) (t : Nat) :
    (s.withRegions r).installTile i t = (s.installTile i t).withRegions r := by
  unfold State.installTile
  dsimp only
  simp only [updTile_withRegions]
  split
  · rfl
  · rw [setRows_withRegions]; rfl

/-- Changes of tiles, one after another. -/
def State.updTiles (s : State) (l : List (Nat × (Tile → Tile))) : State := l.foldl (fun v c => v.updTile c.1 c.2) s

theorem updTiles_frame (s : State) (l : List (Nat × (Tile → Tile))) : { s.updTiles l with tiles := [] } = { s with tiles := [] } :=
  foldl_keeps (fun v : State => { v with tiles := [] }) (f := fun v c => v.updTile c.1 c.2) (fun _ _ => rfl) l s

theorem updTiles_withRegions (s : State) (r : Tab Region) (l : List (Nat × (Tile → Tile))) :
    (s.withRegions r).updTiles l = (s.updTiles l).withRegions r := by
  induction l generalizing s with
  | nil => rfl
  | cons c l ih => exact ih (s.updTile c.1 c.2)

theorem updTiles_tile_ne {l : List (Nat × (Tile → Tile))} {t : Nat} (h : ∀ c ∈ l, c.1 ≠ t) (s : State) : (s.updTiles l).tile t = s.tile t := by
  induction l generalizing s with
  | nil => rfl
  | cons c l ih =>
    exact (ih (fun d hd => h d (List.mem_cons_of_mem _ hd)) (s.updTile c.1 c.2)).trans (updTile_tile_ne s c.1 c.2 (h c List.mem_cons_self).symm)

/-- R265: a write to the tables or the code of a tile of a region changes that tile alone. -/
theorem applyWrite_inTiles {g : Nat} {w : WriteRec} (h : w.inTilesOf g = true) (i : Image) :
    ∃ c : Nat × (Tile → Tile), tileRegion c.1 = g ∧ ∀ (s : State) (d : Bool), s.img.loaded = some i → s.applyWrite d w = s.updTile c.1 c.2 := by
  obtain ⟨hk, ht⟩ := Bool.and_eq_true_iff.mp h
  obtain ⟨t, hw, hg⟩ := (Option.any_eq_true ..).mp ht
  have hk : w.kind = 1 ∨ w.kind = 2 ∨ w.kind = 3 ∨ w.kind = 4 ∨ w.kind = 5 ∨ w.kind = 7 := by simpa using hk
  suffices ∃ f, ∀ (s : State) (d : Bool), s.img.loaded = some i → s.applyWrite d w = s.updTile t f from
    let ⟨f, hf⟩ := this
    ⟨(t, f), beq_iff_eq.mp hg, hf⟩
  unfold State.applyWrite
  rw [hw]
  rcases hk with e | e | e | e | e | e <;> rw [e]
  case inr.inr.inr.inr.inr => exact ⟨i.putCode w.index, fun s d hs => by simp only [hs]⟩
  all_goals exact ⟨_, fun _ _ _ => rfl⟩

theorem applyWrites_inTiles {g : Nat} {l : List WriteRec} (h : ∀ w ∈ l, w.inTilesOf g = true) (i : Image) :
    ∃ cs : List (Nat × (Tile → Tile)), (∀ c ∈ cs, tileRegion c.1 = g) ∧
      ∀ (s : State) (d : Bool), s.img.loaded = some i → s.applyWrites d l = s.updTiles cs := by
  induction l with
  | nil => exact ⟨[], by simp, fun _ _ _ => rfl⟩
  | cons w l ih =>
    obtain ⟨c, hc, hw⟩ := applyWrite_inTiles (h w List.mem_cons_self) i
    obtain ⟨cs, hcs, hl⟩ := ih fun v hv => h v (List.mem_cons_of_mem _ hv)
    refine ⟨c :: cs, List.forall_mem_cons.mpr ⟨hc, hcs⟩, fun s d hs => ?_⟩
    have hs' : (s.updTile c.1 c.2).img.loaded = some i := hs
    rw [State.applyWrites, hw s d hs, hl _ d hs']
    rfl

/-- R23: what restages a region: the tables of tiles of the region, then further changes of its tiles, then rows. -/
theorem restage_eq (g : Nat) (m : Img) {i : Image} (hi : m.loaded = some i) :
    ∃ (cs : List (Nat × (Tile → Tile))) (rows : List (Nat × Bytes)), (∀ c ∈ cs, tileRegion c.1 = g) ∧
      ∀ s : State, s.img = m →
        s.restage g = ((s.each (i.tiles.filter fun t => tileRegion t == g) fun s t => s.installTile i t).updTiles cs).setRows rows := by
  obtain ⟨cs, hcs, h⟩ := applyWrites_inTiles (g := g)
    (l := ((i.patches.filter fun p => m.patched.contains (p.failed, p.spare)).flatMap (·.writes)).filter (WriteRec.inTilesOf g))
    (fun w hw => (List.mem_filter.mp hw).2) i
  refine ⟨cs, ?rows, hcs, ?restages⟩
  case restages =>
    intro s hs
    have hm := each_keeps State.img (f := fun s t => s.installTile i t) (fun v t => (congrArg State.img (installTile_frame v i t) :))
      (i.tiles.filter fun t => tileRegion t == g) s
    rw [← h _ false (by rw [hm, hs, hi])]
    unfold State.restage
    rw [hs, hi]
    dsimp only
    rw [hm, hs]

/-- R23: restaging reads no region and touches none. -/
theorem restage_withRegions (s : State) (r : Tab Region) (g : Nat) : (s.withRegions r).restage g = (s.restage g).withRegions r := by
  cases hi : s.img.loaded with
  | none =>
    have h (v : State) (hv : v.img = s.img) : v.restage g = v := by unfold State.restage; rw [hv, hi]
    rw [h s rfl, h (s.withRegions r) rfl]
  | some i =>
    obtain ⟨cs, rows, -, h⟩ := restage_eq g s.img hi
    rw [h s rfl, h (s.withRegions r) rfl, each_withRegions fun v t => installTile_withRegions v r i t, updTiles_withRegions, setRows_withRegions]

/-- R23: restaging touches tiles and rows alone. -/
theorem restage_frame (s : State) (g : Nat) : { s.restage g with tiles := s.tiles, mem := s.mem, bad := s.bad } = s := by
  let π (v : State) : State := { v with tiles := s.tiles, mem := s.mem, bad := s.bad }
  show π (s.restage g) = π s
  cases hi : s.img.loaded with
  | none => unfold State.restage; rw [hi]
  | some i =>
    obtain ⟨cs, rows, -, h⟩ := restage_eq g s.img hi
    have install (v : State) (t : Nat) : π (v.installTile i t) = π v := (congrArg π (installTile_frame v i t) :)
    calc π (s.restage g)
        = π ((s.each (i.tiles.filter fun t => tileRegion t == g) fun s t => s.installTile i t).updTiles cs) := by
          rw [h s rfl]; exact (congrArg π (setRows_frame _ rows) :)
      _ = π (s.each (i.tiles.filter fun t => tileRegion t == g) fun s t => s.installTile i t) :=
          (congrArg π (updTiles_frame _ cs) :)
      _ = π s := each_keeps π install _ s

theorem installTile_tile_ne (s : State) (i : Image) {t j : Nat} (h : j ≠ t) : (s.installTile i t).tile j = s.tile j := by
  have rows (v : State) (l : List (Nat × Bytes)) : (v.setRows l).tile j = v.tile j := (congrArg (fun w : State => w.tile j) (setRows_frame v l) :)
  unfold State.installTile
  dsimp only
  split
  · exact updTile_tile_ne _ _ _ h
  · rw [rows]; exact updTile_tile_ne _ _ _ h

/-- R23: restaging a region leaves the tiles of the others. -/
theorem restage_tile_ne (s : State) {g t : Nat} (ht : tileRegion t ≠ g) : (s.restage g).tile t = s.tile t := by
  cases hi : s.img.loaded with
  | none => unfold State.restage; rw [hi]
  | some i =>
    obtain ⟨cs, rows, hcs, h⟩ := restage_eq g s.img hi
    have hr (v : State) (l : List (Nat × Bytes)) : (v.setRows l).tile t = v.tile t := (congrArg (fun w : State => w.tile t) (setRows_frame v l) :)
    rw [h s rfl, hr, updTiles_tile_ne fun c hc e => ht ((congrArg tileRegion e).symm.trans (hcs c hc))]
    refine each_unit_ne State.tile (fun v j k hk => installTile_tile_ne v i hk) (fun hm => ht ?_) s
    exact beq_iff_eq.mp (List.mem_filter.mp hm).2

/-! ### WAKE_STAGE (R335, R336, R354) -/

/-- R354: a wake's turn has not come while a field of lower index wakes at the end of a halt. -/
theorem wakeTurnOf_false_iff (s : State) (g : Nat) :
    s.wakeTurnOf g = false ↔
      (s.region g).wakeTurn = true ∧ ∃ h < 32, h / 2 < g / 2 ∧ (s.region h).waking = true ∧ (s.region h).wakeTurn = true := by
  simp [State.wakeTurnOf]

section
variable (s : State) (g : Nat) (p : Grant → Bool)

theorem endGrant_region_self : (s.endGrant g p).region g = { s.region g with grants := (s.region g).grants.filter fun x => !p x } := by
  rw [State.endGrant, updRegion_region_self]

theorem endGrant_region_ne {i : Nat} (h : i ≠ g) : (s.endGrant g p).region i = s.region i := by rw [State.endGrant, updRegion_region_ne _ _ _ h]

theorem endGrant_field (i : Nat) : (s.endGrant g p).field i = s.field i := rfl

end

section
variable (s : State) (g tile inc : Nat) (entry : Option Nat) (start : Nat)

theorem grant_eq : (s.grant g tile inc entry start).2 =
    (s.updField (g / 2) fun x => { x with nextN := (s.field (g / 2)).nextN + 1 }).updRegion g fun r =>
      { r with grants := r.grants ++ [⟨(s.field (g / 2)).nextN, tile, inc, entry, start⟩] } := rfl

theorem grant_region_self : (s.grant g tile inc entry start).2.region g =
    { s.region g with grants := (s.region g).grants ++ [⟨(s.field (g / 2)).nextN, tile, inc, entry, start⟩] } := by
  rw [grant_eq, updRegion_region_self, updField_region]

theorem grant_region_ne {i : Nat} (h : i ≠ g) : (s.grant g tile inc entry start).2.region i = s.region i := by
  rw [grant_eq, updRegion_region_ne _ _ _ h, updField_region]

theorem grant_field_self : (s.grant g tile inc entry start).2.field (g / 2) = { s.field (g / 2) with nextN := (s.field (g / 2)).nextN + 1 } := by
  rw [grant_eq, updRegion_field, updField_field_self]

theorem grant_field_ne {i : Nat} (h : i ≠ g / 2) : (s.grant g tile inc entry start).2.field i = s.field i := by
  rw [grant_eq, updRegion_field, updField_field_ne _ _ _ h]

end

/-- R338: the leave of a region's last stage has ended. -/
def State.stageEnded (s : State) (g : Nat) : State := s.endGrant g fun x => x.tile == 2688

/-- R336, R338: a stage begins under the next number of its field. -/
def State.stageBegun (s : State) (g : Nat) : State := (s.grant g 2688 250 none 0).2.updRegion g fun r => { r with wakeK := r.wakeK + 1 }

theorem stageEnded_region (s : State) (g : Nat) :
    (s.stageEnded g).region g = { s.region g with grants := (s.region g).grants.filter fun x => x.tile != 2688 } := endGrant_region_self ..

/-- The state without what leave is granted in. -/
def State.sansLeave (s : State) : State := { s with regions := [], fields := [] }

theorem grant_leave (s : State) (g tile inc : Nat) (entry : Option Nat) (start : Nat) :
    (s.grant g tile inc entry start).2.sansLeave = s.sansLeave := rfl

theorem stageBegun_leave (s : State) (g : Nat) : (s.stageBegun g).sansLeave = s.sansLeave :=
  (show (s.stageBegun g).sansLeave = (s.grant g 2688 250 none 0).2.sansLeave from rfl).trans (grant_leave ..)

theorem frame_of_leave {s u : State} (h : u.sansLeave = s.sansLeave) : { u with regions := s.regions, fields := s.fields } = s :=
  (congrArg (fun v : State => { v with regions := s.regions, fields := s.fields }) h :)

theorem stageBegun_region (s : State) (g : Nat) :
    (s.stageBegun g).region g = { s.region g with
      wakeK := (s.region g).wakeK + 1, grants := (s.region g).grants ++ [⟨(s.field (g / 2)).nextN, 2688, 250, none, 0⟩] } := by
  rw [State.stageBegun, updRegion_region_self, grant_region_self]

theorem stageBegun_region_ne (s : State) {g i : Nat} (h : i ≠ g) : (s.stageBegun g).region i = s.region i := by
  rw [State.stageBegun, updRegion_region_ne _ _ _ h, grant_region_ne _ _ _ _ _ _ h]

theorem stageBegun_field (s : State) (g : Nat) :
    (s.stageBegun g).field (g / 2) = { s.field (g / 2) with nextN := (s.field (g / 2)).nextN + 1 } := by
  rw [State.stageBegun, updRegion_field, grant_field_self]

theorem stageBegun_field_ne (s : State) {g i : Nat} (h : i ≠ g / 2) : (s.stageBegun g).field i = s.field i := by
  rw [State.stageBegun, updRegion_field, grant_field_ne _ _ _ _ _ _ h]

/-- R335, R336: a stage of a wake that has its turn ends the stage before it, and begins where the leave may be had. -/
theorem wakeStage_next {s : State} {g : Nat} (hg : g < 32) (hw : (s.region g).waking = true) (hk : (s.region g).wakeK < 8)
    (ht : s.wakeTurnOf g = true) :
    exec (.wakeStage g) s = .next (if (s.stageEnded g).stageReady g = true then (s.stageEnded g).stageBegun g else s.stageEnded g) := by
  show execWakeStage g s = _
  unfold execWakeStage
  rw [onRegion_ok hg, hw, ht, decide_eq_true hk]
  rfl

theorem wakeStage_idle {s : State} {g : Nat} (hg : g < 32) (h : (s.region g).waking = false ∨ 8 ≤ (s.region g).wakeK ∨ s.wakeTurnOf g = false) :
    exec (.wakeStage g) s = .next s := by
  show execWakeStage g s = _
  unfold execWakeStage
  rw [onRegion_ok hg]
  have hc : ((s.region g).waking && decide ((s.region g).wakeK < 8) && s.wakeTurnOf g) = false := by
    rcases h with h | h | h
    · rw [h]; rfl
    · rw [decide_eq_false (Nat.not_lt.mpr h)]; simp
    · rw [h]; simp
  rw [hc]; rfl

/-! ### WAKE_COMPLETE (R23, R24) -/

/-- R24, R335: a region once its wake has completed at time `now`. -/
def Region.woken (r : Region) (now : Nat) : Region :=
  { r with
    st := (if r.wakeMoult then .moulting else .stopped), waking := false, wakeK := 0, wakeMoult := false, wakeTurn := false, op := r.wakePt, railOp := r.wakePt, wakeAt := now + 50000,
    marked := false, cyc := 0, strE := 0, strP := 0, stopNs := 0, lag := 0, trim := 0 }

theorem woken_stopped {r : Region} (h : r.wakeMoult = false) (now : Nat) :
    r.woken now = { r with
      st := .stopped, waking := false, wakeK := 0, wakeTurn := false, op := r.wakePt, railOp := r.wakePt, wakeAt := now + 50000,
      marked := false, cyc := 0, strE := 0, strP := 0, stopNs := 0, lag := 0, trim := 0 } := by
  cases r; subst h; rfl

/-- A region's wake has completed; what comes after is its restaging, or the record of its moult. -/
def State.wokenUp (s : State) (g : Nat) : State := (s.stageEnded g).updRegion g fun r => r.woken (s.stageEnded g).time.now

theorem wokenUp_eq (s : State) (g : Nat) : s.wokenUp g = s.withRegions (s.wokenUp g).regions := rfl

theorem wokenUp_region (s : State) (g : Nat) :
    (s.wokenUp g).region g = { (s.region g).woken s.time.now with grants := (s.region g).grants.filter fun x => x.tile != 2688 } := by
  rw [State.wokenUp, updRegion_region_self, stageEnded_region]; rfl

theorem wokenUp_region_ne (s : State) {g i : Nat} (h : i ≠ g) : (s.wokenUp g).region i = s.region i := by
  rw [State.wokenUp, updRegion_region_ne _ _ _ h, State.stageEnded, endGrant_region_ne _ _ _ h]

section
variable {s : State} {g : Nat} (hg : g < 32)
include hg

theorem wakeComplete_idle (h : (s.region g).waking = false ∨ (s.region g).wakeK ≠ 8) : exec (.wakeComplete g) s = .next s := by
  show execWakeComplete g s = _
  unfold execWakeComplete
  rw [onRegion_ok hg]
  have hc : ((s.region g).waking && (s.region g).wakeK == 8) = false := by
    rcases h with h | h
    · rw [h]; rfl
    · rw [beq_false_of_ne h]; simp
  dsimp only
  rw [hc]; rfl

variable (hw : (s.region g).waking = true) (hk : (s.region g).wakeK = 8)
include hw hk

/-- R23, R24: a region that no moult woke is restaged. -/
theorem wakeComplete_stopped (hm : (s.region g).wakeMoult = false) :
    exec (.wakeComplete g) s = .next ((s.wokenUp g).restage g).writeClkLists := by
  show execWakeComplete g s = _
  unfold execWakeComplete
  rw [onRegion_ok hg]
  dsimp only [State.whenB]
  rw [hw, hk, hm, if_pos (by decide), if_neg Bool.false_ne_true]
  rfl

/-- R373: a region that a moult woke begins the moult. -/
theorem wakeComplete_moulting (hm : (s.region g).wakeMoult = true) :
    ∃ h, exec (.wakeComplete g) s = .next ((s.wokenUp g).event { code := 0x9A, region := g, handle := h }) := by
  refine ⟨?h, ?completes⟩
  case completes =>
    show execWakeComplete g s = _
    unfold execWakeComplete
    rw [onRegion_ok hg]
    dsimp only [State.whenB]
    rw [hw, hk, hm, if_pos (by decide), if_pos rfl]
    rfl

end

/-- R23: what a region's restaging leaves, its clock lists rewritten, in a state with other regions. -/
theorem restaged_spec (s : State) (r : Tab Region) (g : Nat) {u : State} (hu : u = ((s.withRegions r).restage g).writeClkLists) :
    u.regions = r ∧ u.mem = (s.restage g).mem ∧ u.bad = (s.restage g).bad ∧
      (∀ t, { u.tile t with clk := none } = { (s.restage g).tile t with clk := none }) ∧
      { u with regions := s.regions, tiles := s.tiles, mem := s.mem, bad := s.bad } = s := by
  rw [restage_withRegions] at hu
  have hs := restage_frame s g
  generalize s.restage g = v at *
  have hf := writeClkLists_frame (v.withRegions r)
  have ht := writeClkLists_tile (v.withRegions r)
  rw [← hu] at hf ht
  refine ⟨(congrArg State.regions hf :), (congrArg State.mem hf :), (congrArg State.bad hf :), ht, ?_⟩
  exact (congrArg (fun w : State => { w with regions := s.regions, tiles := s.tiles, mem := s.mem, bad := s.bad }) hf :).trans
    (congrArg (fun w : State => { w with regions := s.regions }) hs :)

end Sys2Proof.Machine

open Sys2Proof Sys2Proof.Machine

/-- Settles O32. -/
theorem regionsWake : Obligations.RegionsWake := by
  unfold Obligations.RegionsWake
  intro s v g hg hv
  have hv : v = s.stageEnded g := hv
  subst hv
  refine ⟨fun hm => ?_, fun hm => ?_, fun hw hk ht hr => ?_, fun hw hk ht hr => ?_, wakeStage_idle hg, wakeTurnOf_false_iff s g,
    fun hw hk hm => ?_, fun hw hk hm => ?_, wakeComplete_idle hg⟩
  · refine ⟨s.beginWake g false, ?_, updRegion_only .., updRegion_region_self ..⟩
    show execRegionWake g s = _
    rw [execRegionWake, onRegion_ok hg, hm]; rfl
  · show execRegionWake g s = _
    rw [execRegionWake, onRegion_ok hg, hm]; rfl
  · have hex := wakeStage_next hg hw hk ht
    rw [hr, if_pos rfl] at hex
    refine ⟨_, hex, ?_, fun i hi => ?_, fun i hi => ?_, ?_, ?_⟩
    · exact frame_of_leave ((stageBegun_leave _ g).trans (show (s.stageEnded g).sansLeave = s.sansLeave from rfl))
    · rw [stageBegun_region_ne _ hi, State.stageEnded, endGrant_region_ne _ _ _ hi]
    · rw [stageBegun_field_ne _ hi, State.stageEnded, endGrant_field]
    · rw [stageBegun_field, State.stageEnded, endGrant_field]
    · rw [stageBegun_region, stageEnded_region, State.stageEnded, endGrant_field]
  · rw [wakeStage_next hg hw hk ht, hr, if_neg Bool.false_ne_true]
  · obtain ⟨hreg, hmem, hbad, htile, hrest⟩ :=
      restaged_spec s (s.wokenUp g).regions g (u := ((s.wokenUp g).restage g).writeClkLists) (by rw [← wokenUp_eq])
    refine ⟨_, wakeComplete_stopped hg hw hk hm, fun i hi => ?_, ?_, hmem, hbad, htile, fun t ht _ => ?_, hrest⟩
    · exact (congrArg (fun r => Tab.get Region.init r i) hreg).trans (wokenUp_region_ne s hi)
    · exact ((congrArg (fun r => Tab.get Region.init r g) hreg).trans (wokenUp_region s g)).trans
        (congrArg (fun r : Region => { r with grants := (s.region g).grants.filter fun x => x.tile != 2688 }) (woken_stopped hm s.time.now) :)
    · rw [htile, restage_tile_ne s ht]
  · obtain ⟨h, hex⟩ := wakeComplete_moulting hg hw hk hm
    have hregion (i : Nat) := event_region (s.wokenUp g) { code := 0x9A, region := g, handle := h } i
    have hf := event_frame (s.wokenUp g) { code := 0x9A, region := g, handle := h }
    have hrec := (event_recordedLast (s.wokenUp g) { code := 0x9A, region := g, handle := h }).of_same (s := s) rfl rfl
    generalize (s.wokenUp g).event { code := 0x9A, region := g, handle := h } = u at *
    refine ⟨u, hex, fun i hi => (hregion i).trans (wokenUp_region_ne s hi), ?_, ?_, ?_, (congrArg State.tiles hf :), (congrArg State.mem hf :), hrec⟩
    · rw [hregion, wokenUp_region, Region.woken, hm]; rfl
    · rw [hregion, wokenUp_region]; rfl
    · rw [hregion, wokenUp_region]; rfl
end

section
/-!
Resets and the release edge (R388, R389, R408, R435, R438, R439, R441).
-/

namespace Sys2Proof.Machine

/-! ### What a reset leaves (R388) -/

/-- R388: the token buckets of the partitions that a reset fills. -/
def State.fillBucket (s : State) (p : Nat) : State :=
  if (s.part p).bucket = s.setting (0x4400 + p) 4 then s else s.updPart p fun x => { x with bucket := s.setting (0x4400 + p) 4 }

theorem fillBucket_eq : State.fillBucket = fun s p =>
    if (s.part p).bucket = s.setting (0x4400 + p) 4 then s else s.updPart p fun x => { x with bucket := s.setting (0x4400 + p) 4 } := rfl

/-- The state without what the settings in force after a reset are put in. -/
def State.sansSettings (s : State) : State := { s with parts := [], pwr := .init, csr := { s.csr with alertMask := 0 } }

theorem fillBucket_settings (s : State) (p : Nat) : (s.fillBucket p).sansSettings = s.sansSettings := by
  unfold State.fillBucket
  split <;> rfl

/-- R388: the state in reset before the settings in force are put in. -/
def State.cold (s : State) (b : Boot) (keep : Nat → Bool) : State :=
  { State.reset with
    pending := s.pending, free := s.free, mem := s.mem.filter (fun c => keep (c.1 / 512)), bad := s.bad.filter (fun c => keep c.1),
    flash := { s.flash with fwMk := false }, boot := b, pins := { s.pins with thermtrip := false }, i2c := s.i2c, jtag := s.jtag,
    stks := (s.stks.map weakOnly).filter fun c => decide (c.2 ≠ Stack.init) }

/-- R342, R429: the settings that the alert mask and the power limit take. -/
def State.settled (s : State) : State :=
  { s with csr := { s.csr with alertMask := s.setting 0x7002 3 % 2 ^ 10 ||| 3 }, pwr := { s.pwr with pcapLim := s.setting 0x2000 2 } }

theorem inReset_eq (s : State) (b : Boot) (keep : Nat → Bool) :
    s.inReset b keep = ((s.cold b keep).each (upTo 16) State.fillBucket).settled := by
  rw [fillBucket_eq]
  unfold State.inReset State.settled State.cold
  dsimp only

theorem settled_settings (s : State) : s.settled.sansSettings = s.sansSettings := rfl

theorem inReset_settings (s : State) (b : Boot) (keep : Nat → Bool) : (s.inReset b keep).sansSettings = (s.cold b keep).sansSettings := by
  rw [inReset_eq, settled_settings]
  exact each_keeps State.sansSettings fillBucket_settings (upTo 16) (s.cold b keep)

theorem get_filter_out {p : Nat → Bool} {a : Nat} (ha : p a = false) (l : List (Nat × Byte)) :
    Tab.get (0 : Byte) (l.filter fun c => p c.1) a = 0 := by
  induction l with
  | nil => rfl
  | cons c l ih =>
    obtain ⟨k, v⟩ := c
    rw [List.filter_cons]
    split
    · rename_i hk
      have hne : a ≠ k := fun e => by rw [← e, ha] at hk; cases hk
      rw [Tab.get, if_neg hne, ih]
    · exact ih

/-- Memory of which some rows are kept: the others read 0. -/
theorem byteAt_filtered {s u : State} (hm : Memory.wf s.mem = true) {keep : Nat → Bool} (h : u.mem = s.mem.filter fun c => keep (c.1 / 512))
    (a : Nat) : u.byteAt a = if keep (a / 512) then s.byteAt a else 0 := by
  rw [byteAt_eq (by rw [h]; exact wfFrom_filter _ hm), byteAt_eq hm, h]
  split
  · rename_i hk
    exact get_filter (p := fun a => keep (a / 512)) hk s.mem
  · rename_i hk
    exact get_filter_out (p := fun a => keep (a / 512)) (Bool.eq_false_iff.mpr hk) s.mem

/-- R23, R388: what a reset leaves. -/
theorem inReset_wasReset {s : State} (h : Memory.wf s.mem = true) {b : Boot}
    (hb : b.rst = true ∧ b.done = false ∧ b.step = 0 ∧ b.handles = []) : WasReset s (s.inReset b deepRowAny) := by
  have hs := inReset_settings s b deepRowAny
  generalize s.inReset b deepRowAny = u at *
  have hmem : u.mem = s.mem.filter fun c => deepRowAny (c.1 / 512) := (congrArg State.mem hs :)
  have hboot : u.boot = b := (congrArg State.boot hs :)
  rw [← hboot] at hb
  exact ⟨(congrArg State.tiles hs :), (congrArg State.regions hs :), (congrArg State.fields hs :), (congrArg State.engines hs :),
    (congrArg State.ports hs :), (congrArg State.net hs :), (congrArg State.ctl hs :), (congrArg State.ringOut hs :), (congrArg State.reqs hs :),
    (congrArg State.time hs :), (congrArg State.beat hs :), (congrArg State.img hs :), (congrArg State.adm hs :), (congrArg State.meter hs :),
    (congrArg State.therm hs :), (congrArg State.flt hs :), (congrArg State.train hs :), (congrArg (fun v : State => { v.fordan with out := [] }) hs :),
    (congrArg (fun v : State => v.csr.mbx) hs :), (congrArg (fun v : State => v.csr.wrm) hs :), (congrArg (fun v : State => v.csr.alertSrc) hs :),
    (congrArg State.flash hs :), (congrArg State.i2c hs :), (congrArg State.jtag hs :), (congrArg (fun v : State => v.pins.thermtrip) hs :),
    hb.1, hb.2.1, hb.2.2.1, hb.2.2.2, byteAt_filtered h hmem⟩

theorem boot_of_settings {s u : State} (h : u.sansSettings = s.sansSettings) : u.boot = s.boot := (congrArg State.boot h :)
theorem pins_of_settings {s u : State} (h : u.sansSettings = s.sansSettings) : u.pins = s.pins := (congrArg State.pins h :)

theorem inReset_boot (s : State) (b : Boot) (keep : Nat → Bool) : (s.inReset b keep).boot = b := boot_of_settings (inReset_settings s b keep)

theorem inReset_pins (s : State) (b : Boot) (keep : Nat → Bool) : (s.inReset b keep).pins = { s.pins with thermtrip := false } :=
  pins_of_settings (inReset_settings s b keep)

/-- R388, R408: a reset with the power on, by its cause. -/
theorem warmReset_spec {s : State} (h : Memory.wf s.mem = true) (n : Nat) :
    let u := s.warmReset n
    WasReset s u ∧ u.boot.supply = s.boot.supply ∧ u.boot.cause = (if s.boot.causeHeld then s.boot.cause else n) ∧
      u.boot.abandoned = (if s.boot.rst then s.boot.abandoned else (s.boot.retention ||| s.flashKinds) % 2 ^ 14) ∧
      u.pins = { s.pins with thermtrip := false } := by
  have hb := inReset_boot s (s.boot.inReset (if s.boot.causeHeld then s.boot.cause else n)
    (if s.boot.rst then s.boot.abandoned else s.abandonedNow)) deepRowAny
  refine ⟨inReset_wasReset h ⟨rfl, rfl, rfl, rfl⟩, ?_, ?_, ?_, inReset_pins ..⟩
  · exact (congrArg Boot.supply hb :)
  · exact (congrArg Boot.cause hb :)
  · exact (congrArg Boot.abandoned hb :)

theorem internalReset_on {s : State} (h : s.boot.supply = .on) (n : Nat) : s.internalReset n = s.warmReset n := by rw [State.internalReset, h]; rfl

theorem internalReset_idle {s : State} (h : s.boot.supply ≠ .on) (n : Nat) : s.internalReset n = s := by
  rw [State.internalReset, beq_false_of_ne h]; rfl

/-! ### What raises a reset -/

/-- R438: the state with MRST_N low. -/
def State.mrstLow (s : State) : State := { s with pins := { s.pins with mrstN := false } }

section
variable {s : State}

theorem mrstN_resets (h : s.boot.supply = .on) : exec (.mrstN true) s = .next (s.mrstLow.warmReset 2) := by
  show execMrstN true s = _
  rw [execMrstN, h]
  dsimp only [State.whenB]
  rw [if_pos (by decide)]
  rfl

theorem mrstN_low (h : s.boot.supply ≠ .on) : exec (.mrstN true) s = .next s.mrstLow := by
  show execMrstN true s = _
  rw [execMrstN, beq_false_of_ne h]; rfl

theorem watchdogExpiry_resets (h : s.boot.supply = .on) (hw : s.boot.wd = true) : exec .watchdogExpiry s = .next (s.warmReset 4) := by
  show execWatchdogExpiry s = _
  rw [execWatchdogExpiry, hw, ← internalReset_on h]; rfl

theorem watchdogExpiry_idle (h : s.boot.supply ≠ .on) : exec .watchdogExpiry s = .next s := by
  show execWatchdogExpiry s = _
  rw [execWatchdogExpiry, State.whenB]
  split
  · rw [internalReset_idle h]
  · rfl

theorem jtagReset_resets (h : s.boot.supply = .on) (hv : s.pins.vsb = true) : exec .jtagReset s = .next (s.warmReset 5) := by
  show execJtagReset s = _
  rw [execJtagReset, hv, ← internalReset_on h]; rfl

theorem jtagReset_idle (h : s.boot.supply ≠ .on) : exec .jtagReset s = .next s := by
  show execJtagReset s = _
  rw [execJtagReset, State.whenB]
  split
  · rw [internalReset_idle h]
  · rfl

end

/-! ### The release edge (R389) -/

/-- R389: handles of kind 0x0A issued one after another, one for each entry of a list. -/
def State.issueSteps (s : State) (l : List Nat) : State := s.each l fun s _ => (s.issue 0x0A 16 32).2

/-- The boot part without what the issue of handles changes. -/
def Boot.sansHandles (b : Boot) : Boot := { b with hctr := 0, handles := [], retention := 0 }

theorem issueSteps_frame (s : State) (l : List Nat) : { s.issueSteps l with boot := s.boot } = s :=
  each_keeps (fun v : State => { v with boot := s.boot }) (f := fun s _ => (s.issue 0x0A 16 32).2) (fun _ _ => rfl) l s

theorem issueSteps_boot (s : State) (l : List Nat) : (s.issueSteps l).boot.sansHandles = s.boot.sansHandles :=
  each_keeps (fun v : State => v.boot.sansHandles) (f := fun s _ => (s.issue 0x0A 16 32).2) (fun _ _ => rfl) l s

theorem issue_hnd_ne (s : State) (kind part k : Nat) {h : Nat} (hn : h ≠ s.nextHandle kind) : (s.issue kind part k).2.hnd h = s.hnd h :=
  Tab.get_put_ne hndNone s.boot.handles ⟨1, 0, 0, part, k⟩ hn

/-- R14, R389: the handles issued are those from the counter on, and run; the others are as they were. -/
theorem issueSteps_spec (l : List Nat) (s : State) :
    (s.issueSteps l).boot.hctr = s.boot.hctr + l.length ∧
      (l ≠ [] → (s.issueSteps l).boot.retention = s.boot.retention ||| 2 ^ 10) ∧
      (∀ n, s.boot.hctr ≤ n → n < s.boot.hctr + l.length → (s.issueSteps l).hnd (0x0A * 2 ^ 56 + n) = ⟨1, 0, 0, 16, 32⟩) ∧
      ∀ n, n < s.boot.hctr → (s.issueSteps l).hnd (0x0A * 2 ^ 56 + n) = s.hnd (0x0A * 2 ^ 56 + n) := by
  induction l generalizing s with
  | nil => exact ⟨rfl, fun h => absurd rfl h, fun n h1 h2 => absurd h2 (Nat.not_lt.mpr h1), fun _ _ => rfl⟩
  | cons i l ih =>
    obtain ⟨-, hctr, hnew⟩ := issue_snd s 0x0A 16 32
    have hret : (s.issue 0x0A 16 32).2.boot.retention = s.boot.retention ||| 2 ^ 10 := rfl
    have hold (n : Nat) (hn : n < s.boot.hctr) := issue_hnd_ne s 0x0A 16 32 (h := 0x0A * 2 ^ 56 + n) (by unfold State.nextHandle; omega)
    obtain ⟨h1, h2, h3, h4⟩ := ih (s.issue 0x0A 16 32).2
    rw [show s.issueSteps (i :: l) = (s.issue 0x0A 16 32).2.issueSteps l from rfl]
    generalize (s.issue 0x0A 16 32).2 = v at *
    rw [hctr] at h1 h3 h4
    refine ⟨by rw [h1, List.length_cons]; omega, fun _ => ?_, fun n hn hl => ?_, fun n hn => ?_⟩
    · cases l with
      | nil => exact hret
      | cons j l => rw [h2 (by simp), hret, Nat.or_assoc, Nat.or_self]
    · by_cases e : n = s.boot.hctr
      · subst e
        rw [h4 _ (Nat.lt_succ_self _)]; exact hnew
      · rw [List.length_cons] at hl
        exact h3 n (by omega) (by omega)
    · rw [h4 n (by omega), hold n hn]

/-- R388, R389: the state released, before the handles of the steps are issued. -/
def State.released (s : State) : State :=
  { s with
    boot := { s.boot with rst := false, causeHeld := false, step := 1, hctr := 1, handles := [], retention := 0 },
    pwr := { s.pwr with pcap := !s.pins.pcapN }, therm := { s.therm with coolant := s.pins.coolantOk } }

theorem releaseEdge_next {s : State} (hr : s.boot.rst = true) (hg : s.boot.pg = true) (hm : s.pins.mrstN = true) (ho : s.boot.supply = .on) :
    exec .releaseEdge s = .next (s.released.issueSteps (upTo 9)) := by
  show execReleaseEdge s = _
  rw [execReleaseEdge, hr, hg, hm, ho]
  dsimp only [State.whenB]
  rw [if_pos (by decide)]
  rfl

theorem releaseEdge_idle {s : State} (h : s.boot.rst = false ∨ s.boot.pg = false ∨ s.pins.mrstN = false) : exec .releaseEdge s = .next s := by
  have hc : (s.boot.rst && s.boot.pg && s.pins.mrstN && s.boot.supply == .on) = false := by
    rcases h with h | h | h <;> simp [h]
  show execReleaseEdge s = _
  rw [execReleaseEdge, hc]; rfl

end Sys2Proof.Machine

open Sys2Proof Sys2Proof.Machine

/-- Settles O40: each reset is a `warmReset` by its cause, and the release edge issues the nine handles one after another. -/
theorem resetsAndTheReleaseEdge : Obligations.ResetsAndTheReleaseEdge := by
  unfold Obligations.ResetsAndTheReleaseEdge
  intro s hm
  have hrow : objRow 0x1800 5 = some ⟨0x1800, 0x1800, 0x05, 0x05, .u32, .wo, 0⟩ := by decide
  refine ⟨fun c n ho hc hwd hv => ?_, rfl, fun ho => ⟨mrstN_low ho, watchdogExpiry_idle ho, jtagReset_idle ho⟩, fun k x hop ho he => ?_,
    fun k x v hop hne hv => ?_, fun hr hg hn ho => ?_, releaseEdge_idle, rfl, rfl⟩
  · simp only [List.mem_cons, Prod.mk.injEq, List.not_mem_nil, or_false] at hc
    obtain ⟨rfl, rfl⟩ | ⟨rfl, rfl⟩ | ⟨rfl, rfl⟩ := hc
    · obtain ⟨h1, h2, h3, h4, h5⟩ := warmReset_spec (s := s.mrstLow) hm 2
      exact ⟨_, mrstN_resets ho, h1, h2.trans ho, h3, h4, h5⟩
    · obtain ⟨h1, h2, h3, h4, h5⟩ := warmReset_spec hm 4
      exact ⟨_, watchdogExpiry_resets ho (hwd rfl), h1, h2.trans ho, h3, h4, h5⟩
    · obtain ⟨h1, h2, h3, h4, h5⟩ := warmReset_spec hm 5
      exact ⟨_, jtagReset_resets ho (hv rfl), h1, h2.trans ho, h3, h4, h5⟩
  · obtain ⟨q, hs, hg⟩ := operator_gate hop 0x1800 5 2 (by decide)
    have hw : s.wrResetReq (leNat (leBytes 4 s.flash.epoch)) = .ok (s.warmReset 3) := by
      rw [leNat_leBytes_of_lt he, State.wrResetReq, if_pos rfl, internalReset_on ho]
    have hex := (numWrite_eq s k x State.wrResetReq hrow rfl he).trans
      (sessWrite_ok x hs hg hrow (fits_of_size (t := .u32) rfl (by decide) (leBytes_length 4 _)) hw)
    obtain ⟨h1, -, h3, -, -⟩ := warmReset_spec hm 3
    generalize s.warmReset 3 = v at *
    exact ⟨_, congrArg Host.Outcome.next hex, h1, respond_answered .., h3⟩
  · obtain ⟨q, hs, hg⟩ := operator_gate hop 0x1800 5 2 (by decide)
    have hw : s.wrResetReq (leNat (leBytes 4 v)) = .fail 0x0A 0 := by
      rw [leNat_leBytes_of_lt hv, State.wrResetReq, if_neg hne]; rfl
    have hex := (numWrite_eq s k x State.wrResetReq hrow rfl hv).trans
      (sessWrite_refused x hs hg hrow (fits_of_size (t := .u32) rfl (by decide) (leBytes_length 4 _)) hw)
    exact ⟨_, congrArg Host.Outcome.next hex, rfl, respond_answered ..⟩
  · refine ⟨_, releaseEdge_next hr hg hn ho, ?_⟩
    have hf := issueSteps_frame s.released (upTo 9)
    have hb := issueSteps_boot s.released (upTo 9)
    obtain ⟨h1, h2, h3, -⟩ := issueSteps_spec (upTo 9) s.released
    generalize s.released.issueSteps (upTo 9) = u at *
    refine ⟨(congrArg (fun v : State => { v with boot := s.boot, pwr := s.pwr, therm := s.therm }) hf :), (congrArg Boot.rst hb :),
      (congrArg Boot.step hb :), (congrArg Boot.causeHeld hb :), (congrArg Boot.cause hb :), h1, ?_, ?_, (congrArg State.pwr hf :), (congrArg State.therm hf :)⟩
    · exact (h2 (by decide)).trans (show 0 ||| 2 ^ 10 = 2 ^ 10 from rfl)
    · exact fun n hn h9 => h3 n hn (Nat.lt_succ_of_le h9)
end

section
/-!
Records that stay in the event log (R384), and what the fences of a tile or a region leave as it was (R185 to R187).
-/

namespace Sys2Proof.Machine

/-! ### Bits -/

theorem bitOf_eq_testBit (w i : Nat) : bitOf w i = w.testBit i := by
  rw [Nat.testBit_eq_decide_div_mod_eq, bitOf, Nat.shiftRight_eq_div_pow]; rfl

theorem bitOf_or (a b i : Nat) : bitOf (a ||| b) i = (bitOf a i || bitOf b i) := by simp only [bitOf_eq_testBit, Nat.testBit_or]

/-- A power of two added where its bit is clear sets that bit and no other. -/
theorem bitOf_add_two_pow {m g : Nat} (h : bitOf m g = false) (j : Nat) : bitOf (m + 2 ^ g) j = (bitOf m j || decide (j = g)) := by
  simp only [bitOf_eq_testBit] at *
  rcases Nat.lt_trichotomy j g with hj | rfl | hj
  · rw [Nat.add_comm, Nat.testBit_two_pow_add_gt hj, decide_eq_false (Nat.ne_of_lt hj), Bool.or_false]
  · rw [Nat.add_comm, Nat.testBit_two_pow_add_eq, h, decide_eq_true rfl]; rfl
  · obtain ⟨k, rfl⟩ := Nat.exists_eq_add_of_lt hj
    have heven : m / 2 ^ g % 2 ≠ 1 := by simpa [Nat.testBit_eq_decide_div_mod_eq] using h
    have hshift : (m + 2 ^ g) >>> (g + 1) = m >>> (g + 1) := by
      simp only [Nat.shiftRight_eq_div_pow, Nat.pow_succ, ← Nat.div_div_eq_div_mul, Nat.add_div_right m (Nat.two_pow_pos g)]
      omega
    rw [show g + k + 1 = g + 1 + k by omega, ← Nat.testBit_shiftRight, hshift, Nat.testBit_shiftRight,
      decide_eq_false (show g + 1 + k ≠ g by omega), Bool.or_false]

theorem bitOf_setBit (m g j : Nat) : bitOf (setBit m g) j = (bitOf m j || decide (j = g)) := by
  unfold setBit
  split
  case isTrue h =>
    by_cases e : j = g
    · rw [e, h]; rfl
    · rw [decide_eq_false e, Bool.or_false]
  case isFalse h => exact bitOf_add_two_pow (Bool.eq_false_iff.mpr h) j

/-! ### Steps one after another -/

/-- A step among others: what comes before it, and what comes after. -/
theorem each_split {i : Nat} {l : List Nat} (hi : i ∈ l) (f : State → Nat → State) (s : State) :
    ∃ a b, l = a ++ i :: b ∧ s.each l f = (f (s.each a f) i).each b f := by
  obtain ⟨a, b, rfl⟩ := List.append_of_mem hi
  exact ⟨a, b, rfl, List.foldl_append ..⟩

/-! ### What a record and the end of a handle change of the fault unit and of the settings -/

/-- The fault unit without the event log. -/
def Flt.sansLog (f : Flt) : Flt := { f with log := [], evNext := 0, evOldest := 0, evLost := 0 }

/-- R384: the log with one more record: the oldest of 65,536 makes room. -/
def Flt.logged (f : Flt) (r : Event) : Flt :=
  { f with
    log := (if f.log.length ≥ 65536 then f.log.drop 1 else f.log) ++ [r], evNext := f.evNext + 1,
    evOldest := if f.log.length ≥ 65536 then f.evOldest + 1 else f.evOldest, evLost := if f.log.length ≥ 65536 then f.evLost + 1 else f.evLost }

theorem event_logged (s : State) (e : Ev) :
    ∃ r, (s.event e).flt = s.flt.logged r ∧ r.seq = s.flt.evNext ∧ r.code = e.code ∧ r.region = e.region ∧ r.d0 = e.d0 ∧ r.d1 = e.d1 := by
  unfold State.event
  extract_lets r inReg ev full f g v
  have h := each_fordan_frame (v.subscribers 0x7000 1) (f := fun s k => s.notifyTo k 0x7000 1 ev.bytes) (fun v k => notifyTo_frame v k ..) v
  exact ⟨ev, (congrArg State.flt h :), rfl, rfl, rfl, rfl, rfl⟩

theorem event_sansLog (s : State) (e : Ev) : (s.event e).flt.sansLog = s.flt.sansLog := by
  obtain ⟨r, h, -⟩ := event_logged s e
  rw [h]; rfl

theorem notifyTo_vol (s : State) (k ix sub : Nat) (v : Bytes) : (s.notifyTo k ix sub v).fordan.vol = s.fordan.vol := by
  unfold State.notifyTo; split <;> rfl

theorem event_vol (s : State) (e : Ev) : (s.event e).fordan.vol = s.fordan.vol :=
  each_keeps (fun v : State => v.fordan.vol) (f := fun s k => s.notifyTo k 0x7000 1 _) (fun v k => notifyTo_vol v k ..) _ _

theorem finish_vol (s : State) (h st code : Nat) : (s.finish h st code).fordan.vol = s.fordan.vol := by
  refine each_keeps (fun v : State => v.fordan.vol) (fun v k => ?_) _ _
  split
  · split
    · exact notifyTo_vol ..
    · rfl
  · rfl

/-! ### Records that stay -/

/-- A record stands in the log with at most `j` records after it. -/
def Held (x : Event) (j : Nat) (s : State) : Prop := ∃ a b, s.flt.log = a ++ x :: b ∧ b.length ≤ j

/-- From `s` to `u` the log takes at most `n` records, as far as one that stands in it can tell. -/
def Writes (s u : State) (n : Nat) : Prop :=
  s.flt.evNext ≤ u.flt.evNext ∧ ∀ x j, j + n < 65536 → Held x j s → Held x (j + n) u

theorem Writes.of_flt {s u : State} (h : u.flt.log = s.flt.log) (hn : u.flt.evNext = s.flt.evNext) : Writes s u 0 :=
  ⟨hn.ge, fun _ _ _ ⟨a, b, hl, hb⟩ => ⟨a, b, h.trans hl, hb⟩⟩

theorem Writes.refl (s : State) : Writes s s 0 := .of_flt rfl rfl

theorem Writes.mono {s u : State} {n m : Nat} (h : Writes s u n) (hm : n ≤ m) : Writes s u m := by
  refine ⟨h.1, fun x j hj hx => ?_⟩
  obtain ⟨a, b, hl, hb⟩ := h.2 x j (by omega) hx
  exact ⟨a, b, hl, by omega⟩

theorem Writes.trans {s v u : State} {n m : Nat} (h : Writes s v n) (h' : Writes v u m) : Writes s u (n + m) := by
  refine ⟨h.1.trans h'.1, fun x j hj hx => ?_⟩
  have hu := h'.2 x (j + n) (by omega) (h.2 x j (by omega) hx)
  rwa [Nat.add_assoc] at hu

theorem event_writes (s : State) (e : Ev) : Writes s (s.event e) 1 := by
  obtain ⟨r, hf, -⟩ := event_logged s e
  refine ⟨by rw [hf]; exact Nat.le_succ _, fun x j hj ⟨a, b, hl, hb⟩ => ?_⟩
  have hlog : (s.event e).flt.log = (if s.flt.log.length ≥ 65536 then s.flt.log.drop 1 else s.flt.log) ++ [r] := by rw [hf]; rfl
  have hb' : (b ++ [r]).length ≤ j + 1 := by rw [List.length_append]; exact Nat.succ_le_succ hb
  by_cases hfull : s.flt.log.length ≥ 65536
  · have hlen : s.flt.log.length = a.length + (b.length + 1) := by rw [hl, List.length_append, List.length_cons]
    cases a with
    | nil => rw [List.length_nil] at hlen; omega
    | cons y a => exact ⟨a, b ++ [r], by rw [hlog, if_pos hfull, hl]; simp, hb'⟩
  · exact ⟨a, b ++ [r], by rw [hlog, if_neg hfull, hl]; simp, hb'⟩

/-- Steps that write at most `n` records each write at most `n` times as many as there are of them. -/
theorem foldl_writes {α : Type} {f : State → α → State} {n : Nat} {l : List α} (hf : ∀ v, ∀ x ∈ l, Writes v (f v x) n) (s : State) :
    Writes s (l.foldl f s) (n * l.length) := by
  induction l generalizing s with
  | nil => exact .refl s
  | cons x l ih =>
    have tail := (hf s x List.mem_cons_self).trans (ih (fun v y hy => hf v y (List.mem_cons_of_mem _ hy)) (f s x))
    exact tail.mono (by rw [List.length_cons, Nat.mul_succ]; omega)

theorem each_writes {f : State → Nat → State} {n : Nat} {l : List Nat} (hf : ∀ v, ∀ i ∈ l, Writes v (f v i) n) (s : State) :
    Writes s (s.each l f) (n * l.length) := foldl_writes hf s

/-- R384: a record is in the log after what writes fewer than 65,536 more. -/
theorem Writes.recorded {s v u : State} {e : Ev} {n : Nat} (h : Writes (v.event e) u n) (hn : n < 65536) (hs : s.flt.evNext ≤ v.flt.evNext) :
    Recorded s u e.code e.region e.d0 e.d1 := by
  obtain ⟨r, hf, hseq, hr⟩ := event_logged v e
  have hr0 : Held r 0 (v.event e) := ⟨_, [], by rw [hf]; rfl, Nat.le_refl 0⟩
  obtain ⟨a, b, hl, -⟩ := h.2 r 0 (by omega) hr0
  exact ⟨r, by rw [hl]; simp, by rw [hseq]; exact hs, hr⟩

theorem finish_writes (s : State) (h st code : Nat) : Writes s (s.finish h st code) 0 :=
  have hf : (s.finish h st code).flt = s.flt := (congrArg State.flt (finish_frame s h st code) :)
  .of_flt (by rw [hf]) (by rw [hf])

/-! ### Fences -/

/-- The state without its tiles and networks. -/
def State.sansNetworks (s : State) : State := { s with tiles := [], net := [], ringOut := [] }

section
variable (s : State) (t : Nat)

@[simp] theorem updTile_networks (f : Tile → Tile) : (s.updTile t f).sansNetworks = s.sansNetworks := rfl

@[simp] theorem report_networks (w0 w1 w2 w3 : Nat) : (s.report t w0 w1 w2 w3).sansNetworks = s.sansNetworks :=
  (congrArg State.sansNetworks (report_frame s t w0 w1 w2 w3) :)

@[simp] theorem fabReport_networks (code port : Nat) (msg : Bool) (label unit w2 w3 : Nat) :
    (s.fabReport t code port msg label unit w2 w3).sansNetworks = s.sansNetworks := by simp [State.fabReport]

@[simp] theorem breach_networks (port : Nat) (msg : Bool) (label n : Nat) : (s.breach t port msg label n).sansNetworks = s.sansNetworks := by
  simp [State.breach, State.count, State.occur, apply_ite State.sansNetworks]

@[simp] theorem fenceBlock_networks (key port label unit : Nat) : (s.fenceBlock t key port label unit).sansNetworks = s.sansNetworks := by
  simp [State.fenceBlock, State.occur, State.block]

@[simp] theorem flushPort_networks (port : Nat) : (s.flushPort t port).sansNetworks = s.sansNetworks := by
  simp [State.flushPort, apply_ite State.sansNetworks, each_keeps]

@[simp] theorem setRingOut_networks (l : Tab (List Packet)) : ({ s with ringOut := l } : State).sansNetworks = s.sansNetworks := rfl

@[simp] theorem flushRing_networks (port : Nat) : (s.flushRing t port).sansNetworks = s.sansNetworks := by
  simp [State.flushRing, State.count, State.occur, apply_ite State.sansNetworks]

end

theorem fenceRegion_networks (s : State) (g : Nat) : (s.fenceRegion g).sansNetworks = s.sansNetworks := by
  refine each_keeps State.sansNetworks (fun v u => ?_) _ s
  rw [each_keeps State.sansNetworks, each_keeps State.sansNetworks]
  · intro v p; exact flushRing_networks ..
  · intro v p
    cases neighbour u p with
    | none => rfl
    | some t => simp [apply_ite State.sansNetworks]

theorem fenceTile_networks (s : State) (u : Nat) : (s.fenceTile u).sansNetworks = s.sansNetworks := by
  unfold State.fenceTile
  dsimp only
  rw [each_keeps State.sansNetworks, updTile_networks, each_keeps State.sansNetworks]
  · intro v p; exact flushRing_networks ..
  · intro v p
    cases neighbour u p with
    | none => rfl
    | some t => simp [apply_ite State.sansNetworks]

theorem flt_of_networks {s u : State} (h : u.sansNetworks = s.sansNetworks) : u.flt = s.flt := (congrArg State.flt h :)

end Sys2Proof.Machine
end

section
/-!
Bring-up steps 6 to 9 (R389, R390, R397, R405 to R407, R410), and the settling of O42.
-/

namespace Sys2Proof.Machine

/-! ### A step that ends (R389) -/

theorem bringupStepEnd_runs {s : State} {r : StepRes} (h : s.stepRuns (stepOf r) = true) : exec (.bringupStepEnd r) s = .next (s.stepEnd r) := by
  show execBringupStepEnd r s = _
  rw [execBringupStepEnd, State.whenB, h, if_pos rfl]

theorem stepRuns_of_stepAt {s : State} {n : Nat} (h : StepAt s n) (h7 : n ≠ 7) (h9 : n = 9 → s.boot.s7 = true) : s.stepRuns n = true := by
  obtain ⟨hh, hd, hr, hs⟩ := h
  by_cases e : n = 9
  · simp [State.stepRuns, hh, hd, hr, hs, h7, h9 e]
  · simp [State.stepRuns, hh, hd, hr, hs, h7, e]

theorem stepRuns_front {s : State} (hh : s.boot.halted = none) (hd : s.boot.done = false) (hr : s.boot.rst = false) (hs : 6 ≤ s.boot.step)
    (h7 : s.boot.s7 = false) : s.stepRuns 7 = true := by simp [State.stepRuns, hh, hd, hr, hs, h7]

/-- The boot stage without its handles and what their ends leave. -/
def Boot.sansRunning (b : Boot) : Boot := { b with handles := [], retention := 0, lastDone := 0, partDone := [] }

theorem finish_sansRunning (s : State) (h st code : Nat) : (s.finish h st code).boot.sansRunning = s.boot.sansRunning :=
  (congrArg Boot.sansRunning (finish_boot s h st code) :)

theorem endStep_frame (s : State) (n code : Nat) : { s.endStep n code with boot := s.boot, fordan := s.fordan } = s :=
  (congrArg (fun v : State => { v with boot := s.boot }) (finish_frame (s.updHnd (stepHandle n) fun x => { x with step := n }) _ _ _) :)

theorem endStep_boot (s : State) (n code : Nat) : (s.endStep n code).boot.sansRunning = s.boot.sansRunning :=
  (finish_sansRunning (s.updHnd (stepHandle n) fun x => { x with step := n }) _ _ _ :)

theorem endStep_vol (s : State) (n code : Nat) : (s.endStep n code).fordan.vol = s.fordan.vol :=
  (finish_vol (s.updHnd (stepHandle n) fun x => { x with step := n }) _ _ _ :)

theorem endStep_ended (s : State) (n code : Nat) : StepEnded (s.endStep n code) n code := by
  unfold StepEnded State.endStep
  rw [finish_hnd, updHnd_hnd_self]
  exact ⟨rfl, rfl, rfl⟩

theorem endStep_writes (s : State) (n code : Nat) : Writes s (s.endStep n code) 0 :=
  have hf : (s.endStep n code).flt = s.flt := (congrArg State.flt (endStep_frame s n code) :)
  .of_flt (by rw [hf]) (by rw [hf])

/-- A step that ends and the one that begins. -/
theorem endStep_toStep (s : State) (n code m : Nat) :
    let u := (s.endStep n code).toStep m
    { u with boot := s.boot, fordan := s.fordan } = s ∧ u.boot.step = m ∧ u.boot.lane = s.boot.lane ∧ StepEnded u n code ∧ u.csr = s.csr ∧ Writes s u 0 := by
  have hf := endStep_frame s n code
  have hb := endStep_boot s n code
  have he := endStep_ended s n code
  have hw := endStep_writes s n code
  generalize s.endStep n code = v at *
  exact ⟨hf, rfl, (congrArg Boot.lane hb :), he, (congrArg State.csr hf :), hw⟩

/-! ### Step 6 (R406) -/

/-- The management port on a lane. -/
def State.withLane (s : State) (l : Nat) : State := { s with boot := { s.boot with lane := l } }

theorem stepMgmt_taken (s : State) {a b : Bool} (h : (a || b) = true) :
    s.stepMgmt a b = ((s.withLane (if a then 0 else 1)).endStep 6 0).toStep 8 := by
  cases a <;> cases b
  · cases h
  all_goals rfl

theorem stepMgmt_none (s : State) : s.stepMgmt false false = (((s.withLane 0xFF).event { code := 0xD7, d0 := 0xFF }).endStep 6 0xD7).toStep 8 := rfl

theorem stepMgmt_spec (s : State) (a b : Bool) :
    let u := s.stepMgmt a b
    { u with boot := s.boot, flt := s.flt, csr := s.csr, fordan := s.fordan } = s ∧ u.boot.step = 8 ∧
      u.boot.lane = (if a then 0 else if b then 1 else 0xFF) ∧ StepEnded u 6 (if a || b then 0 else 0xD7) ∧
      (a = false → b = false → Recorded s u 0xD7 0xFF 0xFF 0 ∧ bitOf u.csr.alertSrc 2 = true) := by
  by_cases h : (a || b) = true
  · rw [stepMgmt_taken s h, if_pos h]
    obtain ⟨hf, hs, hl, he, -, -⟩ := endStep_toStep (s.withLane (if a then 0 else 1)) 6 0 8
    generalize ((s.withLane (if a then 0 else 1)).endStep 6 0).toStep 8 = u at *
    refine ⟨(congrArg (fun v : State => { v with boot := s.boot, flt := s.flt, csr := s.csr }) hf :), hs, hl.trans ?_, he, ?_⟩
    · cases a with
      | true => rfl
      | false => rw [show b = true from h]; rfl
    · rintro rfl rfl; cases h
  · obtain ⟨rfl, rfl⟩ : a = false ∧ b = false := by simpa using h
    rw [stepMgmt_none]
    have hv := event_frame (s.withLane 0xFF) { code := 0xD7, d0 := 0xFF }
    have hc := event_csr (s.withLane 0xFF) { code := 0xD7, d0 := 0xFF }
    obtain ⟨hf, hs, hl, he, hcs, hw⟩ := endStep_toStep ((s.withLane 0xFF).event { code := 0xD7, d0 := 0xFF }) 6 0xD7 8
    have hr : Recorded s _ 0xD7 0xFF 0xFF 0 := hw.recorded (s := s) (by decide) (Nat.le_refl _)
    generalize (((s.withLane 0xFF).event { code := 0xD7, d0 := 0xFF }).endStep 6 0xD7).toStep 8 = u at *
    generalize (s.withLane 0xFF).event { code := 0xD7, d0 := 0xFF } = v at *
    refine ⟨?_, hs, hl.trans (congrArg (fun w : State => w.boot.lane) hv :), he, fun _ _ => ⟨hr, ?_⟩⟩
    · have h1 := congrArg (fun w : State => { w with boot := s.boot, flt := s.flt, csr := s.csr, fordan := s.fordan }) hf
      have h2 := congrArg (fun w : State => { w with boot := s.boot, flt := s.flt, csr := s.csr, fordan := s.fordan }) hv
      exact h1.trans h2
    · rw [hcs, hc]
      exact (bitOf_or ..).trans (by rw [show bitOf (alertOf 0xD7) 2 = true by decide, Bool.or_true])

/-! ### Step 7 (R29, R405) -/

/-- R29: the widest form of a configured port is its whole width at 200 Gbit/s. -/
theorem formsOf_head : ∀ l < 16, ∀ w ∈ [200, 400, 800], cfgForm l w = true → (formsOf l w).head? = some ⟨l, w / 200, 200⟩ := by decide

theorem cfgForm_widths {l w : Nat} (h : cfgForm l w = true) (h0 : w ≠ 0) : w ∈ [200, 400, 800] := by
  simp only [cfgForm, Bool.or_eq_true, Bool.and_eq_true, beq_iff_eq] at h
  simp only [List.mem_cons, List.not_mem_nil, or_false]
  omega

theorem find_form_whole {l w : Nat} (hl : l < 16) (hw : cfgForm l w = true) (h0 : w ≠ 0) {at200 : List Nat} (at100 : List Nat)
    (ht : ∀ i < w / 200, l + i ∈ at200) : (formsOf l w).find? (PortForm.trained at200 at100) = some ⟨l, w / 200, 200⟩ := by
  have hh := formsOf_head l hl w (cfgForm_widths hw h0) hw
  cases hf : formsOf l w with
  | nil => rw [hf] at hh; cases hh
  | cons f r =>
    rw [hf] at hh
    obtain rfl := Option.some.inj hh
    exact List.find?_cons_of_pos (by simpa [PortForm.trained] using ht)

/-- R405: the forms of a port of `n` of its own lanes at one rate. -/
def ownForms (l w n r : Nat) : List PortForm :=
  ((upTo (lanesOf w)).filter fun i => (l + i) % n == 0 && decide (i + n ≤ lanesOf w)).map fun i => ⟨l + i, n, r⟩

theorem formsOf_eq (l w : Nat) :
    formsOf l w = ownForms l w 4 200 ++ ownForms l w 2 200 ++ ownForms l w 4 100 ++ ownForms l w 1 200 ++ ownForms l w 2 100 ++ ownForms l w 1 100 :=
  rfl

theorem ownForms_first {l w n r : Nat} {f : PortForm} (hn : 0 < n) (h : f ∈ ownForms l w n r) : 0 < f.n ∧ ∃ i < w / 200, f.first = l + i := by
  obtain ⟨i, hi, rfl⟩ := List.mem_map.mp h
  exact ⟨hn, i, List.mem_range.mp (List.mem_filter.mp hi).1, rfl⟩

/-- The first lane of a form is one of its port's own. -/
theorem formsOf_first {l w : Nat} {f : PortForm} (h : f ∈ formsOf l w) : 0 < f.n ∧ ∃ i < w / 200, f.first = l + i := by
  simp only [formsOf_eq, List.mem_append] at h
  rcases h with ((((h | h) | h) | h) | h) | h <;> exact ownForms_first (by decide) h

theorem find_form_none {l w : Nat} {at200 at100 : List Nat} (ht : ∀ i < w / 200, l + i ∉ at200 ∧ l + i ∉ at100) :
    (formsOf l w).find? (PortForm.trained at200 at100) = none := by
  refine List.find?_eq_none.mpr fun f hf htr => ?_
  obtain ⟨hn, i, hi, hfirst⟩ := formsOf_first hf
  have h0 := List.all_eq_true.mp htr 0 (List.mem_range.mpr hn)
  rw [Nat.add_zero, hfirst, List.contains_iff_mem] at h0
  obtain ⟨h2, h1⟩ := ht i hi
  split at h0
  · exact h2 h0
  · exact h1 h0

/-- R405: the port on one first lane comes up. -/
def State.bringPort (at200 at100 : List Nat) (s : State) (l : Nat) : State :=
  if s.cfgWidth l = 0 then s
  else (s.updPort l fun p => p.come ((formsOf l (s.cfgWidth l)).find? (PortForm.trained at200 at100))).portNarrow l 0

theorem bringPorts_eq (s : State) (at200 at100 : List Nat) : s.bringPorts at200 at100 = s.each (upTo 16) (State.bringPort at200 at100) := rfl

/-- The state without its ports and what a record touches, its settings apart. -/
def State.sansPorts (s : State) : State := { s with ports := [], flt := .init, csr := .init, fordan := { Fordan.init with vol := s.fordan.vol } }

theorem event_ports (s : State) (e : Ev) : (s.event e).sansPorts = s.sansPorts := by
  have h := (congrArg State.sansPorts (event_frame s e) :)
  have hv := event_vol s e
  generalize s.event e = u at *
  exact (congrArg (fun x => { u with ports := [], flt := .init, csr := .init, fordan := { Fordan.init with vol := x } }) hv).trans h

theorem portNarrow_ports (s : State) (l h : Nat) : (s.portNarrow l h).sansPorts = s.sansPorts := by
  obtain e | e := portNarrow_eq s l h <;> rw [e]
  exact event_ports ..

theorem portNarrow_port (s : State) (l h j : Nat) : (s.portNarrow l h).port j = s.port j := by
  obtain e | e := portNarrow_eq s l h <;> rw [e]
  exact (congrArg (fun v : State => v.port j) (event_frame s { code := 0xD8, handle := h, d0 := l }) :)

theorem portNarrow_writes (s : State) (l h : Nat) : Writes s (s.portNarrow l h) 1 := by
  obtain e | e := portNarrow_eq s l h <;> rw [e]
  · exact (Writes.refl s).mono (Nat.zero_le 1)
  · exact event_writes ..

section
variable (at200 at100 : List Nat) (s : State) (l : Nat)

theorem bringPort_ports : (s.bringPort at200 at100 l).sansPorts = s.sansPorts := by
  unfold State.bringPort
  split
  · rfl
  · exact portNarrow_ports ..

theorem bringPort_writes : Writes s (s.bringPort at200 at100 l) 1 := by
  unfold State.bringPort
  split
  · exact (Writes.refl s).mono (Nat.zero_le 1)
  · exact (Writes.of_flt rfl rfl : Writes s (s.updPort l _) 0).trans (portNarrow_writes ..)

theorem bringPort_port_ne {j : Nat} (h : j ≠ l) : (s.bringPort at200 at100 l).port j = s.port j := by
  unfold State.bringPort
  split
  · rfl
  · rw [portNarrow_port]; exact updPort_port_ne s l _ h

theorem bringPort_port_self :
    (s.bringPort at200 at100 l).port l =
      if s.cfgWidth l = 0 then s.port l else (s.port l).come ((formsOf l (s.cfgWidth l)).find? (PortForm.trained at200 at100)) := by
  unfold State.bringPort
  split
  · rfl
  · rw [portNarrow_port]; exact updPort_port_self ..

end

theorem cfgWidth_of_ports {s u : State} (h : u.sansPorts = s.sansPorts) (l : Nat) : u.cfgWidth l = s.cfgWidth l := (congrArg (fun v : State => v.cfgWidth l) h :)
theorem fp_of_ports {s u : State} (h : u.sansPorts = s.sansPorts) : u.fp = s.fp := (congrArg State.fp h :)

theorem bringPorts_ports (s : State) (at200 at100 : List Nat) : (s.bringPorts at200 at100).sansPorts = s.sansPorts :=
  each_keeps State.sansPorts (fun v i => bringPort_ports at200 at100 v i) _ s

/-- R405: every port as its own lanes make it. -/
theorem bringPorts_port (s : State) (at200 at100 : List Nat) {l : Nat} (hl : l < 16) :
    (s.bringPorts at200 at100).port l =
      if s.cfgWidth l = 0 then s.port l else (s.port l).come ((formsOf l (s.cfgWidth l)).find? (PortForm.trained at200 at100)) := by
  obtain ⟨a, b, hab, he⟩ := each_split (mem_upTo.mpr hl) (State.bringPort at200 at100) s
  have hnd := upTo_nodup 16
  rw [hab, List.nodup_append, List.nodup_cons] at hnd
  obtain ⟨-, ⟨hb, -⟩, hdis⟩ := hnd
  have hne (v : State) (i j : Nat) (h : j ≠ i) := bringPort_port_ne at200 at100 v i h
  have ha : l ∉ a := fun h => hdis l h l List.mem_cons_self rfl
  have hp := each_unit_ne State.port hne ha s
  have hk := cfgWidth_of_ports (each_keeps State.sansPorts (fun v i => bringPort_ports at200 at100 v i) a s) l
  rw [bringPorts_eq, he, each_unit_ne State.port hne hb, bringPort_port_self, hp, hk]

theorem Port.come_none_width (p : Port) : (p.come none).width = 0 := rfl

/-- R405: a configured port none of whose lanes trained is recorded. -/
theorem bringPorts_recorded (s : State) {at200 at100 : List Nat} {l : Nat} (hl : l < 16) (h0 : s.cfgWidth l ≠ 0)
    (ht : ∀ i < s.cfgWidth l / 200, l + i ∉ at200 ∧ l + i ∉ at100) :
    ∃ v : State, s.flt.evNext ≤ v.flt.evNext ∧ Writes (v.event { code := 0xD8, d0 := l }) (s.bringPorts at200 at100) 16 := by
  obtain ⟨a, b, hab, he⟩ := each_split (mem_upTo.mpr hl) (State.bringPort at200 at100) s
  have hlen : a.length + b.length < 16 := by
    have := congrArg List.length hab
    rw [List.length_range, List.length_append, List.length_cons] at this
    omega
  have hw := each_writes (l := a) (fun v i _ => bringPort_writes at200 at100 v i) s
  have hk := cfgWidth_of_ports (each_keeps State.sansPorts (fun v i => bringPort_ports at200 at100 v i) a s) l
  have hb := each_writes (l := b) (fun v i _ => bringPort_writes at200 at100 v i) ((s.each a (State.bringPort at200 at100)).bringPort at200 at100 l)
  rw [← he, ← bringPorts_eq] at hb
  generalize s.each a (State.bringPort at200 at100) = v at *
  refine ⟨v.updPort l fun p => p.come none, hw.1, ?_⟩
  have hstep : v.bringPort at200 at100 l = (v.updPort l fun p => p.come none).event { code := 0xD8, d0 := l } := by
    unfold State.bringPort
    rw [hk, if_neg h0, find_form_none ht]
    unfold State.portNarrow
    rw [updPort_port_self, Port.come_none_width, if_pos]
    exact (Nat.pos_of_ne_zero h0).trans_eq hk.symm
  rw [hstep] at hb
  exact hb.mono (by omega)

theorem addCommit_mem {s : State} {x : LogItem} {l : List LogItem} (h : x ∈ l) (cls : Nat) : Due x (s.addCommit cls l) := by
  unfold Due State.addCommit
  by_cases hx : x ∈ s.boot.commitDue
  · exact List.mem_append_left _ hx
  · exact List.mem_append_right _ (List.mem_filter.mpr ⟨h, by simpa using hx⟩)

/-- Step 7 is done, with the ports as they are. -/
def State.frontDone (s : State) : State := { s with boot := { s.boot with s7 := true } }

/-- R405: the code of step 7. -/
def State.frontCode (s : State) : Nat := if (upTo 16).any fun l => decide ((s.port l).width < s.cfgWidth l) then 0xD8 else 0

theorem commitPorts_due {s : State} {l : Nat} (hl : l < 16) (h : s.portEntry l ≠ Tab.get 0 s.fp.ports l) : Due ⟨9, 0, l⟩ s.commitPorts :=
  addCommit_mem (List.mem_map.mpr ⟨l, List.mem_filter.mpr ⟨mem_upTo.mpr hl, by simpa [State.portMoved] using h⟩, rfl⟩) 0

theorem stepFront_eq (s : State) (at200 at100 : List Nat) :
    s.stepFront at200 at100 =
      (s.bringPorts at200 at100).commitPorts.frontDone.endStep 7 (s.bringPorts at200 at100).commitPorts.frontCode := by
  unfold State.stepFront State.frontCode State.frontDone
  generalize (s.bringPorts at200 at100).commitPorts = v
  rfl

theorem commitPorts_spec (s : State) :
    { s.commitPorts with boot := s.boot } = s ∧ s.commitPorts.boot.step = s.boot.step ∧ s.commitPorts.boot.done = s.boot.done ∧
      s.commitPorts.frontCode = s.frontCode := ⟨rfl, rfl, rfl, rfl⟩

theorem frontDone_ends (s : State) (code : Nat) :
    let u := s.frontDone.endStep 7 code
    { u with boot := s.boot, fordan := s.fordan } = s ∧ u.boot.s7 = true ∧ u.boot.step = s.boot.step ∧ u.boot.done = s.boot.done ∧
      u.boot.commitDue = s.boot.commitDue ∧ StepEnded u 7 code ∧ Writes s u 0 := by
  have hf := endStep_frame s.frontDone 7 code
  have hb := endStep_boot s.frontDone 7 code
  have he := endStep_ended s.frontDone 7 code
  have hw := endStep_writes s.frontDone 7 code
  generalize s.frontDone.endStep 7 code = u at *
  exact ⟨(congrArg (fun v : State => { v with boot := s.boot }) hf :), (congrArg Boot.s7 hb :), (congrArg Boot.step hb :),
    (congrArg Boot.done hb :), (congrArg Boot.commitDue hb :), he, hw⟩

theorem port_of_table {s u : State} (h : u.ports = s.ports) (l : Nat) : u.port l = s.port l := congrArg (fun t => Tab.get Port.init t l) h

theorem portEntry_of_table {s u : State} (h : u.ports = s.ports) (l : Nat) : u.portEntry l = s.portEntry l := by
  rw [State.portEntry, State.portEntry, port_of_table h]

theorem frontCode_of_ports {s u : State} (hp : u.sansPorts = s.sansPorts) :
    u.frontCode = if (upTo 16).any fun l => decide ((u.port l).width < s.cfgWidth l) then 0xD8 else 0 := by
  simp only [State.frontCode, cfgWidth_of_ports hp]

/-- Step 7 ends with the ports that came up, and what differs from the floor plan waits for step 9. -/
theorem stepFront_spec (s : State) (at200 at100 : List Nat) :
    let u := s.stepFront at200 at100
    { u with boot := s.boot, ports := s.ports, flt := s.flt, csr := s.csr, fordan := s.fordan } = s ∧
      u.boot.s7 = true ∧ u.boot.step = s.boot.step ∧ u.boot.done = s.boot.done ∧ u.ports = (s.bringPorts at200 at100).ports ∧
      (∀ l < 16, u.portEntry l ≠ Tab.get 0 s.fp.ports l → ⟨9, 0, l⟩ ∈ u.boot.commitDue) ∧
      StepEnded u 7 (if ((upTo 16).any fun l => decide ((u.port l).width < s.cfgWidth l)) then 0xD8 else 0) ∧
      Writes (s.bringPorts at200 at100) u 0 := by
  have hp := bringPorts_ports s at200 at100
  rw [stepFront_eq]
  have hdue (l : Nat) (hl : l < 16) := commitPorts_due (s := s.bringPorts at200 at100) hl
  generalize (s.bringPorts at200 at100) = v at *
  obtain ⟨hc, hcs, hcd, hcode⟩ := commitPorts_spec v
  generalize v.commitPorts = c at *
  obtain ⟨hf, h7, hus, hud, hudue, he, hw⟩ := frontDone_ends c c.frontCode
  generalize c.frontDone.endStep 7 c.frontCode = u at *
  have hports : u.ports = v.ports := (congrArg State.ports hf :).trans (congrArg State.ports hc :)
  have hboot : v.boot = s.boot := (congrArg State.boot hp :)
  refine ⟨?_, h7, by rw [hus, hcs, hboot], by rw [hud, hcd, hboot], hports, fun l hl hne => ?_, ?_, ?_⟩
  · have h1 := (congrArg (fun w : State => { w with boot := s.boot, ports := s.ports, flt := s.flt, csr := s.csr, fordan := s.fordan }) hf :)
    have h2 := (congrArg (fun w : State => { w with boot := s.boot, ports := s.ports, flt := s.flt, csr := s.csr, fordan := s.fordan }) hc :)
    have h3 := (congrArg (fun w : State => { w with boot := s.boot, ports := s.ports, flt := s.flt, csr := s.csr, fordan := s.fordan }) hp :)
    exact h1.trans (h2.trans h3)
  · rw [portEntry_of_table hports l, ← fp_of_ports hp] at hne
    rw [hudue]
    exact hdue l hl hne
  · simp only [port_of_table hports]
    rwa [hcode, frontCode_of_ports hp] at he
  · have hflt : c.flt = v.flt := (congrArg State.flt hc :)
    exact (Writes.of_flt (by rw [hflt]) (by rw [hflt]) : Writes v c 0).trans hw

/-- R405: a port all of whose lanes trained at 200 Gbit/s. -/
theorem come_whole {l w : Nat} (p : Port) (hw : w ∈ [200, 400, 800]) :
    p.come (some ⟨l, w / 200, 200⟩) = { p with up := true, width := w, lanes := (2 ^ (w / 200) - 1) * 2 ^ l, rate := 200, retr := none } := by
  have : w / 200 * 200 = w := by
    simp only [List.mem_cons, List.not_mem_nil, or_false] at hw
    omega
  simp only [Port.come, PortForm.width, PortForm.mask, this]

theorem front_ends (s : State) (at200 at100 : List Nat) (hd : s.boot.done = false) :
    let u := s.stepFront at200 at100
    { u with boot := s.boot, ports := s.ports, flt := s.flt, csr := s.csr, fordan := s.fordan } = s ∧
      u.boot.s7 = true ∧ u.boot.step = s.boot.step ∧ u.boot.done = false ∧
      (∀ l < 16,
        (s.cfgWidth l = 0 → u.port l = s.port l) ∧
        (cfgForm l (s.cfgWidth l) = true → s.cfgWidth l ≠ 0 → (∀ i < s.cfgWidth l / 200, l + i ∈ at200) →
          u.port l = { s.port l with
            up := true, width := s.cfgWidth l, lanes := (2 ^ (s.cfgWidth l / 200) - 1) * 2 ^ l, rate := 200, retr := none }) ∧
        (s.cfgWidth l ≠ 0 → (∀ i < s.cfgWidth l / 200, l + i ∉ at200 ∧ l + i ∉ at100) →
          u.port l = { s.port l with up := false, width := 0, lanes := 0, rate := 0, retr := none } ∧ Recorded s u 0xD8 0xFF l 0) ∧
        (s.cfgWidth l ≠ 0 → u.portEntry l ≠ Tab.get 0 s.fp.ports l → (⟨9, 0, l⟩ : LogItem) ∈ u.boot.commitDue)) ∧
      StepEnded u 7 (if ((upTo 16).any fun l => decide ((u.port l).width < s.cfgWidth l)) then 0xD8 else 0) := by
  have hspec := stepFront_spec s at200 at100
  generalize s.stepFront at200 at100 = u at *
  obtain ⟨hf, h7, hstep, hdone, hports, hdue, he, hw⟩ := hspec
  refine ⟨hf, h7, hstep, hdone.trans hd, fun l hl => ?_, he⟩
  have hport := port_of_table hports l
  rw [hport, bringPorts_port s at200 at100 hl]
  refine ⟨fun h => if_pos h, fun hform h0 ht => ?_, fun h0 ht => ⟨?_, ?_⟩, fun _ => hdue l hl⟩
  · rw [if_neg h0, find_form_whole hl hform h0 at100 ht]
    exact come_whole _ (cfgForm_widths hform h0)
  · rw [if_neg h0, find_form_none ht]; rfl
  · obtain ⟨v, hn, hv⟩ := bringPorts_recorded s hl h0 ht
    exact (hv.trans hw).recorded (by decide) hn

/-! ### Step 8 (R229) -/

theorem loopback_field (s : State) (n : Nat) {f : Nat} (hf : f < 16) : (s.loopback n).field f = { s.field f with delay := Config.branchDelay f n } := by
  obtain ⟨v, hv, he⟩ := each_unit State.field (f := fun s f => s.updField f fun x => { x with delay := Config.branchDelay f n })
    (fun v i j h => updField_field_ne v i _ h) (upTo_nodup 16) (mem_upTo.mpr hf) s
  unfold State.loopback
  rw [he, updField_field_self, hv]

/-- Changes of fields, one after another, touch the fields only. -/
theorem each_updField_frame (f : Nat → Field → Field) (l : List Nat) (s : State) :
    { s.each l (fun v i => v.updField i (f i)) with fields := s.fields } = s := by
  induction l generalizing s with
  | nil => rfl
  | cons i l ih => exact (congrArg (fun v : State => { v with fields := s.fields }) (ih (s.updField i (f i))) :)

theorem loopback_frame (s : State) (n : Nat) : { s.loopback n with fields := s.fields } = s := by
  unfold State.loopback
  exact each_updField_frame (fun f x => { x with delay := Config.branchDelay f n }) (upTo 16) s

theorem stepTime_spec (s : State) :
    let u := ((s.loopback 0).endStep 8 0).toStep 9
    { u with boot := s.boot, fordan := s.fordan, fields := s.fields } = s ∧ u.boot.step = 9 ∧
      StepEnded u 8 0 ∧ ∀ f < 16, u.field f = { s.field f with delay := Config.branchDelay f 0 } := by
  have hl := loopback_frame s 0
  have hfield (f : Nat) (hf : f < 16) := loopback_field s 0 hf
  generalize s.loopback 0 = v at *
  obtain ⟨hf, hs, -, he, -, -⟩ := endStep_toStep v 8 0 9
  generalize (v.endStep 8 0).toStep 9 = u at *
  refine ⟨?_, hs, he, fun f h => (congrArg (fun w : State => w.field f) hf :).trans (hfield f h)⟩
  have h1 := (congrArg (fun w : State => { w with boot := s.boot, fordan := s.fordan, fields := s.fields }) hf :)
  have h2 := (congrArg (fun w : State => { w with boot := s.boot, fordan := s.fordan }) hl :)
  exact h1.trans h2

/-! ### Step 9: the regions by the floor plan (R24, R407) -/

/-- The state without what the start of a region touches. -/
def State.sansFloor (s : State) : State :=
  { s with
    regions := [], flt := { s.flt with retest := 0, queueM := 0 }, flash := { s.flash with objs := [] }, fordan := { s.fordan with vol := [] } }

/-- R407: a region that is to be tested again. -/
def State.queueRetest (s : State) (g : Nat) : State :=
  { s with flt := { s.flt with retest := setBit s.flt.retest g, queueM := setBit s.flt.queueM g } }

/-- R24, R407: whether the floor plan in force, or a marker, has a region tested again. -/
def State.toRetest (s : State) (g : Nat) : Bool :=
  decide (Tab.get 0 s.fp.region g ≠ 5 ∧ ((bitOf s.flash.moultMk g || bitOf s.flash.retestMk g) = true ∨ Tab.get 0 s.fp.region g = 4))

/-- R24: a region's state at the end of bring-up. -/
def State.startSt (s : State) (g : Nat) : RegSt :=
  if Tab.get 0 s.fp.region g = 5 then .unusable else if s.toRetest g then .untested else .dark

/-- R407: the region as bring-up leaves it. -/
def Region.started (r : Region) (st : RegSt) (phases : Nat) : Region := { r with st := st, op := 0, railOp := 0, phases := phases }

/-- R407: the state from which the region takes its values: its re-test waits, and it stands at P0. -/
def State.startFrom (s : State) (g : Nat) : State := (s.whenB (s.toRetest g) fun v => v.queueRetest g).putSetting (0x2820 + g) 2 0

theorem putSetting_floor (s : State) (ix sub v : Nat) : (s.putSetting ix sub v).sansFloor = s.sansFloor := by
  unfold State.putSetting; split <;> rfl

theorem whenB_queueRetest_floor (s : State) (g : Nat) (c : Bool) : (s.whenB c fun v => v.queueRetest g).sansFloor = s.sansFloor := by
  cases c <;> rfl

theorem startFrom_floor (s : State) (g : Nat) : (s.startFrom g).sansFloor = s.sansFloor := by
  rw [State.startFrom, putSetting_floor, whenB_queueRetest_floor]

theorem fp_of_floor {s u : State} (h : u.sansFloor = s.sansFloor) : u.fp = s.fp := (congrArg State.fp h :)

theorem startRegion_eq (s : State) (g : Nat) :
    s.startRegion g = (s.startFrom g).updRegion g fun r => r.started (s.startSt g) (Tab.get 0 s.fp.phases g) := by
  rw [← fp_of_floor (startFrom_floor s g)]
  unfold State.startRegion State.startFrom State.startSt State.whenB State.toRetest
  simp only [decide_eq_true_eq]
  rfl

theorem updRegion_floor (s : State) (g : Nat) (f : Region → Region) : (s.updRegion g f).sansFloor = s.sansFloor := rfl

theorem startRegion_floor (s : State) (g : Nat) : (s.startRegion g).sansFloor = s.sansFloor := by
  rw [startRegion_eq, updRegion_floor, startFrom_floor]

theorem startFrom_region (s : State) (g j : Nat) : (s.startFrom g).region j = s.region j := by
  have h := (congrArg (fun w : State => w.region j) (putSetting_frame (s.whenB (s.toRetest g) fun v => v.queueRetest g) (0x2820 + g) 2 0) :)
  refine h.trans ?_
  cases s.toRetest g <;> rfl

theorem putSetting_flt (s : State) (ix sub v : Nat) : (s.putSetting ix sub v).flt = s.flt :=
  (congrArg State.flt (putSetting_frame s ix sub v) :)

theorem startRegion_flt (s : State) (g : Nat) : (s.startRegion g).flt = (s.whenB (s.toRetest g) fun v => v.queueRetest g).flt := by
  rw [startRegion_eq]
  exact putSetting_flt ..

theorem startRegion_bits (s : State) (g j : Nat) :
    bitOf (s.startRegion g).flt.retest j = (bitOf s.flt.retest j || (s.toRetest g && decide (j = g))) ∧
      bitOf (s.startRegion g).flt.queueM j = (bitOf s.flt.queueM j || (s.toRetest g && decide (j = g))) := by
  rw [startRegion_flt]
  cases s.toRetest g with
  | false => simp [State.whenB]
  | true => exact ⟨bitOf_setBit .., bitOf_setBit ..⟩

theorem startRegion_region_self (s : State) (g : Nat) :
    (s.startRegion g).region g = (s.region g).started (s.startSt g) (Tab.get 0 s.fp.phases g) := by
  rw [startRegion_eq, updRegion_region_self, startFrom_region]

theorem startRegion_region_ne (s : State) {g j : Nat} (h : j ≠ g) : (s.startRegion g).region j = s.region j := by
  rw [startRegion_eq, updRegion_region_ne _ _ _ h, startFrom_region]

theorem updRegion_setting (s : State) (g : Nat) (f : Region → Region) (ix sub : Nat) : (s.updRegion g f).setting ix sub = s.setting ix sub := rfl

theorem whenB_queueRetest_setting (s : State) (g ix sub : Nat) (c : Bool) :
    (s.whenB c fun v => v.queueRetest g).setting ix sub = s.setting ix sub := by cases c <;> rfl

theorem startRegion_setting_self (s : State) (g : Nat) : (s.startRegion g).setting (0x2820 + g) 2 = 0 := by
  rw [startRegion_eq, updRegion_setting, State.startFrom, setting_putSetting_self]

theorem startRegion_setting_ne (s : State) {g j : Nat} (h : j ≠ g) :
    (s.startRegion g).setting (0x2820 + j) 2 = s.setting (0x2820 + j) 2 := by
  rw [startRegion_eq, updRegion_setting, State.startFrom, setting_putSetting_ne _ _ (by decide) (by decide) (fun e => h ?_), whenB_queueRetest_setting]
  have := congrArg Prod.fst e
  dsimp only at this
  omega

/-- What the start of the regions decides of region `g`, and what it leaves. -/
structure FloorUnit where
  region : Region
  point : Nat
  retest : Bool
  queued : Bool
  rest : State

def State.floorUnit (s : State) (g : Nat) : FloorUnit :=
  ⟨s.region g, s.setting (0x2820 + g) 2, bitOf s.flt.retest g, bitOf s.flt.queueM g, s.sansFloor⟩

theorem startRegion_floorUnit_ne (s : State) (g j : Nat) (h : j ≠ g) : (s.startRegion g).floorUnit j = s.floorUnit j := by
  obtain ⟨h1, h2⟩ := startRegion_bits s g j
  rw [decide_eq_false h, Bool.and_false, Bool.or_false] at h1 h2
  unfold State.floorUnit
  rw [h1, h2, startRegion_floor, startRegion_region_ne s h, startRegion_setting_ne s h]

/-- R407: every region by the floor plan in force and its markers, at P0. -/
theorem startRegions_spec (s : State) {g : Nat} (hg : g < 32) :
    let u := s.each (upTo 32) State.startRegion
    (u.region g).op = 0 ∧ (u.region g).phases = Tab.get 0 s.fp.phases g ∧ (u.region g).st = s.startSt g ∧ u.setting (0x2820 + g) 2 = 0 ∧
      (s.toRetest g = true → bitOf u.flt.retest g = true ∧ bitOf u.flt.queueM g = true) := by
  obtain ⟨v, hv, he⟩ := each_unit State.floorUnit startRegion_floorUnit_ne (upTo_nodup 32) (mem_upTo.mpr hg) s
  have hrest := congrArg FloorUnit.rest hv
  have hfp : v.fp = s.fp := (congrArg State.fp hrest :)
  have hmark : v.toRetest g = s.toRetest g := (congrArg (fun w : State => w.toRetest g) hrest :)
  have hst : v.startSt g = s.startSt g := (congrArg (fun w : State => w.startSt g) hrest :)
  have hregion := (congrArg FloorUnit.region he :)
  have hpoint := (congrArg FloorUnit.point he :)
  have hretest := (congrArg FloorUnit.retest he :)
  have hqueued := (congrArg FloorUnit.queued he :)
  generalize s.each (upTo 32) State.startRegion = u at *
  dsimp only [State.floorUnit] at hregion hpoint hretest hqueued
  obtain ⟨h1, h2⟩ := startRegion_bits v g g
  rw [startRegion_region_self, hst, hfp] at hregion
  rw [startRegion_setting_self] at hpoint
  rw [h1, hmark] at hretest
  rw [h2, hmark] at hqueued
  refine ⟨congrArg Region.op hregion, congrArg Region.phases hregion, congrArg Region.st hregion, hpoint, fun h => ?_⟩
  rw [hretest, hqueued, h, decide_eq_true rfl]
  exact ⟨Bool.or_true _, Bool.or_true _⟩

theorem startRegions_floor (s : State) : (s.each (upTo 32) State.startRegion).sansFloor = s.sansFloor :=
  each_keeps State.sansFloor startRegion_floor _ s

/-! ### Step 9: tiles fenced by the floor plan (R185) -/

/-- Whether a tile is cut off from the networks. -/
def State.cutOff (t : Nat) (s : State) : Bool := (s.tile t).selfFenced

theorem updTile_cutOff (s : State) (n : Nat) {f : Tile → Tile} (hf : ∀ x, (f x).selfFenced = x.selfFenced) (t : Nat) :
    (s.updTile n f).cutOff t = s.cutOff t := by
  unfold State.cutOff
  by_cases h : t = n
  · subst h; rw [updTile_tile_self, hf]
  · rw [updTile_tile_ne s n f h]

section
variable (s : State) (n t : Nat)

theorem putMsg_cutOff (m : Msg) : (s.putMsg m).cutOff t = s.cutOff t := rfl

@[simp] theorem launch_cutOff (rr : Nat) (x : Snd) : (s.launch n rr x).cutOff t = s.cutOff t := by
  unfold State.launch
  dsimp only
  split
  · exact updTile_cutOff s n (by intro; rfl) t
  · exact (putMsg_cutOff ..).trans (updTile_cutOff s n (by intro; rfl) t)

@[simp] theorem report_cutOff (w0 w1 w2 w3 : Nat) : (s.report n w0 w1 w2 w3).cutOff t = s.cutOff t := by
  unfold State.report State.sendLater State.sendOn
  split
  · exact updTile_cutOff s n (by intro; rfl) t
  · split
    · exact updTile_cutOff s n (by intro; rfl) t
    · exact launch_cutOff ..

@[simp] theorem count_cutOff (k m : Nat) : (s.count n k m).cutOff t = s.cutOff t := updTile_cutOff s n (by intro; rfl) t
@[simp] theorem occur_cutOff (code : Nat) : (s.occur n code).cutOff t = s.cutOff t := updTile_cutOff s n (by intro; rfl) t
@[simp] theorem block_cutOff (key : Nat) : (s.block n key).cutOff t = s.cutOff t := updTile_cutOff s n (by intro; rfl) t

@[simp] theorem fabReport_cutOff (code port : Nat) (msg : Bool) (label unit w2 w3 : Nat) :
    (s.fabReport n code port msg label unit w2 w3).cutOff t = s.cutOff t :=
  (updTile_cutOff _ n (by intro; rfl) t).trans (report_cutOff ..)

@[simp] theorem breach_cutOff (port : Nat) (msg : Bool) (label m : Nat) : (s.breach n port msg label m).cutOff t = s.cutOff t := by
  unfold State.breach
  split
  · rfl
  · dsimp only
    generalize port + (if msg then 8 else 0) = key
    split
    · rw [occur_cutOff, count_cutOff]
    · refine (updTile_cutOff _ n (by intro; rfl) t).trans ?_
      rw [fabReport_cutOff, occur_cutOff, count_cutOff]

theorem fenceBlock_cutOff (key port label unit : Nat) : (s.fenceBlock n key port label unit).cutOff t = s.cutOff t := by
  rw [State.fenceBlock, fabReport_cutOff, occur_cutOff, block_cutOff]

theorem flushPort_cutOff (port : Nat) : (s.flushPort n port).cutOff t = s.cutOff t := by
  unfold State.flushPort
  dsimp only
  split
  · rfl
  · rw [each_keeps (State.cutOff t) (fun v u => fenceBlock_cutOff v n t ..), breach_cutOff]
    exact updTile_cutOff s n (by intro; rfl) t

theorem flushRing_cutOff (port : Nat) : (s.flushRing n port).cutOff t = s.cutOff t := by
  unfold State.flushRing
  dsimp only
  split
  · rfl
  · rw [occur_cutOff, count_cutOff]
    exact updTile_cutOff _ n (by intro; rfl) t

end

/-- R185: a tile's neighbours fence their ports toward it. -/
def State.fenceSide (u : Nat) (s : State) (p : Nat) : State :=
  match neighbour u p with
  | none => s
  | some t =>
    let q := opposite p
    if (s.tile t).unitFence.contains q then s
    else (s.flushPort t q).updTile t fun x => { x with unitFence := insertSet q x.unitFence }

theorem fenceTile_eq (s : State) (u : Nat) :
    s.fenceTile u = (((s.each (ringPorts u) fun s p => s.flushRing u p).updTile u fun x => { x with selfFenced := true }).each [0, 1, 2, 3]
      (State.fenceSide u)) := rfl

theorem fenceSide_cutOff (s : State) (u p t : Nat) : (s.fenceSide u p).cutOff t = s.cutOff t := by
  unfold State.fenceSide
  split
  · rfl
  · dsimp only
    split
    · rfl
    · exact (updTile_cutOff _ _ (by intro; rfl) t).trans (flushPort_cutOff ..)

theorem fenceTile_cutOff_self (s : State) (t : Nat) : (s.fenceTile t).cutOff t = true := by
  rw [fenceTile_eq, each_keeps (State.cutOff t) fun v p => fenceSide_cutOff v t p t]
  unfold State.cutOff
  rw [updTile_tile_self]

theorem fenceTile_cutOff (s : State) (u : Nat) {t : Nat} (h : s.cutOff t = true) : (s.fenceTile u).cutOff t = true := by
  by_cases e : t = u
  · rw [e]; exact fenceTile_cutOff_self s u
  · rw [fenceTile_eq, each_keeps (State.cutOff t) fun v p => fenceSide_cutOff v u p t]
    unfold State.cutOff
    rw [updTile_tile_ne _ _ _ e]
    exact (each_keeps (State.cutOff t) (fun v p => flushRing_cutOff v u t p) _ s).trans h

/-- Every tile that the floor plan fences is cut off. -/
theorem fenceTiles_cutOff (s : State) {l : List Nat} {t : Nat} (ht : t ∈ l) : (s.each l State.fenceTile).cutOff t = true := by
  obtain ⟨a, b, -, he⟩ := each_split ht State.fenceTile s
  rw [he]
  exact each_ind (P := fun v => v.cutOff t = true) (fun v i _ h => fenceTile_cutOff v i h) (fenceTile_cutOff_self _ t)

theorem fenceTiles_networks (s : State) (l : List Nat) : (s.each l State.fenceTile).sansNetworks = s.sansNetworks :=
  each_keeps State.sansNetworks fenceTile_networks l s

/-! ### Step 9: the commit of what bring-up found (R371, R410) -/

/-- The two bits that a fault unit keeps for each region to be tested. -/
def Flt.tests (f : Flt) : Flt := { Flt.init with retest := f.retest, queueM := f.queueM }

/-- The state without what a commit touches that abandons no load and restores no stack; the settings and the tests that wait stay. -/
def State.sansCommit (s : State) : State :=
  { s with
    tiles := [], train := .init, csr := .init, flt := s.flt.tests, fordan := { Fordan.init with vol := s.fordan.vol },
    boot := { s.boot.sansRunning with hctr := 0, commitDue := [], commitCls := 0 }, flash := { s.flash with fp0 := .blank, fp1 := .blank } }

theorem event_commit (s : State) (e : Ev) : (s.event e).sansCommit = s.sansCommit := by
  have h := (congrArg State.sansCommit (event_frame s e) :)
  have hv := event_vol s e
  have hf := (congrArg Flt.tests (event_sansLog s e) :)
  generalize s.event e = u at *
  exact (show u.sansCommit = { ({ u with flt := s.flt, csr := s.csr, fordan := s.fordan } : State).sansCommit with
    flt := u.flt.tests, fordan := { Fordan.init with vol := u.fordan.vol } } from rfl).trans (by rw [h, hv, show u.flt.tests = s.flt.tests from hf]; rfl)

theorem finish_commit (s : State) (h st code : Nat) : (s.finish h st code).sansCommit = s.sansCommit := by
  have hf := (congrArg State.sansCommit (finish_frame s h st code) :)
  have hb := finish_sansRunning s h st code
  have hv := finish_vol s h st code
  generalize s.finish h st code = u at *
  exact (show u.sansCommit = { ({ u with boot := s.boot, fordan := s.fordan } : State).sansCommit with
    boot := { u.boot.sansRunning with hctr := 0, commitDue := [], commitCls := 0 }, fordan := { Fordan.init with vol := u.fordan.vol } } from rfl).trans
    (by rw [hf, hv, hb]; rfl)

/-- What a commit needs of a state to leave the stacks and the load alone. -/
def State.quiet (s : State) : Prop := s.img.load = none ∧ ∀ c ∈ s.flt.todo, ∀ j, c.2 ≠ .stack j

/-- A step of a quiet commit: it keeps what `sansCommit` keeps, whether each tile is cut off, and the repairs to come, and writes at most one
record. -/
structure CommitStep (s u : State) : Prop where
  rest : u.sansCommit = s.sansCommit
  cutOff : ∀ t, u.cutOff t = s.cutOff t
  todo : u.flt.todo = s.flt.todo
  writes : Writes s u 1

theorem CommitStep.refl (s : State) : CommitStep s s := ⟨rfl, fun _ => rfl, rfl, (Writes.refl s).mono (Nat.zero_le 1)⟩

theorem event_commitStep (s : State) (e : Ev) : CommitStep s (s.event e) where
  rest := event_commit s e
  cutOff t := (congrArg (State.cutOff t) (event_frame s e) :)
  todo := (event_flt s e).1
  writes := event_writes s e

theorem dropSlotWrite_commitStep (s : State) : CommitStep s s.dropSlotWrite := by
  unfold State.dropSlotWrite
  split
  · exact .refl s
  · rename_i slot h hw
    have := event_commitStep (s.updTrain fun r => { (r.setSlot slot none) with writing := none, snapReq := some h }) { code := 0xC2, handle := h }
    exact ⟨this.rest, this.cutOff, this.todo, this.writes⟩

theorem beginVerify_commitStep (s : State) : CommitStep s s.beginVerify := by
  unfold State.beginVerify
  split
  · exact ⟨rfl, fun _ => rfl, rfl, (Writes.of_flt rfl rfl : Writes s _ 0).mono (Nat.zero_le 1)⟩
  · exact .refl s

theorem CommitStep.of_rest {s u : State} (h : u.sansCommit = s.sansCommit) (ht : u.tiles = s.tiles) (hf : u.flt.todo = s.flt.todo)
    (hl : u.flt.log = s.flt.log) (hn : u.flt.evNext = s.flt.evNext) : CommitStep s u where
  rest := h
  cutOff t := congrArg (fun x => (Tab.get Tile.init x t).selfFenced) ht
  todo := hf
  writes := (Writes.of_flt hl hn).mono (Nat.zero_le 1)

theorem issue_commitStep (s : State) (kind part k : Nat) : CommitStep s (s.issue kind part k).2 := .of_rest rfl rfl rfl rfl rfl

theorem finish_commitStep (s : State) (h st code : Nat) : CommitStep s (s.finish h st code) :=
  have hf := finish_frame s h st code
  have hflt : (s.finish h st code).flt = s.flt := (congrArg State.flt hf :)
  .of_rest (finish_commit s h st code) (congrArg State.tiles hf :) (by rw [hflt]) (by rw [hflt]) (by rw [hflt])

theorem marked_commitStep (s : State) : CommitStep s s.marked := by
  unfold State.marked
  extract_lets items new f f' v
  have hf : { f' with fp0 := .blank, fp1 := .blank } = { f with fp0 := .blank, fp1 := .blank } := by unfold f'; split <;> rfl
  exact .of_rest (congrArg (fun x => { s.sansCommit with flash := x }) hf) rfl rfl rfl rfl

theorem marked_due (s : State) : s.marked.boot.commitDue = [] := rfl

/-- What touches the clock lists only. -/
theorem CommitStep.of_clk {s u : State} (hf : ({ u with tiles := [] } : State) = { s with tiles := [] })
    (ht : ∀ t, ({ u.tile t with clk := none } : Tile) = { s.tile t with clk := none }) :
    CommitStep s u ∧ u.boot.commitDue = s.boot.commitDue := by
  have hflt : u.flt = s.flt := (congrArg State.flt hf :)
  exact ⟨⟨(congrArg State.sansCommit hf :), fun t => (congrArg Tile.selfFenced (ht t) :), by rw [hflt],
    (Writes.of_flt (by rw [hflt]) (by rw [hflt])).mono (Nat.zero_le 1)⟩, (congrArg (fun v : State => v.boot.commitDue) hf :)⟩

theorem writeClkLists_commitStep (s : State) : CommitStep s s.writeClkLists ∧ s.writeClkLists.boot.commitDue = s.boot.commitDue :=
  CommitStep.of_clk (writeClkLists_frame s) (writeClkLists_tile s)

/-- R213: with no stack to restore the list of repairs stays. -/
theorem restoreStacks_none {s : State} (h : ∀ c ∈ s.flt.todo, ∀ j, c.2 ≠ .stack j) : s.restoreStacks = s := by
  unfold State.restoreStacks
  dsimp only
  rw [(List.filterMap_eq_nil_iff.mpr ?due : List.filterMap _ s.flt.todo = []), (List.filter_eq_self.mpr ?keep : List.filter _ s.flt.todo = _)]
  case due =>
    intro c hc
    split
    · rename_i k hk; exact absurd hk (h c hc k)
    · rfl
  case keep =>
    intro c hc
    split
    · rename_i k hk; exact absurd hk (h c hc k)
    · rfl
  rfl

theorem endLoad_none {s : State} (h : s.img.load = none) (code : Nat) : s.endLoad code = s := by rw [State.endLoad, h]

/-- The commit of a quiet state: the list is empty after it, and what `sansCommit` keeps is as it was. -/
theorem commitNow_quiet {s : State} (h : s.quiet) :
    let u := s.commitNow
    u.sansCommit = s.sansCommit ∧ u.boot.commitDue = [] ∧ (∀ t, u.cutOff t = s.cutOff t) ∧ Writes s u 8 := by
  obtain ⟨hload, hstack⟩ := h
  unfold State.commitNow
  rw [endLoad_none hload]
  have h1 := dropSlotWrite_commitStep s
  generalize s.dropSlotWrite = v1 at *
  have h2 := beginVerify_commitStep v1
  generalize v1.beginVerify = v2 at *
  dsimp only
  have h3 := issue_commitStep v2 8 16 32
  generalize v2.issue 8 16 32 = i at *
  obtain ⟨i1, v3⟩ := i
  dsimp only at *
  rw [commitInstar_eq]
  have h4 := marked_commitStep v3
  have hdue4 := marked_due v3
  generalize v3.marked = v4 at *
  obtain ⟨h5, hdue5⟩ := writeClkLists_commitStep v4
  generalize v4.writeClkLists = v5 at *
  have htodo : v5.flt.todo = s.flt.todo := by rw [h5.todo, h4.todo, h3.todo, h2.todo, h1.todo]
  rw [restoreStacks_none (htodo ▸ hstack)]
  generalize ({ code := 0x98, handle := i1, path := if v2.boot.commitCls = 0 then none else some v2.boot.commitCls } : Ev) = e
  have h6 := event_commitStep v5 e
  have hdue6 := event_due v5 e
  generalize v5.event e = v6 at *
  have h7 := finish_commitStep v6 i1 2 0
  have hdue7 := finish_due v6 i1 2 0
  generalize v6.finish i1 2 0 = u at *
  refine ⟨?_, ?_, fun t => ?_, ?_⟩
  · rw [h7.rest, h6.rest, h5.rest, h4.rest, h3.rest, h2.rest, h1.rest]
  · rw [hdue7, hdue6, hdue5, hdue4]
  · rw [h7.cutOff, h6.cutOff, h5.cutOff, h4.cutOff, h3.cutOff, h2.cutOff, h1.cutOff]
  · exact (h1.writes.trans (h2.writes.trans (h3.writes.trans (h4.writes.trans (h5.writes.trans (h6.writes.trans h7.writes)))))).mono (by decide)

/-! ### Step 9: bring-up is complete (R389, R397, R410) -/

/-- R410: what waits for a commit is committed. -/
def State.commitWaiting (s : State) : State := if s.boot.commitDue.isEmpty then s else s.commitNow

theorem commitWaiting_quiet {s : State} (h : s.quiet) :
    let u := s.commitWaiting
    u.sansCommit = s.sansCommit ∧ u.boot.commitDue = [] ∧ (∀ t, u.cutOff t = s.cutOff t) ∧ Writes s u 8 := by
  unfold State.commitWaiting
  split
  · rename_i he
    exact ⟨rfl, List.isEmpty_iff.mp he, fun _ => rfl, (Writes.refl s).mono (Nat.zero_le 8)⟩
  · exact commitNow_quiet h

/-- R397: the bank that was booted is confirmed. -/
def State.confirmBank (s : State) : State := s.updBank s.boot.bank fun b => { b with st := 3, tried := false }

/-- R389: bring-up is done. -/
def State.bootDone (s : State) : State := { s with boot := { s.boot with done := true, step := 0x0F, lastCode := 0xD9 } }

/-- The end of step 9 after the commit. -/
def State.floorEnd (s : State) : State := (s.confirmBank.endStep 9 0).bootDone.event { code := 0xD9 }

/-- The regions started, and the tiles of the floor plan fenced. -/
def State.floorPlan (s : State) : State :=
  (s.each (upTo 32) State.startRegion).each (s.each (upTo 32) State.startRegion).fp.fenced State.fenceTile

/-- The end of step 9 after the commit, and a halt where the coolant has failed meanwhile (R353). -/
def State.floorOrHalt (s : State) : State := if s.floorEnd.pins.coolantOk then s.floorEnd else s.floorEnd.halt false

theorem stepFloor_eq (s : State) : s.stepFloor = s.floorPlan.commitWaiting.floorOrHalt := by
  unfold State.stepFloor State.floorPlan State.commitWaiting
  generalize s.each (upTo 32) State.startRegion = v
  generalize hw : v.each v.fp.fenced State.fenceTile = w
  simp only [hw]
  generalize (if w.boot.commitDue.isEmpty = true then w else w.commitNow) = u
  rfl

theorem confirmBank_bank (s : State) : s.confirmBank.flash.bank s.boot.bank = { s.flash.bank s.boot.bank with st := 3, tried := false } := by
  unfold State.confirmBank State.updBank Flash.bank
  split <;> rfl

/-- The state without what the end of step 9 touches: the boot stage, the log and the Fordan server, the two banks. -/
def State.sansEnd (s : State) : State :=
  { s with
    boot := .init, csr := .init, flt := s.flt.tests, fordan := { Fordan.init with vol := s.fordan.vol },
    flash := { s.flash with bankA := Flash.delivered.bankA, bankB := Flash.delivered.bankB } }

theorem confirmBank_end (s : State) : s.confirmBank.sansEnd = s.sansEnd := by
  unfold State.confirmBank State.updBank
  split <;> rfl

theorem endStep_end (s : State) (n code : Nat) : (s.endStep n code).sansEnd = s.sansEnd := by
  have hf := (congrArg State.sansEnd (endStep_frame s n code) :)
  have hv := endStep_vol s n code
  generalize s.endStep n code = u at *
  exact (show u.sansEnd = { ({ u with boot := s.boot, fordan := s.fordan } : State).sansEnd with fordan := { Fordan.init with vol := u.fordan.vol } } from rfl).trans
    (by rw [hf, hv]; rfl)

theorem event_end (s : State) (e : Ev) : (s.event e).sansEnd = s.sansEnd := by
  have h := (congrArg State.sansEnd (event_frame s e) :)
  have hv := event_vol s e
  have hf := (congrArg Flt.tests (event_sansLog s e) :)
  generalize s.event e = u at *
  exact (show u.sansEnd = { ({ u with flt := s.flt, csr := s.csr, fordan := s.fordan } : State).sansEnd with
    flt := u.flt.tests, fordan := { Fordan.init with vol := u.fordan.vol } } from rfl).trans (by rw [h, hv, show u.flt.tests = s.flt.tests from hf]; rfl)

theorem event_boot (s : State) (e : Ev) : (s.event e).boot = s.boot := (congrArg State.boot (event_frame s e) :)
theorem event_flash (s : State) (e : Ev) : (s.event e).flash = s.flash := (congrArg State.flash (event_frame s e) :)

theorem StepEnded.of_handles {u v : State} {n code : Nat} (h : StepEnded v n code) (hb : u.boot.handles = v.boot.handles) : StepEnded u n code := by
  have hh : u.hnd (stepHandle n) = v.hnd (stepHandle n) := congrArg (fun t => Tab.get hndNone t (stepHandle n)) hb
  unfold StepEnded
  rw [hh]
  exact h

/-- Bring-up is done: the boot stage, the bank and the record of the end of step 9. -/
theorem floorEnd_spec (s : State) :
    let u := s.floorEnd
    u.sansEnd = s.sansEnd ∧ u.boot.done = true ∧ u.boot.step = 0x0F ∧ u.boot.lastCode = 0xD9 ∧ u.boot.commitDue = s.boot.commitDue ∧ StepEnded u 9 0 ∧
      (∀ v : State, v.flt.evNext ≤ s.flt.evNext → Recorded v u 0xD9 0xFF 0 0) ∧
      u.flash.bank s.boot.bank = { s.flash.bank s.boot.bank with st := 3, tried := false } := by
  unfold State.floorEnd
  have hbank := confirmBank_bank s
  have he1 := confirmBank_end s
  have hn1 : s.confirmBank.flt = s.flt := rfl
  have hd1 : s.confirmBank.boot = s.boot := rfl
  generalize s.confirmBank = a at *
  have he2 := endStep_end a 9 0
  have hf2 := endStep_frame a 9 0
  have hb2 := endStep_boot a 9 0
  have hs2 := endStep_ended a 9 0
  generalize a.endStep 9 0 = b at *
  have hlog : b.flt = s.flt := (congrArg State.flt hf2 :).trans hn1
  have hw := event_writes b.bootDone { code := 0xD9 }
  have hrec (v : State) (hv : v.flt.evNext ≤ s.flt.evNext) : Recorded v (b.bootDone.event { code := 0xD9 }) 0xD9 0xFF 0 0 :=
    (Writes.refl _).recorded (v := b.bootDone) (by decide) (hv.trans_eq (congrArg Flt.evNext hlog).symm)
  have he3 := event_end b.bootDone { code := 0xD9 }
  have hb3 := event_boot b.bootDone { code := 0xD9 }
  have hfl3 := event_flash b.bootDone { code := 0xD9 }
  generalize b.bootDone.event { code := 0xD9 } = u at *
  refine ⟨?_, (congrArg Boot.done hb3 :), (congrArg Boot.step hb3 :), (congrArg Boot.lastCode hb3 :), ?_, hs2.of_handles (congrArg Boot.handles hb3 :), hrec, ?_⟩
  · exact he3.trans ((show b.bootDone.sansEnd = b.sansEnd from rfl).trans (he2.trans he1))
  · exact (congrArg Boot.commitDue hb3 :).trans ((congrArg Boot.commitDue hb2 :).trans (show a.boot.commitDue = _ by rw [hd1]))
  · have hfl : u.flash = a.flash := hfl3.trans (congrArg State.flash hf2 :)
    rw [hfl]; exact hbank

theorem floorPlan_quiet {s : State} (hl : s.img.load = none) (ht : ∀ c ∈ s.flt.todo, ∀ j, c.2 ≠ .stack j) : s.floorPlan.quiet := by
  have hn := fenceTiles_networks (s.each (upTo 32) State.startRegion) (s.each (upTo 32) State.startRegion).fp.fenced
  have hr := startRegions_floor s
  unfold State.floorPlan
  generalize (s.each (upTo 32) State.startRegion).each _ State.fenceTile = u at *
  generalize s.each (upTo 32) State.startRegion = v at *
  have himg : u.img = s.img := (congrArg State.img hn :).trans (congrArg State.img hr :)
  have htodo : u.flt.todo = s.flt.todo := (congrArg (fun w : State => w.flt.todo) hn :).trans (congrArg (fun w : State => w.flt.todo) hr :)
  exact ⟨by rw [himg]; exact hl, by rw [htodo]; exact ht⟩

theorem floorPlan_spec (s : State) :
    let u := s.floorPlan
    u.sansNetworks.sansFloor = s.sansNetworks.sansFloor ∧ Writes s u 0 ∧
      (∀ t ∈ s.fp.fenced, u.cutOff t = true) ∧
      ∀ g < 32, (u.region g).op = 0 ∧ (u.region g).phases = Tab.get 0 s.fp.phases g ∧ (u.region g).st = s.startSt g ∧
        u.setting (0x2820 + g) 2 = 0 ∧ (s.toRetest g = true → bitOf u.flt.retest g = true ∧ bitOf u.flt.queueM g = true) := by
  have hr := startRegions_floor s
  have hg (g : Nat) (h : g < 32) := startRegions_spec s h
  unfold State.floorPlan
  generalize s.each (upTo 32) State.startRegion = v at *
  have hn := fenceTiles_networks v v.fp.fenced
  have hc (t : Nat) (ht : t ∈ v.fp.fenced) := fenceTiles_cutOff v ht
  rw [fp_of_floor hr] at hn hc ⊢
  generalize v.each s.fp.fenced State.fenceTile = u at *
  refine ⟨?_, ?_, hc, fun g h => ?_⟩
  · exact (congrArg State.sansFloor hn :).trans (congrArg State.sansNetworks hr :)
  · have h1 : u.flt.log = s.flt.log := (congrArg (fun w : State => w.flt.log) hn :).trans (congrArg (fun w : State => w.flt.log) hr :)
    have h2 : u.flt.evNext = s.flt.evNext := (congrArg (fun w : State => w.flt.evNext) hn :).trans (congrArg (fun w : State => w.flt.evNext) hr :)
    exact .of_flt h1 h2
  · have h1 : u.region g = v.region g := (congrArg (fun w : State => w.region g) hn :)
    have h2 : u.setting (0x2820 + g) 2 = v.setting (0x2820 + g) 2 := (congrArg (fun w : State => w.setting (0x2820 + g) 2) hn :)
    have h3 : u.flt = v.flt := (congrArg State.flt hn :)
    rw [h1, h2, h3]
    exact hg g h

theorem startSt_eq (s : State) (g : Nat) :
    s.startSt g = if Tab.get 0 s.fp.region g = 5 then .unusable
      else if Tab.get 0 s.fp.region g = 4 ∨ (bitOf s.flash.moultMk g || bitOf s.flash.retestMk g) = true then .untested else .dark := by
  unfold State.startSt
  by_cases h : Tab.get 0 s.fp.region g = 5
  · rw [if_pos h, if_pos h]
  · rw [if_neg h, if_neg h]
    exact if_congr (by simp [State.toRetest, h, or_comm]) rfl rfl

theorem toRetest_of {s : State} {g : Nat} (h5 : Tab.get 0 s.fp.region g ≠ 5)
    (h : Tab.get 0 s.fp.region g = 4 ∨ (bitOf s.flash.moultMk g || bitOf s.flash.retestMk g) = true) : s.toRetest g = true :=
  decide_eq_true ⟨h5, h.symm⟩

/-- Step 9 of a device whose coolant flows, with no load and no stack to restore. -/
theorem stepFloor_spec {s : State} (hl : s.img.load = none) (hcool : s.pins.coolantOk = true) (ht : ∀ c ∈ s.flt.todo, ∀ j, c.2 ≠ .stack j) :
    let u := s.stepFloor
    u.mem = s.mem ∧ u.parts = s.parts ∧ u.reqs = s.reqs ∧ u.ports = s.ports ∧ u.time = s.time ∧
      u.boot.done = true ∧ u.boot.step = 0x0F ∧ u.boot.lastCode = 0xD9 ∧ u.boot.commitDue = [] ∧ StepEnded u 9 0 ∧ Recorded s u 0xD9 0xFF 0 0 ∧
      u.flash.bank s.boot.bank = { s.flash.bank s.boot.bank with st := 3, tried := false } ∧
      (∀ t ∈ s.fp.fenced, (u.tile t).selfFenced = true) ∧
      ∀ g < 32, (u.region g).op = 0 ∧ (u.region g).phases = Tab.get 0 s.fp.phases g ∧ (u.region g).st = s.startSt g ∧
        u.setting (0x2820 + g) 2 = 0 ∧ (s.toRetest g = true → bitOf u.flt.retest g = true ∧ bitOf u.flt.queueM g = true) := by
  rw [stepFloor_eq, State.floorOrHalt]
  obtain ⟨hp, hpw, hcut, hreg⟩ := floorPlan_spec s
  have hq := floorPlan_quiet hl ht
  generalize s.floorPlan = p at *
  obtain ⟨hc, hdue, hccut, hcw⟩ := commitWaiting_quiet hq
  generalize p.commitWaiting = c at *
  obtain ⟨he, h1, h2, h3, h4, h5, h6, h7⟩ := floorEnd_spec c
  generalize c.floorEnd = u at *
  have keep {α : Type} (π : State → α) (hu : π u = π u.sansEnd) (hcu : π c.sansEnd = π c.sansCommit) (hpc : π p.sansCommit = π p.sansNetworks.sansFloor)
      (hs : π s.sansNetworks.sansFloor = π s) : π u = π s := by
    rw [hu, he, hcu, hc, hpc, hp, hs]
  have hbank : c.boot.bank = s.boot.bank := (congrArg (fun w : State => w.boot.bank) hc :).trans (congrArg (fun w : State => w.boot.bank) hp :)
  have hbanks : c.flash.bank s.boot.bank = s.flash.bank s.boot.bank :=
    (congrArg (fun w : State => w.flash.bank s.boot.bank) hc :).trans (congrArg (fun w : State => w.flash.bank s.boot.bank) hp :)
  rw [if_pos ((keep (fun w => w.pins) rfl rfl rfl rfl) ▸ hcool)]
  refine ⟨keep (fun w => w.mem) rfl rfl rfl rfl, keep (fun w => w.parts) rfl rfl rfl rfl, keep (fun w => w.reqs) rfl rfl rfl rfl,
    keep (fun w => w.ports) rfl rfl rfl rfl, keep (fun w => w.time) rfl rfl rfl rfl, h1, h2, h3, h4.trans hdue, h5, h6 s ((hpw.trans hcw).1), ?_,
    fun t htf => ?_, fun g hg => ?_⟩
  · rw [hbank, hbanks] at h7
    exact h7
  · exact ((congrArg (State.cutOff t) he :).trans (hccut t)).trans (hcut t htf)
  · have hr : u.region g = p.region g := (congrArg (fun w : State => w.region g) he :).trans (congrArg (fun w : State => w.region g) hc :)
    have hset : u.setting (0x2820 + g) 2 = p.setting (0x2820 + g) 2 :=
      (congrArg (fun w : State => w.setting (0x2820 + g) 2) he :).trans (congrArg (fun w : State => w.setting (0x2820 + g) 2) hc :)
    have hre : u.flt.retest = p.flt.retest := (congrArg (fun w : State => w.flt.retest) he :).trans (congrArg (fun w : State => w.flt.retest) hc :)
    have hqm : u.flt.queueM = p.flt.queueM := (congrArg (fun w : State => w.flt.queueM) he :).trans (congrArg (fun w : State => w.flt.queueM) hc :)
    rw [hr, hset, hre, hqm]
    exact hreg g hg

/-! ### Timeouts (R390) -/

theorem bringupStepTimeout_idle {n : Nat} (h : n = 8 ∨ n = 9) (s : State) : exec (.bringupStepTimeout n) s = .next s := by
  show execBringupStepTimeout n s = _
  rw [execBringupStepTimeout, State.whenB]
  obtain rfl | rfl := h <;> exact congrArg Host.Outcome.next (ite_self s)

theorem whenB_congr {s : State} (c : Bool) {f g : State → State} (h : f s = g s) : s.whenB c f = s.whenB c g := by
  cases c
  · rfl
  · exact h

theorem bringupStepTimeout_supervisor (s : State) : exec (.bringupStepTimeout 5) s = exec (.bringupStepEnd (.supervisor false)) s :=
  congrArg Host.Outcome.next (whenB_congr (s.stepRuns 5) (f := fun s => _) (g := fun s => s.stepSupervisor false) (if_neg (by decide)))

theorem bringupStepTimeout_mgmt (s : State) : exec (.bringupStepTimeout 6) s = exec (.bringupStepEnd (.mgmt false false)) s :=
  congrArg Host.Outcome.next (whenB_congr (s.stepRuns 6) (f := fun s => _) (g := fun s => s.stepMgmt false false) ((if_neg (by decide)).trans rfl))

theorem bringupStepTimeout_front (s : State) : exec (.bringupStepTimeout 7) s = exec (.bringupStepEnd (.front [] [])) s :=
  congrArg Host.Outcome.next (whenB_congr (s.stepRuns 7) (f := fun s => _) (g := fun s => s.stepFront [] []) ((if_neg (by decide)).trans rfl))

end Sys2Proof.Machine

open Sys2Proof Sys2Proof.Machine

/-- Settles O42: each step by what its end does; the end of step 9 by what each of its parts keeps. -/
theorem bringUpStepsSixToNine : Obligations.BringUpStepsSixToNine := by
  unfold Obligations.BringUpStepsSixToNine
  intro s
  refine ⟨fun a b h => ?_, fun at200 at100 hh hd hr hs h7 => ?_, fun h => ?_, fun h h7 hl hc ht => ?_, fun n hn => bringupStepTimeout_idle hn s,
    bringupStepTimeout_supervisor s, bringupStepTimeout_mgmt s, bringupStepTimeout_front s⟩
  · have hr : s.stepRuns 6 = true := stepRuns_of_stepAt h (by decide) (absurd · (by decide))
    exact ⟨_, bringupStepEnd_runs (r := .mgmt a b) hr, stepMgmt_spec s a b⟩
  · have hr : s.stepRuns 7 = true := stepRuns_front hh hd hr hs h7
    refine ⟨s.stepFront at200 at100, bringupStepEnd_runs (r := .front at200 at100) hr, ?_⟩
    have hends := front_ends s at200 at100 hd
    generalize s.stepFront at200 at100 = u at *
    exact hends
  · have hr : s.stepRuns 8 = true := stepRuns_of_stepAt h (by decide) (absurd · (by decide))
    exact ⟨_, bringupStepEnd_runs (r := .time) hr, stepTime_spec s⟩
  · have hr : s.stepRuns 9 = true := stepRuns_of_stepAt h (by decide) fun _ => h7
    have hfloor := stepFloor_spec hl hc ht
    generalize hu : s.stepFloor = u at *
    obtain ⟨hmem, hparts, hreqs, hports, htime, hdone, hstep, hcode, hdue, he, hrec, hbank, hcut, hreg⟩ := hfloor
    refine ⟨u, (bringupStepEnd_runs (r := .floor) hr).trans (congrArg Host.Outcome.next hu), hmem, hparts, hreqs, hports, htime, hdone, hstep, hcode, hdue, he, hrec, hbank, hcut,
      fun g hg => ?_⟩
    obtain ⟨hop, hph, hst, hset, hre⟩ := hreg g hg
    exact ⟨hop, hph, hset, hst.trans (startSt_eq s g), fun h5 h4 => hre (toRetest_of h5 h4)⟩
end

section
/-!
Supply failures (R346 to R348, R358, R437): what a region that goes down keeps, the loss of a region, the budgets after a derating, and the
settling of O33.
-/

namespace Sys2Proof.Machine

/-! ### Records that a region going down writes (R241, R374) -/

theorem dropFreq_writes (s : State) (g cause : Nat) : Writes s (s.dropFreq g cause) (s.region g).changes.length := by
  unfold State.dropFreq
  split
  · exact (Writes.refl s).mono (Nat.zero_le _)
  · have h := foldl_writes (f := fun s c => s.changeDropped g cause c) (l := (s.region g).changes) (fun v c _ => event_writes v _) s
    rw [Nat.one_mul] at h
    exact h.trans (.of_flt rfl rfl : Writes _ (State.updRegion _ g _) 0)

theorem fenceRegion_writes (s : State) (g : Nat) : Writes s (s.fenceRegion g) 0 := by
  have h := flt_of_networks (fenceRegion_networks s g)
  exact .of_flt (by rw [h]) (by rw [h])

/-- R374: the tests that wait, and the flash markers, as a moult that ends leaves them. -/
def State.moultLeft (s : State) (g : Nat) : State :=
  if (s.region g).st == .untested then
    { s with flt := { s.flt with retest := setBit s.flt.retest g, queueM := setBit s.flt.queueM g } }
  else s.clearMarker g

/-- R374: a moult is forgotten, with its result. -/
def State.moultForgot (s : State) (g result : Nat) : State := s.updRegion g fun r => { r with moult := none, moultRes := result }

theorem endMoult_eq (s : State) (g result : Nat) :
    s.endMoult g result = s ∨ ∃ h, s.endMoult g result = ((s.moultForgot g result).moultLeft g).event { code := 0x9C, region := g, handle := h } ∨
      s.endMoult g result = (((s.moultForgot g result).moultLeft g).event { code := 0x9C, region := g, handle := h }).finish h 3 0x9C := by
  unfold State.endMoult
  split
  · exact .inl rfl
  · rename_i m hm
    refine .inr ⟨m.handle, ?_⟩
    dsimp only
    split
    · exact .inl rfl
    · exact .inr rfl

/-- What every step of a moult's end keeps, the moult's end keeps. -/
theorem endMoult_ind {P : State → Prop} {g : Nat} (hforget : ∀ v result, P v → P (v.moultForgot g result)) (hleft : ∀ v, P v → P (v.moultLeft g))
    (hevent : ∀ v e, P v → P (v.event e)) (hfinish : ∀ v h st code, P v → P (v.finish h st code)) {s : State} (h : P s) (result : Nat) :
    P (s.endMoult g result) := by
  obtain e | ⟨m, e | e⟩ := endMoult_eq s g result <;> rw [e]
  · exact h
  · exact hevent _ _ (hleft _ (hforget _ _ h))
  · exact hfinish _ _ _ _ (hevent _ _ (hleft _ (hforget _ _ h)))

theorem moultLeft_writes (s : State) (g : Nat) : Writes s (s.moultLeft g) 0 := by
  unfold State.moultLeft; split <;> exact .of_flt rfl rfl

theorem endMoult_writes (s : State) (g result : Nat) : Writes s (s.endMoult g result) 1 := by
  have h : Writes s ((s.moultForgot g result).moultLeft g) 0 :=
    (Writes.of_flt rfl rfl : Writes s (s.moultForgot g result) 0).trans (moultLeft_writes ..)
  obtain e | ⟨m, e | e⟩ := endMoult_eq s g result <;> rw [e]
  · exact (Writes.refl s).mono (Nat.zero_le 1)
  · exact h.trans (event_writes ..)
  · exact (h.trans (event_writes ..)).trans (finish_writes ..)

/-! ### A region that goes down (R25) -/

/-- R25: the state of a region with a cause for `st`. -/
def RegSt.lowered (old st : RegSt) : RegSt := if old.code < st.code then st else old

/-- R241: the region's changes are dropped. -/
def State.unchanged (s : State) (g : Nat) : State := (s.dropFreq g 2).updRegion g fun r => { r with changing := false }

/-- The steps of a region's going down, each taken or not. -/
theorem regionDown_steps (s : State) (g : Nat) (st : RegSt) (deep : Bool) :
    ∃ a b c d : State, (a = s ∨ a = s.unchanged g) ∧ (b = a ∨ b = a.fenceRegion g) ∧
      ((c = b ∧ (s.region g).st.lowered st = (s.region g).st) ∨ c = b.updRegion g fun r => { r with st := (s.region g).st.lowered st }) ∧
      (d = c ∨ ∃ result, d = c.endMoult g result) ∧ (s.regionDown g st deep = d ∧ deep = false ∨ s.regionDown g st deep = d.powerOff g deep) := by
  unfold State.regionDown
  extract_lets old new a b c d
  refine ⟨a, b, c, d, ?_, ?_, ?_, ?_, ?_⟩
  · unfold a; split
    · exact .inr rfl
    · exact .inl rfl
  · unfold b; split
    · exact .inr rfl
    · exact .inl rfl
  · unfold c; split
    · rename_i h; exact .inl ⟨rfl, eq_of_beq h⟩
    · exact .inr rfl
  · unfold d; split
    · exact .inr ⟨_, rfl⟩
    · exact .inl rfl
  · split
    · exact .inr rfl
    · rename_i h
      refine .inl ⟨rfl, ?_⟩
      cases deep
      · rfl
      · simp at h

/-- What every step of a region's going down keeps, its going down keeps. -/
theorem regionDown_ind {P : State → Prop} {g : Nat} {st : RegSt} {deep : Bool} (hdrop : ∀ v, P v → P (v.unchanged g))
    (hfence : ∀ v, P v → P (v.fenceRegion g)) (hst : ∀ v x, P v → P (v.updRegion g fun r => { r with st := x }))
    (hmoult : ∀ v result, P v → P (v.endMoult g result)) (hoff : ∀ v, P v → P (v.powerOff g deep)) {s : State} (h : P s) :
    P (s.regionDown g st deep) := by
  obtain ⟨a, b, c, d, ha, hb, hc, hd, he⟩ := regionDown_steps s g st deep
  have pa : P a := by obtain rfl | rfl := ha <;> [exact h; exact hdrop s h]
  have pb : P b := by obtain rfl | rfl := hb <;> [exact pa; exact hfence a pa]
  have pc : P c := by obtain ⟨rfl, -⟩ | rfl := hc <;> [exact pb; exact hst b _ pb]
  have pd : P d := by obtain rfl | ⟨r, rfl⟩ := hd <;> [exact pc; exact hmoult c r pc]
  obtain ⟨e, -⟩ | e := he <;> rw [e] <;> [exact pd; exact hoff d pd]

theorem unchanged_writes (s : State) (g : Nat) : Writes s (s.unchanged g) (s.region g).changes.length :=
  (dropFreq_writes s g 2).trans (.of_flt rfl rfl : Writes _ (State.updRegion _ g _) 0)

theorem regionDown_writes (s : State) (g : Nat) (st : RegSt) (deep : Bool) :
    Writes s (s.regionDown g st deep) ((s.region g).changes.length + 1) := by
  obtain ⟨a, b, c, d, ha, hb, hc, hd, he⟩ := regionDown_steps s g st deep
  have wa : Writes s a (s.region g).changes.length := by
    obtain rfl | rfl := ha <;> [exact (Writes.refl _).mono (Nat.zero_le _); exact unchanged_writes s g]
  have wb : Writes a b 0 := by obtain rfl | rfl := hb <;> [exact .refl _; exact fenceRegion_writes a g]
  have wc : Writes b c 0 := by obtain ⟨rfl, -⟩ | rfl := hc <;> [exact .refl _; exact .of_flt rfl rfl]
  have wd : Writes c d 1 := by obtain rfl | ⟨r, rfl⟩ := hd <;> [exact (Writes.refl _).mono (Nat.zero_le 1); exact endMoult_writes c g r]
  have we : Writes d (s.regionDown g st deep) 0 := by obtain ⟨e, -⟩ | e := he <;> rw [e] <;> [exact .refl _; exact .of_flt rfl rfl]
  exact (wa.trans (wb.trans (wc.trans (wd.trans we)))).mono (by omega)

/-! ### What a region that goes down keeps -/

/-- A change of one region keeps what the change keeps of any region. -/
theorem updRegion_keeps {α : Type} (ρ : Region → α) {f : Region → Region} (hf : ∀ r, ρ (f r) = ρ r) (s : State) (i j : Nat) :
    ρ ((s.updRegion i f).region j) = ρ (s.region j) := by
  by_cases h : j = i
  · subst h; rw [updRegion_region_self, hf]
  · rw [updRegion_region_ne s i f h]

theorem setChanges_keeps {α : Type} (ρ : Region → α) (hρ : ∀ (x : Region) a b c, ρ { x with opPend := a, opPendBeat := b, opNext := c } = ρ x)
    (r : Region) (l : List (Nat × Nat)) : ρ (r.setChanges l) = ρ r := by cases l <;> exact hρ ..

theorem finish_region (s : State) (h st code j : Nat) : (s.finish h st code).region j = s.region j :=
  (congrArg (fun v : State => v.region j) (finish_frame s h st code) :)

theorem moultLeft_region (s : State) (g j : Nat) : (s.moultLeft g).region j = s.region j := by unfold State.moultLeft; split <;> rfl

/-- What a region's going down leaves of it: its phases, and its record in the image. -/
def Region.lasting (r : Region) : Nat × RegRec := (r.phases, r.rg)

theorem dropFreq_keeps {α : Type} (ρ : Region → α) (hρ : ∀ (r : Region) a b c, ρ { r with opPend := a, opPendBeat := b, opNext := c } = ρ r)
    (s : State) (g cause j : Nat) : ρ ((s.dropFreq g cause).region j) = ρ (s.region j) := by
  unfold State.dropFreq
  split
  · rfl
  · rw [updRegion_keeps ρ (fun r => setChanges_keeps ρ hρ r []), changeDropped_all_region]

theorem endMoult_keeps {α : Type} (ρ : Region → α) (hρ : ∀ (r : Region) a b, ρ { r with moult := a, moultRes := b } = ρ r) (s : State) (g result j : Nat) :
    ρ ((s.endMoult g result).region j) = ρ (s.region j) :=
  endMoult_ind (P := fun v => ρ (v.region j) = ρ (s.region j)) (fun v r h => (updRegion_keeps ρ (by intro; exact hρ ..) v g j).trans h)
    (fun v h => (congrArg ρ (moultLeft_region v g j)).trans h) (fun v e h => (congrArg ρ (event_region v e j)).trans h)
    (fun v a b c h => (congrArg ρ (finish_region v a b c j)).trans h) rfl result

theorem powerOff_lasting (s : State) (g : Nat) (deep : Bool) (j : Nat) : ((s.powerOff g deep).region j).lasting = (s.region j).lasting := by
  unfold State.powerOff
  extract_lets a ts b c
  exact updRegion_keeps Region.lasting (by intro; rfl) c g j

theorem regionDown_lasting (s : State) (g : Nat) (st : RegSt) (deep : Bool) (j : Nat) :
    ((s.regionDown g st deep).region j).lasting = (s.region j).lasting :=
  regionDown_ind (P := fun v => (v.region j).lasting = (s.region j).lasting)
    (fun v h => (updRegion_keeps Region.lasting (f := fun r => { r with changing := false }) (fun _ => rfl) (v.dropFreq g 2) g j).trans
      ((dropFreq_keeps Region.lasting (fun _ _ _ _ => rfl) v g 2 j).trans h))
    (fun v h => (congrArg Region.lasting (fenceRegion_region v g j)).trans h)
    (fun v x h => (updRegion_keeps Region.lasting (by intro; rfl) v g j).trans h)
    (fun v r h => (endMoult_keeps Region.lasting (fun _ _ _ => rfl) v g r j).trans h) (fun v h => (powerOff_lasting v g deep j).trans h) rfl

theorem endMoult_region_ne (s : State) (g result : Nat) {j : Nat} (hj : j ≠ g) : (s.endMoult g result).region j = s.region j :=
  endMoult_ind (P := fun v => v.region j = s.region j) (fun v _ h => (updRegion_region_ne v g _ hj).trans h)
    (fun v h => (moultLeft_region v g j).trans h) (fun v e h => (event_region v e j).trans h) (fun v a b c h => (finish_region v a b c j).trans h) rfl result

theorem regionDown_region_ne (s : State) (g : Nat) (st : RegSt) (deep : Bool) {j : Nat} (hj : j ≠ g) :
    (s.regionDown g st deep).region j = s.region j :=
  regionDown_ind (P := fun v => v.region j = s.region j)
    (fun v h => (updRegion_region_ne _ g _ hj).trans ((dropFreq_region_ne v g 2 hj).trans h)) (fun v h => (fenceRegion_region v g j).trans h)
    (fun v _ h => (updRegion_region_ne v g _ hj).trans h) (fun v r h => (endMoult_region_ne v g r hj).trans h)
    (fun v h => (powerOff_region_ne v g deep hj).trans h) rfl

theorem unchanged_st (s : State) (g : Nat) : ((s.unchanged g).region g).st = (s.region g).st := by
  unfold State.unchanged
  rw [updRegion_region_self]
  exact dropFreq_st s g 2

/-- R25: the region is in the lower of the two states. -/
theorem regionDown_st (s : State) (g : Nat) (st : RegSt) (deep : Bool) :
    ((s.regionDown g st deep).region g).st = (s.region g).st.lowered st := by
  obtain ⟨a, b, c, d, ha, hb, hc, hd, he⟩ := regionDown_steps s g st deep
  have sa : (a.region g).st = (s.region g).st := by obtain rfl | rfl := ha <;> [rfl; exact unchanged_st s g]
  have sb : (b.region g).st = (a.region g).st := by obtain rfl | rfl := hb <;> [rfl; rw [fenceRegion_region]]
  have sc : (c.region g).st = (s.region g).st.lowered st := by
    obtain ⟨rfl, h⟩ | rfl := hc
    · rw [sb, sa, h]
    · rw [updRegion_region_self]
  have sd : (d.region g).st = (c.region g).st := by
    obtain rfl | ⟨r, rfl⟩ := hd <;> [rfl; exact endMoult_keeps Region.st (fun _ _ _ => rfl) c g r g]
  rw [← sc, ← sd]
  obtain ⟨e, -⟩ | e := he <;> rw [e]
  exact powerOff_st d g deep

theorem lowered_unusable (old : RegSt) : old.lowered .unusable = .unusable := by cases old <;> rfl

/-! ### The tests that wait (R372) -/

/-- Region `j` waits for a moult. -/
def MoultWaits (j : Nat) (s : State) : Prop := bitOf s.flt.queueM j = true

theorem MoultWaits.of_flt {j : Nat} {s u : State} (h : MoultWaits j s) (e : u.flt.queueM = s.flt.queueM) : MoultWaits j u := by
  unfold MoultWaits; rw [e]; exact h

theorem MoultWaits.event {j : Nat} {s : State} (h : MoultWaits j s) (e : Ev) : MoultWaits j (s.event e) :=
  h.of_flt (congrArg Flt.queueM (event_sansLog s e) :)

theorem MoultWaits.finish {j : Nat} {s : State} (h : MoultWaits j s) (m st code : Nat) : MoultWaits j (s.finish m st code) :=
  h.of_flt (congrArg (fun v : State => v.flt.queueM) (finish_frame s m st code) :)

theorem MoultWaits.moultLeft {j : Nat} {s : State} (h : MoultWaits j s) (g : Nat) : MoultWaits j (s.moultLeft g) := by
  unfold State.moultLeft
  split
  · exact (bitOf_setBit ..).trans (by rw [show bitOf s.flt.queueM j = true from h, Bool.true_or])
  · exact h

theorem dropFreq_queueM (s : State) (g cause : Nat) : (s.dropFreq g cause).flt.queueM = s.flt.queueM := by
  have all (l : List (Nat × Nat)) : (l.foldl (fun s c => s.changeDropped g cause c) s).flt.queueM = s.flt.queueM :=
    foldl_keeps (fun v : State => v.flt.queueM) (fun v c => (congrArg Flt.queueM (event_sansLog v _) :)) l s
  unfold State.dropFreq
  split
  · rfl
  · exact all _

theorem MoultWaits.regionDown {j : Nat} {s : State} (h : MoultWaits j s) (g : Nat) (st : RegSt) (deep : Bool) : MoultWaits j (s.regionDown g st deep) :=
  regionDown_ind (fun v hv => hv.of_flt (dropFreq_queueM v g 2)) (fun v hv => hv.of_flt (congrArg Flt.queueM (flt_of_networks (fenceRegion_networks v g))))
    (fun _ _ hv => hv) (fun _ r hv => endMoult_ind (fun _ _ hw => hw) (fun _ hw => hw.moultLeft g) (fun _ e hw => hw.event e)
      (fun _ m st code hw => hw.finish m st code) hv r) (fun _ hv => hv) h

/-! ### Memory (R24, R348) -/

theorem endMoult_mem (s : State) (g result : Nat) : (s.endMoult g result).mem = s.mem :=
  endMoult_ind (P := fun v => v.mem = s.mem) (fun _ _ h => h)
    (fun v h => (show (v.moultLeft g).mem = v.mem by unfold State.moultLeft; split <;> rfl).trans h)
    (fun v e h => (mem_of_fabric (event_fabric v e)).trans h) (fun v a b c h => (congrArg State.mem (finish_frame v a b c) :).trans h) rfl result

theorem powerOff_deep_mem (s : State) (g : Nat) :
    (s.powerOff g true).mem = s.mem.filter fun c => !(logicRowOf g (c.1 / 512) || deepRowOf g (c.1 / 512)) := by
  unfold State.powerOff State.dropRows
  simp only [Bool.true_and]
  rfl

/-- R348: a region that goes down by its store tier loses the rows of both its tiers, and no other row. -/
theorem regionDown_deep_mem (s : State) (g : Nat) (st : RegSt) :
    (s.regionDown g st true).mem = s.mem.filter fun c => !(logicRowOf g (c.1 / 512) || deepRowOf g (c.1 / 512)) := by
  obtain ⟨a, b, c, d, ha, hb, hc, hd, he⟩ := regionDown_steps s g st true
  have ma : a.mem = s.mem := by obtain rfl | rfl := ha <;> [rfl; exact dropFreq_mem s g 2]
  have mb : b.mem = a.mem := by obtain rfl | rfl := hb <;> [rfl; exact fenceRegion_mem a g]
  have mc : c.mem = b.mem := by obtain ⟨rfl, -⟩ | rfl := hc <;> rfl
  have md : d.mem = c.mem := by obtain rfl | ⟨r, rfl⟩ := hd <;> [rfl; exact endMoult_mem c g r]
  rw [← ma, ← mb, ← mc, ← md]
  obtain ⟨-, h⟩ | e := he
  · cases h
  · rw [e]; exact powerOff_deep_mem d g

/-! ### The loss of a region (R358) -/

/-- The state without what the loss of a region touches once it is down. -/
def State.sansLoss (s : State) : State := { s with regions := [], train := .init, flt := .init, adm := .init, csr := .init, fordan := .init }

theorem event_loss (s : State) (e : Ev) : (s.event e).sansLoss = s.sansLoss := (congrArg State.sansLoss (event_frame s e) :)

theorem loseMirrors_eq (s : State) (g : Nat) : ∃ t, s.loseMirrors g = { s with train := t } := by
  unfold State.loseMirrors
  extract_lets l
  split
  · exact ⟨_, rfl⟩
  · exact ⟨_, rfl⟩

/-- R358: the region's detour set is due. -/
def State.detourDue (s : State) (g cls : Nat) : State :=
  ((s.updRegion g fun r => { r with lost := true }).addTodo cls (.detour g)).closeAdm 0x11 |>.alert 256

theorem addTodo_eq (s : State) (cls : Nat) (a : Repair) : ∃ l, s.addTodo cls a = { s with flt := { s.flt with todo := l } } ∧ (cls, a) ∈ l := by
  unfold State.addTodo
  split
  · rename_i h; exact ⟨_, rfl, by simpa using h⟩
  · exact ⟨_, rfl, by simp⟩

theorem regionLoss_eq (s : State) (g cls : Nat) :
    s.regionLoss g cls = ((s.loseMirrors g).whenB ((s.loseMirrors g).inUse g) fun v => v.detourDue g cls).queueMoult g cls := rfl

/-- What the loss of a region adds once its detour set is due: a moult that waits, and its record. -/
theorem queueMoult_eq (s : State) (g cls : Nat) :
    s.queueMoult g cls = s ∨
      s.queueMoult g cls = ({ s with flt := { s.flt with queueM := s.flt.queueM + 2 ^ g } } : State).event
        { code := 0x99, region := g, action := 7, path := some cls } := by
  unfold State.queueMoult
  split
  · exact .inl rfl
  · exact .inr rfl

theorem queueMoult_loss (s : State) (g cls : Nat) : (s.queueMoult g cls).sansLoss = s.sansLoss := by
  obtain e | e := queueMoult_eq s g cls <;> rw [e]
  exact event_loss ..

theorem queueMoult_region (s : State) (g cls j : Nat) : (s.queueMoult g cls).region j = s.region j := by
  obtain e | e := queueMoult_eq s g cls <;> rw [e]
  exact event_region ..

theorem queueMoult_todo (s : State) (g cls : Nat) : (s.queueMoult g cls).flt.todo = s.flt.todo := by
  obtain e | e := queueMoult_eq s g cls <;> rw [e]
  exact (event_flt ..).1

theorem queueMoult_adm (s : State) (g cls : Nat) : (s.queueMoult g cls).adm = s.adm := by
  obtain e | e := queueMoult_eq s g cls <;> rw [e]
  exact (congrArg State.adm (event_frame ({ s with flt := { s.flt with queueM := s.flt.queueM + 2 ^ g } } : State) _) :)

theorem queueMoult_writes (s : State) (g cls : Nat) : Writes s (s.queueMoult g cls) 1 := by
  obtain e | e := queueMoult_eq s g cls <;> rw [e]
  · exact (Writes.refl s).mono (Nat.zero_le 1)
  · exact (Writes.of_flt rfl rfl : Writes s ({ s with flt := { s.flt with queueM := s.flt.queueM + 2 ^ g } } : State) 0).trans (event_writes ..)

/-- R372: the region waits for a moult. -/
theorem queueMoult_waits (s : State) {g : Nat} (hg : g < 32) (cls : Nat) : MoultWaits g (s.queueMoult g cls) := by
  unfold State.queueMoult
  split
  · rename_i h
    exact h.resolve_left (Nat.not_le.mpr hg)
  · rename_i h
    have hbit : bitOf s.flt.queueM g = false := Bool.eq_false_iff.mpr fun hb => h (.inr hb)
    refine MoultWaits.event ?_ _
    exact (bitOf_add_two_pow hbit g).trans (by rw [decide_eq_true rfl, Bool.or_true])

/-- What the loss of a region that the image uses says. -/
def DetourDue (g cls : Nat) (s : State) : Prop := (s.region g).lost = true ∧ s.adm.isOpen = false ∧ (cls, Repair.detour g) ∈ s.flt.todo

theorem detourDue_loss (s : State) (g cls : Nat) : (s.detourDue g cls).sansLoss = s.sansLoss := by
  obtain ⟨l, h, -⟩ := addTodo_eq (s.updRegion g fun r => { r with lost := true }) cls (.detour g)
  unfold State.detourDue
  rw [h]; rfl

theorem region_of_table {s u : State} (h : u.regions = s.regions) (j : Nat) : u.region j = s.region j := congrArg (fun t => Tab.get Region.init t j) h

theorem detourDue_regions (s : State) (g cls : Nat) : (s.detourDue g cls).regions = (s.updRegion g fun r => { r with lost := true }).regions := by
  obtain ⟨l, h, -⟩ := addTodo_eq (s.updRegion g fun r => { r with lost := true }) cls (.detour g)
  unfold State.detourDue
  rw [h]; rfl

theorem detourDue_due (s : State) (g cls : Nat) : DetourDue g cls (s.detourDue g cls) := by
  refine ⟨?_, ?_⟩
  · rw [region_of_table (detourDue_regions s g cls), updRegion_region_self]
  · obtain ⟨l, h, hm⟩ := addTodo_eq (s.updRegion g fun r => { r with lost := true }) cls (.detour g)
    unfold State.detourDue
    rw [h]
    exact ⟨rfl, hm⟩

theorem detourDue_writes (s : State) (g cls : Nat) : Writes s (s.detourDue g cls) 0 := by
  obtain ⟨l, h, -⟩ := addTodo_eq (s.updRegion g fun r => { r with lost := true }) cls (.detour g)
  unfold State.detourDue
  rw [h]; exact .of_flt rfl rfl

/-- The loss of a region: what it changes of the regions and of the rest. -/
theorem regionLoss_spec (s : State) {g : Nat} (hg : g < 32) (cls : Nat) :
    let u := s.regionLoss g cls
    u.sansLoss = s.sansLoss ∧ Writes s u 1 ∧ MoultWaits g u ∧ (s.inUse g = true → DetourDue g cls u) ∧ (∀ j, j ≠ g → u.region j = s.region j) ∧
      (u.region g).st = (s.region g).st ∧ (u.region g).phases = (s.region g).phases := by
  rw [regionLoss_eq]
  obtain ⟨t, ht⟩ := loseMirrors_eq s g
  rw [ht]
  have hinUse : ({ s with train := t } : State).inUse g = s.inUse g := rfl
  have hl : ({ s with train := t } : State).sansLoss = s.sansLoss := rfl
  have hw : Writes s ({ s with train := t } : State) 0 := .of_flt rfl rfl
  have hr (j : Nat) : ({ s with train := t } : State).region j = s.region j := rfl
  generalize ({ s with train := t } : State) = v at *
  rw [hinUse]
  cases s.inUse g with
  | false =>
    rw [show (v.whenB false fun v => v.detourDue g cls) = v from rfl]
    refine ⟨(queueMoult_loss v g cls).trans hl, (hw.trans (queueMoult_writes v g cls)).mono (Nat.le_refl 1), queueMoult_waits v hg cls, nofun,
      fun j _ => (queueMoult_region ..).trans (hr j), ?_, ?_⟩ <;> rw [queueMoult_region, hr]
  | true =>
    rw [show (v.whenB true fun v => v.detourDue g cls) = v.detourDue g cls from rfl]
    have h1 := detourDue_loss v g cls
    have h2 := detourDue_writes v g cls
    have h3 := detourDue_due v g cls
    have h4 := region_of_table (detourDue_regions v g cls)
    generalize v.detourDue g cls = w at *
    refine ⟨(queueMoult_loss w g cls).trans (h1.trans hl), (hw.trans (h2.trans (queueMoult_writes w g cls))).mono (Nat.le_refl 1), queueMoult_waits w hg cls,
      fun _ => ?_, fun j hj => ?_, ?_, ?_⟩
    · unfold DetourDue
      rw [queueMoult_region, queueMoult_adm, queueMoult_todo]
      exact h3
    · rw [queueMoult_region, h4, updRegion_region_ne _ _ _ hj, hr]
    · rw [queueMoult_region, h4, updRegion_region_self, ← hr]
    · rw [queueMoult_region, h4, updRegion_region_self, ← hr]

/-! ### A region that becomes Unusable (R346 to R348) -/

theorem inUse_of {s u : State} {g : Nat} (hi : u.img = s.img) (hr : (u.region g).rg = (s.region g).rg) : u.inUse g = s.inUse g := by
  unfold State.inUse
  rw [hi, hr]

/-- A region that becomes Unusable: its state and phases, its record and its place on the next instar's list, and what it leaves. -/
theorem unusable_spec (s : State) {g : Nat} (hg : g < 32) (code d0 d1 : Nat) (deep : Bool) :
    let u := s.unusable g code d0 d1 deep
    (u.region g).st = .unusable ∧ (u.region g).phases = (s.region g).phases ∧ (∀ j, j ≠ g → u.region j = s.region j) ∧
      (∀ v : State, v.flt.evNext ≤ s.flt.evNext → Recorded v u code g d0 d1) ∧ Writes s u ((s.region g).changes.length + 3) ∧ Due ⟨8, 5, g⟩ u ∧
      (∀ x, Due x s → Due x u) ∧ MoultWaits g u ∧ (s.inUse g = true → DetourDue g 7 u) ∧ u.mem = (s.regionDown g .unusable deep).mem ∧
      u.fields = (s.regionDown g .unusable deep).fields ∧
      u.time = s.time ∧ u.pins = s.pins ∧ u.img = s.img := by
  unfold State.unusable State.powerEvent
  have h1st := (regionDown_st s g .unusable deep).trans (lowered_unusable _)
  have h1l := regionDown_lasting s g .unusable deep g
  have h1ne (j : Nat) (hj : j ≠ g) := regionDown_region_ne s g .unusable deep hj
  have h1w := regionDown_writes s g .unusable deep
  have h1m := regionDown_moult s g .unusable deep
  generalize s.regionDown g .unusable deep = a at *
  have h2r (j : Nat) := event_region a { code := code, region := g, source := 5, d0 := d0, d1 := d1 } j
  have h2w := event_writes a { code := code, region := g, source := 5, d0 := d0, d1 := d1 }
  have h2f := event_frame a { code := code, region := g, source := 5, d0 := d0, d1 := d1 }
  have h2rec (v u : State) (n : Nat) (hn : n < 65536) (hv : v.flt.evNext ≤ s.flt.evNext)
      (hu : Writes (a.event { code := code, region := g, source := 5, d0 := d0, d1 := d1 }) u n) : Recorded v u code g d0 d1 :=
    hu.recorded hn (hv.trans h1w.1)
  generalize a.event { code := code, region := g, source := 5, d0 := d0, d1 := d1 } = b at *
  dsimp only
  have h3due := addCommit_due b 7 ⟨8, 5, g⟩
  have h3keep (x : LogItem) (hx : Due x b) := hx.addCommit 7 [⟨8, 5, g⟩]
  have h3f : ({ b.addCommit 7 [⟨8, 5, g⟩] with boot := b.boot } : State) = b := rfl
  generalize b.addCommit 7 [⟨8, 5, g⟩] = c at *
  have h3r (j : Nat) : c.region j = a.region j := (congrArg (fun v : State => v.region j) h3f :).trans (h2r j)
  have h3flt : c.flt = b.flt := (congrArg State.flt h3f :)
  have h3w : Writes b c 0 := .of_flt (by rw [h3flt]) (by rw [h3flt])
  obtain ⟨h4f, h4w, h4q, h4d, h4ne, h4st, h4ph⟩ := regionLoss_spec c hg 7
  generalize c.regionLoss g 7 = u at *
  have hkeep {α : Type} (π : State → α) (h1 : π u = π u.sansLoss) (h2 : π c.sansLoss = π ({ c with boot := b.boot } : State))
      (h3 : π b = π ({ b with flt := a.flt, csr := a.csr, fordan := a.fordan } : State)) : π u = π a := by
    rw [h1, h4f, h2, h3f, h3, h2f]
  have himg : c.img = s.img := (congrArg State.img h3f :).trans ((congrArg State.img h2f :).trans (congrArg State.img h1m :))
  have hdue : u.boot.commitDue = c.boot.commitDue := (congrArg (fun v : State => v.boot.commitDue) h4f :)
  have hbdue : b.boot.commitDue = s.boot.commitDue := (congrArg (fun v : State => v.boot.commitDue) h2f :).trans (due_of_moult h1m)
  refine ⟨?_, ?_, fun j hj => ?_, fun v hv => h2rec v u 1 (by decide) hv (h3w.trans h4w), (h1w.trans (h2w.trans (h3w.trans h4w))).mono (by omega),
    h3due.of_eq hdue, fun x hx => (h3keep x (hx.of_eq hbdue)).of_eq hdue, h4q, fun hi => h4d ?_, hkeep State.mem rfl rfl rfl,
    hkeep State.fields rfl rfl rfl,
    (hkeep State.time rfl rfl rfl).trans (congrArg State.time h1m :), (hkeep State.pins rfl rfl rfl).trans (congrArg State.pins h1m :),
    (hkeep State.img rfl rfl rfl).trans (congrArg State.img h1m :)⟩
  · rw [h4st, h3r, h1st]
  · rw [h4ph, h3r]; exact congrArg Prod.fst h1l
  · rw [h4ne j hj, h3r, h1ne j hj]
  · rw [inUse_of himg (by rw [h3r]; exact congrArg Prod.snd h1l)]; exact hi

/-! ### Budgets after a derating (R343, R346, R355) -/

/-- R343: the limits of the regions are taken as their budgets. -/
def State.takeLimit (s : State) (g : Nat) : State := if (s.region g).j = (s.region g).lim1m then s else s.updRegion g fun r => { r with j := r.lim1m }

/-- R343: the stretch of a region under its budget. -/
def State.budgetStretch (s : State) (g : Nat) : Nat :=
  if s.pwr.pcap || s.pwr.inCut then
    (if (s.region g).op ≥ pointFor (s.region g).rg.iPlan (s.region g).j then 0 else pcapStretch (s.region g).rg.iPlan (s.region g).j)
  else 0

def State.budgetHeld (s : State) (g : Nat) : Bool := s.pwr.inCut && decide ((s.region g).j < (s.region g).lim1m)

/-- R343, R355: a region takes its stretch. -/
def State.takeStretch (s : State) (g : Nat) : State :=
  if (s.region g).pcapStr = s.budgetStretch g ∧ ((s.region g).inputSeen || !s.budgetHeld g) then s
  else s.updRegion g fun r => { r with pcapStr := s.budgetStretch g, inputSeen := r.inputSeen || s.budgetHeld g }

/-- R343: the regions take the stretches that their budgets ask for, and move toward the points wanted. -/
def State.followBudgets (s : State) : State := (s.each (upTo 32) State.takeStretch).each (upTo 32) State.retarget

theorem each_takeLimit (s : State) :
    (s.each (upTo 32) fun s g =>
      let r := s.region g
      if r.j = r.lim1m then s else s.updRegion g fun r => { r with j := r.lim1m }) = s.each (upTo 32) State.takeLimit := by
  unfold State.takeLimit
  rfl

theorem each_takeStretch (s : State) :
    ((s.each (upTo 32) fun s g =>
      let r := s.region g
      let k := if s.pwr.pcap || s.pwr.inCut then (if r.op ≥ pointFor r.rg.iPlan r.j then 0 else pcapStretch r.rg.iPlan r.j) else 0
      let held := s.pwr.inCut && decide (r.j < r.lim1m)
      if r.pcapStr = k ∧ (r.inputSeen || !held) then s else s.updRegion g fun r => { r with pcapStr := k, inputSeen := r.inputSeen || held }).each
      (upTo 32) fun s g => s.retarget g) = s.followBudgets := by
  unfold State.followBudgets State.takeStretch State.budgetStretch State.budgetHeld
  rfl

/-- The budgets are computed in stages: limits, the cuts of both classes, stretches and points. -/
theorem budgets_stages (s : State) :
    ∃ need w need' x n, (s.each (upTo 32) State.takeLimit).cutOne false need = (w, need') ∧ w.cutOne true need' = (x, n) ∧ s.budgets = x.followBudgets := by
  obtain ⟨u, h⟩ : ∃ u, s.budgets = u := ⟨_, rfl⟩
  rw [h]
  obtain ⟨f, hf⟩ : ∃ f, f = State.budgets := ⟨_, rfl⟩
  rw [← hf] at h
  delta State.budgets at hf
  subst hf
  beta_reduce at h
  extract_lets v need at h
  have hv : s.each (upTo 32) State.takeLimit = v := (each_takeLimit s).symm
  rw [hv]
  clear hv
  clear_value v need
  generalize hw : v.cutOne false need = p at h
  obtain ⟨w, need'⟩ := p
  dsimp only at h
  generalize hx : w.cutOne true need' = p at h
  obtain ⟨x, n⟩ := p
  dsimp only at h
  exact ⟨need, w, need', x, n, hw, hx, h.symm.trans (each_takeStretch x)⟩

/-- R343: a cut lowers the budgets of some regions, and touches nothing else. -/
theorem cutOne_cuts {s w : State} {crit : Bool} {need n : Nat} (h : s.cutOne crit need = (w, n)) :
    ∃ (l : List Nat) (b : Region → Nat), w = s.each l fun v g => v.updRegion g fun r => { r with j := min r.j (b r) } := by
  unfold State.cutOne at h
  extract_lets l pool take at h
  split at h
  · exact ⟨[], fun _ => 0, (congrArg Prod.fst h).symm⟩
  · exact ⟨l, fun r => (4 * r.rg.iPlan * pool - 3 * r.rg.iPlan * take) / (4 * pool), (congrArg Prod.fst h).symm⟩

/-- The state without its regions and what a record touches. -/
def State.sansRecords (s : State) : State := { s with regions := [], flt := s.flt.sansLog, csr := .init, fordan := .init }

theorem event_records (s : State) (e : Ev) : (s.event e).sansRecords = s.sansRecords := by
  have h := (congrArg State.sansRecords (event_frame s e) :)
  have hf := event_sansLog s e
  generalize s.event e = u at *
  exact (show u.sansRecords = { ({ u with flt := s.flt, csr := s.csr, fordan := s.fordan } : State).sansRecords with flt := u.flt.sansLog } from rfl).trans
    (by rw [h, hf]; rfl)

/-- What the stages before the points keep of a region. -/
def Region.sansBudget (r : Region) : Region := { r with j := 0, pcapStr := 0, inputSeen := false }

/-- A stage that changes the budget of one region. -/
structure BudgetStep (s u : State) : Prop where
  records : u.sansRecords = s.sansRecords
  region : ∀ i, (u.region i).sansBudget = (s.region i).sansBudget
  log : u.flt = s.flt

theorem BudgetStep.refl (s : State) : BudgetStep s s := ⟨rfl, fun _ => rfl, rfl⟩

theorem BudgetStep.trans {s v u : State} (h : BudgetStep s v) (h' : BudgetStep v u) : BudgetStep s u :=
  ⟨h'.records.trans h.records, fun i => (h'.region i).trans (h.region i), h'.log.trans h.log⟩

theorem BudgetStep.each {f : State → Nat → State} (hf : ∀ v i, BudgetStep v (f v i)) (l : List Nat) (s : State) : BudgetStep s (s.each l f) :=
  each_ind (P := BudgetStep s) (fun v i _ h => h.trans (hf v i)) (.refl s)

theorem updRegion_budgetStep (s : State) (g : Nat) {f : Region → Region} (hf : ∀ r, (f r).sansBudget = r.sansBudget) : BudgetStep s (s.updRegion g f) :=
  ⟨rfl, fun i => updRegion_keeps Region.sansBudget hf s g i, rfl⟩

theorem takeLimit_budgetStep (s : State) (g : Nat) : BudgetStep s (s.takeLimit g) := by
  unfold State.takeLimit
  split
  · exact .refl s
  · exact updRegion_budgetStep s g fun _ => rfl

theorem takeStretch_budgetStep (s : State) (g : Nat) : BudgetStep s (s.takeStretch g) := by
  unfold State.takeStretch
  split
  · exact .refl s
  · exact updRegion_budgetStep s g fun _ => rfl

theorem cutOne_budgetStep {s w : State} {crit : Bool} {need n : Nat} (h : s.cutOne crit need = (w, n)) : BudgetStep s w := by
  obtain ⟨l, b, rfl⟩ := cutOne_cuts h
  refine .each (fun v g => updRegion_budgetStep v g ?_) l s
  intro r; rfl

/-- The budget of a region is at most `n`. -/
def BudgetAtMost (g n : Nat) (s : State) : Prop := (s.region g).j ≤ n

theorem takeLimits_atMost (s : State) {g : Nat} (hg : g < 32) : BudgetAtMost g (s.region g).lim1m (s.each (upTo 32) State.takeLimit) := by
  have hne (v : State) (i j : Nat) (h : j ≠ i) : (v.takeLimit i).region j = v.region j := by
    unfold State.takeLimit
    split
    · rfl
    · exact updRegion_region_ne v i _ h
  obtain ⟨v, hv, he⟩ := each_unit State.region hne (upTo_nodup 32) (mem_upTo.mpr hg) s
  unfold BudgetAtMost
  rw [he, ← hv]
  unfold State.takeLimit
  split
  · rename_i h; exact h.le
  · rw [updRegion_region_self]

theorem cutOne_atMost {s w : State} {crit : Bool} {need n g m : Nat} (h : s.cutOne crit need = (w, n)) (hs : BudgetAtMost g m s) : BudgetAtMost g m w := by
  obtain ⟨l, b, rfl⟩ := cutOne_cuts h
  refine each_ind (P := BudgetAtMost g m) (fun v i _ hv => ?_) hs
  unfold BudgetAtMost
  by_cases e : g = i
  · subst e
    rw [updRegion_region_self]
    exact (Nat.min_le_left ..).trans hv
  · rw [updRegion_region_ne v i _ e]
    exact hv

theorem takeStretches_j (s : State) (g : Nat) : ((s.each (upTo 32) State.takeStretch).region g).j = (s.region g).j := by
  refine each_keeps (fun v => (v.region g).j) (fun v i => ?_) _ s
  unfold State.takeStretch
  split
  · rfl
  · exact updRegion_keeps Region.j (by intro; rfl) v i g

/-! ### Points after the budgets (R238, R355) -/

theorem risesFrom_length (p : Nat) (l : List (Nat × Nat)) : (risesFrom p l).length ≤ l.length := by
  induction l generalizing p with
  | nil => exact Nat.le_refl 0
  | cons c l ih =>
    unfold risesFrom
    split
    · exact Nat.succ_le_succ (ih p)
    · exact (ih c.2).trans (Nat.le_succ _)

/-- What the change of a region's points leaves of it. -/
def Region.sansPoints (r : Region) : Region := { r with opPend := 0, opPendBeat := 0, opNext := [] }

/-- What the records and the changes of the points touch. -/
structure PointStep (g n : Nat) (s u : State) : Prop where
  records : u.sansRecords = s.sansRecords
  same : ∀ i, i ≠ g → u.region i = s.region i
  region : (u.region g).sansPoints = (s.region g).sansPoints
  writes : Writes s u n

theorem PointStep.refl (g : Nat) (s : State) : PointStep g 0 s s := ⟨rfl, fun _ _ => rfl, rfl, .refl s⟩

theorem PointStep.trans {g n m : Nat} {s v u : State} (h : PointStep g n s v) (h' : PointStep g m v u) : PointStep g (n + m) s u :=
  ⟨h'.records.trans h.records, fun i hi => (h'.same i hi).trans (h.same i hi), h'.region.trans h.region, h.writes.trans h'.writes⟩

theorem PointStep.mono {g n m : Nat} {s u : State} (h : PointStep g n s u) (hm : n ≤ m) : PointStep g m s u :=
  ⟨h.records, h.same, h.region, h.writes.mono hm⟩

theorem event_pointStep (g : Nat) (s : State) (e : Ev) : PointStep g 1 s (s.event e) :=
  ⟨event_records s e, fun i _ => event_region s e i, by rw [event_region], event_writes s e⟩

theorem setChanges_pointStep (g : Nat) (s : State) (l : Region → List (Nat × Nat)) : PointStep g 0 s (s.updRegion g fun r => r.setChanges (l r)) where
  records := rfl
  same _ hi := updRegion_region_ne s g _ hi
  region := by
    rw [updRegion_region_self]
    exact setChanges_keeps Region.sansPoints (fun _ _ _ _ => rfl) _ _
  writes := .of_flt rfl rfl

theorem changesDropped_pointStep (g cause : Nat) (l : List (Nat × Nat)) (s : State) :
    PointStep g l.length s (l.foldl (fun s c => s.changeDropped g cause c) s) := by
  induction l generalizing s with
  | nil => exact .refl g s
  | cons c l ih => exact ((event_pointStep g s _).trans (ih (s.changeDropped g cause c))).mono (by rw [List.length_cons]; omega)

theorem dropRises_pointStep (s : State) (g : Nat) : PointStep g (s.region g).changes.length s (s.dropRises g) := by
  unfold State.dropRises
  exact ((changesDropped_pointStep g 3 _ s).trans (setChanges_pointStep g _ _)).mono (risesFrom_length ..)

theorem putChange_pointStep (s : State) (g p n : Nat) : PointStep g 1 s (s.putChange g p n) := by
  unfold State.putChange
  dsimp only
  split
  · exact (setChanges_pointStep g s _).mono (Nat.zero_le 1)
  · exact (setChanges_pointStep g s _).trans (event_pointStep g _ _)

theorem retarget_pointStep (s : State) (g : Nat) : PointStep g ((s.region g).changes.length + 1) s (s.retarget g) := by
  unfold State.retarget
  dsimp only
  split
  · exact (PointStep.refl g s).mono (Nat.zero_le _)
  · split
    · split
      · exact (dropRises_pointStep s g).mono (Nat.le_succ _)
      · exact (dropRises_pointStep s g).trans (putChange_pointStep ..)
    · split
      · exact (putChange_pointStep ..).mono (Nat.le_add_left ..)
      · exact (PointStep.refl g s).mono (Nat.zero_le _)

/-- The regions move toward the points wanted one after another: each writes at most one record more than it has changes. -/
theorem retargets_spec {k : Nat} {l : List Nat} (hl : l.Nodup) {s : State} (hk : ∀ i ∈ l, (s.region i).changes.length ≤ k) :
    (s.each l State.retarget).sansRecords = s.sansRecords ∧ (∀ i, ((s.each l State.retarget).region i).sansPoints = (s.region i).sansPoints) ∧
      Writes s (s.each l State.retarget) ((k + 1) * l.length) := by
  induction l generalizing s with
  | nil => exact ⟨rfl, fun _ => rfl, .refl s⟩
  | cons g l ih =>
    obtain ⟨hg, hl⟩ := List.nodup_cons.mp hl
    have hstep := retarget_pointStep s g
    have hkg := hk g List.mem_cons_self
    have hrest (i : Nat) (hi : i ∈ l) : ((s.retarget g).region i).changes.length ≤ k := by
      rw [hstep.same i (fun e => hg (e ▸ hi))]
      exact hk i (List.mem_cons_of_mem _ hi)
    obtain ⟨h1, h2, h3⟩ := ih hl hrest
    refine ⟨h1.trans hstep.records, fun i => (h2 i).trans ?_, ?_⟩
    · by_cases e : i = g
      · rw [e]; exact hstep.region
      · rw [hstep.same i e]
    · exact (hstep.writes.trans h3).mono (by rw [List.length_cons, Nat.mul_succ]; omega)

/-- R238: a region has one change more than its list of later ones. -/
theorem changes_length (r : Region) : r.changes.length ≤ r.opNext.length + 1 := by
  unfold Region.changes
  split
  · exact Nat.zero_le _
  · exact Nat.le_refl _

theorem changes_of_sansBudget {r x : Region} (h : r.sansBudget = x.sansBudget) : r.changes = x.changes := (congrArg Region.changes h :)

/-- What the budgets of a device whose regions have few changes pending do: they write records and change points and budgets. -/
structure Budgeted (s u : State) : Prop where
  records : u.sansRecords = s.sansRecords
  phases : ∀ i, (u.region i).phases = (s.region i).phases
  st : ∀ i, (u.region i).st = (s.region i).st
  writes : Writes s u 32064
  limit : ∀ g < 32, (u.region g).j ≤ (s.region g).lim1m

theorem budgets_budgeted (s : State) (hk : ∀ i < 32, (s.region i).opNext.length ≤ 1000) : Budgeted s s.budgets := by
  obtain ⟨need, w, need', x, n, hw, hx, he⟩ := budgets_stages s
  rw [he]
  unfold State.followBudgets
  have h1 := BudgetStep.each takeLimit_budgetStep (upTo 32) s
  have j1 (g : Nat) (hg : g < 32) := takeLimits_atMost s hg
  generalize s.each (upTo 32) State.takeLimit = a at *
  have h3 := ((h1.trans (cutOne_budgetStep hw)).trans (cutOne_budgetStep hx)).trans (BudgetStep.each takeStretch_budgetStep (upTo 32) x)
  have j3 (g : Nat) := takeStretches_j x g
  generalize x.each (upTo 32) State.takeStretch = y at *
  have hch (i : Nat) (hi : i ∈ upTo 32) : (y.region i).changes.length ≤ 1001 := by
    rw [changes_of_sansBudget (h3.region i)]
    exact (changes_length _).trans (Nat.succ_le_succ (hk i (mem_upTo.mp hi)))
  obtain ⟨hrec, hreg, hwr⟩ := retargets_spec (upTo_nodup 32) hch
  generalize y.each (upTo 32) State.retarget = u at *
  refine ⟨hrec.trans h3.records, fun i => ?_, fun i => ?_, ?_, fun g hg => ?_⟩
  · exact (congrArg Region.phases (hreg i) :).trans (congrArg Region.phases (h3.region i) :)
  · exact (congrArg Region.st (hreg i) :).trans (congrArg Region.st (h3.region i) :)
  · exact ((Writes.of_flt (by rw [h3.log]) (by rw [h3.log]) : Writes s y 0).trans hwr).mono (by rw [List.length_range])
  · rw [show (u.region g).j = (y.region g).j from (congrArg Region.j (hreg g) :), j3]
    exact cutOne_atMost hx (cutOne_atMost hw (j1 g hg))

/-! ### A phase is lost (R346) -/

/-- R346: a phase is turned off. -/
def State.phaseOff (s : State) (g i : Nat) : State := s.updRegion g fun r => { r with phases := r.phases + 2 ^ i }

/-- R346: a phase is off, recorded, due for the next instar, and its region queued for moult. -/
def State.phaseLost (s : State) (g i d0 cur : Nat) : State :=
  (((s.phaseOff g i).powerEvent 0xB6 g d0 cur).addCommit 0 [{ kind := 6, val := i, id := g }]).queueMoult g 0

/-- R346: what follows from the number of phases that a region has lost. -/
def State.afterPhases (s : State) (g n : Nat) : State :=
  if n = 2 then (s.powerEvent 0xB7 g).budgets else if n = 3 then s.unusable g 0xB8 0 0 false else s

theorem phaseFailure_next {s : State} {g i cause : Nat} (hg : g < 32) (hi : i < 24) (hc : cause < 4) (hb : bitOf (s.region g).phases i = false) (cur : Nat) :
    exec (.phaseFailure g i cause cur) s =
      .next ((s.phaseLost g i (i + cause * 2 ^ 8 + popCount32 ((s.region g).phases + 2 ^ i) * 2 ^ 16) cur).afterPhases g
        (popCount32 ((s.region g).phases + 2 ^ i))) := by
  show execPhaseFailure g i cause cur s = _
  have hn : ((s.phaseOff g i).region g).phases = (s.region g).phases + 2 ^ i := congrArg Region.phases (updRegion_region_self ..)
  rw [← hn]
  unfold execPhaseFailure
  rw [onRegion_ok hg, State.whenB, if_pos (by simp [hi, hc, hb])]
  rfl

theorem phaseFailure_idle {s : State} {g i : Nat} (hg : g < 32) (h : bitOf (s.region g).phases i = true ∨ 24 ≤ i) (cause cur : Nat) :
    exec (.phaseFailure g i cause cur) s = .next s := by
  show execPhaseFailure g i cause cur s = _
  unfold execPhaseFailure
  rw [onRegion_ok hg, State.whenB, if_neg]
  simp only [Bool.and_eq_true, decide_eq_true_eq, Bool.not_eq_true', not_and, Bool.not_eq_false]
  rintro ⟨h24, -⟩
  exact h.resolve_right (Nat.not_le.mpr h24)

/-- The state without what a lost phase touches. -/
def State.sansPhase (s : State) : State := { s with regions := [], boot := .init, flt := .init, csr := .init, fordan := .init }

theorem event_phase (s : State) (e : Ev) : (s.event e).sansPhase = s.sansPhase := (congrArg State.sansPhase (event_frame s e) :)

theorem queueMoult_phase (s : State) (g cls : Nat) : (s.queueMoult g cls).sansPhase = s.sansPhase := by
  obtain e | e := queueMoult_eq s g cls <;> rw [e]
  exact event_phase ..

theorem queueMoult_due (s : State) (g cls : Nat) : (s.queueMoult g cls).boot.commitDue = s.boot.commitDue :=
  (congrArg (fun v : State => v.boot.commitDue) (queueMoult_loss s g cls) :)

theorem queueMoult_regions (s : State) (g cls : Nat) : (s.queueMoult g cls).regions = s.regions := by
  obtain e | e := queueMoult_eq s g cls <;> rw [e]
  exact (congrArg State.regions (event_frame ({ s with flt := { s.flt with queueM := s.flt.queueM + 2 ^ g } } : State) _) :)

/-- What a lost phase does before the count of the phases lost is judged. -/
structure PhaseGone (s u : State) (g i d0 cur : Nat) : Prop where
  rest : u.sansPhase = s.sansPhase
  regions : u.regions = (s.phaseOff g i).regions
  due : Due ⟨6, i, g⟩ u
  waits : MoultWaits g u
  next : s.flt.evNext ≤ u.flt.evNext
  recorded : ∀ (v : State) (n : Nat), n < 65535 → Writes u v n → Recorded s v 0xB6 g d0 cur

theorem phaseLost_gone (s : State) {g : Nat} (hg : g < 32) (i d0 cur : Nat) : PhaseGone s (s.phaseLost g i d0 cur) g i d0 cur := by
  unfold State.phaseLost State.powerEvent
  have ha : (s.phaseOff g i).sansPhase = s.sansPhase := rfl
  have hn : s.flt.evNext ≤ (s.phaseOff g i).flt.evNext := Nat.le_refl _
  generalize hpo : s.phaseOff g i = a at *
  have hb := event_phase a { code := 0xB6, region := g, source := 5, d0 := d0, d1 := cur }
  have hbr := (congrArg State.regions (event_frame a { code := 0xB6, region := g, source := 5, d0 := d0, d1 := cur }) :)
  have hbw := event_writes a { code := 0xB6, region := g, source := 5, d0 := d0, d1 := cur }
  have hrec (v : State) (n : Nat) (hlt : n < 65536) (h : Writes (a.event { code := 0xB6, region := g, source := 5, d0 := d0, d1 := cur }) v n) :
      Recorded s v 0xB6 g d0 cur := h.recorded hlt hn
  generalize a.event { code := 0xB6, region := g, source := 5, d0 := d0, d1 := cur } = b at *
  have hc : (b.addCommit 0 [⟨6, i, g⟩]).sansPhase = b.sansPhase := rfl
  have hcr : (b.addCommit 0 [⟨6, i, g⟩]).regions = b.regions := rfl
  have hcw : Writes b (b.addCommit 0 [⟨6, i, g⟩]) 0 := .of_flt rfl rfl
  have hcd := addCommit_due b 0 ⟨6, i, g⟩
  generalize b.addCommit 0 [⟨6, i, g⟩] = c at *
  have hdw := queueMoult_writes c g 0
  refine ⟨(queueMoult_phase c g 0).trans (hc.trans (hb.trans ha)), (queueMoult_regions c g 0).trans (hcr.trans (hbr.trans (by rw [hpo]))), hcd.of_eq (queueMoult_due c g 0),
    queueMoult_waits c hg 0, hn.trans (hbw.1.trans (hcw.1.trans hdw.1)), fun v n hlt h => hrec v (1 + n) (by omega) ?_⟩
  exact (hcw.trans (hdw.trans h)).mono (by omega)

theorem afterPhases_two (s : State) (g : Nat) : s.afterPhases g 2 = (s.event { code := 0xB7, region := g, source := 5 }).budgets := by
  rw [State.afterPhases, if_pos rfl, State.powerEvent]

/-- What follows from the second phase: the region is derated, recorded, and no more. -/
structure Derated (g : Nat) (s u : State) : Prop where
  rest : u.sansPhase = s.sansPhase
  boot : u.boot = s.boot
  queueM : u.flt.queueM = s.flt.queueM
  phases : (u.region g).phases = (s.region g).phases
  st : (u.region g).st = (s.region g).st
  limit : (u.region g).j ≤ 3660
  writes : Writes s u 32065
  recorded : ∀ v : State, v.flt.evNext ≤ s.flt.evNext → Recorded v u 0xB7 g 0 0

theorem Budgeted.derated {s u : State} {g : Nat} (h : Budgeted (s.event { code := 0xB7, region := g, source := 5 }) u)
    (hd : (s.region g).derated = true) (hg : g < 32) : Derated g s u := by
  have hall := h.records.trans (event_records s { code := 0xB7, region := g, source := 5 })
  have hj := h.limit g hg
  have hph := h.phases g
  have hst := h.st g
  rw [event_region] at hph hst hj
  rw [Region.lim1m, hd, if_pos rfl] at hj
  exact ⟨(congrArg State.sansPhase hall :), (congrArg State.boot hall :), (congrArg (fun v : State => v.flt.queueM) hall :), hph, hst, hj,
    (event_writes s { code := 0xB7, region := g, source := 5 }).trans h.writes, fun v hv => h.writes.recorded (by decide) hv⟩

theorem afterPhases_derated {s : State} {g : Nat} (hd : (s.region g).derated = true) (hg : g < 32) (hk : ∀ i < 32, (s.region i).opNext.length ≤ 1000) :
    Derated g s (s.afterPhases g 2) := by
  rw [afterPhases_two]
  exact (budgets_budgeted _ fun i hi => by rw [event_region]; exact hk i hi).derated hd hg

theorem afterPhases_three (s : State) (g : Nat) : s.afterPhases g 3 = s.unusable g 0xB8 0 0 false := by
  rw [State.afterPhases, if_neg (by decide), if_pos rfl]

theorem afterPhases_other (s : State) (g : Nat) {n : Nat} (h2 : n ≠ 2) (h3 : n ≠ 3) : s.afterPhases g n = s := by
  rw [State.afterPhases, if_neg h2, if_neg h3]

/-! ### Short circuits (R347, R348) -/

theorem logicShortCircuit_next {s : State} {g cur : Nat} (hg : g < 32) (h : 8800 < cur) :
    exec (.logicShortCircuit g cur) s = .next (s.unusable g 0xB9 0 0 false) := by
  show execLogicShortCircuit g cur s = _
  rw [execLogicShortCircuit, onRegion_ok hg, State.whenB, if_pos (decide_eq_true h)]

theorem logicShortCircuit_idle {s : State} {g cur : Nat} (hg : g < 32) (h : cur ≤ 8800) : exec (.logicShortCircuit g cur) s = .next s := by
  show execLogicShortCircuit g cur s = _
  rw [execLogicShortCircuit, onRegion_ok hg, State.whenB, if_neg (by simpa using h)]

theorem storeShort_next {s : State} {g : Nat} (hg : g < 32) : exec (.storeShortCircuit (.store g)) s = .next (s.unusable g 0xBA 0 0 true) := by
  show execStoreShortCircuit (.store g) s = _
  rw [execStoreShortCircuit, onUnit, if_pos (decide_eq_true hg)]

/-- R348: the plane of a field is off. -/
def State.planeLost (s : State) (f : Nat) : State := s.updField f fun x => { x with planeOff := true }

theorem planeShort_next {s : State} {f : Nat} (hf : f < 16) :
    exec (.storeShortCircuit (.plane f)) s = .next (((s.planeLost f).unusable (2 * f) 0xBA 0 0 true).unusable (2 * f + 1) 0xBA 0 0 true) := by
  show execStoreShortCircuit (.plane f) s = _
  rw [execStoreShortCircuit, onUnit, if_pos (decide_eq_true hf)]
  rfl

/-- Whether the plane of a field is off. -/
def State.planeOut (f : Nat) (s : State) : Bool := (s.field f).planeOff

theorem event_planeOut (f : Nat) (s : State) (e : Ev) : (s.event e).planeOut f = s.planeOut f := (congrArg (State.planeOut f) (event_frame s e) :)

theorem dropFreq_planeOut (f : Nat) (s : State) (g cause : Nat) : (s.dropFreq g cause).planeOut f = s.planeOut f := by
  have all (l : List (Nat × Nat)) : (l.foldl (fun s c => s.changeDropped g cause c) s).planeOut f = s.planeOut f :=
    foldl_keeps (State.planeOut f) (fun v _ => event_planeOut f v _) l s
  unfold State.dropFreq
  split
  · rfl
  · exact all _

theorem powerOff_planeOut (f : Nat) (s : State) (g : Nat) (deep : Bool) : (s.powerOff g deep).planeOut f = s.planeOut f := by
  unfold State.powerOff
  extract_lets a ts b c
  have hc : c.planeOut f = b.planeOut f := by
    unfold State.planeOut c
    by_cases e : f = g / 2
    · rw [e, updField_field_self]
    · rw [updField_field_ne b _ _ e]
  exact hc

theorem planeOut_of_networks {s u : State} (h : u.sansNetworks = s.sansNetworks) (f : Nat) : u.planeOut f = s.planeOut f :=
  (congrArg (State.planeOut f) h :)

theorem endMoult_planeOut (f : Nat) (s : State) (g result : Nat) : (s.endMoult g result).planeOut f = s.planeOut f :=
  endMoult_ind (P := fun v => v.planeOut f = s.planeOut f) (fun _ _ h => h)
    (fun v h => (show (v.moultLeft g).planeOut f = v.planeOut f by unfold State.moultLeft; split <;> rfl).trans h)
    (fun v e h => (event_planeOut f v e).trans h) (fun v a b c h => (congrArg (State.planeOut f) (finish_frame v a b c) :).trans h) rfl result

theorem regionDown_planeOut (f : Nat) (s : State) (g : Nat) (st : RegSt) (deep : Bool) : (s.regionDown g st deep).planeOut f = s.planeOut f :=
  regionDown_ind (P := fun v => v.planeOut f = s.planeOut f) (fun v h => (dropFreq_planeOut f v g 2).trans h)
    (fun v h => (planeOut_of_networks (fenceRegion_networks v g) f).trans h) (fun _ _ h => h) (fun v r h => (endMoult_planeOut f v g r).trans h)
    (fun v h => (powerOff_planeOut f v g deep).trans h) rfl

theorem planeOut_of_table {s u : State} (h : u.fields = s.fields) (f : Nat) : u.planeOut f = s.planeOut f :=
  congrArg (fun t => (Tab.get Field.init t f).planeOff) h

/-! ### The package bus (R348, R437) -/

theorem packageBusFault_next {s : State} (h : s.boot.supply = .on ∨ s.boot.supply = .rising) :
    ∃ u, exec .packageBusFault s = .next u ∧ u.boot.latched = true ∧ u.boot.supply = .falling := by
  have hrun : (s.boot.supply == .on || s.boot.supply == .rising) = true := by obtain h | h := h <;> rw [h] <;> rfl
  have hstop : (s.holdSupplyFault.boot.supply == .off || s.holdSupplyFault.boot.supply == .falling) = false := by
    obtain h | h := h <;> rw [show s.holdSupplyFault.boot.supply = s.boot.supply from rfl, h] <;> rfl
  have hex : exec .packageBusFault s =
      .next { s.holdSupplyFault.startPowerDown with boot := { s.holdSupplyFault.startPowerDown.boot with latched := true } } := by
    show execPackageBusFault s = _
    rw [execPackageBusFault, State.whenB, if_pos hrun]
  refine ⟨_, hex, rfl, ?_⟩
  show s.holdSupplyFault.startPowerDown.boot.supply = _
  rw [State.startPowerDown, if_neg (by rw [hstop]; decide), inReset_boot]
  rfl

theorem packageBusFault_idle {s : State} (h : s.boot.supply = .off ∨ s.boot.supply = .falling) : exec .packageBusFault s = .next s := by
  have hrun : (s.boot.supply == .on || s.boot.supply == .rising) = false := by obtain h | h := h <;> rw [h] <;> rfl
  show execPackageBusFault s = _
  rw [execPackageBusFault, State.whenB, if_neg (by rw [hrun]; decide)]

/-! ### The settling -/

/-- R346: the region once phase `i` is off. -/
theorem phaseLost_region {s v : State} {g i : Nat} (h : v.regions = (s.phaseOff g i).regions) (j : Nat) :
    v.region j = if j = g then { s.region g with phases := (s.region g).phases + 2 ^ i } else s.region j := by
  rw [region_of_table h, State.phaseOff]
  split
  · rename_i e; rw [e, updRegion_region_self]
  · rename_i e; rw [updRegion_region_ne s g _ e]

theorem derated_of_phases {r x : Region} (h : r.phases = x.phases) : r.derated = x.derated := (congrArg (fun m => decide (popCount32 m ≥ 2)) h :)

/-- What the failure of a phase leaves: what is common to every count of phases lost, and what each count adds. -/
structure PhaseCounted (s u : State) (g i n d0 cur : Nat) : Prop where
  phases : (u.region g).phases = (s.region g).phases + 2 ^ i
  recorded : Recorded s u 0xB6 g d0 cur
  due : Due ⟨6, i, g⟩ u
  waits : MoultWaits g u
  one : n = 1 → u.regions = (s.phaseOff g i).regions ∧ u.mem = s.mem ∧ u.tiles = s.tiles
  two : n = 2 → Recorded s u 0xB7 g 0 0 ∧ (u.region g).derated = true ∧ (u.region g).st = (s.region g).st ∧ (u.region g).j ≤ 3660 ∧ u.mem = s.mem ∧
    u.tiles = s.tiles
  three : n = 3 → Recorded s u 0xB8 g 0 0 ∧ (u.region g).st = .unusable ∧ Due ⟨8, 5, g⟩ u ∧ (s.inUse g = true → DetourDue g 7 u)

section
variable {s v u : State} {g i d0 cur : Nat} (h : PhaseGone s v g i d0 cur)
include h

theorem PhaseGone.region : v.region g = { s.region g with phases := (s.region g).phases + 2 ^ i } :=
  (phaseLost_region h.regions g).trans (if_pos rfl)

theorem PhaseGone.opNext (hk : ∀ i < 32, (s.region i).opNext.length ≤ 1000) (j : Nat) (hj : j < 32) : (v.region j).opNext.length ≤ 1000 := by
  rw [phaseLost_region h.regions j]
  split
  · rename_i e; subst e; exact hk j hj
  · exact hk j hj

/-- Two phases lost: the region is derated. -/
theorem PhaseGone.two (hD : Derated g v u) (hd : (v.region g).derated = true) : PhaseCounted s u g i 2 d0 cur where
  phases := by rw [hD.phases, h.region]
  recorded := h.recorded u _ (by decide) hD.writes
  due := h.due.of_eq (congrArg Boot.commitDue hD.boot)
  waits := h.waits.of_flt hD.queueM
  one := nofun
  two _ := ⟨hD.recorded s h.next, (derated_of_phases hD.phases).trans hd, by rw [hD.st, h.region], hD.limit,
    (congrArg State.mem hD.rest :).trans (congrArg State.mem h.rest :), (congrArg State.tiles hD.rest :).trans (congrArg State.tiles h.rest :)⟩
  three := nofun

/-- Three phases lost: the region is Unusable. -/
theorem PhaseGone.three (hg : g < 32) (hlen : (v.region g).changes.length ≤ 1001) : PhaseCounted s (v.unusable g 0xB8 0 0 false) g i 3 d0 cur := by
  have hiu : v.inUse g = s.inUse g := inUse_of (congrArg State.img h.rest :) (by rw [h.region])
  obtain ⟨hst, hph, -, hrecU, hw, hdue8, hdueK, hwaitU, hloss, -⟩ := unusable_spec v hg 0xB8 0 0 false
  generalize v.unusable g 0xB8 0 0 false = u at *
  exact ⟨by rw [hph, h.region], h.recorded u _ (by omega) hw, hdueK _ h.due, hwaitU, nofun, nofun,
    fun _ => ⟨hrecU s h.next, hst, hdue8, fun hi => hloss (hiu.trans hi)⟩⟩

theorem PhaseGone.other {n : Nat} (h2 : n ≠ 2) (h3 : n ≠ 3) : PhaseCounted s v g i n d0 cur where
  phases := by rw [h.region]
  recorded := h.recorded v 0 (by decide) (.refl v)
  due := h.due
  waits := h.waits
  one _ := ⟨h.regions, (congrArg State.mem h.rest :), (congrArg State.tiles h.rest :)⟩
  two e := absurd e h2
  three e := absurd e h3

end

theorem afterPhases_counted {s v : State} {g i n d0 cur : Nat} (h : PhaseGone s v g i d0 cur) (hg : g < 32)
    (hn : n = popCount32 ((s.region g).phases + 2 ^ i)) (hk : ∀ i < 32, (s.region i).opNext.length ≤ 1000) :
    PhaseCounted s (v.afterPhases g n) g i n d0 cur := by
  by_cases h2 : n = 2
  · subst h2
    have hd : (v.region g).derated = true := by rw [Region.derated, h.region, ← hn]; rfl
    exact h.two (afterPhases_derated hd hg (h.opNext hk)) hd
  · by_cases h3 : n = 3
    · subst h3
      rw [afterPhases_three]
      exact h.three hg ((changes_length _).trans (Nat.succ_le_succ (h.opNext hk g hg)))
    · rw [afterPhases_other v g h2 h3]
      exact h.other h2 h3

/-- R348: what a short circuit of a region's store tier leaves in memory. -/
theorem storeShort_bytes {s : State} (h : Memory.wf s.mem = true) (g a : Nat) {u : State} (hm : u.mem = (s.regionDown g .unusable true).mem) :
    u.byteAt a = if (logicRowOf g (a / 512) || deepRowOf g (a / 512)) = true then 0 else s.byteAt a := by
  rw [byteAt_filtered h (keep := fun r => !(logicRowOf g r || deepRowOf g r)) (hm.trans (regionDown_deep_mem s g .unusable))]
  cases logicRowOf g (a / 512) || deepRowOf g (a / 512) <;> rfl

/-- R348: a short circuit of a field's plane makes both of its regions Unusable. -/
theorem planeShort_spec (s : State) {f : Nat} (hf : f < 16) :
    let u := ((s.planeLost f).unusable (2 * f) 0xBA 0 0 true).unusable (2 * f + 1) 0xBA 0 0 true
    (u.field f).planeOff = true ∧ (u.region (2 * f)).st = .unusable ∧ (u.region (2 * f + 1)).st = .unusable ∧
      ∀ i, i / 2 ≠ f → (u.region i).st = (s.region i).st := by
  have hp : (s.planeLost f).planeOut f = true := by
    unfold State.planeOut State.planeLost
    rw [updField_field_self]
  have hr (i : Nat) : (s.planeLost f).region i = s.region i := rfl
  generalize s.planeLost f = a at *
  obtain ⟨hst1, -, hne1, -, -, -, -, -, -, -, hfields1, -⟩ := unusable_spec a (show 2 * f < 32 by omega) 0xBA 0 0 true
  have hp1 := (planeOut_of_table hfields1 f).trans ((regionDown_planeOut f a (2 * f) .unusable true).trans hp)
  generalize a.unusable (2 * f) 0xBA 0 0 true = b at *
  obtain ⟨hst2, -, hne2, -, -, -, -, -, -, -, hfields2, -⟩ := unusable_spec b (show 2 * f + 1 < 32 by omega) 0xBA 0 0 true
  have hp2 := (planeOut_of_table hfields2 f).trans ((regionDown_planeOut f b (2 * f + 1) .unusable true).trans hp1)
  generalize b.unusable (2 * f + 1) 0xBA 0 0 true = u at *
  refine ⟨hp2, ?_, hst2, fun i hi => ?_⟩
  · rw [hne2 (2 * f) (by omega)]; exact hst1
  · rw [hne2 i (by omega), hne1 i (by omega), hr]

end Sys2Proof.Machine

open Sys2Proof Sys2Proof.Machine

/-- Settles O33: each failure by what a region that becomes Unusable, or that is derated, leaves and records. -/
theorem supplyFailuresTakeRegionsDown : Obligations.SupplyFailuresTakeRegionsDown := by
  unfold Obligations.SupplyFailuresTakeRegionsDown
  intro s g y hg hy
  subst hy
  refine ⟨fun i cause cur n hi hc hb hn hk => ?_, fun i cause cur h => phaseFailure_idle hg h cause cur, fun cur h => ?_,
    fun cur h => logicShortCircuit_idle hg h, fun hm => ?_, fun f hf => ?_, packageBusFault_next, packageBusFault_idle⟩
  · have hex := phaseFailure_next hg hi hc hb cur
    rw [← hn] at hex
    have hp := afterPhases_counted (phaseLost_gone s hg i (i + cause * 2 ^ 8 + n * 2 ^ 16) cur) hg hn hk
    exact ⟨_, hex, hp.phases, hp.recorded, hp.due, hp.waits, hp.one, hp.two, hp.three⟩
  · obtain ⟨hst, -, hne, hrec, -, hdue, -, -, hloss, -, -, htime, hpins, -⟩ := unusable_spec s hg 0xB9 0 0 false
    refine ⟨_, logicShortCircuit_next hg h, hst, hrec s (Nat.le_refl _), hdue, fun hi => ?_, fun i hi => congrArg Region.st (hne i hi), htime, hpins⟩
    obtain ⟨hlost, -, htodo⟩ := hloss hi
    exact ⟨hlost, htodo⟩
  · obtain ⟨hst, -, -, hrec, -, hdue, -, -, -, hmem, -⟩ := unusable_spec s hg 0xBA 0 0 true
    exact ⟨_, storeShort_next hg, hst, hrec s (Nat.le_refl _), hdue, fun a h => (storeShort_bytes hm g a hmem).trans (if_pos h),
      fun a h => (storeShort_bytes hm g a hmem).trans (if_neg (by rw [h]; decide))⟩
  · exact ⟨_, planeShort_next hf, planeShort_spec s hf⟩
end

end

section
set_option Elab.async false

section
/-!
The refusal of a store whose rows the register path cannot take (R111, R130, R146).
-/

namespace Sys2Proof.Machine

/-- R130: a fault leaves the sequencer at the command that faulted. -/
theorem vFault_seqIx {s : State} {t : Nat} (h : (s.tile t).selfFenced = false) (code tag : Nat) :
    ((s.vFault t code tag).tile t).seqIx = (s.tile t).seqIx := by
  obtain ⟨⟨-, htile, -⟩, -⟩ := coreFault_spec h code tag (s.tile t).seqIx 0 0 false 0
  have hix := congrArg Tile.seqIx htile
  exact hix

/-- R146: rows that do not begin at a multiple of 4, or lie in two banks, are refused as an illegal operand. -/
theorem conversionAndStore_rowsRefused {s : State} {t r : Nat} {src : List VLoc} {fmt : VFmt} (hv : isTile .v t = true) (hr : s.runs t = true)
    (h : rowsOk r (fmtRows fmt (512 * src.length)) = false) (tag : Nat) (rm : VRound) (nsat : Bool) (scales : Nat) (es : List Ecc) :
    exec (.conversionAndStore t tag src fmt rm nsat (.rows r) scales es) s = .next (s.vFault t 0x22 tag) := by
  show execConversionAndStore t tag src fmt rm nsat (.rows r) scales es s = _
  rw [execConversionAndStore, onV_ok hv]
  simp [State.whenB, State.vCmd, vBad, hr, h]

/-- A state in which V-core 96 runs, over an empty memory. -/
def vcoreRunning : State := { State.reset with regions := [(tileRegion 96, { Region.init with st := .active })] }

end Sys2Proof.Machine

open Sys2Proof Sys2Proof.Machine

/-- Refutes O9: no hypothesis of its clauses asks that the destination row be a multiple of 4, and R146 refuses a store to row 1 with code
0x22: the core stops, and its sequencer does not go on. -/
theorem not_conversionStoresRowsOrPackets : ¬ Obligations.ConversionStoresRowsOrPackets := by
  unfold Obligations.ConversionStoresRowsOrPackets
  intro h
  have hrows : fmtRows (.plain 0) (512 * [VLoc.reg 0].length) = 4 := rfl
  obtain ⟨hplain, -⟩ := h vcoreRunning 96 0 [] [.reg 0] (.plain 0) false 0 _ (by decide) (by decide) rfl (by decide) ⟨rfl, rfl⟩ rfl
  obtain ⟨u, hex, -, -, -, -, htile⟩ := hplain 1 0 .rne _ _ _ rfl (by decide) (.inl rfl) (by rw [hrows]; decide) rfl rfl rfl
  rw [conversionAndStore_rowsRefused (by decide) (by decide) (by rw [hrows]; decide)] at hex
  cases hex
  have hstay : ((vcoreRunning.vFault 96 0x22 0).tile 96).seqIx = 0 := vFault_seqIx rfl 0x22 0
  have hgoes : ((vcoreRunning.vFault 96 0x22 0).tile 96).seqIx = 1 := congrArg Tile.seqIx htile
  exact absurd (hstay.symm.trans hgoes) (by decide)
end
end

section
set_option Elab.async false

section
/-!
The data mesh's routers: what each branch of a forward, a fork, a sum, a delivery and a stall does (R164 to R179, R188, R191).
-/

namespace Sys2Proof.Machine

/-! ### What a change of a tile leaves as it was -/

theorem routerOn_selfFenced {s : State} {t : Nat} (h : s.routerOn t = true) : (s.tile t).selfFenced = false := by
  simp only [State.routerOn, Bool.and_eq_true, Bool.not_eq_true'] at h
  exact h.2

/-- Two changes of tiles, one after the other, are a change of tiles. -/
theorem tiles_trans {s u v : State} (h : { u with tiles := s.tiles } = s) (g : { v with tiles := u.tiles } = u) : { v with tiles := s.tiles } = s :=
  Eq.trans (congrArg (fun w : State => { w with tiles := s.tiles }) g :) h

theorem updTile_tiles (s : State) (t : Nat) (f : Tile → Tile) : { s.updTile t f with tiles := s.tiles } = s := rfl

theorem OnlyTile.trans {s u v : State} {t : Nat} (h : OnlyTile s u t) (g : OnlyTile u v t) : OnlyTile s v t :=
  ⟨tiles_trans h.1 g.1, fun i hi => (g.2 i hi).trans (h.2 i hi)⟩

/-- R185: the state of a port turns on the fences of its own tile only. -/
theorem fence_updTile {s : State} {t : Nat} {f : Tile → Tile} (hu : (f (s.tile t)).unitFence = (s.tile t).unitFence)
    (hs : (f (s.tile t)).selfFenced = (s.tile t).selfFenced) (i port : Nat) : (s.updTile t f).fence i port = s.fence i port := by
  unfold State.fence
  by_cases hi : i = t
  · subst hi; simp only [updTile_tile_self, updTile_region, hu, hs]
  · simp only [updTile_tile_ne s t f hi, updTile_region]

/-- A report stands between two states as it stands between two others that agree with them on the channel, the region's supervisor and
the messages on the network. -/
theorem Reported.congr {s u s' u' : State} {t w0 w1 w2 w3 : Nat} (h : Reported s u t w0 w1 w2 w3) (hsends : (s'.tile t).sends = (s.tile t).sends)
    (hsendQ : (s'.tile t).sendQ = (s.tile t).sendQ) (hsup : (s'.region (tileRegion t)).sup = (s.region (tileRegion t)).sup)
    (hnet : s'.net = s.net) (huq : (u'.tile t).sendQ = (u.tile t).sendQ) (hun : u'.net = u.net) : Reported s' u' t w0 w1 w2 w3 := by
  simpa only [Reported, hsends, hsendQ, hsup, hnet, huq, hun] using h

/-- R191: a report of the fabric goes out with the occurrences since the one before it, which start again; its sends and that count apart,
the tile is as it was. -/
theorem fabReport_spec {s : State} {t : Nat} (h : (s.tile t).selfFenced = false) (code port : Nat) (msg : Bool) (label unit w2 w3 : Nat) :
    let u := s.fabReport t code port msg label unit w2 w3
    Reported s u t (fabWord t code port msg label unit) (Tab.get 0 (s.tile t).occ code) w2 w3 ∧
    { u.tile t with sends := (s.tile t).sends, sendQ := (s.tile t).sendQ, occ := (s.tile t).occ } = s.tile t ∧
    { u with tiles := s.tiles, net := s.net } = s ∧ OtherTiles s u t := by
  intro u
  obtain ⟨hrep, htile⟩ := report_spec h (fabWord t code port msg label unit) (Tab.get 0 (s.tile t).occ code) w2 w3
  have hframe := report_frame s t (fabWord t code port msg label unit) (Tab.get 0 (s.tile t).occ code) w2 w3
  have hother := report_otherTiles s t (fabWord t code port msg label unit) (Tab.get 0 (s.tile t).occ code) w2 w3
  have hu : u.tile t = _ := updTile_tile_self _ _ _
  refine ⟨hrep.congr rfl rfl rfl rfl (by rw [hu]) rfl, ?_, hframe, fun i hi => (updTile_tile_ne _ _ _ hi).trans (hother i hi)⟩
  have hocc := congrArg (fun y : Tile => { y with occ := (s.tile t).occ }) htile
  rw [hu]
  exact hocc

/-- A report that the fabric makes of a tile `y`, which the command has changed, says so from the state before the command. -/
theorem fabReport_after {s a : State} {t : Nat} {y : Tile} (ha : a.tile t = y) (hsends : y.sends = (s.tile t).sends)
    (hsendQ : y.sendQ = (s.tile t).sendQ) (hfree : y.selfFenced = false) (ho : OtherTiles s a t)
    (hsup : (a.region (tileRegion t)).sup = (s.region (tileRegion t)).sup) (hnet : a.net = s.net) (hmem : a.mem = s.mem)
    (code port : Nat) (msg : Bool) (label unit w2 w3 : Nat) :
    let u := a.fabReport t code port msg label unit w2 w3
    Reported s u t (fabWord t code port msg label unit) (Tab.get 0 y.occ code) w2 w3 ∧
    { u.tile t with sends := y.sends, sendQ := y.sendQ, occ := y.occ } = y ∧ OtherTiles s u t ∧ u.mem = s.mem := by
  subst ha
  obtain ⟨hrep, htile, hframe, hother⟩ := fabReport_spec hfree code port msg label unit w2 w3
  have hm := congrArg State.mem hframe
  exact ⟨hrep.congr hsends.symm hsendQ.symm hsup.symm hnet.symm rfl rfl, htile, fun i hi => (hother i hi).trans (ho i hi), Eq.trans hm hmem⟩

/-! ### Packets that are discarded (R172, R190) -/

/-- R172, R190: the first discard of a label in a beat is counted and reported. -/
theorem labelDiscard_first {s : State} {t port label : Nat} (hf : (s.tile t).selfFenced = false) (hl : port * 256 + label ∉ (s.tile t).labelSeen)
    (n : Nat) :
    let v := s.labelDiscard t port label n
    v.mem = s.mem ∧ OtherTiles s v t ∧ (v.tile t).inBuf = (s.tile t).inBuf ∧ (v.tile t).ctr = Tab.upd 0 (s.tile t).ctr 18 (count48 n) ∧
    Reported s v t (fabWord t 0x57 port false label 15) (count64 1 (Tab.get 0 (s.tile t).occ 0x57)) 0 0 := by
  intro v
  have ha : ((s.count t 18 n).occur t 0x57).tile t = { s.tile t with
      ctr := Tab.upd 0 (s.tile t).ctr 18 (count48 n), occ := Tab.upd 0 (s.tile t).occ 0x57 (count64 1) } := by
    simp [State.count, State.occur]
  have ho : OtherTiles s ((s.count t 18 n).occur t 0x57) t := fun i hi => (updTile_tile_ne _ _ _ hi).trans (updTile_tile_ne _ _ _ hi)
  have hv : v = (((s.count t 18 n).occur t 0x57).fabReport t 0x57 port false label 15 0 0).updTile t fun x =>
      { x with labelSeen := insertSet (port * 256 + label) x.labelSeen } := by
    show s.labelDiscard t port label n = _
    simp [State.labelDiscard, ha, hl]
  have hsame : ((s.count t 18 n).occur t 0x57).regions = s.regions ∧ ((s.count t 18 n).occur t 0x57).net = s.net ∧
      ((s.count t 18 n).occur t 0x57).mem = s.mem := ⟨rfl, rfl, rfl⟩
  generalize (s.count t 18 n).occur t 0x57 = a at *
  obtain ⟨hreg, hnet, hmem⟩ := hsame
  obtain ⟨hrep, htile, hother, hmem⟩ := fabReport_after ha rfl rfl hf ho (by rw [State.region, hreg]; rfl) hnet hmem 0x57 port false label 15 0 0
  rw [Tab.get_upd_self] at hrep
  generalize a.fabReport t 0x57 port false label 15 0 0 = b at *
  have hbuf : (b.tile t).inBuf = (s.tile t).inBuf := (congrArg Tile.inBuf htile :)
  have hctr : (b.tile t).ctr = Tab.upd 0 (s.tile t).ctr 18 (count48 n) := (congrArg Tile.ctr htile :)
  rw [hv]
  refine ⟨hmem, fun i hi => (updTile_tile_ne _ _ _ hi).trans (hother i hi), ?_, ?_, hrep.congr rfl rfl rfl rfl (by rw [updTile_tile_self]) rfl⟩
  · rw [updTile_tile_self]; exact hbuf
  · rw [updTile_tile_self]; exact hctr

/-! ### Where a packet goes (R167, R173, R175) -/

section
variable {s : State} {t port ip e : Nat} {p : Packet} {x : Tile}

theorem forward_blocked (hx : s.tile t = x) (h : entryPort port * 256 + p.label ∈ x.blocked) : s.forward t port p = some (s.count t 17 1) := by
  simp [State.forward, hx, h]

/-- R187: an output that no fence closes. -/
theorem outPort_normal {o epd key unit : Nat} {multi : Bool} (h : s.fence t o = .normal) :
    s.outPort t o epd multi key unit p = (s.putOut t o epd p).map fun v => v.updTile t fun x => x.progress o := by
  simp only [State.outPort, h]

section
variable (hx : s.tile t = x) (hip : ip = entryPort port) (he : e = x.entry ip p.label) (hb : ip * 256 + p.label ∉ x.blocked)
include hx hip he hb

/-- R172: without a valid entry, or without the port that the entry names. -/
theorem forward_discarded (h : eValid e = false ∨ 5 ≤ eOp e ∨ (eOp e = 0 ∧ portsExist t (eOut e) = false)) :
    s.forward t port p = some (s.labelDiscard t ip p.label 4) := by
  subst hx hip he
  by_cases hv : eValid ((s.tile t).entry (entryPort port) p.label) = false ∨ 5 ≤ eOp ((s.tile t).entry (entryPort port) p.label)
  · simp [State.forward, hb, hv]
  · obtain ⟨h0, hno⟩ := (or_assoc.mpr h).resolve_left hv
    simp only [not_or, Bool.not_eq_false] at hv
    simp [State.forward, hb, hv.1, h0, hno]

/-- R175: an operand of a reduction unit. -/
theorem forward_operand {i : Nat} (hv : eValid e = true) (hi : eOp e = i + 1) (h4 : i < 4) (hu : uValid (x.unit (i / 2)) = true)
    (hub : unitKey (i / 2) ∉ x.blocked) (hroom : (Tab.get [] x.opBuf i).length < 4) :
    s.forward t port p = some (s.updTile t fun x => { x with opBuf := Tab.upd [] x.opBuf i (· ++ [⟨port, p⟩]) }) := by
  subst hx hip he
  have h5 : ¬ 5 ≤ i + 1 := by omega
  have hside : 2 * (i / 2) + i % 2 = i := Nat.div_add_mod i 2
  simp [State.forward, hb, hv, hi, h5, hu, hub, hside, opPackets, hroom]

/-- R178: a packet that its entry sends on, its digest good where it is checked. -/
theorem forward_routed (hv : eValid e = true) (h0 : eOp e = 0) (hports : portsExist t (eOut e) = true)
    (hg : checksHere e = true → p.good = true) :
    s.forward t port p = s.route t ip p.label (eOut e) (eEpd e) (ip * 256 + p.label) 15 { p with label := eLabel e } := by
  subst hx hip he
  have hchk : (checksHere ((s.tile t).entry (entryPort port) p.label) && !p.good) = false := by
    cases hc : checksHere ((s.tile t).entry (entryPort port) p.label)
    · rfl
    · rw [hg hc]; rfl
  simp [State.forward, hb, hv, h0, hports, hchk]

/-- A packet of a route with one output, which no fence closes and which has a place for it. -/
theorem forward_unicast {o : Nat} {v : State} (hv : eValid e = true) (h0 : eOp e = 0) (ho : eOut e = [o]) (hports : portsExist t [o] = true)
    (hg : checksHere e = true → p.good = true) (hf : s.fence t o = .normal) (hput : s.putOut t o (eEpd e) { p with label := eLabel e } = some v) :
    s.forward t port p = some (v.updTile t fun x => x.progress o) := by
  rw [forward_routed hx hip he hb hv h0 (ho ▸ hports) hg, ho]
  simp only [State.route, outPort_normal hf, hput, Option.map_some]

/-- R173: the first packet of a route with several outputs takes the first of the skew buffers. -/
theorem forward_fork (hv : eValid e = true) (h0 : eOp e = 0) (hlen : 2 ≤ (eOut e).length) (hports : portsExist t (eOut e) = true)
    (hg : checksHere e = true → p.good = true) (hfree : x.skew = []) :
    s.forward t port p = some (s.updTile t fun x => { x with
      skew := Tab.put none x.skew 0 (some ⟨ip, p.label, [{ p with label := eLabel e }], (eOut e).map fun o => (o, 0)⟩) }) := by
  rw [forward_routed hx hip he hb hv h0 hports hg]
  match hout : eOut e, hlen with
  | o :: o' :: l, _ => simp [State.route, State.forkTake, hx, hfree, Tab.get, skewPackets, List.range_succ]

end

theorem putOut_tilePort {epd : Nat} (h : (s.tile t).tileIn.length < 4) :
    s.putOut t 4 epd p = some (s.updTile t fun x => { x with tileIn := x.tileIn ++ [(epd, p)] }) := by
  simp [State.putOut, inPackets, h]

theorem outPort_tilePort {epd key unit : Nat} {multi : Bool} (hf : s.fence t 4 = .normal) (h : (s.tile t).tileIn.length < 4) :
    s.outPort t 4 epd multi key unit p =
      some ((s.updTile t fun x => { x with tileIn := x.tileIn ++ [(epd, p)] }).updTile t fun x => x.progress 4) := by
  rw [outPort_normal hf, putOut_tilePort h, Option.map_some]

theorem putOut_ring {epd k : Nat} (hk : k = ringKey t (if isCorner t && Config.cornerPort t p.label then 6 else 5))
    (h : (Tab.get [] s.ringOut k).length < 4) : s.putOut t 5 epd p = some { s with ringOut := Tab.upd [] s.ringOut k (· ++ [p]) } := by
  subst hk
  rw [State.putOut, if_neg (by decide), if_pos rfl]
  exact if_neg (Nat.not_le.mpr h)

theorem putOut_link {o u epd : Nat} (ho : o < 4) (hn : neighbour t o = some u) (hc : (s.fence u (opposite o)).closed = false)
    (h : (Tab.get [] (s.tile u).inBuf (opposite o)).length < 4) :
    s.putOut t o epd p = some (s.updTile u fun x => { x with inBuf := Tab.upd [] x.inBuf (opposite o) (· ++ [p]) }) := by
  have h4 : o ≠ 4 := by omega
  have h5 : o ≠ 5 := by omega
  simp [State.putOut, h4, h5, hn, hc, inPackets, h]

/-- The oldest packet of an input buffer has been taken from it. -/
def State.packetTaken (s : State) (t port : Nat) (rest : List Packet) : State :=
  s.updTile t fun x => { x with inBuf := Tab.put [] x.inBuf port rest }

theorem packetTaken_tile (s : State) (t port : Nat) (rest : List Packet) :
    (s.packetTaken t port rest).tile t = { s.tile t with inBuf := Tab.put [] (s.tile t).inBuf port rest } := updTile_tile_self _ _ _

theorem packetTaken_tile_ne (s : State) {t i : Nat} (h : i ≠ t) (port : Nat) (rest : List Packet) : (s.packetTaken t port rest).tile i = s.tile i :=
  updTile_tile_ne _ _ _ h

theorem packetTaken_only (s : State) (t port : Nat) (rest : List Packet) : OnlyTile s (s.packetTaken t port rest) t := updTile_only s t _

theorem packetTaken_fence (s : State) (t port : Nat) (rest : List Packet) (i o : Nat) : (s.packetTaken t port rest).fence i o = s.fence i o :=
  fence_updTile rfl rfl i o

/-- PACKET_FORWARD: the oldest packet leaves its buffer for the place that it is forwarded to. -/
theorem packetForward_next {rest : List Packet} {v : State} (ht : t < 2688) (hon : s.routerOn t = true)
    (hport : port < 6 ∨ (port = 6 ∧ isCorner t = true)) (hq : Tab.get [] (s.tile t).inBuf port = p :: rest)
    (hv : (s.packetTaken t port rest).forward t port p = some v) :
    exec (.packetForward t port) s = .next (if port = 4 then v.portFreed t else v) := by
  rw [State.packetTaken] at hv
  show execPacketForward t port s = _
  rw [execPacketForward, onTile_ok ht, State.whenB, if_pos (by simp [hon, hport]), hq]
  simp only [hv]

/-- A ring port of a router that works is not fenced. -/
theorem fence_ring (hon : s.routerOn t = true) : s.fence t 5 = .normal := by
  have hn : neighbour t 5 = none := rfl
  simp [State.fence, hn, routerOn_selfFenced hon]

end

/-- R178: toward a link alone a router checks the digest only where the entry says so. -/
theorem checksHere_link {e o : Nat} (ho : eOut e = [o]) (h4 : o < 4) : checksHere e = eDchk e := by
  have h5 : 4 ≠ o ∧ 5 ≠ o := by omega
  simp [checksHere, ho, h5]

section
variable {s : State} {t port ip e : Nat} {p : Packet} {rest : List Packet} (ht : t < 2688) (hon : s.routerOn t = true)
  (hport : port < 6 ∨ (port = 6 ∧ isCorner t = true)) (hip : ip = entryPort port) (hq : Tab.get [] (s.tile t).inBuf port = p :: rest)
  (he : e = (s.tile t).entry ip p.label) (hb : ip * 256 + p.label ∉ (s.tile t).blocked)
include ht hon hport hip hq he hb

/-- PACKET_FORWARD to a link: the packet stands, under its new label, in the buffer of the router on the far side. -/
theorem packetForward_link {o u : Nat} (hv : eValid e = true) (h0 : eOp e = 0) (ho : eOut e = [o]) (h4 : o < 4) (hg : eDchk e = true → p.good = true)
    (hn : neighbour t o = some u) (hf : s.fence t o = .normal) (hc : (s.fence u (opposite o)).closed = false) (hu : u ≠ t)
    (hroom : (Tab.get [] (s.tile u).inBuf (opposite o)).length < 4) :
    ∃ v, exec (.packetForward t port) s = .next (if port = 4 then v.portFreed t else v) ∧ { v with tiles := s.tiles } = s ∧
      (∀ i, i ≠ t → i ≠ u → v.tile i = s.tile i) ∧
      v.tile t = { s.tile t with inBuf := Tab.put [] (s.tile t).inBuf port rest, stalls := (s.tile t).stalls.filter fun k => k.1 != o } ∧
      v.tile u = { s.tile u with inBuf := Tab.upd [] (s.tile u).inBuf (opposite o) (· ++ [{ p with label := eLabel e }]) } := by
  have hports : portsExist t [o] = true := by simp [portsExist, hn]; omega
  have hput := putOut_link (s := s.packetTaken t port rest) (p := { p with label := eLabel e }) (epd := eEpd e) h4 hn
    (by rw [packetTaken_fence]; exact hc) (by rw [packetTaken_tile_ne s hu]; exact hroom)
  have hfwd := forward_unicast (packetTaken_tile s t port rest) hip he hb hv h0 ho hports (by rw [checksHere_link ho h4]; exact hg)
    (by rw [packetTaken_fence]; exact hf) hput
  refine ⟨_, packetForward_next ht hon hport hq hfwd, tiles_trans (tiles_trans (packetTaken_only s t port rest).1 (updTile_tiles _ u _)) (updTile_tiles _ t _),
    fun i hi hiu => ?_, ?_, ?_⟩
  · rw [updTile_tile_ne _ _ _ hi, updTile_tile_ne _ _ _ hiu, packetTaken_tile_ne s hi]
  · rw [updTile_tile_self, updTile_tile_ne _ _ _ hu.symm, packetTaken_tile]; rfl
  · rw [updTile_tile_ne _ _ _ hu, updTile_tile_self, packetTaken_tile_ne s hu]

/-- PACKET_FORWARD to the ring: the packet waits at the ring port that its label drives (R164). -/
theorem packetForward_ring {k : Nat} (hv : eValid e = true) (h0 : eOp e = 0) (ho : eOut e = [5]) (hedge : onEdge t = true) (hg : p.good = true)
    (hk : k = ringKey t (if isCorner t && Config.cornerPort t (eLabel e) then 6 else 5)) (hroom : (Tab.get [] s.ringOut k).length < 4) :
    ∃ v, exec (.packetForward t port) s = .next (if port = 4 then v.portFreed t else v) ∧ { v with tiles := s.tiles, ringOut := s.ringOut } = s ∧
      OtherTiles s v t ∧ v.ringOut = Tab.upd [] s.ringOut k (· ++ [{ p with label := eLabel e }]) ∧
      v.tile t = { s.tile t with inBuf := Tab.put [] (s.tile t).inBuf port rest, stalls := (s.tile t).stalls.filter fun k => k.1 != 5 } := by
  have hports : portsExist t [5] = true := by simp [portsExist, hedge]
  have hput := putOut_ring (s := s.packetTaken t port rest) (p := { p with label := eLabel e }) (epd := eEpd e) hk hroom
  have hfwd := forward_unicast (packetTaken_tile s t port rest) hip he hb hv h0 ho hports (fun _ => hg)
    (by rw [packetTaken_fence]; exact fence_ring hon) hput
  refine ⟨_, packetForward_next ht hon hport hq hfwd, ?_, fun i hi => ?_, rfl, ?_⟩
  · have hframe := congrArg (fun w : State => { w with ringOut := s.ringOut }) (packetTaken_only s t port rest).1
    exact hframe
  · exact (updTile_tile_ne _ _ _ hi).trans (packetTaken_tile_ne s hi port rest)
  · rw [updTile_tile_self]
    exact congrArg (fun y => Tile.progress y 5) (packetTaken_tile s t port rest)

/-- PACKET_FORWARD to the tile port. -/
theorem packetForward_tilePort (hv : eValid e = true) (h0 : eOp e = 0) (ho : eOut e = [4]) (hg : p.good = true)
    (hroom : (s.tile t).tileIn.length < 4) (hf : s.fence t 4 = .normal) :
    ∃ v, exec (.packetForward t port) s = .next (if port = 4 then v.portFreed t else v) ∧ OnlyTile s v t ∧
      v.tile t = { s.tile t with
        inBuf := Tab.put [] (s.tile t).inBuf port rest, tileIn := (s.tile t).tileIn ++ [(eEpd e, { p with label := eLabel e })],
        stalls := (s.tile t).stalls.filter fun k => k.1 != 4 } := by
  have hput := putOut_tilePort (s := s.packetTaken t port rest) (p := { p with label := eLabel e }) (epd := eEpd e)
    (by rw [packetTaken_tile]; exact hroom)
  have hfwd := forward_unicast (packetTaken_tile s t port rest) hip he hb hv h0 ho rfl (fun _ => hg) (by rw [packetTaken_fence]; exact hf) hput
  refine ⟨_, packetForward_next ht hon hport hq hfwd, ((packetTaken_only s t port rest).trans (updTile_only _ t _)).trans (updTile_only _ t _), ?_⟩
  rw [updTile_tile_self, updTile_tile_self, packetTaken_tile]; rfl

/-- PACKET_FORWARD to a reduction unit. -/
theorem packetForward_operand {i : Nat} (hv : eValid e = true) (hi : eOp e = i + 1) (h4 : i < 4) (hu : uValid ((s.tile t).unit (i / 2)) = true)
    (hub : unitKey (i / 2) ∉ (s.tile t).blocked) (hroom : (Tab.get [] (s.tile t).opBuf i).length < 4) :
    ∃ v, exec (.packetForward t port) s = .next (if port = 4 then v.portFreed t else v) ∧ OnlyTile s v t ∧
      v.tile t = { s.tile t with
        inBuf := Tab.put [] (s.tile t).inBuf port rest, opBuf := Tab.upd [] (s.tile t).opBuf i (· ++ [⟨port, p⟩]) } := by
  have hfwd := forward_operand (packetTaken_tile s t port rest) hip he hb hv hi h4 hu hub hroom
  refine ⟨_, packetForward_next ht hon hport hq hfwd, (packetTaken_only s t port rest).trans (updTile_only _ t _), ?_⟩
  rw [updTile_tile_self, packetTaken_tile]

/-- PACKET_FORWARD into a fork. -/
theorem packetForward_fork (hv : eValid e = true) (h0 : eOp e = 0) (hlen : 2 ≤ (eOut e).length) (hports : portsExist t (eOut e) = true)
    (hg : checksHere e = true → p.good = true) (hskew : (s.tile t).skew = []) :
    ∃ v, exec (.packetForward t port) s = .next (if port = 4 then v.portFreed t else v) ∧ OnlyTile s v t ∧
      { v.tile t with skew := (s.tile t).skew } = { s.tile t with inBuf := Tab.put [] (s.tile t).inBuf port rest } ∧
      (v.tile t).skew = Tab.put none (s.tile t).skew 0 (some ⟨ip, p.label, [{ p with label := eLabel e }], (eOut e).map fun o => (o, 0)⟩) := by
  have hfwd := forward_fork (packetTaken_tile s t port rest) hip he hb hv h0 hlen hports hg hskew
  refine ⟨_, packetForward_next ht hon hport hq hfwd, (packetTaken_only s t port rest).trans (updTile_only _ t _), ?_, ?_⟩
  · rw [updTile_tile_self, packetTaken_tile]
  · rw [updTile_tile_self, packetTaken_tile]

/-- PACKET_FORWARD of a packet without a valid entry, the first of its label in the beat. -/
theorem packetForward_discarded (hbad : eValid e = false ∨ 5 ≤ eOp e ∨ (eOp e = 0 ∧ portsExist t (eOut e) = false))
    (hseen : ip * 256 + p.label ∉ (s.tile t).labelSeen) :
    ∃ v, exec (.packetForward t port) s = .next (if port = 4 then v.portFreed t else v) ∧ v.mem = s.mem ∧ OtherTiles s v t ∧
      (v.tile t).inBuf = Tab.put [] (s.tile t).inBuf port rest ∧ (v.tile t).ctr = Tab.upd 0 (s.tile t).ctr 18 (count48 4) ∧
      Reported s v t (fabWord t 0x57 ip false p.label 15) (count64 1 (Tab.get 0 (s.tile t).occ 0x57)) 0 0 := by
  have hx := packetTaken_tile s t port rest
  obtain ⟨hmem, hother, hbuf, hctr, hrep⟩ := labelDiscard_first (s := s.packetTaken t port rest) (t := t) (port := ip) (label := p.label)
    (by rw [hx]; exact routerOn_selfFenced hon) (by rw [hx]; exact hseen) 4
  rw [hx] at hbuf hctr hrep
  exact ⟨_, packetForward_next ht hon hport hq (forward_discarded hx hip he hb hbad), hmem,
    fun i hi => (hother i hi).trans (packetTaken_tile_ne s hi port rest), hbuf, hctr, hrep.congr (by rw [hx]) (by rw [hx]) rfl rfl rfl rfl⟩

end

/-! ### Forks and sums (R173 to R177) -/

section
variable {s : State} {t : Nat}

/-- FORK_BRANCH_SEND: the branch's next packet has left under the fork's label, and the skew buffer keeps what a branch still lacks. -/
theorem forkBranchSend_next {k port n : Nat} {w : Skew} {p : Packet} {v : State} (ht : t < 2688) (hon : s.routerOn t = true) (hk : k < 8)
    (hw : Tab.get none (s.tile t).skew k = some w) (hs : w.sent.find? (fun c => c.1 == port) = some (port, n)) (hp : w.held[n]? = some p)
    (hv : s.outPort t port ((s.tile t).forkCfg w).2 true 0 15 { p with label := ((s.tile t).forkCfg w).1 } = some v) :
    exec (.forkBranchSend t k port) s = .next (v.updTile t fun x => { x with
      skew := Tab.put none x.skew k (Skew.retire { w with sent := w.sent.map fun d => if d.1 = port then (port, d.2 + 1) else d }),
      stalls := x.stalls.filter fun q => q.1 / 16 != k + 1 }) := by
  show execForkBranchSend t k port s = _
  rw [execForkBranchSend, onTile_ok ht, State.whenB, if_pos (by simp [hon, hk])]
  simp only [hw, hs, hp, hv]

/-- FORK_BRANCH_SEND of the branch to the tile port. -/
theorem forkBranchSend_tilePort {k n : Nat} {w : Skew} {p : Packet} (ht : t < 2688) (hon : s.routerOn t = true) (hk : k < 8)
    (hw : Tab.get none (s.tile t).skew k = some w) (hs : w.sent.find? (fun c => c.1 == 4) = some (4, n)) (hp : w.held[n]? = some p)
    (hf : s.fence t 4 = .normal) (hroom : (s.tile t).tileIn.length < 4) :
    ∃ v, exec (.forkBranchSend t k 4) s = .next v ∧ OnlyTile s v t ∧
      (v.tile t).tileIn = (s.tile t).tileIn ++ [(((s.tile t).forkCfg w).2, { p with label := ((s.tile t).forkCfg w).1 })] ∧
      (v.tile t).skew = Tab.put none (s.tile t).skew k
        (Skew.retire { w with sent := w.sent.map fun d => if d.1 = 4 then (4, d.2 + 1) else d }) := by
  refine ⟨_, forkBranchSend_next ht hon hk hw hs hp (outPort_tilePort hf hroom), ((updTile_only s t _).trans (updTile_only _ t _)).trans (updTile_only _ t _), ?_, ?_⟩
  · rw [updTile_tile_self, updTile_tile_self, updTile_tile_self]; rfl
  · rw [updTile_tile_self, updTile_tile_self, updTile_tile_self]; rfl

/-- R175: a unit's oldest pair leaves its operand buffers. -/
def State.pairTaken (s : State) (t i : Nat) (ra rb : List Operand) : State :=
  s.updTile t fun x => { x with
    opBuf := Tab.put [] (Tab.put [] x.opBuf (2 * i) ra) (2 * i + 1) rb, stalls := x.stalls.filter fun k => k.1 / 16 != i + 1 }

theorem pairTaken_tile (s : State) (t i : Nat) (ra rb : List Operand) : (s.pairTaken t i ra rb).tile t = { s.tile t with
    opBuf := Tab.put [] (Tab.put [] (s.tile t).opBuf (2 * i) ra) (2 * i + 1) rb,
    stalls := (s.tile t).stalls.filter fun k => k.1 / 16 != i + 1 } := updTile_tile_self _ _ _

theorem pairTaken_only (s : State) (t i : Nat) (ra rb : List Operand) : OnlyTile s (s.pairTaken t i ra rb) t := updTile_only s t _

/-- REDUCTION_ADD: the sum of a good pair is routed as the unit's word says. -/
theorem reductionAdd_next {i c : Nat} {a b : Operand} {ra rb : List Operand} {v : State} (ht : t < 2688) (hon : s.routerOn t = true) (hi : i < 2)
    (hla : Tab.get [] (s.tile t).opBuf (2 * i) = a :: ra) (hlb : Tab.get [] (s.tile t).opBuf (2 * i + 1) = b :: rb) (hc : c = (s.tile t).unit i)
    (hb : unitKey i ∉ (s.tile t).blocked) (hv : uValid c = true) (hga : a.pkt.good = true) (hgb : b.pkt.good = true) (hch : uChain c = false)
    (hports : portsExist t (uOut c) = true)
    (hr : (s.pairTaken t i ra rb).route t (8 + i) 0 (uOut c) (uEpd c) (unitKey i) i (freshPacket (uLabel c) (addRows (uBf16 c) a.pkt.row b.pkt.row)) =
      some v) : exec (.reductionAdd t i) s = .next v := by
  subst hc
  show execReductionAdd t i s = _
  rw [execReductionAdd, onTile_ok ht, State.whenB, if_pos (by simp [hon, hi])]
  rw [State.pairTaken] at hr
  simp [hla, hlb, hb, hv, hga, hgb, hch, hports, hr]

/-- REDUCTION_ADD of a unit whose word names the tile port. -/
theorem reductionAdd_tilePort {i c : Nat} {a b : Operand} {ra rb : List Operand} (ht : t < 2688) (hon : s.routerOn t = true) (hi : i < 2)
    (hla : Tab.get [] (s.tile t).opBuf (2 * i) = a :: ra) (hlb : Tab.get [] (s.tile t).opBuf (2 * i + 1) = b :: rb) (hc : c = (s.tile t).unit i)
    (hb : unitKey i ∉ (s.tile t).blocked) (hv : uValid c = true) (hga : a.pkt.good = true) (hgb : b.pkt.good = true) (hch : uChain c = false)
    (hout : uOut c = [4]) (hf : s.fence t 4 = .normal) (hroom : (s.tile t).tileIn.length < 4) :
    ∃ v, exec (.reductionAdd t i) s = .next v ∧ OnlyTile s v t ∧
      (v.tile t).tileIn = (s.tile t).tileIn ++ [(uEpd c, freshPacket (uLabel c) (addRows (uBf16 c) a.pkt.row b.pkt.row))] ∧
      (v.tile t).opBuf = Tab.put [] (Tab.put [] (s.tile t).opBuf (2 * i) ra) (2 * i + 1) rb := by
  have hfence : (s.pairTaken t i ra rb).fence t 4 = .normal := (fence_updTile rfl rfl t 4).trans hf
  have hplace : ((s.pairTaken t i ra rb).tile t).tileIn.length < 4 := by rw [pairTaken_tile]; exact hroom
  refine ⟨_, reductionAdd_next ht hon hi hla hlb hc hb hv hga hgb hch (by rw [hout]; rfl)
      (by rw [hout, State.route]; exact outPort_tilePort hfence hplace),
    ((pairTaken_only s t i ra rb).trans (updTile_only _ t _)).trans (updTile_only _ t _), ?_, ?_⟩
  · rw [updTile_tile_self, updTile_tile_self]
    exact (congrArg (fun x : Tile => x.tileIn ++ [(uEpd c, freshPacket (uLabel c) (addRows (uBf16 c) a.pkt.row b.pkt.row))])
      (pairTaken_tile s t i ra rb) :)
  · rw [updTile_tile_self, updTile_tile_self]
    exact congrArg (Tile.opBuf) (pairTaken_tile s t i ra rb)

end

theorem addRows_eq_unlanes (bf : Bool) (a b : Bytes) :
    addRows bf a b = unlanes (if bf then 2 else 4) ((upTo (512 / (if bf then 2 else 4))).map fun i =>
      treeAdd bf (leAt a ((if bf then 2 else 4) * i) (if bf then 2 else 4)) (leAt b ((if bf then 2 else 4) * i) (if bf then 2 else 4))) := by
  simp only [addRows, unlanes, List.flatMap_def, List.map_map, Function.comp_def]

theorem addRows_length (bf : Bool) (a b : Bytes) : (addRows bf a b).length = 512 := by
  rw [addRows_eq_unlanes, unlanes_length]
  cases bf <;> simp

/-- R53, R176: element `j` of a sum. -/
theorem leAt_addRows {bf : Bool} {w : Nat} (hw : w = if bf then 2 else 4) (a b : Bytes) {j : Nat} (hj : j < 512 / w) :
    leAt (addRows bf a b) (w * j) w = treeAdd bf (leAt a (w * j) w) (leAt b (w * j) w) % 256 ^ w := by
  rw [addRows_eq_unlanes, ← hw, leAt_unlanes (by simpa using hj)]
  simp [hj]

/-! ### Notices of the tile port (R171, R183) -/

theorem destOf_congr {s u : State} {t : Nat} (hm : (u.tile t).mroutes = (s.tile t).mroutes) (hr : u.regions = s.regions) (rr : Nat) :
    u.destOf t rr = s.destOf t rr := by
  simp only [State.destOf, hm, State.region, hr]

theorem launch_tile (s : State) (t rr i : Nat) (x : Snd) :
    (s.launch t rr x).tile i = (s.updTile t fun y => { y with sends := Tab.put none y.sends rr (some { x with waiting := false }) }).tile i := by
  unfold State.launch; split <;> rfl

theorem sendLater_tile (s : State) (t rr : Nat) (kind : SndKind) (ws : List W64) :
    OtherTiles s (s.sendLater t rr kind ws) t ∧
    { (s.sendLater t rr kind ws).tile t with sends := (s.tile t).sends, sendQ := (s.tile t).sendQ } = s.tile t := by
  cases h : Tab.get none (s.tile t).sends rr with
  | some x =>
    simp only [State.sendLater, h]
    exact ⟨(updTile_only s t _).2, by rw [updTile_tile_self]⟩
  | none =>
    simp only [State.sendLater, State.sendOn, h]
    exact ⟨fun i hi => (launch_tile s t rr i _).trans (updTile_tile_ne _ _ _ hi), by rw [launch_tile, updTile_tile_self]⟩

/-- A send on a channel that is free goes out, where the channel leads somewhere. -/
theorem sendLater_net {s : State} {t rr : Nat} (h : Tab.get none (s.tile t).sends rr = none) (kind : SndKind) (ws : List W64) :
    (s.sendLater t rr kind ws).net = s.net ++ ((s.destOf t rr).map fun d => (⟨t, rr, d, ws, none⟩ : Msg)).toList := by
  simp only [State.sendLater, State.sendOn, h, State.launch]
  cases s.destOf t rr <;> simp [State.putMsg]

/-- R171: the number of a descriptor's next notice. -/
def Tile.noticeNo (x : Tile) (ep : Nat) : Nat := (Tab.get 0 x.epNote ep + 1) % 2 ^ 16

/-- R171: as its next notice goes out, the rows through a descriptor are counted from 0 again. -/
def Tile.noticed (x : Tile) (ep : Nat) : Tile := { x with epCnt := Tab.put 0 x.epCnt ep 0, epNote := Tab.put 0 x.epNote ep (x.noticeNo ep) }

section
variable {s : State} {t ep : Nat}

theorem rowWritten_quiet (h : dscNen ((s.tile t).dsc ep) = false) : s.rowWritten t ep = s := by simp [State.rowWritten, h]

theorem rowWritten_early (hn : dscNen ((s.tile t).dsc ep) = true) (hd : (s.tile t).noticeDue ep = false) :
    s.rowWritten t ep = s.updTile t fun x => { x with epCnt := Tab.upd 0 x.epCnt ep (· + 1) } := by
  simp [State.rowWritten, hn, hd]

theorem rowWritten_due (hd : (s.tile t).noticeDue ep = true) :
    s.rowWritten t ep = (s.updTile t fun _ => (s.tile t).noticed ep).sendLater t (dscNrr ((s.tile t).dsc ep)) .notice
      [BitVec.ofNat 64 (ep + (s.tile t).noticeNo ep * 2 ^ 8)] := by
  have hn : dscNen ((s.tile t).dsc ep) = true := by
    simp only [Tile.noticeDue, Bool.and_eq_true] at hd
    exact hd.1
  simp only [State.rowWritten, hn, hd, Bool.not_true, Bool.false_eq_true, if_false, if_true]
  rfl

/-- A row written through a descriptor changes the descriptor's counts and the tile's sends only. -/
theorem rowWritten_frame (s : State) (t ep : Nat) :
    let v := s.rowWritten t ep
    v.mem = s.mem ∧ OtherTiles s v t ∧ { v.tile t with
      sends := (s.tile t).sends, sendQ := (s.tile t).sendQ, epCnt := (s.tile t).epCnt, epNote := (s.tile t).epNote } = s.tile t := by
  intro v
  cases hd : (s.tile t).noticeDue ep with
  | true =>
    obtain ⟨hother, htile⟩ := sendLater_tile (s.updTile t fun _ => (s.tile t).noticed ep) t (dscNrr ((s.tile t).dsc ep)) .notice
      [BitVec.ofNat 64 (ep + (s.tile t).noticeNo ep * 2 ^ 8)]
    have hmem := congrArg State.mem (sendLater_frame (s.updTile t fun _ => (s.tile t).noticed ep) t (dscNrr ((s.tile t).dsc ep)) .notice
      [BitVec.ofNat 64 (ep + (s.tile t).noticeNo ep * 2 ^ 8)])
    rw [updTile_tile_self] at htile
    rw [← rowWritten_due hd] at hother htile hmem
    have hcnt := congrArg (fun y : Tile => { y with epCnt := (s.tile t).epCnt, epNote := (s.tile t).epNote }) htile
    exact ⟨hmem, fun i hi => (hother i hi).trans (updTile_tile_ne _ _ _ hi), hcnt⟩
  | false =>
    cases hn : dscNen ((s.tile t).dsc ep) with
    | true =>
      have hv : v = _ := rowWritten_early hn hd
      rw [hv]
      exact ⟨rfl, (updTile_only s t _).2, by rw [updTile_tile_self]⟩
    | false =>
      have hv : v = s := rowWritten_quiet hn
      rw [hv]
      exact ⟨rfl, fun _ _ => rfl, rfl⟩

end

/-- R171: the notice that a row written through descriptor `ep` sends: none without NEN, and the next one when it is due and its channel free. -/
def NoticeSent (s v : State) (t ep : Nat) : Prop :=
  (dscNen ((s.tile t).dsc ep) = false → v.net = s.net) ∧
  ((s.tile t).noticeDue ep = true → Tab.get none (s.tile t).sends (dscNrr ((s.tile t).dsc ep)) = none →
    v.net = s.net ++ ((s.destOf t (dscNrr ((s.tile t).dsc ep))).map fun d =>
      (⟨t, dscNrr ((s.tile t).dsc ep), d, [BitVec.ofNat 64 (ep + (s.tile t).noticeNo ep * 2 ^ 8)], none⟩ : Msg)).toList)

theorem rowWritten_notice (s : State) (t ep : Nat) : NoticeSent s (s.rowWritten t ep) t ep := by
  refine ⟨fun hn => by rw [rowWritten_quiet hn], fun hd hs => ?_⟩
  have htile : (s.updTile t fun _ => (s.tile t).noticed ep).tile t = (s.tile t).noticed ep := updTile_tile_self _ _ _
  have hdest : (s.updTile t fun _ => (s.tile t).noticed ep).destOf t (dscNrr ((s.tile t).dsc ep)) = s.destOf t (dscNrr ((s.tile t).dsc ep)) :=
    destOf_congr (congrArg Tile.mroutes htile :) rfl _
  rw [rowWritten_due hd, sendLater_net (by rw [htile]; exact hs), hdest]
  rfl

/-- The notice is the same where the tile's pointers, its input and its slots alone have changed before the row is counted. -/
theorem NoticeSent.of_tile {s a v : State} {t ep : Nat} (h : NoticeSent a v t ep) (hnet : a.net = s.net) (hreg : a.regions = s.regions)
    (ha : { a.tile t with
      tileIn := (s.tile t).tileIn, stalls := (s.tile t).stalls, slots := (s.tile t).slots, epPtr := (s.tile t).epPtr,
      ringFill := (s.tile t).ringFill, ringCnt := (s.tile t).ringCnt } = s.tile t) : NoticeSent s v t ep := by
  have hdsc : (a.tile t).dsc ep = (s.tile t).dsc ep := (congrArg (fun x : Tile => x.dsc ep) ha :)
  have hdue : (a.tile t).noticeDue ep = (s.tile t).noticeDue ep := (congrArg (fun x : Tile => x.noticeDue ep) ha :)
  have hno : (a.tile t).noticeNo ep = (s.tile t).noticeNo ep := (congrArg (fun x : Tile => x.noticeNo ep) ha :)
  have hsends : (a.tile t).sends = (s.tile t).sends := (congrArg Tile.sends ha :)
  have hroutes : (a.tile t).mroutes = (s.tile t).mroutes := (congrArg Tile.mroutes ha :)
  have hdest := destOf_congr hroutes hreg
  simpa only [NoticeSent, hdsc, hdue, hno, hsends, hdest, hnet] using h

/-! ### The tile port takes a packet (R170, R171, R179) -/

section
variable {s : State} {t ep w d : Nat} {p : Packet} {rest : List (Nat × Packet)} {x : Tile}

theorem advancePtr_store {y : Tile} (h : dscKind (y.dsc ep) ≠ 0) : y.advancePtr ep = { y with
    epPtr := Tab.put 0 y.epPtr ep
      (if y.ptr ep + 1 = dscBase (y.dsc ep) + dscCount (y.dsc ep) then dscBase (y.dsc ep) else y.ptr ep + 1) } := by
  rw [Tile.advancePtr, if_neg h]

/-- R170: a pointer that advances changes nothing else of its tile. -/
theorem advancePtr_frame (y : Tile) (ep : Nat) : { y.advancePtr ep with epPtr := y.epPtr } = y := by
  by_cases h : dscKind (y.dsc ep) = 0
  · rw [Tile.advancePtr, if_pos h]
  · rw [advancePtr_store h]

@[simp] theorem advancePtr_tileIn (y : Tile) (ep : Nat) : (y.advancePtr ep).tileIn = y.tileIn := (congrArg Tile.tileIn (advancePtr_frame y ep) :)
@[simp] theorem advancePtr_vpQ (y : Tile) (ep : Nat) : (y.advancePtr ep).vpQ = y.vpQ := (congrArg Tile.vpQ (advancePtr_frame y ep) :)
@[simp] theorem advancePtr_tbufs (y : Tile) (ep : Nat) : (y.advancePtr ep).tbufs = y.tbufs := (congrArg Tile.tbufs (advancePtr_frame y ep) :)

/-- The tile port has taken its oldest packet. -/
def State.portTook (s : State) (t : Nat) (rest : List (Nat × Packet)) : State :=
  s.updTile t fun x => ({ x with tileIn := rest } : Tile).progress 4

theorem portTook_tile (s : State) (t : Nat) (rest : List (Nat × Packet)) :
    (s.portTook t rest).tile t = { s.tile t with tileIn := rest, stalls := (s.tile t).stalls.filter fun k => k.1 != 4 } := updTile_tile_self _ _ _

theorem portTook_only (s : State) (t : Nat) (rest : List (Nat × Packet)) : OnlyTile s (s.portTook t rest) t := updTile_only s t _

/-- R170: what a descriptor of each kind does not refuse. -/
theorem tileRefuses_spad (hv : dscValid w = true) (hk : dscKind w = 1) (hd : d < min 512 (spadRows t)) : tileRefuses t w d 0 = false := by
  have hd' : ¬ d ≥ min 512 (spadRows t) := by omega
  simp [tileRefuses, hv, hk, hd']

theorem tileRefuses_ring (hv : dscValid w = true) (hk : dscKind w = 0) (hm : tileKind t = .m) : tileRefuses t w d 0 = false := by
  simp [tileRefuses, hv, hk, hm]

theorem tileRefuses_deep (hv : dscValid w = true) (hk : dscKind w = 2) (hd : d < 16384) (xp : Nat) : tileRefuses t w d xp = false := by
  simp [tileRefuses, hv, hk, hd]

variable (hx : s.tile t = x) (hin : x.tileIn = (ep, p) :: rest) (hb : tilePortKey ep p.label ∉ x.blocked) (hg : p.good = true)
  (hw : w = x.dsc ep) (hst : x.portStalled = false)
include hx hin hb hg hw hst

theorem tilePort_spad (hk : dscKind w = 1) (hxp : p.xp = 0) (hr : tileRefuses t w (x.ptr ep) 0 = false) :
    s.tilePort t false =
      ((((s.portTook t rest).setSpad t (x.ptr ep) p.row).updTile t fun x => x.advancePtr ep).rowWritten t ep) := by
  subst hx hw
  simp only [State.tilePort, hin]
  simp [hst, hb, hg, hk, hxp, hr, State.portTook]

theorem tilePort_ring (hk : dscKind w = 0) (hxp : p.xp = 0) (hr : tileRefuses t w (x.ptr ep) 0 = false) (hroom : x.ringCnt < 128) :
    s.tilePort t false = (((s.portTook t rest).ringAppend t p.row).rowWritten t ep) := by
  subst hx hw
  simp only [State.tilePort, hin]
  simp [hst, hb, hg, hk, hxp, hr, State.portTook, hroom]

theorem tilePort_deep (hk : dscKind w = 2) (hxp : p.xp = 0) (hr : tileRefuses t w (x.ptr ep) 0 = false) (hroom : relayWaiting x.vpQ < 4) :
    s.tilePort t false = (s.portTook t rest).updTile t fun y =>
      ({ y with vpQ := y.vpQ ++ [.relayWrite (x.ptr ep) p.row ep] } : Tile).advancePtr ep := by
  subst hx hw
  simp only [State.tilePort, hin]
  simp [hst, hb, hg, hk, hxp, hr, State.portTook, hroom, inPackets]

theorem tilePort_transposed {l : List TileBuf} (hk : dscKind w = 2) (hxp : p.xp ≠ 0) (hr : tileRefuses t w (x.ptr ep) p.xp = false)
    (hl : x.xpTake p.xp ep (x.ptr ep) p.row = .into l) :
    s.tilePort t false = (s.portTook t rest).updTile t fun y => (({ y with tbufs := l } : Tile).tileWhole ep (x.ptr ep)).advancePtr ep := by
  subst hx hw
  simp only [State.tilePort, hin]
  simp [hst, hb, hg, hk, hxp, hr, State.portTook, hl]

end

/-- A row that a packet brings stands where the tile port wrote it, once its descriptor has counted it. -/
theorem rowWritten_stored {s a : State} {t id : Nat} {b : Bytes} (hwf : Memory.wf s.mem = true) (hb : b.length = 512)
    (hmem : a.mem = (s.setRow id b).mem) (ho : OtherTiles s a t) (ep : Nat) :
    let v := a.rowWritten t ep
    v.row id = b ∧ OtherRows s v [id] ∧ OtherTiles s v t ∧ (v.tile t).tileIn = (a.tile t).tileIn ∧ (v.tile t).epPtr = (a.tile t).epPtr ∧
      (v.tile t).ringCnt = (a.tile t).ringCnt ∧ (v.tile t).ringFill = (a.tile t).ringFill := by
  intro v
  obtain ⟨hvm, hvo, hvt⟩ := rowWritten_frame a t ep
  have hm : v.mem = (s.setRow id b).mem := hvm.trans hmem
  refine ⟨(row_mem hm id).trans (row_setRow_self hwf id hb), fun j hj => (byteAt_mem hm j).trans (byteAt_setRow hwf id j b (by simpa using hj)),
    fun i hi => (hvo i hi).trans (ho i hi), (congrArg Tile.tileIn hvt :), (congrArg Tile.epPtr hvt :), (congrArg Tile.ringCnt hvt :),
    (congrArg Tile.ringFill hvt :)⟩

theorem tilePortDeliver_next {s : State} {t : Nat} (ht : t < 2688) (hon : s.routerOn t = true) :
    exec (.tilePortDeliver t) s = .next (s.tilePort t false) := by
  show execTilePortDeliver t s = _
  rw [execTilePortDeliver, onTile_ok ht, State.whenB, if_pos hon]

section
variable {s : State} {t ep w : Nat} {p : Packet} {rest : List (Nat × Packet)} (ht : t < 2688) (hon : s.routerOn t = true)
  (hin : (s.tile t).tileIn = (ep, p) :: rest) (hb : tilePortKey ep p.label ∉ (s.tile t).blocked) (hg : p.good = true)
  (hw : w = (s.tile t).dsc ep) (hv : dscValid w = true) (hst : (s.tile t).portStalled = false)
include ht hon hin hb hg hw hv hst

/-- TILE_PORT_DELIVER to the scratchpad. -/
theorem tilePortDeliver_spad (hk : dscKind w = 1) (hxp : p.xp = 0) (hd : (s.tile t).ptr ep < min 512 (spadRows t)) (hwf : Memory.wf s.mem = true)
    (hlen : p.row.length = 512) :
    ∃ v, exec (.tilePortDeliver t) s = .next v ∧ v.row (spadRow t ((s.tile t).ptr ep)) = p.row ∧
      OtherRows s v [spadRow t ((s.tile t).ptr ep)] ∧ OtherTiles s v t ∧ (v.tile t).tileIn = rest ∧ NoticeSent s v t ep ∧
      Tab.get 0 (v.tile t).epPtr ep =
        (if (s.tile t).ptr ep + 1 = dscBase w + dscCount w then dscBase w else (s.tile t).ptr ep + 1) := by
  have hex := (tilePortDeliver_next ht hon).trans (congrArg _ (tilePort_spad rfl hin hb hg hw hst hk hxp (tileRefuses_spad hv hk hd)))
  obtain ⟨a, hdef⟩ : ∃ a, a = ((s.portTook t rest).setSpad t ((s.tile t).ptr ep) p.row).updTile t fun x => x.advancePtr ep := ⟨_, rfl⟩
  rw [← hdef] at hex
  have ha : a.tile t = { s.tile t with
      tileIn := rest, stalls := (s.tile t).stalls.filter fun k => k.1 != 4, slots := (a.tile t).slots,
      epPtr := Tab.put 0 (s.tile t).epPtr ep (if (s.tile t).ptr ep + 1 = dscBase w + dscCount w then dscBase w else (s.tile t).ptr ep + 1) } := by
    subst hw
    have hset : ((s.portTook t rest).setSpad t ((s.tile t).ptr ep) p.row).tile t = { s.tile t with
        tileIn := rest, stalls := (s.tile t).stalls.filter fun k => k.1 != 4,
        slots := (s.tile t).slots.map fun c => (c.1, c.2.map (mergeSlot ((s.tile t).ptr ep) (slice p.row 0 512))) } := by
      simp [State.portTook, State.setSpad, Tile.progress]
    rw [hdef, updTile_tile_self, hset, advancePtr_store]
    · rfl
    · have hstore : dscKind ((s.tile t).dsc ep) ≠ 0 := by omega
      exact hstore
  have ho : OtherTiles s a t := fun i hi => by simp [hdef, State.portTook, State.setSpad, updTile_tile_ne, hi]
  have hsame : a.mem = (s.setRow (spadRow t ((s.tile t).ptr ep)) p.row).mem ∧ a.net = s.net ∧ a.regions = s.regions := by
    rw [hdef]; exact ⟨rfl, rfl, rfl⟩
  obtain ⟨hmem, hnet, hreg⟩ := hsame
  obtain ⟨hrow, hother, htiles, hrest, hptr, -, -⟩ := rowWritten_stored hwf hlen hmem ho ep
  refine ⟨_, hex, hrow, hother, htiles, hrest.trans (by rw [ha]), (rowWritten_notice a t ep).of_tile hnet hreg (by rw [ha]), ?_⟩
  rw [hptr, ha]; exact Tab.get_put_self _ _ _ _

/-- TILE_PORT_DELIVER to the stream ring. -/
theorem tilePortDeliver_ring (hk : dscKind w = 0) (hxp : p.xp = 0) (hm : tileKind t = .m) (hroom : (s.tile t).ringCnt < 128)
    (hwf : Memory.wf s.mem = true) (hlen : p.row.length = 512) :
    ∃ v, exec (.tilePortDeliver t) s = .next v ∧ v.row (spadRow t (512 + (s.tile t).ringFill)) = p.row ∧
      OtherRows s v [spadRow t (512 + (s.tile t).ringFill)] ∧ OtherTiles s v t ∧ (v.tile t).tileIn = rest ∧ NoticeSent s v t ep ∧
      (v.tile t).ringCnt = (s.tile t).ringCnt + 1 ∧ (v.tile t).ringFill = ((s.tile t).ringFill + 1) % 128 := by
  have hex := (tilePortDeliver_next ht hon).trans (congrArg _ (tilePort_ring rfl hin hb hg hw hst hk hxp (tileRefuses_ring hv hk hm) hroom))
  obtain ⟨a, hdef⟩ : ∃ a, a = (s.portTook t rest).ringAppend t p.row := ⟨_, rfl⟩
  rw [← hdef] at hex
  have hmem : a.mem = (s.setRow (spadRow t (512 + (s.tile t).ringFill)) p.row).mem := by
    rw [hdef, State.ringAppend, portTook_tile]; rfl
  have ha : a.tile t = { s.tile t with
      tileIn := rest, stalls := (s.tile t).stalls.filter fun k => k.1 != 4, ringFill := ((s.tile t).ringFill + 1) % 128,
      ringCnt := (s.tile t).ringCnt + 1 } := by
    rw [hdef, State.ringAppend, updTile_tile_self]
    exact congrArg (fun x : Tile => { x with ringFill := (x.ringFill + 1) % 128, ringCnt := x.ringCnt + 1 }) (portTook_tile s t rest)
  have ho : OtherTiles s a t := fun i hi => by
    rw [hdef, State.ringAppend, updTile_tile_ne _ _ _ hi]; exact (portTook_only s t rest).2 i hi
  have hsame : a.net = s.net ∧ a.regions = s.regions := by rw [hdef]; exact ⟨rfl, rfl⟩
  obtain ⟨hnet, hreg⟩ := hsame
  obtain ⟨hrow, hother, htiles, hrest, -, hcnt, hfill⟩ := rowWritten_stored hwf hlen hmem ho ep
  exact ⟨_, hex, hrow, hother, htiles, hrest.trans (by rw [ha]), (rowWritten_notice a t ep).of_tile hnet hreg (by rw [ha]),
    hcnt.trans (by rw [ha]), hfill.trans (by rw [ha])⟩

/-- TILE_PORT_DELIVER to the deep store: the row waits for the vertical port (R152). -/
theorem tilePortDeliver_deep (hk : dscKind w = 2) (hxp : p.xp = 0) (hd : (s.tile t).ptr ep < 16384) (hroom : relayWaiting (s.tile t).vpQ < 4) :
    ∃ v, exec (.tilePortDeliver t) s = .next v ∧ OnlyTile s v t ∧ (v.tile t).tileIn = rest ∧
      (v.tile t).vpQ = (s.tile t).vpQ ++ [.relayWrite ((s.tile t).ptr ep) p.row ep] := by
  have hex := (tilePortDeliver_next ht hon).trans (congrArg _ (tilePort_deep rfl hin hb hg hw hst hk hxp (tileRefuses_deep hv hk hd 0) hroom))
  refine ⟨_, hex, (portTook_only s t rest).trans (updTile_only _ t _), ?_, ?_⟩
  · rw [updTile_tile_self, advancePtr_tileIn, portTook_tile]
  · rw [updTile_tile_self, advancePtr_vpQ, portTook_tile]

/-- TILE_PORT_DELIVER of a transposed row: it enters a tile buffer, and a whole tile asks for the vertical port (R155). -/
theorem tilePortDeliver_transposed {l : List TileBuf} (hk : dscKind w = 2) (hxp : p.xp ≠ 0) (hd : (s.tile t).ptr ep < 16384)
    (hl : (s.tile t).xpTake p.xp ep ((s.tile t).ptr ep) p.row = .into l) :
    ∃ v, exec (.tilePortDeliver t) s = .next v ∧ OnlyTile s v t ∧ (v.tile t).tileIn = rest ∧ (v.tile t).tbufs = l ∧
      (v.tile t).vpQ = (s.tile t).vpQ ++ ((l.filter fun b => b.ep == ep && decide (xpRows b.xp ≤ b.rows.length) &&
        b.d + b.rows.length == (s.tile t).ptr ep + 1).map fun b => .tile b.d b.ep) := by
  have hex := (tilePortDeliver_next ht hon).trans
    (congrArg _ (tilePort_transposed rfl hin hb hg hw hst hk hxp (tileRefuses_deep hv hk hd _) hl))
  refine ⟨_, hex, (portTook_only s t rest).trans (updTile_only _ t _), ?_, ?_, ?_⟩
  · rw [updTile_tile_self, advancePtr_tileIn, portTook_tile]; rfl
  · rw [updTile_tile_self, advancePtr_tbufs, portTook_tile]; rfl
  · rw [updTile_tile_self, advancePtr_vpQ, portTook_tile]; rfl

end

/-! ### Stalls (R188) -/

/-- The port leads to another region. -/
def facesRegion (t port : Nat) : Bool := match neighbour t port with | some u => tileRegion u != tileRegion t | none => false

/-- R188: a stall at a port toward another region is a cause of the region's. -/
def State.stallCause (s : State) (t : Nat) (far : Bool) : State :=
  if far then s.updRegion (tileRegion t) fun r => { r with causes := r.causes ||| 32 } else s

theorem stallCause_net (s : State) (t : Nat) (far : Bool) : (s.stallCause t far).net = s.net := by cases far <;> rfl
theorem stallCause_mem (s : State) (t : Nat) (far : Bool) : (s.stallCause t far).mem = s.mem := by cases far <;> rfl

theorem stallCause_sup (s : State) (t : Nat) (far : Bool) : ((s.stallCause t far).region (tileRegion t)).sup = (s.region (tileRegion t)).sup := by
  cases far with
  | false => rfl
  | true => rw [State.stallCause, if_pos rfl, updRegion_region_self]

theorem stallCause_tile (s : State) (t : Nat) (far : Bool) (i : Nat) : (s.stallCause t far).tile i = s.tile i := by
  cases far <;> rfl

/-- FABRIC_STALL: the stall is noted, counted and reported. -/
theorem fabricStall_reported {s : State} {t port label unit cycles : Nat} {msg : Bool} {key : Nat × Nat} (ht : t < 2688) (hon : s.routerOn t = true)
    (hc : 65536 ≤ cycles) (hp : port < 8) (hl : label < 256) (hu : unit < 16)
    (hkey : key = ((if unit < 15 then 16 * (unit + 1) + 7 else port + (if msg then 8 else 0)), label)) (hnew : key ∉ (s.tile t).stalls)
    (hh : s.holding t port msg unit = true) :
    ∃ v, exec (.fabricStall t port msg label unit cycles) s = .next v ∧ v.mem = s.mem ∧ OtherTiles s v t ∧
      (v.tile t).stalls = key :: (s.tile t).stalls ∧ (v.tile t).ctr = Tab.upd 0 (s.tile t).ctr 19 (count48 1) ∧
      Reported s v t (fabWord t 0x53 port msg label unit) (count64 1 (Tab.get 0 (s.tile t).occ 0x53)) cycles 0 := by
  have hcond : (s.routerOn t && decide (cycles ≥ 65536 ∧ port < 8 ∧ label < 256 ∧ unit < 16) && !(s.tile t).stalls.contains key &&
      s.holding t port msg unit) = true := by
    simp [hon, hc, hp, hl, hu, hnew, hh]
  obtain ⟨a, hdef⟩ : ∃ a, a = (((s.stallCause t (facesRegion t port)).updTile t fun x => { x with stalls := key :: x.stalls }).count t 19 1).occur t 0x53 :=
    ⟨_, rfl⟩
  have hex : exec (.fabricStall t port msg label unit cycles) s = .next (a.fabReport t 0x53 port msg label unit cycles 0) := by
    show execFabricStall t port msg label unit cycles s = _
    rw [execFabricStall, onTile_ok ht, ← hkey, State.whenB, if_pos hcond, hdef]
    rfl
  have ha : a.tile t = { s.tile t with
      stalls := key :: (s.tile t).stalls, ctr := Tab.upd 0 (s.tile t).ctr 19 (count48 1), occ := Tab.upd 0 (s.tile t).occ 0x53 (count64 1) } := by
    simp [hdef, State.count, State.occur, stallCause_tile]
  have ho : OtherTiles s a t := fun i hi => by simp [hdef, State.count, State.occur, updTile_tile_ne, hi, stallCause_tile]
  have hsup : (a.region (tileRegion t)).sup = (s.region (tileRegion t)).sup := by rw [hdef, State.occur, State.count]; simp only [updTile_region, stallCause_sup]
  have hnet : a.net = s.net := by rw [hdef, State.occur, State.count]; simp only [updTile_net, stallCause_net]
  have hmem : a.mem = s.mem := by rw [hdef, State.occur, State.count]; simp only [updTile_mem, stallCause_mem]
  obtain ⟨hrep, htile, hother, hmem⟩ := fabReport_after ha rfl rfl (routerOn_selfFenced hon) ho hsup hnet hmem 0x53 port msg label unit cycles 0
  rw [Tab.get_upd_self] at hrep
  generalize a.fabReport t 0x53 port msg label unit cycles 0 = b at *
  exact ⟨b, hex, hmem, hother, (congrArg Tile.stalls htile :), (congrArg Tile.ctr htile :), hrep⟩

end Sys2Proof.Machine

open Sys2Proof Sys2Proof.Machine

/-- Settles O17, clause by clause: each packet by what its forward, its output and its descriptor do. -/
theorem packetsFollowTheirRoutes : Obligations.PacketsFollowTheirRoutes := by
  unfold Obligations.PacketsFollowTheirRoutes
  intro s t x ht hon hx
  subst hx
  refine ⟨fun port ip p rest e fin hport hip hq he hb hfin => ?_, fun port p rest fin hport hq hb hfin => ?_,
    fun k w n p cfg hk hw hs hp hf hroom hcfg => ?_, fun i a b ra rb w c hi hla hlb hc hb hv hga hgb hch hout hf hroom hw => ?_,
    fun ep p rest w n note hin hb hg hw hv hst hn hnote => ?_, fun port msg label unit cycles key hc hp hl hu hkey hnew hh => ?_⟩
  · subst hfin
    refine ⟨fun o u hv h0 ho h4 hg hn hf hc hu hroom => packetForward_link ht hon hport hip hq he hb hv h0 ho h4 hg hn hf hc hu hroom,
      fun hv h0 ho hedge hg k hk hroom => packetForward_ring ht hon hport hip hq he hb hv h0 ho hedge hg hk hroom,
      fun hv h0 ho hg hroom hf => packetForward_tilePort ht hon hport hip hq he hb hv h0 ho hg hroom hf,
      fun i hv h1 h4 hi hu hub hroom =>
        packetForward_operand ht hon hport hip hq he hb hv (show eOp e = i + 1 by omega) (by omega) hu hub hroom,
      fun hv h0 hlen hports hg hskew => ?_, fun hbad hseen => ?_⟩
    · obtain ⟨v, hex, honly, htile, hinto⟩ := packetForward_fork ht hon hport hip hq he hb hv h0 hlen hports
        (fun h => hg (by simpa [checksHere, or_assoc] using h)) hskew
      exact ⟨v, hex, honly, htile, by rw [hinto, Tab.get_put_self]⟩
    · obtain ⟨v, hex, hmem, hother, hbuf, hctr, hrep⟩ := packetForward_discarded ht hon hport hip hq he hb hbad hseen
      exact ⟨v, hex, hmem, hother, by rw [hbuf, Tab.get_put_self], by rw [hctr, Tab.get_upd_self]; rfl, hrep⟩
  · subst hfin
    refine ⟨_, packetForward_next ht hon hport hq (forward_blocked (packetTaken_tile s t port rest) hb),
      (packetTaken_only s t port rest).trans (updTile_only _ t _), ?_⟩
    rw [State.count, updTile_tile_self, packetTaken_tile]
  · subst hcfg
    obtain ⟨v, hex, honly, hinto, hskew⟩ := forkBranchSend_tilePort ht hon hk hw hs hp hf hroom
    exact ⟨v, hex, honly, hinto, by rw [hskew, Tab.get_put_self], fun j hj => by rw [hskew, Tab.get_put_ne _ _ _ hj]⟩
  · obtain ⟨v, hex, honly, hinto, hops⟩ := reductionAdd_tilePort ht hon hi hla hlb hc hb hv hga hgb hch hout hf hroom
    refine ⟨v, _, hex, honly, hinto, addRows_length _ _ _, fun j hj => leAt_addRows hw _ _ hj, ?_, ?_⟩
    · rw [hops, Tab.get_put_ne _ _ _ (by omega)]; exact Tab.get_put_self _ _ _ _
    · rw [hops]; exact Tab.get_put_self _ _ _ _
  · subst hn hnote hw
    exact ⟨fun hk hxp hd hwf hlen => tilePortDeliver_spad ht hon hin hb hg rfl hv hst hk hxp hd hwf hlen,
      fun hk hxp hm hroom hwf hlen => tilePortDeliver_ring ht hon hin hb hg rfl hv hst hk hxp hm hroom hwf hlen,
      fun hk hxp hd hroom => tilePortDeliver_deep ht hon hin hb hg rfl hv hst hk hxp hd hroom,
      fun l hk hxp hd hl => tilePortDeliver_transposed ht hon hin hb hg rfl hv hst hk hxp hd hl⟩
  · obtain ⟨v, hex, hmem, hother, hstalls, hctr, hrep⟩ := fabricStall_reported ht hon hc hp hl hu hkey hnew hh
    exact ⟨v, hex, hmem, hother, by rw [hstalls]; exact List.mem_cons_self, by rw [hctr]; exact Tab.get_upd_self _ _ _ _, hrep⟩
end
end

section
set_option Elab.async false

section
/-!
The matrix core's array: an MMA begins, its one group runs, POST sends, a stall stops (R41, R59, R62, R71 to R73, R79, R84 to R86, R91).
-/

namespace Sys2Proof.Machine

/-! ### An MMA begins -/

/-- R86: an MMA at its first step, nothing of it done. -/
def firstRun (w ix : Nat) : MmaRun := { word := w, ix := ix, p := 0, j := 0, out := [], outIm := [], rowsOut := 0, sampled := none }

/-- R84, R86: the core as its MMA begins: the sequencer goes on, and the registers are kept only along a chain. -/
def Tile.beginMma (x : Tile) (w : Nat) : Tile :=
  { x with
    seqIx := (x.seqIx + 1) % 1024, stat := (if x.chain then x.stat else none), shadow := (if x.chain then x.shadow else none),
    mma := some (firstRun w x.seqIx) }

/-- R84, R85: the sequencer issues the MMA word `w`, which no check refuses, and no MMA or uncorrectable ring row stands in its way. -/
structure MmaAtTurn (s : State) (t w : Nat) : Prop where
  issues : MIssues s t
  word : (s.tile t).word = w
  opc : fOpc w = 1
  good : mmaBad (s.tile t).wide s.training (s.licensed 3) w = none
  idle : (s.tile t).mma = none
  noUe : (s.tile t).pendingUe = false

section
variable {s : State} {t w : Nat} {es : List Ecc}

/-- An MMA word that no check refuses, at its turn: the command looks at the turn buffer. -/
theorem mma_issued (h : MmaAtTurn s t w) :
    exec (.mma t es) s = .next (match (s.tile t).turn with
      | [] => s
      | set :: _ => if set.need ≠ 0 then s else (s.updTile t fun x => x.beginMma w).runArray t es 0 4) := by
  obtain ⟨ht, hr, hp, hq⟩ := h.issues
  show execMma t es s = _
  rw [execMma, onM_ok ht, issueM_ok _ hr hp hq h.word h.opc (by decide) h.good]
  simp only [h.idle, h.noUe, Option.isSome_none, Bool.false_eq_true, if_false]
  cases hturn : (s.tile t).turn with
  | nil => rfl
  | cons set rest => rfl

/-- R71: it waits while no whole set is at hand. -/
theorem mma_waits (h : MmaAtTurn s t w)
    (hset : ∀ d ∈ (s.tile t).turn.head?, d.need ≠ 0) : exec (.mma t es) s = .next s := by
  rw [mma_issued h]
  cases hturn : (s.tile t).turn with
  | nil => rfl
  | cons set rest => rw [hturn] at hset; simp [hset set rfl]

/-- R71, R73: with its first set at hand it becomes the MMA in progress, and the array runs. -/
theorem mma_begins (h : MmaAtTurn s t w)
    {set : TileSet} {rest : List TileSet} (hturn : (s.tile t).turn = set :: rest) (hneed : set.need = 0) :
    exec (.mma t es) s = .next ((s.updTile t fun x => x.beginMma w).runArray t es 0 4) := by
  rw [mma_issued h, hturn]
  simp [hneed]

end

/-! ### POST -/

theorem putNet_tile (s : State) (l : List Msg) (i : Nat) : ({ s with net := l } : State).tile i = s.tile i := rfl

/-- A send on the status channel, free of an earlier one, puts its words on the message network. -/
theorem sendOn_status {s : State} {t : Nat} (h : Tab.get none (s.tile t).sends 64 = none) (kind : SndKind) (words : List W64) (bound : Nat) :
    s.sendOn t 64 kind words bound = { s.updTile t (fun y => { y with
        sends := Tab.put none y.sends 64 (some
          { kind := kind, dst := some (.ep (clusterS t) (Config.statusEndpoint t % 16)), words := words, n := 1, bound := bound, waiting := false, stalled := false }) }) with
      net := s.net ++ [{ src := t, ch := 64, dst := .ep (clusterS t) (Config.statusEndpoint t % 16), words := words, reply := none }] } := by
  unfold State.sendOn
  rw [h]
  rfl

/-- R91: POST over an empty array sends its tuple and holds the sequencer. -/
theorem post_sends {s : State} {t w : Nat} (hi : MIssues s t) (hw : (s.tile t).word = w) (hc : fOpc w = 6) (hb : tagOnlyBad w = none)
    (he : (s.tile t).arrayEmpty = true) (hs : (s.tile t).side = []) (hfree : Tab.get none (s.tile t).sends 64 = none) :
    exec (.post t) s = .next ((({ s with free := s.free + 1 } : State).updTile t fun x => { x with posted := true, chain := false }).sendOn t 64 .post
      [BitVec.ofNat 64 (fTag w + 256 * (s.tile t).nDone), BitVec.ofNat 64 (s.tile t).nSat, BitVec.ofNat 64 (s.tile t).nNan,
       BitVec.ofNat 64 (Config.freeValue s.free % 2 ^ 64)] 64) := by
  obtain ⟨ht, hr, hp, hq⟩ := hi
  show execPost t s = _
  rw [execPost, onM_ok ht, issueM_ok _ hr hp hq hw hc (by decide) hb, State.whenB,
    if_pos (by simp [he, hs, statusChannel, hfree])]
  rfl

/-! ### A stalled array -/

theorem early_of_allLater {x : Tile} (h : ∀ d ∈ x.side, d.later = true) : x.early = 0 := by
  have : x.side.filter (fun d => !d.later) = [] := List.filter_eq_nil_iff.mpr fun d hd => by simp [h d hd]
  rw [Tile.early, this]; rfl

/-- R79: the MMA, no earlier command being in progress, stops its core. -/
theorem arrayStall_mma {s : State} {t : Nat} {r : MmaRun} (ht : isTile .m t = true) (ha : s.arrayRuns t = true) (hm : (s.tile t).mma = some r)
    (hl : ∀ d ∈ (s.tile t).side, d.later = true) : exec (.arrayStall t) s = .next (s.coreFault t 9 (fTag r.word) r.ix) := by
  show execArrayStall t s = _
  rw [execArrayStall, onM_ok ht, State.whenB, if_pos ha]
  simp only [early_of_allLater hl, hm, if_true]

/-- R79: a DRAIN or an ACCLD alone stops its core. -/
theorem arrayStall_side {s : State} {t : Nat} {d : SideRun} {rest : List SideRun} (ht : isTile .m t = true) (ha : s.arrayRuns t = true)
    (hs : (s.tile t).side = d :: rest) (hm : (s.tile t).mma = none) :
    exec (.arrayStall t) s = .next (s.coreFault t 9 (fTag d.word) d.ix) := by
  show execArrayStall t s = _
  rw [execArrayStall, onM_ok ht, State.whenB, if_pos ha]
  simp only [hm, hs, ite_self]

/-- R92: a fault that keeps nothing in progress leaves the core stopped and the array empty. -/
theorem coreFaulted_empties {s u : State} {t w0 w1 w2 : Nat} (h : CoreFaulted s u t false 0 w0 w1 w2) :
    (u.tile t).stopped = true ∧ (u.tile t).mma = none ∧ (u.tile t).turn = [] ∧ (u.tile t).side = [] := by
  obtain ⟨⟨-, htile, -⟩, -⟩ := h
  have hturn : ((s.tile t).faulted false 0).turn = [] := by
    show (match (s.tile t).mma with | some r => if false then (s.tile t).turn.take r.setsLeft else [] | none => []) = []
    cases (s.tile t).mma <;> rfl
  exact ⟨congrArg Tile.stopped htile, congrArg Tile.mma htile, (congrArg Tile.turn htile).trans hturn, congrArg Tile.side htile⟩

/-! ### The one group of a one-step MMA -/

/-- R85, R86: a word whose real product, of at most 128 narrow columns, is one step into the accumulator. -/
structure OneStep (w : Nat) : Prop where
  kgrp : fKgrp w = 1
  nstep : fNstep w = 1
  ncol : fNcol w ≤ 128
  pt : fPt w ≤ 5
  out : fOut w = 0
  zobs : fZobs w = false

/-- R85: a narrow one-step word that no check refuses has steps of one group and at most 128 columns. -/
theorem OneStep.of_mmaBad {training mxfp4 : Bool} {w : Nat} (hb : mmaBad false training mxfp4 w = none) (hn : fNstep w = 1) (hpt : fPt w ≤ 5)
    (ho : fOut w = 0) (hz : fZobs w = false) : OneStep w := by
  have hk := firstCause_none hb _ (List.mem_of_getElem? (i := 8) rfl)
  have hs := firstCause_none hb _ (List.mem_of_getElem? (i := 9) rfl)
  have hc := firstCause_none hb _ (List.mem_of_getElem? (i := 10) rfl)
  simp only [decide_eq_false_iff_not, hn, Bool.false_eq_true, if_false] at hk hs hc
  refine ⟨?_, hn, by omega, hpt, ho, hz⟩
  by_contra hne
  exact hs (.inr (by rw [Nat.mod_eq_of_lt (by omega)]; decide))

section
variable {w : Nat}

theorem passesOf_real (h : fPt w ≤ 5) : passesOf (fPt w) = [⟨0, 0, 0, false, false⟩] := by
  generalize fPt w = p at h
  interval_cases p <;> rfl

theorem isComplex_real (h : fPt w ≤ 5) : isComplex (fPt w) = false := by
  generalize fPt w = p at h
  interval_cases p <;> rfl

/-- R61: its one stationary part is the sub-block that the word names. -/
theorem statParts_oneStep (h : OneStep w) : statParts w 0 = [(fSbuf w, fSsb w)] := by
  have hz : fSsb w + subStride (fPt w) * (0 % fKgrp w) = fSsb w := by rw [h.kgrp]; simp
  have hp := h.pt
  rw [statParts, hz]
  generalize fPt w = p at hp
  interval_cases p <;> rfl

/-- A list without repetitions keeps every entry. -/
theorem eraseDups_of_nodup {l : List Nat} (h : l.Nodup) : l.eraseDups = l := by
  induction l with
  | nil => rfl
  | cons a r ih =>
    obtain ⟨ha, hr⟩ := List.nodup_cons.mp h
    have hf : r.filter (fun b => !b == a) = r := List.filter_eq_self.mpr fun b hb => by
      have : b ≠ a := fun e => ha (e ▸ hb)
      simp [this]
    rw [List.eraseDups_cons, hf, ih hr]

/-- Its columns take one accumulator row each. -/
theorem rowsUsed_oneStep (h : OneStep w) (ix : Nat) : (firstRun w ix).rowsUsed false = (upTo (fNcol w)).map (fAccb w + ·) := by
  have hm : min 128 (fNcol w) = fNcol w := by have := h.ncol; omega
  have hd : ((upTo (fNcol w)).map (fAccb w + ·)).Nodup := List.nodup_range.map fun a b e => by simpa using e
  simpa [MmaRun.rowsUsed, firstRun, isComplex_real h.pt, h.out, hm] using eraseDups_of_nodup hd

end

theorem rowsClean_updTile (s : State) (t : Nat) (f : Tile → Tile) (es : List Ecc) (l : List Nat) (n : Nat) :
    rowsClean (s.updTile t f) es n l = rowsClean s es n l := by
  induction l generalizing n with
  | nil => rfl
  | cons id r ih => exact congrArg (decide (checkOf s id es n = .clean) && ·) (ih (n + 1))

/-! ### Columns written back -/

/-- Narrow columns written back one after another are rows written one after another. -/
theorem setAccCols_narrow (s : State) (t base : Nat) (l : List (Nat × List Nat)) :
    l.foldl (fun s c => setAccCol s t false base c.1 c.2) s = s.setRows (l.map fun c => (accRow t (base + c.1), unlanes 4 c.2)) := by
  induction l generalizing s with
  | nil => rfl
  | cons c r ih => exact ih _

/-- R61: the rows of the sub-block that the word names. -/
def partRows (t w : Nat) : List Nat := (upTo (subRows (fPt w))).map fun i => spadRow t (subRow (fPt w) (fSbuf w) (fSsb w) + i)

section
variable {s : State} {t w : Nat} {es : List Ecc} {set : TileSet}

/-- The sub-block that a one-step MMA loads. -/
def partBlock (s : State) (t w : Nat) : SubBlock :=
  { row := subRow (fPt w) (fSbuf w) (fSsb w), data := s.rowsAt (partRows t w), mask := 0 }

/-- R59, R72: with the registers empty the sub-block is loaded, its rows reading clean. -/
theorem takeParts_loads (hw : OneStep w) (hst : (s.tile t).stat = none) (hsh : (s.tile t).shadow = none)
    (hc : rowsClean s es 0 (partRows t w) = true) :
    s.takeParts t w 0 es ((passesOf (fPt w)).map (·.part)) 0 [] =
      (s.updTile t fun x => { x with stat := some (partBlock s t w) }, subRows (fPt w), some [(0, packed (s.rowsAt (partRows t w)))]) := by
  have hids : ((upTo (subRows (fPt w))).map (subRow (fPt w) (fSbuf w) (fSsb w) + ·)).map (rowId t false) = partRows t w := by
    rw [List.map_map]; rfl
  have hread := readRows_clean (req := 0) (deep := false) (l := (upTo (subRows (fPt w))).map (subRow (fPt w) (fSbuf w) (fSsb w) + ·)) (hids ▸ hc)
  rw [hids] at hread
  have hload : s.loadPart t w (fSbuf w, fSsb w) es 0 = (s, some (partBlock s t w)) := by
    simp only [State.loadPart, hread, hw.zobs, Bool.false_eq_true, if_false, partBlock]
  have htake : s.takePart t w (fSbuf w, fSsb w) es 0 =
      (s.updTile t fun x => { x with stat := some (partBlock s t w) }, subRows (fPt w), some (partBlock s t w)) := by
    simp only [State.takePart, hst, hsh, hload, Option.filter_none, Nat.zero_add]
  simp only [passesOf_real hw.pt, List.map_cons, List.map_nil, State.takeParts, statParts_oneStep hw, List.getD_cons_zero, htake, List.any_nil,
    Bool.false_eq_true, if_false]
  rfl

/-- What column `c` of a one-step MMA holds after it (R41). -/
def oneStepColumn (s : State) (t w : Nat) (set : TileSet) (c : Nat) : List Nat :=
  (upTo 128).map fun i => cellValue false w false [packed (s.rowsAt (partRows t w)), 0, 0, 0] set.tiles
    (if fAccin w then leAt (s.row (accRow t (fAccb w + c))) (4 * i) 4 else 0) i c

/-- The state after the one group of a one-step MMA: its sub-block in the registers, its columns in the accumulator, its set consumed,
its pass counted, and itself complete. -/
def State.oneStepDone (s : State) (t w : Nat) (set : TileSet) : State :=
  ((((s.updTile t fun x => { x with stat := some (partBlock s t w) }).setRows
    ((upTo (fNcol w)).map fun c => (accRow t (fAccb w + c), unlanes 4 (oneStepColumn s t w set c)))).updTile t
      fun x => { x with turn := x.turn.drop 1 }).updTile t
      fun x => { x with passes := x.passes + 1 }).updTile t
      fun x => { x with
        mma := none, chain := true, turn := x.turn.filter (fun d => !d.half), nDone := count8 1 x.nDone,
        side := x.side.map fun d => { d with later := false } }

/-- R157: the accumulator rows that its columns start from: none where they start from zero. -/
def startRows (t w : Nat) : List Nat := if fAccin w then (upTo (fNcol w)).map (fun c => accRow t (fAccb w + c)) else []

theorem readRows_start (hw : OneStep w) (ix : Nat) {n : Nat} (hc : rowsClean s es n (startRows t w) = true) :
    s.readRows t false 0 es n (if (!fAccin w) = true then [] else ((firstRun w ix).rowsUsed false).map (640 + ·)) =
      (s, some (s.rowsAt (startRows t w))) := by
  have hids : (if (!fAccin w) = true then [] else ((firstRun w ix).rowsUsed false).map (640 + ·)).map (rowId t false) = startRows t w := by
    rw [rowsUsed_oneStep hw, startRows]
    cases fAccin w with
    | false => rfl
    | true => simp [Function.comp_def, rowId, accRow]
  rw [readRows_clean (hids ▸ hc), hids]

/-- R41: the value that lane `i` of column `c` starts from. -/
theorem accCol_start {c i : Nat} (hi : i < 128) : (if (!fAccin w) = true then [] else accCol s t false (fAccb w) c).getD i 0 =
    if fAccin w then leAt (s.row (accRow t (fAccb w + c))) (4 * i) 4 else 0 := by
  cases fAccin w with
  | false => rfl
  | true => simp [accCol, logicalRows, hi]

/-- R41, R86: the one group of a one-step MMA that starts with empty registers. -/
theorem runGroup_oneStep (hw : OneStep w) (hwide : (s.tile t).wide = false) (hst : (s.tile t).stat = none) (hsh : (s.tile t).shadow = none)
    (hhalf : set.half = false) (hdue : s.sampleDue t w = false) (ix : Nat)
    (hc : rowsClean s es 0 (partRows t w ++ startRows t w) = true) :
    (s.runGroup t (firstRun w ix) set es 0).1 = s.oneStepDone t w set := by
  obtain ⟨hpart, hacc⟩ := rowsClean_append hc
  have htake := takeParts_loads hw hst hsh hpart
  unfold State.oneStepDone
  generalize hb : (s.updTile t fun x => { x with stat := some (partBlock s t w) }) = b at htake ⊢
  have hpre : b.preload t w (0 + 1) es (subRows (fPt w)) = (b, subRows (fPt w), true) := by simp [State.preload, hw.nstep]
  have hdueb : b.sampleDue t w = false := by
    rw [← hdue, ← hb]; simp only [State.sampleDue, updTile_tile_self]; rfl
  have hread := readRows_start (s := b) hw ix (by rw [← hb, rowsClean_updTile]; simpa [partRows] using hacc)
  have hstart (c i : Nat) (hi : i < 128) : (if (!fAccin w) = true then [] else accCol b t false (fAccb w) c).getD i 0 =
      if fAccin w then leAt (s.row (accRow t (fAccb w + c))) (4 * i) 4 else 0 := by
    rw [← hb]; exact accCol_start hi
  have hcol : (upTo (fNcol w)).map (fun c => (upTo 128).map fun i => cellValue false w false [packed (s.rowsAt (partRows t w)), 0, 0, 0] set.tiles
      ((if (!fAccin w) = true then [] else accCol b t false (fAccb w) c).getD i 0) i c) = (upTo (fNcol w)).map (oneStepColumn s t w set) :=
    List.map_congr_left fun c _ => List.map_congr_left fun i hi => by rw [hstart c i (by simpa using hi)]
  have hmin : min 128 (fNcol w) = fNcol w := by have := hw.ncol; omega
  have hend : 128 ≥ fNcol w := hw.ncol
  have hparts : (upTo 4).map (fun i => (([(0, packed (s.rowsAt (partRows t w)))].find? fun c => c.1 == i).map (·.2)).getD 0) =
      [packed (s.rowsAt (partRows t w)), 0, 0, 0] := rfl
  rw [State.runGroup]
  simp only [show (firstRun w ix).word = w from rfl, show (firstRun w ix).p = 0 from rfl, show (firstRun w ix).j = 0 from rfl,
    show (firstRun w ix).sampled = none from rfl, htake, hpre, Nat.zero_mod, beq_self_eq_true, Bool.true_and, hwide, hread, hdueb, hparts]
  simp only [hw.kgrp, hw.nstep, hw.out, hw.zobs, isComplex_real hw.pt, hhalf, hmin, hend, hw.pt, logicalRows, decide_true, decide_false, if_true,
    Bool.false_eq_true, if_false, Nat.mul_zero, Nat.zero_mul, Nat.zero_div, Nat.add_zero, Nat.zero_add, Nat.sub_zero, Nat.mul_one, Bool.and_true,
    Bool.true_or, Option.map_none, List.zip_nil_right, List.foldl_nil, List.map_id', hcol, Bool.and_false, Bool.false_and, ne_eq,
    not_true_eq_false, ge_iff_le, le_refl]
  rw [setAccCols_narrow, ← List.map_prod_left_eq_zip, List.map_map]
  rfl

/-! ### The array after it -/

theorem updTile_byteAt (s : State) (t : Nat) (f : Tile → Tile) (a : Nat) : (s.updTile t f).byteAt a = s.byteAt a := rfl

theorem setRows_tile (s : State) (l : List (Nat × Bytes)) (i : Nat) : (s.setRows l).tile i = s.tile i :=
  (congrArg (fun v : State => v.tile i) (setRows_frame s l) :)

theorem runSide_of_nil (h : (s.tile t).side = []) : s.runSide t = s := by simp [State.runSide, h]

/-- With nothing in progress the array does nothing. -/
theorem runArray_idle (hs : (s.tile t).side = []) (hm : (s.tile t).mma = none) (es : List Ecc) (nth n : Nat) : s.runArray t es nth n = s := by
  cases n with
  | zero => exact runSide_of_nil hs
  | succ n => simp only [State.runArray, runSide_of_nil hs, hm]

/-- The core of a one-step MMA's tile after it. -/
theorem oneStepDone_tile (s : State) (t w : Nat) (set : TileSet) : (s.oneStepDone t w set).tile t = { s.tile t with
    stat := some (partBlock s t w), mma := none, chain := true, turn := ((s.tile t).turn.drop 1).filter (fun d => !d.half),
    nDone := count8 1 (s.tile t).nDone, side := (s.tile t).side.map (fun d => { d with later := false }), passes := (s.tile t).passes + 1 } := by
  simp only [State.oneStepDone, updTile_tile_self, setRows_tile]

theorem oneStepDone_otherTiles (s : State) (t w : Nat) (set : TileSet) : OtherTiles s (s.oneStepDone t w set) t := fun i hi => by
  simp only [State.oneStepDone, updTile_tile_ne _ _ _ hi, setRows_tile]

/-- A change of a tile, or a write of rows, after others. -/
theorem updTile_rowsFrame {s u : State} (h : { u with mem := s.mem, bad := s.bad, tiles := s.tiles } = s) (t : Nat) (f : Tile → Tile) :
    { u.updTile t f with mem := s.mem, bad := s.bad, tiles := s.tiles } = s := h

theorem setRows_rowsFrame {s u : State} (h : { u with mem := s.mem, bad := s.bad, tiles := s.tiles } = s) (l : List (Nat × Bytes)) :
    { u.setRows l with mem := s.mem, bad := s.bad, tiles := s.tiles } = s :=
  (congrArg (fun v : State => { v with mem := s.mem, bad := s.bad, tiles := s.tiles }) (setRows_frame u l) :).trans h

theorem oneStepDone_frame (s : State) (t w : Nat) (set : TileSet) :
    { s.oneStepDone t w set with mem := s.mem, bad := s.bad, tiles := s.tiles } = s := by
  have hload := updTile_rowsFrame (rfl : { s with mem := s.mem, bad := s.bad, tiles := s.tiles } = s) t fun x => { x with stat := some (partBlock s t w) }
  exact updTile_rowsFrame (updTile_rowsFrame (updTile_rowsFrame (setRows_rowsFrame hload _) t _) t _) t _

theorem oneStepColumn_length (s : State) (t w : Nat) (set : TileSet) (c : Nat) : (oneStepColumn s t w set c).length = 128 := by
  simp [oneStepColumn]

/-- R41, R62: each column of the product stands in its accumulator row, and every byte outside those rows is as it was. -/
theorem oneStepDone_rows (h : Memory.wf s.mem = true) (set : TileSet) :
    (∀ c < fNcol w, (s.oneStepDone t w set).row (accRow t (fAccb w + c)) = unlanes 4 (oneStepColumn s t w set c)) ∧
    OtherRows s (s.oneStepDone t w set) ((upTo (fNcol w)).map fun c => accRow t (fAccb w + c)) := by
  obtain ⟨b, hb⟩ : ∃ b, b = s.updTile t fun x => { x with stat := some (partBlock s t w) } := ⟨_, rfl⟩
  have hwf : Memory.wf b.mem = true := by rw [hb]; exact h
  obtain ⟨l, hl⟩ : ∃ l, l = (upTo (fNcol w)).map fun c => (accRow t (fAccb w + c), unlanes 4 (oneStepColumn s t w set c)) := ⟨_, rfl⟩
  have hpair : l.Pairwise fun a b => a.1 ≠ b.1 := by
    rw [hl, List.pairwise_map]
    exact List.nodup_range.imp fun hne e => hne (by simpa [accRow, spadRow] using e)
  have hbyte (a : Nat) : b.byteAt a = s.byteAt a := by rw [hb, updTile_byteAt]
  have hrow (i : Nat) : (s.oneStepDone t w set).row i = (b.setRows l).row i := by simp only [State.oneStepDone, ← hb, ← hl, updTile_row]
  have hbyteAt (a : Nat) : (s.oneStepDone t w set).byteAt a = (b.setRows l).byteAt a := by simp only [State.oneStepDone, ← hb, ← hl, updTile_byteAt]
  refine ⟨fun c hc => ?_, fun a ha => ?_⟩
  · have hm : (accRow t (fAccb w + c), unlanes 4 (oneStepColumn s t w set c)) ∈ l := by
      rw [hl]; exact List.mem_map_of_mem (List.mem_range.mpr hc)
    have hlen : (unlanes 4 (oneStepColumn s t w set c)).length = 512 := by rw [unlanes_length, oneStepColumn_length]
    have hset := row_setRows_mem hwf hpair hm hlen
    rw [hrow, hset]
  · rw [hbyteAt, byteAt_setRows hwf, hbyte]
    intro c hc e
    rw [hl, List.mem_map] at hc
    obtain ⟨i, hi, rfl⟩ := hc
    exact ha (List.mem_map.mpr ⟨i, hi, e⟩)

/-- R41: the lanes of a column. -/
theorem leAt_oneStepColumn (s : State) (t w : Nat) (set : TileSet) (c : Nat) {i : Nat} (hi : i < 128) :
    leAt (unlanes 4 (oneStepColumn s t w set c)) (4 * i) 4 = cellValue false w false [packed (s.rowsAt (partRows t w)), 0, 0, 0] set.tiles
      (if fAccin w then leAt (s.row (accRow t (fAccb w + c))) (4 * i) 4 else 0) i c % 2 ^ 32 := by
  rw [leAt_unlanes (by rw [oneStepColumn_length]; exact hi)]
  simp [oneStepColumn, hi]

/-- R70, R77, R89: a narrow core has one whole set, and no result of it or earlier DRAIN or ACCLD is in progress. -/
structure ArrayFree (x : Tile) (set : TileSet) : Prop where
  turn : x.turn = [set]
  need : set.need = 0
  half : set.half = false
  wide : x.wide = false
  side : x.side = []
  outQ : x.outQ = []
  vpQ : x.vpQ.any isResult = false

/-- R86: the array runs a one-step MMA to its end. -/
theorem runArray_oneStep (hw : OneStep w) {ix : Nat} (hm : (s.tile t).mma = some (firstRun w ix)) (hf : ArrayFree (s.tile t) set)
    (hst : (s.tile t).stat = none) (hsh : (s.tile t).shadow = none) (hdue : s.sampleDue t w = false)
    (hc : rowsClean s es 0 (partRows t w ++ startRows t w) = true) :
    s.runArray t es 0 4 = s.oneStepDone t w set := by
  have hheld : (s.tile t).mmaHeld (firstRun w ix) = false := by simp [Tile.mmaHeld, hf.outQ, hf.vpQ, hf.side]
  have hdone := oneStepDone_tile s t w set
  rw [State.runArray]
  simp only [runSide_of_nil hf.side, hm, hf.turn, hf.need, hheld, ne_eq, not_true_eq_false, decide_false, Bool.or_self, Bool.false_eq_true, if_false,
    runGroup_oneStep hw hf.wide hst hsh hf.half hdue ix hc]
  exact runArray_idle (by rw [hdone]; simp [hf.side]) (by rw [hdone]) _ _ _

end

section
variable {s : State} {t w : Nat} {es : List Ecc} {set : TileSet}

/-- A change of a tile's sequencer and array changes nothing that a column is made of. -/
theorem oneStepColumn_updTile (s : State) (t w : Nat) (set : TileSet) (f : Tile → Tile) (c : Nat) :
    oneStepColumn (s.updTile t f) t w set c = oneStepColumn s t w set c := rfl

/-- A change of tiles, then one of rows and tiles. -/
theorem rowsFrame_trans {s v u : State} (h : { v with tiles := s.tiles } = s) (g : { u with mem := v.mem, bad := v.bad, tiles := v.tiles } = v) :
    { u with mem := s.mem, bad := s.bad, tiles := s.tiles } = s := by
  have hm : v.mem = s.mem := (congrArg State.mem h :)
  have hb : v.bad = s.bad := (congrArg State.bad h :)
  rw [hm, hb] at g
  exact Eq.trans (congrArg (fun x : State => { x with tiles := s.tiles }) g :) h

/-- R41, R73, R86, R91: a one-step MMA at its turn, all it needs at hand, is carried out whole. -/
theorem mma_oneStep (h : MmaAtTurn s t w) (hw : OneStep w) (hf : ArrayFree (s.tile t) set) (hchain : (s.tile t).chain = false)
    (hdue : s.sampleDue t w = false) (hclean : rowsClean s es 0 (partRows t w ++ startRows t w) = true) :
    exec (.mma t es) s = .next ((s.updTile t fun x => x.beginMma w).oneStepDone t w set) := by
  have hrun := mma_begins (es := es) h hf.turn hf.need
  have hdue' : (s.updTile t fun x => x.beginMma w).sampleDue t w = false := by
    rw [← hdue]; simp only [State.sampleDue, updTile_tile_self]; rfl
  generalize hv : (s.updTile t fun x => x.beginMma w) = v at hrun hdue' ⊢
  have htile : v.tile t = (s.tile t).beginMma w := by rw [← hv, updTile_tile_self]
  have hf' : ArrayFree (v.tile t) set := by
    rw [htile]; exact ⟨hf.turn, hf.need, hf.half, hf.wide, hf.side, hf.outQ, hf.vpQ⟩
  have hclean' : rowsClean v es 0 (partRows t w ++ startRows t w) = true := by
    rw [← hv, rowsClean_updTile]; exact hclean
  rw [hrun, runArray_oneStep hw (by rw [htile]; rfl) hf' (by rw [htile]; simp [Tile.beginMma, hchain])
    (by rw [htile]; simp [Tile.beginMma, hchain]) hdue' hclean']

end

end Sys2Proof.Machine

open Sys2Proof Sys2Proof.Machine

/-- Settles O4: an MMA begins as its set is there, its one group runs to the end, POST sends on the status channel, and a stall stops the core. -/
theorem mmaRunsPostSendsStallStops : Obligations.MmaRunsPostSendsStallStops := by
  unfold Obligations.MmaRunsPostSendsStallStops
  intro s t es w ht hword
  refine ⟨fun hi hc hb hm hu => ⟨fun hset => mma_waits ⟨hi, hword, hc, hb, hm, hu⟩ hset, fun set rest hturn hneed => ?_, ?_⟩, ?_, fun ha hself => ⟨?_, ?_⟩⟩
  · refine ⟨_, updTile_only s t fun x => x.beginMma w, ?_, mma_begins ⟨hi, hword, hc, hb, hm, hu⟩ hturn hneed⟩
    rw [updTile_tile_self]; rfl
  · intro set k hturn hneed hhalf hchain hwide hside hout hvp hn hpt ho hz hdue hwf hk hclean
    subst hk
    have hw : OneStep w := .of_mmaBad (hwide ▸ hb) hn hpt ho hz
    have hexec := mma_oneStep ⟨hi, hword, hc, hb, hm, hu⟩ hw ⟨hturn, hneed, hhalf, hwide, hside, hout, hvp⟩ hchain hdue hclean
    have hcol (c : Nat) := oneStepColumn_updTile s t w set (fun x => x.beginMma w) c
    have hbyte (a : Nat) := updTile_byteAt s t (fun x => x.beginMma w) a
    have hvwf : Memory.wf (s.updTile t fun x => x.beginMma w).mem = true := hwf
    obtain ⟨hrows, hother⟩ := oneStepDone_rows (t := t) (w := w) hvwf set
    have htile := oneStepDone_tile (s.updTile t fun x => x.beginMma w) t w set
    rw [updTile_tile_self] at htile
    have htiles : OtherTiles s ((s.updTile t fun x => x.beginMma w).oneStepDone t w set) t := fun i hi =>
      (oneStepDone_otherTiles _ t w set i hi).trans (updTile_tile_ne _ _ _ hi)
    have hframe := rowsFrame_trans (updTile_only s t fun x => x.beginMma w).1 (oneStepDone_frame _ t w set)
    generalize (s.updTile t fun x => x.beginMma w).oneStepDone t w set = u at *
    refine ⟨u, hexec, htiles, hframe, fun a ha => (hother a ha).trans (hbyte a), fun c hc i hi => ?_,
      by rw [htile], ?_, by rw [htile]; rfl, by rw [htile]; rfl, by rw [htile]; rfl⟩
    · rw [hrows c hc, hcol, leAt_oneStepColumn s t w set c hi]; rfl
    · rw [htile]; simp [Tile.beginMma, hturn]
  · intro hi hc hb he hside hfree
    have hexec := post_sends hi hword hc hb he hside hfree
    rw [sendOn_status (by rw [updTile_tile_self]; exact hfree)] at hexec
    refine ⟨_, hexec, rfl, ?_, ?_, ?_, fun i hi => ?_, rfl⟩
    · simp only [putNet_tile, updTile_tile_self]
    · simp only [putNet_tile, updTile_tile_self]; rfl
    · simp only [putNet_tile, updTile_tile_self]; rfl
    · simp only [putNet_tile, updTile_tile_ne _ _ _ hi]; rfl
  · intro r hm hl
    have hf := coreFault_spec hself 9 (fTag r.word) r.ix 0 0 false 0
    obtain ⟨hstop, hmma, hturn, hside⟩ := coreFaulted_empties hf
    exact ⟨_, arrayStall_mma ht ha hm hl, hf, hstop, hmma, hturn, hside, coreFault_mem ..⟩
  · intro d rest hs hm
    have hf := coreFault_spec hself 9 (fTag d.word) d.ix 0 0 false 0
    obtain ⟨hstop, -, -, hside⟩ := coreFaulted_empties hf
    exact ⟨_, arrayStall_side ht ha hs hm, hf, hstop, hside, coreFault_mem ..⟩
end
end

section
set_option Elab.async false

section
/-!
The operations of the model that leave memory as it is, one rule for each.
-/

namespace Sys2Proof.Machine

/-- The memory is the same in the two states: what an operation passed to another one must keep. -/
def SameMem (s u : State) : Prop := u.mem = s.mem

@[simp] theorem sameMem_iff (s u : State) : SameMem s u ↔ u.mem = s.mem := by unfold SameMem; exact Iff.rfl

@[simp] theorem ite_sameMem (c : Prop) [Decidable c] (a b : State) : (if c then a else b).mem = if c then a.mem else b.mem :=
  apply_ite State.mem c a b

@[simp] theorem each_sameMem {f : State → Nat → State} (h : ∀ v i, SameMem v (f v i)) (s : State) (l : List Nat) :
    (s.each l f).mem = s.mem := each_keeps State.mem h l s

@[simp] theorem foldl_sameMem {α : Type} {f : State → α → State} (h : ∀ v x, SameMem v (f v x)) (s : State) (l : List α) :
    (l.foldl f s).mem = s.mem := foldl_keeps State.mem h l s

@[simp] theorem whenB_sameMem {s : State} {c : Bool} {f : State → State} (h : SameMem s (f s)) : (s.whenB c f).mem = s.mem := by
  unfold State.whenB; split <;> [exact h; rfl]

theorem with_adm_sameMem (s : State) (a : Adm) : ({ s with adm := a } : State).mem = s.mem := rfl
theorem with_beat_sameMem (s : State) (b : Beat) : ({ s with beat := b } : State).mem = s.mem := rfl

theorem sameMem_of_eq {α : Type} {s u : State} {p : State × α} {a : α} (h : p = (u, a)) (hp : p.1.mem = s.mem) : u.mem = s.mem := by
  rw [← hp, h]

/-- An operation that may have no result keeps memory where it has one. -/
def OptSameMem (s : State) (o : Option State) : Prop := ∀ u, o = some u → u.mem = s.mem

@[simp] theorem optSameMem_none (s : State) : OptSameMem s none := fun _ h => by cases h
@[simp] theorem optSameMem_some (s u : State) : OptSameMem s (some u) ↔ u.mem = s.mem :=
  ⟨fun h => h u rfl, fun h _ e => by cases e; exact h⟩
@[simp] theorem optSameMem_ite (s : State) (c : Prop) [Decidable c] (a b : Option State) :
    OptSameMem s (if c then a else b) ↔ if c then OptSameMem s a else OptSameMem s b := by split <;> rfl

theorem getD_sameMem {s v : State} {o : Option State} (h : OptSameMem v o) (hv : v.mem = s.mem) : (o.getD s).mem = s.mem := by
  cases o with
  | none => rfl
  | some u => exact (h u rfl).trans hv

/-! ### Named operations, handles and events -/

@[simp] theorem updReq_sameMem (s : State) (r : Nat) (f : Req → Req) : (s.updReq r f).mem = s.mem := by unfold State.updReq; split <;> rfl
@[simp] theorem fresh_sameMem (s : State) (w : Nat) : (s.fresh w).2.mem = s.mem := rfl
@[simp] theorem notifyTo_sameMem (s : State) (k ix sub : Nat) (v : Bytes) : (s.notifyTo k ix sub v).mem = s.mem := by
  unfold State.notifyTo; split <;> rfl
@[simp] theorem event_sameMem (s : State) (e : Ev) : (s.event e).mem = s.mem := by simp [State.event]
@[simp] theorem issue_sameMem (s : State) (kind part sess : Nat) : (s.issue kind part sess).2.mem = s.mem := rfl
@[simp] theorem finish_sameMem (s : State) (h st code : Nat) : (s.finish h st code).mem = s.mem := by
  unfold State.finish
  refine (each_sameMem (fun v k => ?_) _ _).trans (by simp)
  (repeat' split) <;> simp
@[simp] theorem launch_sameMem (s : State) (t rr : Nat) (x : Snd) : (s.launch t rr x).mem = s.mem := by unfold State.launch; split <;> rfl
@[simp] theorem sendOn_sameMem (s : State) (t rr : Nat) (kind : SndKind) (words : List W64) (bound : Nat) :
    (s.sendOn t rr kind words bound).mem = s.mem := by unfold State.sendOn; split <;> simp
@[simp] theorem sendLater_sameMem (s : State) (t rr : Nat) (kind : SndKind) (words : List W64) : (s.sendLater t rr kind words).mem = s.mem := by
  unfold State.sendLater; split <;> simp
@[simp] theorem sendNext_sameMem (s : State) (t rr : Nat) : (s.sendNext t rr).mem = s.mem := by unfold State.sendNext; split <;> simp
@[simp] theorem report_sameMem (s : State) (t w0 w1 w2 w3 : Nat) : (s.report t w0 w1 w2 w3).mem = s.mem := by simp [State.report]
@[simp] theorem count_sameMem (s : State) (t k n : Nat) : (s.count t k n).mem = s.mem := rfl
@[simp] theorem memReport_sameMem (s : State) (t code : Nat) (deep : Bool) (r mask req : Nat) :
    (s.memReport t code deep r mask req).mem = s.mem := by simp [State.memReport]
@[simp] theorem readChk_sameMem (s : State) (t : Nat) (deep : Bool) (r req : Nat) (es : List Ecc) (nth : Nat) :
    (s.readChk t deep r req es nth).1.mem = s.mem := by unfold State.readChk; dsimp only; split <;> simp
@[simp] theorem readRows_sameMem (s : State) (t : Nat) (deep : Bool) (req : Nat) (es : List Ecc) (x1 : Nat) (x2 : List Nat) :
    (s.readRows t deep req es x1 x2).1.mem = s.mem := by
  induction x2 generalizing s x1 with
  | nil => rfl
  | cons r rs ih =>
    have h1 := readChk_sameMem s t deep r req es x1
    unfold State.readRows
    split
    next h => simp [sameMem_of_eq h h1]
    next u b h =>
      have h2 := ih u (x1 + 1)
      split
      next h' => exact (sameMem_of_eq h' h2).trans (sameMem_of_eq h h1)
      next h' => exact (sameMem_of_eq h' h2).trans (sameMem_of_eq h h1)
@[simp] theorem dropLeave_sameMem (s : State) (t : Nat) : (s.dropLeave t).mem = s.mem := by unfold State.dropLeave; split <;> rfl
@[simp] theorem coreFault_sameMem (s : State) (t code tag ix : Nat) (w1 w2 : Nat) (mma : Bool) (side : Nat) :
    (s.coreFault t code tag ix w1 w2 mma side).mem = s.mem := by simp [State.coreFault]
@[simp] theorem issueFault_sameMem (s : State) (t code tag : Nat) : (s.issueFault t code tag).mem = s.mem := by simp [State.issueFault]

/-! ### Settings -/

@[simp] theorem putSetting_sameMem (s : State) (ix sub v : Nat) : (s.putSetting ix sub v).mem = s.mem := by
  unfold State.putSetting; split <;> rfl
@[simp] theorem putBlob_sameMem (s : State) (ix sub : Nat) (v : Bytes) : (s.putBlob ix sub v).mem = s.mem := by
  unfold State.putBlob; split <;> rfl

/-! ### The two networks -/

@[simp] theorem occur_sameMem (s : State) (t code : Nat) : (s.occur t code).mem = s.mem := rfl
@[simp] theorem fabReport_sameMem (s : State) (t code port : Nat) (msg : Bool) (label unit w2 w3 : Nat) :
    (s.fabReport t code port msg label unit w2 w3).mem = s.mem := by simp [State.fabReport]
@[simp] theorem labelDiscard_sameMem (s : State) (t port label n : Nat) : (s.labelDiscard t port label n).mem = s.mem := by
  simp [State.labelDiscard]
@[simp] theorem breach_sameMem (s : State) (t port : Nat) (msg : Bool) (label n : Nat) : (s.breach t port msg label n).mem = s.mem := by
  simp [State.breach]
@[simp] theorem block_sameMem (s : State) (t key : Nat) : (s.block t key).mem = s.mem := rfl
@[simp] theorem fenceBlock_sameMem (s : State) (t key port label unit : Nat) : (s.fenceBlock t key port label unit).mem = s.mem := by
  simp [State.fenceBlock]
@[simp] theorem flushPort_sameMem (s : State) (t port : Nat) : (s.flushPort t port).mem = s.mem := by simp [State.flushPort]
@[simp] theorem flushRing_sameMem (s : State) (t port : Nat) : (s.flushRing t port).mem = s.mem := by simp [State.flushRing]
@[simp] theorem fenceTile_sameMem (s : State) (u : Nat) : (s.fenceTile u).mem = s.mem := by
  unfold State.fenceTile
  refine (each_sameMem (fun v k => ?_) _ _).trans (by simp)
  dsimp only; (repeat' split) <;> simp
@[simp] theorem fenceRegion_sameMem (s : State) (g : Nat) : (s.fenceRegion g).mem = s.mem := by
  unfold State.fenceRegion
  refine each_sameMem (fun v k => (each_sameMem (fun w k => ?_) _ _).trans (by simp)) _ _
  (repeat' split) <;> simp
@[simp] theorem inject_sameMem (s : State) (t rr xp : Nat) (row : Bytes) : (s.inject t rr xp row).mem = s.mem := by simp [State.inject]
@[simp] theorem injectAll_sameMem (s : State) (t rr : Nat) (x1 : List Bytes) : (s.injectAll t rr x1).mem = s.mem := by
  induction x1 generalizing s with
  | nil => rfl
  | cons x r ih => simp [State.injectAll, ih]
@[simp] theorem accepted_sameMem (s : State) (t rr : Nat) : (s.accepted t rr).mem = s.mem := by unfold State.accepted; split <;> simp
@[simp] theorem channelStall_sameMem (s : State) (t : Nat) (x : Snd) : (s.channelStall t x).mem = s.mem := by
  unfold State.channelStall; split <;> simp
@[simp] theorem naked_sameMem (s : State) (t rr : Nat) : (s.naked t rr).mem = s.mem := by unfold State.naked; split <;> simp
@[simp] theorem takeMsg_sameMem (s : State) (m : Msg) : OptSameMem s (s.takeMsg m) := by simp only [State.takeMsg]; (repeat' split) <;> simp

/-! ### Leave -/

@[simp] theorem grant_sameMem (s : State) (g tile inc : Nat) (entry : Option Nat) (start : Nat) :
    (s.grant g tile inc entry start).2.mem = s.mem := rfl
@[simp] theorem answerLeave_sameMem (s : State) (t result n : Nat) : (s.answerLeave t result n).mem = s.mem := rfl
@[simp] theorem leaveEvent_sameMem (s : State) (t inc us : Nat) : (s.leaveEvent t inc us).mem = s.mem := by simp [State.leaveEvent]
@[simp] theorem serveLeave_sameMem (s : State) (f : Nat) : (s.serveLeave f).mem = s.mem := by unfold State.serveLeave; split <;> rfl
@[simp] theorem queueLeave_sameMem (s : State) (t inc us bound : Nat) (inrush : Bool) : (s.queueLeave t inc us bound inrush).mem = s.mem := by
  simp [State.queueLeave]
@[simp] theorem endGrant_sameMem (s : State) (g : Nat) (p : Grant → Bool) : (s.endGrant g p).mem = s.mem := rfl

/-! ### Regions leaving Active -/

@[simp] theorem changeDropped_sameMem (s : State) (g cause : Nat) (c : Nat × Nat) : (s.changeDropped g cause c).mem = s.mem := by
  simp [State.changeDropped]
@[simp] theorem dropFreq_sameMem (s : State) (g cause : Nat) : (s.dropFreq g cause).mem = s.mem := by simp [State.dropFreq]
@[simp] theorem clearMarker_sameMem (s : State) (g : Nat) : (s.clearMarker g).mem = s.mem := rfl
@[simp] theorem endMoult_sameMem (s : State) (g : Nat) (result : Nat) : (s.endMoult g result).mem = s.mem := by
  unfold State.endMoult; split <;> simp
@[simp] theorem closeAdm_sameMem (s : State) (why : Nat) : (s.closeAdm why).mem = s.mem := rfl
@[simp] theorem queueMoult_sameMem (s : State) (g cls : Nat) : (s.queueMoult g cls).mem = s.mem := by simp [State.queueMoult]
@[simp] theorem addTodo_sameMem (s : State) (cls : Nat) (a : Repair) : (s.addTodo cls a).mem = s.mem := by unfold State.addTodo; split <;> rfl
@[simp] theorem loseMirrors_sameMem (s : State) (g : Nat) : (s.loseMirrors g).mem = s.mem := by simp [State.loseMirrors]
@[simp] theorem regionLoss_sameMem (s : State) (g cls : Nat) : (s.regionLoss g cls).mem = s.mem := by simp [State.regionLoss]

/-! ### Signed records of the flash -/

@[simp] theorem writeClkLists_sameMem (s : State) : s.writeClkLists.mem = s.mem := by simp [State.writeClkLists]
@[simp] theorem commitInstar_sameMem (s : State) : s.commitInstar.mem = s.mem := by simp [State.commitInstar]
@[simp] theorem addCommit_sameMem (s : State) (cls : Nat) (l : List LogItem) : (s.addCommit cls l).mem = s.mem := rfl

/-! ### Program images -/

@[simp] theorem putRegion_sameMem (s : State) (g : Nat) (r : RegRec) : (s.putRegion g r).mem = s.mem := rfl
@[simp] theorem applyWrite_sameMem (s : State) (detour : Bool) (w : WriteRec) : (s.applyWrite detour w).mem = s.mem := by
  unfold State.applyWrite; (repeat' split) <;> simp
@[simp] theorem applyWrites_sameMem (s : State) (detour : Bool) (x1 : List WriteRec) : (s.applyWrites detour x1).mem = s.mem := by
  induction x1 generalizing s with
  | nil => rfl
  | cons x r ih => simp [State.applyWrites, ih]
@[simp] theorem applyPatch_sameMem (s : State) (p : Patch) (handle : Nat) : (s.applyPatch p handle).mem = s.mem := by simp [State.applyPatch]

/-! ### Requests and Gyper messages -/

@[simp] theorem sendMsg_sameMem (s : State) (p n : Nat) (peer : Bytes) (peerPort type handle cref : Nat) (body : Bytes) :
    (s.sendMsg p n peer peerPort type handle cref body).1.mem = s.mem := by unfold State.sendMsg; split <;> rfl
@[simp] theorem answer_sameMem (s : State) (f : From) (type handle cref : Nat) (body : Bytes) :
    (s.answer f type handle cref body).mem = s.mem := by simp [State.answer]
@[simp] theorem refuse_sameMem (s : State) (f : From) (handle cref reason detail : Nat) :
    (s.refuse f handle cref reason detail).mem = s.mem := by simp [State.refuse]
@[simp] theorem mapReqs_sameMem (s : State) (f : Req → Req) : (s.mapReqs f).mem = s.mem := rfl
@[simp] theorem journalPut_sameMem (s : State) (n : Nat) (b : JBody) : (s.journalPut n b).mem = s.mem := by
  unfold State.journalPut; split <;> rfl
@[simp] theorem journalAdmit_sameMem (s : State) (q : Req) : (s.journalAdmit q).mem = s.mem := by simp [State.journalAdmit]
@[simp] theorem journalToken_sameMem (s : State) (q : Req) (tok : Nat) : (s.journalToken q tok).mem = s.mem := by
  unfold State.journalToken; dsimp only; split <;> simp
@[simp] theorem journalEnd_sameMem (s : State) (q : Req) : (s.journalEnd q).mem = s.mem := by simp [State.journalEnd]
@[simp] theorem tokenOut_sameMem (s : State) (r : Nat) (q : Req) (i : Nat) (t : TokRec) (why : Nat) : (s.tokenOut r q i t why).mem = s.mem := by
  unfold State.tokenOut; dsimp only
  split
  · simp
  · split <;> (rename_i h; simp [sameMem_of_eq h (sendMsg_sameMem ..)])
@[simp] theorem emitToken_sameMem (s : State) (r tok lp : Nat) : (s.emitToken r tok lp).mem = s.mem := by
  unfold State.emitToken; split <;> simp
@[simp] theorem releaseTokens_sameMem (s : State) : s.releaseTokens.mem = s.mem := by simp [State.releaseTokens]
@[simp] theorem unbook_sameMem (s : State) (r b : Nat) : (s.unbook r b).mem = s.mem := rfl
@[simp] theorem endReq_sameMem (s : State) (r why : Nat) : (s.endReq r why).mem = s.mem := by unfold State.endReq; split <;> simp
@[simp] theorem endAll_sameMem (s : State) (why : Nat) : (s.endAll why).mem = s.mem := by simp [State.endAll]
@[simp] theorem dropWaiting_sameMem (s : State) : s.dropWaiting.mem = s.mem := rfl

/-! ### The training state and its restores -/

@[simp] theorem rowOut_sameMem (s : State) (id : Nat) : (s.rowOut id).1.mem = s.mem := by
  unfold State.rowOut; split <;> [simp; (split <;> simp)]
@[simp] theorem rowsOut_sameMem (s : State) (x1 : List Nat) : (s.rowsOut x1).1.mem = s.mem := by
  induction x1 generalizing s with
  | nil => rfl
  | cons r rs ih =>
    have h1 := rowOut_sameMem s r
    unfold State.rowsOut
    split
    next h => exact sameMem_of_eq h h1
    next u b h => split <;> (rename_i h'; exact (sameMem_of_eq h' (ih u)).trans (sameMem_of_eq h h1))
@[simp] theorem streamsOut_sameMem (s : State) (x1 : List (Nat × Nat)) : (s.streamsOut x1).1.mem = s.mem := by
  induction x1 generalizing s with
  | nil => rfl
  | cons c rs ih =>
    have h1 := readChk_sameMem s c.1 false (streamRow (s.tile c.1) c.2) 2 [] 0
    unfold State.streamsOut
    split
    next h => exact sameMem_of_eq h h1
    next u b h => split <;> (rename_i h'; exact (sameMem_of_eq h' (ih u)).trans (sameMem_of_eq h h1))
@[simp] theorem stateRows_sameMem (s : State) (k : Nat) (data : Tab Nat) : (s.stateRows k data).1.mem = s.mem := by
  unfold State.stateRows
  split
  next h => exact sameMem_of_eq h (rowsOut_sameMem ..)
  next u b h => split <;> (rename_i h'; exact (sameMem_of_eq h' (streamsOut_sameMem ..)).trans (sameMem_of_eq h (rowsOut_sameMem ..)))
@[simp] theorem dropSlotWrite_sameMem (s : State) : s.dropSlotWrite.mem = s.mem := by unfold State.dropSlotWrite; split <;> simp
@[simp] theorem endTraining_sameMem (s : State) : s.endTraining.mem = s.mem := by
  unfold State.endTraining
  refine (foldl_sameMem (fun v k => ?_) _ _).trans (by simp)
  split <;> simp
@[simp] theorem stopTraining_sameMem (s : State) (h : Nat) : (s.stopTraining h).mem = s.mem := by simp [State.stopTraining]

/-! ### Wenwyn's acts on the path of a fault -/

@[simp] theorem updStrike_sameMem (s : State) (u : Nat) (f : Strike → Strike) : (s.updStrike u f).mem = s.mem := rfl
@[simp] theorem transient_sameMem (s : State) (u cls : Nat) : (s.transient u cls).mem = s.mem := by simp [State.transient]
@[simp] theorem countUe_sameMem (s : State) (t cls : Nat) : (s.countUe t cls).mem = s.mem := by simp [State.countUe]
@[simp] theorem fenceUnit_sameMem (s : State) (t cls : Nat) : (s.fenceUnit t cls).mem = s.mem := by simp [State.fenceUnit]
@[simp] theorem declareFaulty_sameMem (s : State) (t cls : Nat) : (s.declareFaulty t cls).mem = s.mem := by simp [State.declareFaulty]
@[simp] theorem promote_sameMem (s : State) (g cls : Nat) : (s.promote g cls).mem = s.mem := by
  unfold State.promote; dsimp only; (repeat' split) <;> simp
@[simp] theorem slotLost_sameMem (s : State) (i : Nat) : (s.slotLost i).mem = s.mem := by unfold State.slotLost; split <;> simp
@[simp] theorem journalLost_sameMem (s : State) (lo hi : Nat) : (s.journalLost lo hi).mem = s.mem := by simp [State.journalLost]
@[simp] theorem openDispute_sameMem (s : State) (d : Dispute) : (s.openDispute d).mem = s.mem := by simp [State.openDispute]

/-! ### Instar commits -/

@[simp] theorem beginVerify_sameMem (s : State) : s.beginVerify.mem = s.mem := by unfold State.beginVerify; split <;> rfl

/-! ### The matrix core -/

@[simp] theorem issueM_sameMem (s : State) (t cls : Nat) (bad : Nat → Option Nat) (f : Nat → State → State) (hf : ∀ w v, SameMem v (f w v)) :
    (s.issueM t cls bad f).mem = s.mem := by simp only [sameMem_iff] at hf; unfold State.issueM; dsimp only; (repeat' split) <;> simp [hf]
@[simp] theorem countConv_sameMem (s : State) (t sat nan : Nat) : (s.countConv t sat nan).mem = s.mem := rfl
@[simp] theorem loadPart_sameMem (s : State) (t w : Nat) (c : Nat × Nat) (es : List Ecc) (nth : Nat) :
    (s.loadPart t w c es nth).1.mem = s.mem := by
  unfold State.loadPart; dsimp only; split <;> (rename_i h; exact sameMem_of_eq h (readRows_sameMem ..))
@[simp] theorem takePart_sameMem (s : State) (t w : Nat) (c : Nat × Nat) (es : List Ecc) (nth : Nat) :
    (s.takePart t w c es nth).1.mem = s.mem := by
  unfold State.takePart; dsimp only
  split
  · rfl
  · simp
  · split <;> (rename_i h; simp [sameMem_of_eq h (loadPart_sameMem ..)])
@[simp] theorem preload_sameMem (s : State) (t w p : Nat) (es : List Ecc) (nth : Nat) : (s.preload t w p es nth).1.mem = s.mem := by
  unfold State.preload; dsimp only
  split
  · rfl
  · split <;> (rename_i h; simp [sameMem_of_eq h (loadPart_sameMem ..)])
@[simp] theorem takeParts_sameMem (s : State) (t w p : Nat) (es : List Ecc) (x1 : List Nat) (x2 : Nat) (x3 : List (Nat × Nat)) :
    (s.takeParts t w p es x1 x2 x3).1.mem = s.mem := by
  induction x1 generalizing s x2 x3 with
  | nil => rfl
  | cons i r ih =>
    have h1 := takePart_sameMem s t w ((statParts w p).getD i (0, 0)) es x2
    unfold State.takeParts
    split
    next h => exact sameMem_of_eq h h1
    next h => exact (ih ..).trans (sameMem_of_eq h h1)
@[simp] theorem mmaFault_sameMem (s : State) (t code : Nat) (r : MmaRun) (w1 w2 : Nat) : (s.mmaFault t code r w1 w2).mem = s.mem := by
  simp [State.mmaFault]
@[simp] theorem takeStart_sameMem (s : State) (t : Nat) : (s.takeStart t).mem = s.mem := by unfold State.takeStart; split <;> rfl
@[simp] theorem readTile_sameMem (s : State) (t w off : Nat) (es : List Ecc) : (s.readTile t w off es).1.mem = s.mem := by
  unfold State.readTile; extract_lets x pt rowAt head want headBad
  split
  · rfl
  · split
    · simp
    · split
      · rfl
      · split
        · rfl
        · split
          next h => exact sameMem_of_eq h (readRows_sameMem ..)
          next h => (repeat' split) <;> exact sameMem_of_eq h (readRows_sameMem ..)
@[simp] theorem readSet_sameMem (s : State) (t w : Nat) (es : List Ecc) (x1 : Nat) (x2 : Nat) (x3 : List Dense) :
    (s.readSet t w es x1 x2 x3).1.mem = s.mem := by
  induction x1 generalizing s x2 x3 with
  | zero => rfl
  | succ n ih =>
    unfold State.readSet
    split
    next h =>
      refine (ih ..).trans (Eq.trans ?_ (sameMem_of_eq h (readTile_sameMem ..)))
      (repeat' split) <;> simp
    next h => exact sameMem_of_eq h (readTile_sameMem ..)
@[simp] theorem ringUe_sameMem (s : State) (t : Nat) : (s.ringUe t).mem = s.mem := by unfold State.ringUe; split <;> simp

/-! ### The data mesh -/

@[simp] theorem putOut_sameMem (s : State) (t port epd : Nat) (p : Packet) : OptSameMem s (s.putOut t port epd p) := by
  simp only [State.putOut]; (repeat' split) <;> simp
@[simp] theorem outPort_sameMem (s : State) (t port epd : Nat) (multi : Bool) (key unit : Nat) (p : Packet) :
    OptSameMem s (s.outPort t port epd multi key unit p) := by
  unfold State.outPort
  split
  · simp
  · intro u h
    obtain ⟨v, hv, rfl⟩ := Option.map_eq_some_iff.mp h
    simpa using putOut_sameMem s t port epd p v hv
  · dsimp only; split <;> simp
@[simp] theorem digestFail_sameMem (s : State) (t key code port unit : Nat) (p : Packet) :
    (s.digestFail t key code port unit p).mem = s.mem := by simp [State.digestFail]
@[simp] theorem forkTake_sameMem (s : State) (t port label : Nat) (outs : List Nat) (p : Packet) : OptSameMem s (s.forkTake t port label outs p) := by
  simp only [State.forkTake]; (repeat' split) <;> simp
@[simp] theorem route_sameMem (s : State) (t port label : Nat) (outs : List Nat) (epd key unit : Nat) (p : Packet) :
    OptSameMem s (s.route t port label outs epd key unit p) := by unfold State.route; split <;> simp
@[simp] theorem forward_sameMem (s : State) (t port : Nat) (p : Packet) : OptSameMem s (s.forward t port p) := by simp [State.forward]
@[simp] theorem direct_sameMem (s : State) (g : Nat) : (s.direct g).mem = s.mem := by unfold State.direct; split <;> rfl
@[simp] theorem stopCores_sameMem (s : State) (ts : List Nat) : (s.stopCores ts).mem = s.mem := by simp [State.stopCores]
@[simp] theorem stopConsumers_sameMem (s : State) (l : List (Nat × Nat × Nat)) : (s.stopConsumers l).mem = s.mem := by
  simp [State.stopConsumers]
@[simp] theorem stopAfter_sameMem (s : State) (t port label unit : Nat) : (s.stopAfter t port label unit).mem = s.mem := by
  simp [State.stopAfter]
@[simp] theorem rowWritten_sameMem (s : State) (t ep : Nat) : (s.rowWritten t ep).mem = s.mem := by simp [State.rowWritten]

/-! ### The copy engines -/

@[simp] theorem copyEvent_sameMem (s : State) (e code row ix tag action : Nat) : (s.copyEvent e code row ix tag action).mem = s.mem := by
  simp [State.copyEvent]
@[simp] theorem countEngine_sameMem (s : State) (e k n : Nat) : (s.countEngine e k n).mem = s.mem := rfl
@[simp] theorem countStack_sameMem (s : State) (k c n : Nat) : (s.countStack k c n).mem = s.mem := rfl
@[simp] theorem setRun_sameMem (s : State) (e : Nat) (wen : Bool) (r : Option CopyRun) : (s.setRun e wen r).mem = s.mem := rfl
@[simp] theorem lateCopy_sameMem (s : State) (e : Nat) (wen : Bool) (r : CopyRun) : (s.lateCopy e wen r).mem = s.mem := by
  simp [State.lateCopy]
@[simp] theorem copyDone_sameMem (s : State) (e : Nat) (wen : Bool) (r : CopyRun) : (s.copyDone e wen r).mem = s.mem := by
  simp [State.copyDone]
@[simp] theorem copyEnd_sameMem (s : State) (e : Nat) (wen : Bool) (r : CopyRun) (code row : Nat) :
    (s.copyEnd e wen r code row).mem = s.mem := by simp [State.copyEnd]
@[simp] theorem hbmRead_sameMem (s : State) (k a : Nat) (es : List Ecc) (nth : Nat) : (s.hbmRead k a es nth).1.mem = s.mem := by
  unfold State.hbmRead; dsimp only; split <;> simp
@[simp] theorem hbmReads_sameMem (s : State) (es : List Ecc) (x1 : Nat) (x2 : List (Nat × Nat)) : (s.hbmReads es x1 x2).1.mem = s.mem := by
  induction x2 generalizing s x1 with
  | nil => rfl
  | cons c l ih =>
    have h1 := hbmRead_sameMem s c.1 c.2 es x1
    unfold State.hbmReads
    split
    next h => exact sameMem_of_eq h h1
    next u b h => split <;> (rename_i h'; exact (sameMem_of_eq h' (ih u _)).trans (sameMem_of_eq h h1))
@[simp] theorem ringInject_sameMem (s : State) (t port : Nat) (p : Packet) : OptSameMem s (s.ringInject t port p) := by simp [State.ringInject]
theorem ringTake_sameMem {s u : State} {t port label : Nat} {p : Packet} (h : s.ringTake t port label = some (p, u)) : u.mem = s.mem := by
  unfold State.ringTake at h; dsimp only at h
  split at h
  · cases h
  · cases h; rfl
@[simp] theorem rowDone_sameMem (s : State) (e : Nat) (wen : Bool) (r : CopyRun) : (s.rowDone e wen r).mem = s.mem := by simp [State.rowDone]
@[simp] theorem stepRelay_sameMem (s : State) (e : Nat) (wen : Bool) (r : CopyRun) : (s.stepRelay e wen r).mem = s.mem := by
  simp [State.stepRelay]
@[simp] theorem relayReply_sameMem (s : State) (e : Nat) (a : RelayReply) : (s.relayReply e a).mem = s.mem := by
  unfold State.relayReply; (repeat' split) <;> simp
@[simp] theorem pTake_sameMem (s : State) (p : Pool) (m : Bytes) (layer : Nat) (x : PPacket) (es : List Ecc) (nth : Nat)
    (x1 : List (Nat × Nat × Nat × Nat)) :
    (s.pTake p m layer x es nth x1).1.mem = s.mem := by
  induction x1 generalizing s nth with
  | nil => rfl
  | cons c l ih =>
    have hr : ∀ (v : State) (n : Nat) (b : Bytes) (pad : Nat), (match State.pTake v p m layer x es n l with
      | (s, .ok c) => (s, PGot.ok (b ++ List.replicate pad 0 ++ c))
      | r => r).1.mem = v.mem := fun v n b pad => by
        split
        next h => exact sameMem_of_eq h (ih v n)
        next h => exact ih v n
    unfold State.pTake; dsimp only
    split
    · exact hr ..
    · split
      · rfl
      · split
        next h => exact sameMem_of_eq h (hbmReads_sameMem ..)
        next h => exact (hr ..).trans (sameMem_of_eq h (hbmReads_sameMem ..))
@[simp] theorem startRetrain_sameMem (s : State) (k ch handle : Nat) : (s.startRetrain k ch handle).mem = s.mem := rfl

/-! ### What Fordan writes and actions share -/

@[simp] theorem updSess_sameMem (s : State) (k : Nat) (f : Sess → Sess) : (s.updSess k f).mem = s.mem := by
  unfold State.updSess; split <;> rfl
@[simp] theorem respond_sameMem (s : State) (k x svc status ix sub : Nat) (data : Bytes) :
    (s.respond k x svc status ix sub data).mem = s.mem := rfl
@[simp] theorem failed_sameMem (s : State) (k x svc status ix sub detail : Nat) : (s.failed k x svc status ix sub detail).mem = s.mem := rfl

/-! ### External time -/

@[simp] theorem enterTime_sameMem (s : State) (st : TimeSt) : (s.enterTime st).mem = s.mem := by simp [State.enterTime]
@[simp] theorem keepCounters_sameMem (s : State) (d : Int) : (s.keepCounters d).mem = s.mem := by simp [State.keepCounters]
@[simp] theorem loopback_sameMem (s : State) (n : Nat) : (s.loopback n).mem = s.mem := by cases s; rfl
@[simp] theorem setTime_sameMem (s : State) (t : Nat) : (s.setTime t).mem = s.mem := by simp [State.setTime]
@[simp] theorem reselect_sameMem (s : State) : s.reselect.mem = s.mem := by unfold State.reselect; dsimp only; split <;> simp
@[simp] theorem measure_sameMem (s : State) (ref : Int) (sub : Nat) (known : Bool) : (s.measure ref sub known).mem = s.mem := by
  unfold State.measure; dsimp only; split <;> simp
@[simp] theorem takeSync_sameMem (s : State) (h : PtpHead) (origin sub : Nat) : (s.takeSync h origin sub).mem = s.mem := by
  simp [State.takeSync]

/-! ### The meter -/

@[simp] theorem meterEvent_sameMem (s : State) (code : Nat) (d0 : Nat) : (s.meterEvent code d0).mem = s.mem := by simp [State.meterEvent]
@[simp] theorem beatSums_sameMem (s : State) : s.beatSums.2.mem = s.mem := by unfold State.beatSums; dsimp only; (repeat' split) <;> simp
@[simp] theorem judge_sameMem (s : State) (x : Sums) : (s.judge x).mem = s.mem := by simp [State.judge]
@[simp] theorem rebase_sameMem (s : State) (qualifies work : Bool) (eIn : Nat) : (s.rebase qualifies work eIn).mem = s.mem := by
  simp [State.rebase]
@[simp] theorem watchRing_sameMem (s : State) : s.watchRing.mem = s.mem := by simp [State.watchRing]
@[simp] theorem putBeat_sameMem (s : State) (x : MRec) (e : Nat) (d : Division) : (s.putBeat x e d).mem = s.mem := by
  unfold State.putBeat; split <;> [simp; (split <;> simp)]
@[simp] theorem meterBeat_sameMem (s : State) (lost : Bool) : (s.meterBeat lost).mem = s.mem := by simp [State.meterBeat]
@[simp] theorem seal_sameMem (s : State) (x : MRec) (cover : Option Nat) : (s.seal x cover).2.mem = s.mem := rfl
@[simp] theorem sealAll_sameMem (s : State) (batch : Bool) (x1 : List MRec) : (s.sealAll batch x1).mem = s.mem := by
  induction x1 generalizing s with
  | nil => rfl
  | cons x r ih => simp [State.sealAll, ih]
@[simp] theorem noteSealed_sameMem (s : State) : s.noteSealed.mem = s.mem := rfl
@[simp] theorem freePlaces_sameMem (s : State) : s.freePlaces.mem = s.mem := by simp [State.freePlaces]

/-! ### Admission of requests -/

@[simp] theorem ringWrite_sameMem (s : State) (p n : Nat) (d : Datagram) : (s.ringWrite p n d).mem = s.mem := by
  unfold State.ringWrite; dsimp only; split <;> simp
@[simp] theorem receive_sameMem (s : State) (type : Nat) (d : Datagram) : (s.receive type d).mem = s.mem := by
  unfold State.receive; split <;> simp
@[simp] theorem refuseReq_sameMem (s : State) (r reason detail : Nat) : (s.refuseReq r reason detail).mem = s.mem := by
  unfold State.refuseReq; split <;> simp
@[simp] theorem forget_sameMem (s : State) (r : Nat) : (s.forget r).mem = s.mem := by unfold State.forget; split <;> simp
@[simp] theorem makeRoom_sameMem (s : State) (need : Nat) (x1 : Nat) : (s.makeRoom need x1).mem = s.mem := by
  induction x1 generalizing s with
  | zero => rfl
  | succ n ih =>
    unfold State.makeRoom; dsimp only
    (repeat' split) <;> simp [ih]
@[simp] theorem sendAdmit_sameMem (s : State) (f : From) (q : Req) : (s.sendAdmit f q).mem = s.mem := by simp [State.sendAdmit]
@[simp] theorem sendStatus_sameMem (s : State) (f : From) (r : Nat) (q : Req) : (s.sendStatus f r q).mem = s.mem := by simp [State.sendStatus]
@[simp] theorem takeCancel_sameMem (s : State) (p : Nat) (x : RingRec) : (s.takeCancel p x).mem = s.mem := by
  unfold State.takeCancel; dsimp only; (repeat' split) <;> simp
@[simp] theorem sendChain_sameMem (s : State) (f : From) (q : Req) (asked : Nat) (l : List (Nat × MRec)) :
    (s.sendChain f q asked l).mem = s.mem := by simp [State.sendChain]
@[simp] theorem queryChain_sameMem (s : State) (f : From) (q : Req) (frm n : Nat) : (s.queryChain f q frm n).mem = s.mem := by
  simp [State.queryChain]
@[simp] theorem takeQuery_sameMem (s : State) (p : Nat) (x : RingRec) : (s.takeQuery p x).mem = s.mem := by
  unfold State.takeQuery; dsimp only
  split
  · simp
  · split
    · simp
    · split
      · simp
      · refine foldl_sameMem (fun v i => ?_) _ _
        (repeat' split) <;> simp
      · split <;> simp
      · split <;> simp
      · split <;> simp

/-! ### The token service -/

@[simp] theorem tokenComes_sameMem (s : State) (r : Nat) (q : Req) (tok lp b : Nat) (hold : Bool) :
    (s.tokenComes r q tok lp b hold).mem = s.mem := by simp [State.tokenComes]
@[simp] theorem sendComplete_sameMem (s : State) (r : Nat) : (s.sendComplete r).mem = s.mem := by
  unfold State.sendComplete
  split
  · rfl
  · split
    · rfl
    · split <;> (rename_i h; simp [sameMem_of_eq h (sendMsg_sameMem ..)])
@[simp] theorem putKey_sameMem (s : State) (p slot : Nat) (key : Bytes) : (s.putKey p slot key).mem = s.mem := by simp [State.putKey]
@[simp] theorem resume_sameMem (s : State) (r : Nat) : (s.resume r).mem = s.mem := by unfold State.resume; split <;> simp
@[simp] theorem suspendAll_sameMem (s : State) : s.suspendAll.mem = s.mem := by simp [State.suspendAll]

/-! ### Power delivery -/

@[simp] theorem powerEvent_sameMem (s : State) (code g : Nat) (d0 : Nat) (d1 : Nat) : (s.powerEvent code g d0 d1).mem = s.mem := by
  simp [State.powerEvent]
@[simp] theorem putChange_sameMem (s : State) (g p n : Nat) : (s.putChange g p n).mem = s.mem := by simp [State.putChange]
@[simp] theorem dropRises_sameMem (s : State) (g : Nat) : (s.dropRises g).mem = s.mem := by simp [State.dropRises]
@[simp] theorem retarget_sameMem (s : State) (g : Nat) : (s.retarget g).mem = s.mem := by simp [State.retarget]
@[simp] theorem cutOne_sameMem (s : State) (crit : Bool) (need : Nat) : (s.cutOne crit need).1.mem = s.mem := by
  unfold State.cutOne; dsimp only; (repeat' split) <;> simp
@[simp] theorem budgets_sameMem (s : State) : s.budgets.mem = s.mem := by
  obtain ⟨u, h⟩ : ∃ u, s.budgets = u := ⟨_, rfl⟩
  rw [h]
  obtain ⟨f, hf⟩ : ∃ f, f = State.budgets := ⟨_, rfl⟩
  rw [← hf] at h
  delta State.budgets at hf
  subst hf
  beta_reduce at h
  extract_lets s1 need at h
  have h1 : s1.mem = s.mem := each_sameMem (fun v g => by dsimp only [sameMem_iff]; split <;> simp) _ _
  clear_value s1 need
  split at h
  next s2 need2 e2 =>
  split at h
  next s3 _ e3 =>
  have h2 := sameMem_of_eq e2 (cutOne_sameMem ..)
  have h3 := sameMem_of_eq e3 (cutOne_sameMem ..)
  rw [← h]
  refine (each_sameMem (fun v g => by simp) _ _).trans ((each_sameMem (fun v g => ?_) _ _).trans (h3.trans (h2.trans h1)))
  dsimp only [sameMem_iff]; split <;> simp
@[simp] theorem sixteenth_sameMem (s : State) (w : Nat) : (s.sixteenth w).mem = s.mem := by simp [State.sixteenth]
@[simp] theorem inputCut_sameMem (s : State) (us : Nat) : (s.inputCut us).mem = s.mem := by simp [State.inputCut]
@[simp] theorem riseRail_sameMem (s : State) (g : Nat) : (s.riseRail g).mem = s.mem := by simp [State.riseRail]
@[simp] theorem regionUs_sameMem (s : State) (g : Nat) : (s.regionUs g).mem = s.mem := by simp [State.regionUs]
@[simp] theorem judgeLogic_sameMem (s : State) (m : Sample) (g : Nat) : (s.judgeLogic m g).mem = s.mem := by simp [State.judgeLogic]
@[simp] theorem railPassed_sameMem (s : State) (g rail : Nat) : (s.railPassed g rail).mem = s.mem := by simp [State.railPassed]
@[simp] theorem stackPassed_sameMem (s : State) (k : Nat) : (s.stackPassed k).mem = s.mem := by simp [State.stackPassed]
@[simp] theorem ringPassed_sameMem (s : State) : s.ringPassed.mem = s.mem := by simp [State.ringPassed]
@[simp] theorem judgeOthers_sameMem (s : State) (m : Sample) : (s.judgeOthers m).mem = s.mem := by simp [State.judgeOthers]
@[simp] theorem fieldUs_sameMem (s : State) (m : Sample) (f : Nat) : (s.fieldUs m f).mem = s.mem := by simp [State.fieldUs]
@[simp] theorem tick_sameMem (s : State) : s.tick.mem = s.mem := by simp [State.tick]
@[simp] theorem judgeEnvelopes_sameMem (s : State) : s.judgeEnvelopes.mem = s.mem := by simp [State.judgeEnvelopes]
@[simp] theorem beginWake_sameMem (s : State) (g : Nat) (m : Bool) (turn : Bool) : (s.beginWake g m turn).mem = s.mem := rfl
@[simp] theorem wakeImage_sameMem (s : State) (turn : Bool) : (s.wakeImage turn).mem = s.mem := by simp [State.wakeImage]

/-! ### Temperature and coolant -/

@[simp] theorem dropThrottle_sameMem (s : State) (g : Nat) : (s.dropThrottle g).mem = s.mem := by simp [State.dropThrottle]
@[simp] theorem throttleOn_sameMem (s : State) (g : Nat) : (s.throttleOn g).mem = s.mem := by simp [State.throttleOn]
@[simp] theorem readRegion_sameMem (s : State) (calm : Bool) (g : Nat) (l : List Int) : (s.readRegion calm g l).mem = s.mem := by
  simp [State.readRegion]
@[simp] theorem readStack_sameMem (s : State) (k : Nat) (t : Int) : (s.readStack k t).mem = s.mem := by simp [State.readStack]
@[simp] theorem heatMark_sameMem (s : State) (g : Nat) : (s.heatMark g).mem = s.mem := by simp [State.heatMark]

/-! ### The S-core -/

@[simp] theorem beatLossAt_sameMem (s : State) (t n : Nat) : (s.beatLossAt t n).mem = s.mem := by simp [State.beatLossAt]
@[simp] theorem takeRecv_sameMem (s : State) (t : Nat) : (s.takeRecv t).mem = s.mem := by
  unfold State.takeRecv; dsimp only; (repeat' split) <;> simp
@[simp] theorem supFence_sameMem (s : State) (u : Nat) : (s.supFence u).mem = s.mem := by simp [State.supFence]

/-! ### Region supervisors -/

@[simp] theorem faultPath_sameMem (s : State) (g : Nat) (r : Report) (p : Producer) (conseq : Bool) :
    (s.faultPath g r p conseq).mem = s.mem := by unfold State.faultPath; split <;> simp
@[simp] theorem clearCtrs_sameMem (s : State) (ts : List Nat) : (s.clearCtrs ts).mem = s.mem := by simp [State.clearCtrs]
@[simp] theorem gather_sameMem (s : State) (g : Nat) : (s.gather g).mem = s.mem := by simp [State.gather]

/-! ### Beats and clocks -/

@[simp] theorem closeReq_sameMem (s : State) (r : Nat) : (s.closeReq r).mem = s.mem := by unfold State.closeReq; split <;> simp
@[simp] theorem retimeBooked_sameMem (s : State) (r : Nat) : (s.retimeBooked r).mem = s.mem := by simp [State.retimeBooked]
@[simp] theorem moveBooking_sameMem (s : State) (n brood from_ top : Nat) : (s.moveBooking n brood from_ top).mem = s.mem := by
  unfold State.moveBooking; split <;> simp
@[simp] theorem slipBooking_sameMem (s : State) (n brood : Nat) : (s.slipBooking n brood).mem = s.mem := by
  unfold State.slipBooking; split <;> simp
@[simp] theorem displace_sameMem (s : State) (n brood : Nat) : (s.displace n brood).mem = s.mem := by simp [State.displace]
@[simp] theorem endBeatReqs_sameMem (s : State) (n : Nat) (ok : Bool) : (s.endBeatReqs n ok).mem = s.mem := by simp [State.endBeatReqs]
@[simp] theorem kvSlot_sameMem (s : State) (n r : Nat) (q : Req) : (s.kvSlot n r q).mem = s.mem := rfl
@[simp] theorem kvTables_sameMem (s : State) : s.kvTables.mem = s.mem := by simp [State.kvTables]
@[simp] theorem loseBeat_sameMem (s : State) (g : Nat) : (s.loseBeat g).mem = s.mem := by simp [State.loseBeat]
@[simp] theorem countSilence_sameMem (s : State) (g : Nat) : (s.countSilence g).mem = s.mem := by simp [State.countSilence]
@[simp] theorem ageStalls_sameMem (s : State) : s.ageStalls.mem = s.mem := by simp [State.ageStalls]
@[simp] theorem rampRail_sameMem (s : State) (g : Nat) : (s.rampRail g).mem = s.mem := by simp [State.rampRail]
@[simp] theorem marginMark_sameMem (s : State) : s.marginMark.mem = s.mem := by unfold State.marginMark; split <;> simp
@[simp] theorem readHbm_sameMem (s : State) : s.readHbm.mem = s.mem := by simp [State.readHbm]
@[simp] theorem firstMark_sameMem (s : State) : s.firstMark.mem = s.mem := by unfold State.firstMark; split <;> rfl
@[simp] theorem advanceMark_sameMem (s : State) : s.advanceMark.mem = s.mem := rfl
@[simp] theorem ageDisputes_sameMem (s : State) : s.ageDisputes.mem = s.mem := rfl
@[simp] theorem settleBeat_sameMem (s : State) (ok : Bool) : (s.settleBeat ok).mem = s.mem := by unfold State.settleBeat; split <;> rfl
@[simp] theorem overrun_sameMem (s : State) (g late ns : Nat) (y : Region) : (s.overrun g late ns y).mem = s.mem := by simp [State.overrun]
@[simp] theorem bwaitReturns_sameMem (s : State) (g late : Nat) : (s.bwaitReturns g late).mem = s.mem := by simp [State.bwaitReturns]

/-! ### Training -/

@[simp] theorem commitSlot_sameMem (s : State) (loss : Nat) : (s.commitSlot loss).mem = s.mem := by
  unfold State.commitSlot; dsimp only
  split
  · rfl
  · split <;> (rename_i h; simp [sameMem_of_eq h (stateRows_sameMem ..)])
@[simp] theorem takeBatches_sameMem (s : State) : s.takeBatches.mem = s.mem := rfl
@[simp] theorem startSnapshot_sameMem (s : State) : s.startSnapshot.mem = s.mem := by unfold State.startSnapshot; dsimp only; split <;> simp
@[simp] theorem stepDone_sameMem (s : State) (loss : Nat) : (s.stepDone loss).mem = s.mem := rfl
@[simp] theorem putBatch_sameMem (s : State) (st ix : Nat) (data : Bytes) : (s.putBatch st ix data).mem = s.mem := rfl

/-! ### Image loads and unloads -/

@[simp] theorem loadStep_sameMem (s : State) (n : Nat) : (s.loadStep n).mem = s.mem := by unfold State.loadStep; split <;> rfl
@[simp] theorem startImage_sameMem (s : State) (i : Image) : (s.startImage i).mem = s.mem := by
  obtain ⟨u, h⟩ : ∃ u, s.startImage i = u := ⟨_, rfl⟩
  rw [h]
  unfold State.startImage at h
  extract_lets len s1 beat s2 adm s3 wc at h
  have h1 : s1.mem = s.mem := writeClkLists_sameMem s
  have h2 : s2.mem = s1.mem := with_beat_sameMem s1 _
  have h3 : s3.mem = s2.mem := with_adm_sameMem s2 _
  clear_value s3 s2 s1
  rw [← h, updMeter_mem, h3, h2, h1]
@[simp] theorem applyDetour_sameMem (s : State) (d : Detour) : (s.applyDetour d).mem = s.mem := by simp [State.applyDetour]
@[simp] theorem repairImage_sameMem (s : State) (h : Nat) (r : List Patch × Option Detour) : (s.repairImage h r).mem = s.mem := by
  unfold State.repairImage; split <;> simp
@[simp] theorem startTraining_sameMem (s : State) (i : Image) : (s.startTraining i).mem = s.mem := by simp [State.startTraining]
@[simp] theorem restartDue_sameMem (s : State) : s.restartDue.mem = s.mem := rfl
@[simp] theorem losePlacement_sameMem (s : State) : s.losePlacement.mem = s.mem := by simp [State.losePlacement]
@[simp] theorem restartRegion_sameMem (s : State) (g : Nat) : (s.restartRegion g).mem = s.mem := by cases s; rfl
@[simp] theorem retimeReplay_sameMem (s : State) : s.retimeReplay.mem = s.mem := by simp [State.retimeReplay]
@[simp] theorem reopen_sameMem (s : State) : s.reopen.mem = s.mem := by unfold State.reopen; split <;> rfl

/-! ### Power and reset -/

@[simp] theorem powerUp_sameMem (s : State) : s.powerUp.mem = s.mem := rfl
@[simp] theorem holdSupplyFault_sameMem (s : State) : s.holdSupplyFault.mem = s.mem := rfl

/-! ### Firmware, licences and attestation -/

@[simp] theorem updBank_sameMem (s : State) (i : Nat) (g : Bank → Bank) : (s.updBank i g).mem = s.mem := rfl
@[simp] theorem verifyBanks_sameMem (s : State) : s.verifyBanks.mem = s.mem := by simp [State.verifyBanks]
@[simp] theorem chooseBank_sameMem (x1 : Nat) (s : State) : (s.chooseBank x1).2.mem = s.mem := by
  induction x1 generalizing s with
  | zero => rfl
  | succ n ih =>
    unfold State.chooseBank; dsimp only
    (repeat' split) <;> simp [ih]

/-! ### Ports, management lanes and channels -/

@[simp] theorem portNarrow_sameMem (s : State) (l handle : Nat) : (s.portNarrow l handle).mem = s.mem := by simp [State.portNarrow]
@[simp] theorem bringPorts_sameMem (s : State) (at200 at100 : List Nat) : (s.bringPorts at200 at100).mem = s.mem := by simp [State.bringPorts]
@[simp] theorem commitPorts_sameMem (s : State) : s.commitPorts.mem = s.mem := rfl

/-! ### Bring-up -/

@[simp] theorem endStep_sameMem (s : State) (n code : Nat) : (s.endStep n code).mem = s.mem := by simp [State.endStep]
@[simp] theorem toStep_sameMem (s : State) (n : Nat) : (s.toStep n).mem = s.mem := rfl
@[simp] theorem haltBoot_sameMem (s : State) (n : Nat) : (s.haltBoot n).mem = s.mem := by simp [State.haltBoot]
@[simp] theorem stepCocoon_sameMem (s : State) (selfTest puf met att : Bool) : (s.stepCocoon selfTest puf met att).mem = s.mem := by
  simp [State.stepCocoon]
@[simp] theorem badRecord_sameMem (s : State) (ok : Bool) (kind : Nat) : (s.badRecord ok kind).mem = s.mem := by simp [State.badRecord]
@[simp] theorem checkLics_sameMem (s : State) : s.checkLics.mem = s.mem := by
  unfold State.checkLics
  refine foldl_sameMem (fun v l => ?_) _ _
  split <;> simp
@[simp] theorem stepRecords_sameMem (s : State) : s.stepRecords.mem = s.mem := by simp [State.stepRecords]
@[simp] theorem stepBoot_sameMem (s : State) : s.stepBoot.mem = s.mem := by
  unfold State.stepBoot
  have h1 : (s.verifyBanks.chooseBank 3).2.mem = s.mem := by simp
  split <;> (rename_i h; rw [h] at h1; simpa using h1)
@[simp] theorem trainStack_sameMem (s : State) (failed : List (Nat × Nat)) (k : Nat) : (s.trainStack failed k).mem = s.mem := by
  simp [State.trainStack]
@[simp] theorem stepHbm_sameMem (s : State) (failed : List (Nat × Nat)) : (s.stepHbm failed).mem = s.mem := by simp [State.stepHbm]
@[simp] theorem stepMgmt_sameMem (s : State) (a b : Bool) : (s.stepMgmt a b).mem = s.mem := by simp [State.stepMgmt]
@[simp] theorem stepFront_sameMem (s : State) (at200 at100 : List Nat) : (s.stepFront at200 at100).mem = s.mem := by simp [State.stepFront]
@[simp] theorem startRegion_sameMem (s : State) (g : Nat) : (s.startRegion g).mem = s.mem := by simp [State.startRegion]

/-! ### Disputes, moults and whole-device faults -/

@[simp] theorem freeCapture_sameMem (s : State) (t : Nat) : (s.freeCapture t).mem = s.mem := rfl
@[simp] theorem unfenceTile_sameMem (s : State) (u : Nat) : (s.unfenceTile u).mem = s.mem := by
  unfold State.unfenceTile
  refine (each_sameMem (fun v k => ?_) _ _).trans (by simp)
  (repeat' split) <;> simp

/-! ### The Fordan server -/

@[simp] theorem handshakeFails_sameMem (s : State) : s.handshakeFails.mem = s.mem := rfl
@[simp] theorem endSess_sameMem (s : State) (k : Nat) : (s.endSess k).mem = s.mem := by unfold State.endSess; split <;> simp
@[simp] theorem anchorGone_sameMem (s : State) (key : Nat) : (s.anchorGone key).mem = s.mem := by simp [State.anchorGone]
@[simp] theorem clearAlerts_sameMem (s : State) (v : Nat) : (s.clearAlerts v).mem = s.mem := rfl
@[simp] theorem dropXfer_sameMem (s : State) (t : Xfer) : (s.dropXfer t).mem = s.mem := rfl
@[simp] theorem putXfer_sameMem (s : State) (t : Xfer) : (s.putXfer t).mem = s.mem := rfl
@[simp] theorem sendSegs_sameMem (s : State) (t : Xfer) (frm : Nat) : (s.sendSegs t frm).mem = s.mem := rfl
@[simp] theorem readDone_sameMem (s : State) (t : Xfer) : (s.readDone t).mem = s.mem := by unfold State.readDone; dsimp only; split <;> simp
@[simp] theorem startRead_sameMem (s : State) (k x : Nat) (q : Sess) (m : SegStart) : (s.startRead k x q m).mem = s.mem := by
  unfold State.startRead; split <;> simp

/-! ### The CSR window -/

@[simp] theorem wrWrmSel_sameMem (s : State) (h v : Nat) : (s.wrWrmSel h v).mem = s.mem := rfl
@[simp] theorem regWrite_sameMem (s : State) (h : Nat) (r : Reg) (v : Nat) : (s.regWrite h r v).mem = s.mem := by
  unfold State.regWrite; split <;> simp
@[simp] theorem accessFault_sameMem (s : State) (h : Hart) (secure : Bool) : (s.accessFault h secure).mem = s.mem := rfl
@[simp] theorem access_sameMem (s : State) (h : Hart) (addr o : Nat) (f : State → State) (hf : ∀ v, SameMem v (f v)) :
    (s.access h addr o f).mem = s.mem := by simp only [sameMem_iff] at hf; unfold State.access; (repeat' split) <;> simp [hf]
@[simp] theorem csrAccess_sameMem (s : State) (h : Hart) (addr : Nat) (f : Reg → State → State) (hf : ∀ r v, SameMem v (f r v)) :
    (s.csrAccess h addr f).mem = s.mem := by simp only [sameMem_iff] at hf; simp [State.csrAccess, hf]
@[simp] theorem aliasAccess_sameMem (s : State) (h : Hart) (addr w : Nat) (f : Reg → State → State) (hf : ∀ r v, SameMem v (f r v)) :
    (s.aliasAccess h addr w f).mem = s.mem := by simp only [sameMem_iff] at hf; simp [State.aliasAccess, hf]
@[simp] theorem aliasWrite_sameMem (s : State) (h : Nat) (r : Reg) (rw w1c : Nat) : (s.aliasWrite h r rw w1c).mem = s.mem := by
  simp [State.aliasWrite]

/-! ### The mailboxes -/

@[simp] theorem service_sameMem (s : State) (svc tag : Nat) (f : State → Bytes → Nat × Bytes) : (s.service svc tag f).mem = s.mem := by
  unfold State.service; split <;> simp
@[simp] theorem byAgent_sameMem (s : State) (who : Agent) (c : Nat) (f : State → State) (hf : ∀ v, SameMem v (f v)) :
    (s.byAgent who c f).mem = s.mem := by simp only [sameMem_iff] at hf; unfold State.byAgent; split <;> simp [hf]
@[simp] theorem cocoTakes_sameMem (s : State) (c : Nat) : (s.cocoTakes c).mem = s.mem := by unfold State.cocoTakes; split <;> rfl

/-! ### The deep store -/

@[simp] theorem stageUe_sameMem (s : State) (t : Nat) : (s.stageUe t).mem = s.mem := by unfold State.stageUe; split <;> simp

/-! ### Messages reaching their endpoints -/

@[simp] theorem replyTo_sameMem (s : State) (m : Msg) (a : RelayReply) : (s.replyTo m a).mem = s.mem := by
  unfold State.replyTo; (repeat' split) <;> simp
@[simp] theorem msgMoved_sameMem (s : State) (m : Msg) : (s.msgMoved m).mem = s.mem := by simp [State.msgMoved]
@[simp] theorem answered_sameMem (s : State) (k : Nat) (m : Msg) (ok : Bool) : (s.answered k m ok).mem = s.mem := rfl
@[simp] theorem msgArrives_sameMem (s : State) (k : Nat) (m : Msg) : (s.msgArrives k m).mem = s.mem := by
  unfold State.msgArrives; dsimp only
  split
  · rfl
  · simp
  · split <;> simp
  · split
    next h =>
      have h1 := takeMsg_sameMem _ _ _ h
      (repeat' split) <;> simpa using h1
    next => split <;> simp
@[simp] theorem replyArrives_sameMem (s : State) (k : Nat) (m : Msg) (ok : Bool) : (s.replyArrives k m ok).mem = s.mem := by
  unfold State.replyArrives; dsimp only; split <;> simp

/-! ### The row buffer -/

@[simp] theorem rbMisuse_sameMem (s : State) (t : Nat) : (s.rbMisuse t).mem = s.mem := by simp [State.rbMisuse]
@[simp] theorem rbEmpty_sameMem (s : State) (t slot : Nat) : (s.rbEmpty t slot).mem = s.mem := rfl

/-! ### I2C and JTAG -/

@[simp] theorem jtagDo_sameMem (s : State) (f : Jtag → Jtag) : (s.jtagDo f).mem = s.mem := by simp [State.jtagDo]

/-! ### The vector core -/

@[simp] theorem vFault_sameMem (s : State) (t code tag : Nat) : (s.vFault t code tag).mem = s.mem := by simp [State.vFault]
@[simp] theorem vDone_sameMem (s : State) (t : Nat) : (s.vDone t).mem = s.mem := rfl
@[simp] theorem readLocs_sameMem (s : State) (t : Nat) (es : List Ecc) (x1 : Nat) (x2 : List VLoc) : (s.readLocs t es x1 x2).1.mem = s.mem := by
  induction x2 generalizing s x1 with
  | nil => rfl
  | cons l r ih =>
    have h1 := fun a => readRows_sameMem s t false 2 es x1 ((upTo 4).map (a + ·))
    cases l with
    | reg v =>
      simp only [State.readLocs]
      split <;> (rename_i h; exact sameMem_of_eq h (ih ..))
    | rows a =>
      simp only [State.readLocs]
      split
      next h => exact h1 a
      next h => split <;> (rename_i h; exact (sameMem_of_eq h (ih ..)).trans (h1 a))
@[simp] theorem stream_sameMem (s : State) (t i : Nat) (es : List Ecc) (nth : Nat) : (s.stream t i es nth).1.mem = s.mem := by
  unfold State.stream; split <;> (rename_i h; simp [sameMem_of_eq h (readChk_sameMem ..)])
@[simp] theorem readSlices_sameMem (s : State) (es : List Ecc) (x1 : Nat) (x2 : List LogitSlice) : (s.readSlices es x1 x2).1.mem = s.mem := by
  induction x2 generalizing s x1 with
  | nil => rfl
  | cons c r ih =>
    have h1 := readLocs_sameMem s c.tile es x1 c.locs
    unfold State.readSlices
    split
    next h => exact sameMem_of_eq h h1
    next u b h => split <;> (rename_i h'; exact (sameMem_of_eq h' (ih u _)).trans (sameMem_of_eq h h1))

/-! ### Every command -/

end Sys2Proof.Machine
end

section
/-!
The operations of the model that write memory, and the commands: each keeps its canonical form (log entry 1). The rules rest on those
above: only what writes memory is followed here.
-/

namespace Sys2Proof.Machine

/-- The memory is in its canonical form (log entry 1). -/
@[simp] abbrev State.Canonical (s : State) : Prop := Memory.wf s.mem = true

/-- An operation keeps the canonical form. -/
@[simp] abbrev KeepsCanonical (f : State → State) : Prop := ∀ v : State, v.Canonical → (f v).Canonical

@[simp] theorem wf_ite (c : Prop) [Decidable c] (a b : List (Nat × Byte)) :
    Memory.wf (if c then a else b) = if c then Memory.wf a else Memory.wf b := apply_ite Memory.wf c a b

/-- The state of an operation that may have no result is canonical where there is one. -/
def OptCanonical (o : Option State) : Prop := ∀ u, o = some u → u.Canonical

@[simp] theorem optCanonical_none : OptCanonical none := fun _ e => by cases e
@[simp] theorem optCanonical_some (u : State) : OptCanonical (some u) ↔ u.Canonical := ⟨fun h => h u rfl, fun h _ e => by cases e; exact h⟩

theorem canonical_of_sameMem {s u : State} (e : u.mem = s.mem) (h : s.Canonical) : u.Canonical := by simpa [e] using h

theorem canonical_of_eq {α : Type} {u : State} {p : State × α} {a : α} (e : p = (u, a)) (h : p.1.Canonical) : u.Canonical := by
  rw [e] at h; exact h

section
variable {s : State} (h : s.Canonical)
include h

@[simp] theorem foldl_canonical {α : Type} {f : State → α → State} (hf : ∀ x, KeepsCanonical (f · x)) (l : List α) :
    (l.foldl f s).Canonical := by
  induction l generalizing s with
  | nil => exact h
  | cons x r ih => exact ih (hf x s h)

@[simp] theorem each_canonical {f : State → Nat → State} (hf : ∀ i, KeepsCanonical (f · i)) (l : List Nat) : (s.each l f).Canonical :=
  foldl_canonical h hf l

@[simp] theorem whenB_canonical {c : Bool} {f : State → State} (hf : (f s).Canonical) : (s.whenB c f).Canonical := by
  unfold State.whenB; split <;> [exact hf; exact h]

@[simp] theorem setRow_canonical (id : Nat) (b : Bytes) : (s.setRow id b).Canonical := wf_setRow h id b
@[simp] theorem setRows_canonical (l : List (Nat × Bytes)) : (s.setRows l).Canonical := wf_setRows h l
@[simp] theorem setSpad_canonical (t r : Nat) (b : Bytes) : (s.setSpad t r b).Canonical := wf_setRow h ..

@[simp] theorem dropRows_canonical (p : Nat → Bool) : (s.dropRows p).Canonical := wfFrom_filter _ h
@[simp] theorem powerOff_canonical (g : Nat) (deep : Bool) : (s.powerOff g deep).Canonical := by simp [State.powerOff, h]
@[simp] theorem regionDown_canonical (g : Nat) (st : RegSt) (deep : Bool) : (s.regionDown g st deep).Canonical := by
  simp [State.regionDown, h]
@[simp] theorem stopAll_canonical : s.stopAll.Canonical := by simp +contextual [State.stopAll, h]
@[simp] theorem stageWeights_canonical (i : Image) : (s.stageWeights i).Canonical := by simp [State.stageWeights, h]
@[simp] theorem installTile_canonical (i : Image) (t : Nat) : (s.installTile i t).Canonical := by
  unfold State.installTile; dsimp only; split <;> simp [h]
@[simp] theorem installTables_canonical (i : Image) : (s.installTables i).Canonical := by simp +contextual [State.installTables, h]
@[simp] theorem restage_canonical (g : Nat) : (s.restage g).Canonical := by
  unfold State.restage; split
  · exact h
  · exact setRows_canonical (by simp +contextual [h]) _

@[simp] theorem putStream_canonical (t i : Nat) (desc : Bytes) : (s.putStream t i desc).Canonical := by
  unfold State.putStream; dsimp only
  split
  · exact h
  · split <;> (rename_i e; simp [sameMem_of_eq e (readChk_sameMem ..), h])

@[simp] theorem seedStream_canonical (q : Req) (n : Nat) : (s.seedStream q n).Canonical := by simp [State.seedStream, h]
@[simp] theorem seedAll_canonical : s.seedAll.Canonical := by simp +contextual [State.seedAll, h]
@[simp] theorem resumeRebuild_canonical (r why : Nat) : (s.resumeRebuild r why).Canonical := by
  unfold State.resumeRebuild; split <;> simp [h]
@[simp] theorem rebuild_canonical (r : Nat) : (s.rebuild r).Canonical := by unfold State.rebuild; split <;> simp [h]

/-! ### Restores of training -/

@[simp] theorem putStateRows_canonical (c : Chry) : (s.putStateRows c).Canonical := by simp +contextual [State.putStateRows, h]
@[simp] theorem restoreSlot_canonical (i n : Nat) : (s.restoreSlot i n).Canonical := by unfold State.restoreSlot; split <;> simp [h]
@[simp] theorem restoreFailed_canonical : s.restoreFailed.Canonical := by
  unfold State.restoreFailed; dsimp only; (repeat' split) <;> simp [h]
@[simp] theorem restoreNewest_canonical : s.restoreNewest.Canonical := by
  unfold State.restoreNewest; split
  · exact h
  · dsimp only; split <;> simp [h]
@[simp] theorem trainStop_canonical : s.trainStop.Canonical := by simp [State.trainStop, h]
@[simp] theorem restoreOlder_canonical : s.restoreOlder.Canonical := by simp [State.restoreOlder, h]

/-! ### Faults and their repair -/

@[simp] theorem removeImage_canonical : s.removeImage.Canonical := by simp +contextual [State.removeImage, h]
@[simp] theorem endLoad_canonical (code : Nat) : (s.endLoad code).Canonical := by unfold State.endLoad; split <;> simp [h]
@[simp] theorem heatDown_canonical (g : Nat) : (s.heatDown g).Canonical := by simp [State.heatDown, h]
@[simp] theorem allDown_canonical : s.allDown.Canonical := by simp +contextual [State.allDown, h]
@[simp] theorem wholeFault_canonical (c : Nat) : (s.wholeFault c).Canonical := by simp [State.wholeFault, h]
@[simp] theorem stagingLost_canonical : s.stagingLost.Canonical := by unfold State.stagingLost; dsimp only; split <;> simp [h]
@[simp] theorem bothLost_canonical (x : RItem) (k o : Nat) : (s.bothLost x k o).Canonical := by unfold State.bothLost; split <;> simp [h]
@[simp] theorem rewriteReserved_canonical (k a : Nat) (x : RItem) (o : Nat) : (s.rewriteReserved k a x o).Canonical := by
  unfold State.rewriteReserved; (repeat' split) <;> simp [h]
@[simp] theorem rewriteDeep_canonical (t d : Nat) : (s.rewriteDeep t d).Canonical := by
  unfold State.rewriteDeep; (repeat' split) <;> simp [h]
@[simp] theorem rewriteHbm_canonical (k a : Nat) : (s.rewriteHbm k a).Canonical := by
  unfold State.rewriteHbm; (repeat' split) <;> simp [h]
@[simp] theorem rewriteRow_canonical (id : Nat) : (s.rewriteRow id).Canonical := by simp [State.rewriteRow, h]
@[simp] theorem hbmLost_canonical (k a : Nat) : (s.hbmLost k a).Canonical := by unfold State.hbmLost; split <;> simp [h]
@[simp] theorem stackOut_canonical (k st : Nat) : (s.stackOut k st).Canonical := by
  unfold State.stackOut; extract_lets s1 s2
  have h2 : s2.Canonical := by simp [s2, s1, h]
  clear_value s2
  split <;> simp +contextual [h2]
@[simp] theorem restoreItems_canonical (k : Nat) : (s.restoreItems k).Canonical := by unfold State.restoreItems; split <;> simp [h]
@[simp] theorem stackRestore_canonical (k : Nat) : (s.stackRestore k).Canonical := by
  unfold State.stackRestore; extract_lets s1
  have h1 : s1.Canonical := restoreItems_canonical h k
  clear_value s1
  split
  · exact h1
  · exact foldl_canonical h1 (fun id v hv => rewriteRow_canonical hv id) _
@[simp] theorem strike_canonical (u cls : Nat) : (s.strike u cls).Canonical := by
  unfold State.strike; extract_lets s1 _ s2
  have h2 : s2.Canonical := by simp [s2, s1, h]
  clear_value s2
  (repeat' split) <;> simp [h2]
@[simp] theorem restageTile_canonical (t : Nat) : (s.restageTile t).Canonical := by unfold State.restageTile; split <;> simp [h]
@[simp] theorem actOn_canonical (c : Nat × Repair) : (s.actOn c).Canonical := by unfold State.actOn; split <;> simp [h]
@[simp] theorem faultStop_canonical (cls : Nat) (live : Bool) : (s.faultStop cls live).Canonical := by
  unfold State.faultStop; extract_lets s1 s2 _ s3 s4
  have h2 : s2.Canonical := by simp [s2, s1, h]
  have h4 : s4.Canonical := by simpa [s4, s3] using h2
  refine foldl_canonical ?_ (fun c _ hv => actOn_canonical hv c) _
  exact h4
@[simp] theorem rebuildAfter_canonical : s.rebuildAfter.Canonical := by simp +contextual [State.rebuildAfter, h]
@[simp] theorem rule_canonical (d : Dispute) (w : Ruling) : (s.rule d w).Canonical := by
  unfold State.rule; dsimp only; (repeat' split) <;> simp +contextual [h]
@[simp] theorem restoreStacks_canonical : s.restoreStacks.Canonical := by simp +contextual [State.restoreStacks, h]
@[simp] theorem commitNow_canonical : s.commitNow.Canonical := by simp [State.commitNow, h]
@[simp] theorem commitIfDue_canonical : s.commitIfDue.Canonical := by simp [State.commitIfDue, h]

/-! ### The matrix core -/

@[simp] theorem setAccCol_canonical (t : Nat) (wide : Bool) (base c : Nat) (v : List Nat) : (setAccCol s t wide base c v).Canonical := by
  simp [setAccCol, h]
@[simp] theorem sendOut_canonical (t out d rr : Nat) (rows : List Bytes) : (s.sendOut t out d rr rows).Canonical := by
  unfold State.sendOut; split <;> simp [h]
@[simp] theorem writeCapture_canonical (t : Nat) (stat : Bytes) (acc : List Bytes) : (s.writeCapture t stat acc).Canonical := by
  simp [State.writeCapture, h]

@[simp] theorem runGroup_canonical (t : Nat) (r : MmaRun) (set : TileSet) (es : List Ecc) (nth : Nat) : (s.runGroup t r set es nth).1.Canonical := by
  unfold State.runGroup
  extract_lets w pt wide ncol base first last fromZero
  split
  next e => simp [sameMem_of_eq e (takeParts_sameMem ..), h]
  next e =>
    have h1 := sameMem_of_eq e (takeParts_sameMem ..)
    split
    next e => simp [sameMem_of_eq e (preload_sameMem ..), h1, h]
    next e =>
      have h2 := (sameMem_of_eq e (preload_sameMem ..)).trans h1
      extract_lets
      split
      next e => simp [sameMem_of_eq e (readRows_sameMem ..), h2, h]
      next s3 _ e =>
        have h3 : s3.Canonical := by simp [sameMem_of_eq e (readRows_sameMem ..), h2, h]
        extract_lets due sampled acc s4 colVal re im sampled' s5 s6 s7 s8 out outIm s9 s10
        have h4 : s4.Canonical := by simp [s4, h3]
        have h5 : s5.Canonical := by simp +contextual [s5, h4]
        have h6 : s6.Canonical := by simp +contextual [s6, h5]
        have h7 : s7.Canonical := by simp [s7, h6]
        have h9 : s9.Canonical := by simp [s9, s8, h7]
        have h10 : s10.Canonical := by clear_value sampled'; simp only [s10]; (repeat' split) <;> simp [h9]
        clear_value s10
        split
        extract_lets rows s11 r' s12
        have h11 : s11.Canonical := by simp [s11, h10]
        simp [s12, h11]

@[simp] theorem sideRow_canonical (t k : Nat) : OptCanonical (s.sideRow t k) := by
  unfold State.sideRow; dsimp only
  (repeat' split) <;> simp [h]
  all_goals simp [sameMem_of_eq ‹State.readChk _ _ _ _ _ _ _ = _› (readChk_sameMem ..), h]

@[simp] theorem sideRows_canonical (t k n : Nat) : (s.sideRows t k n).Canonical := by
  induction n generalizing s with
  | zero => exact h
  | succ n ih =>
    unfold State.sideRows
    split
    next => exact h
    next u e => exact ih (sideRow_canonical h t k u e)

@[simp] theorem runSide_canonical (t : Nat) : (s.runSide t).Canonical := by simp +contextual [State.runSide, h]

@[simp] theorem runArray_canonical (t : Nat) (es : List Ecc) (nth n : Nat) : (s.runArray t es nth n).Canonical := by
  induction n generalizing s nth with
  | zero => exact runSide_canonical h t
  | succ n ih =>
    have h1 := runSide_canonical h t
    unfold State.runArray; dsimp only
    split
    · split
      · exact h1
      · exact ih (runGroup_canonical h1 ..) _
    · exact h1

@[simp] theorem arrayGoes_canonical (t : Nat) : (s.arrayGoes t).Canonical := by simp [State.arrayGoes, h]
@[simp] theorem beginSide_canonical (t w : Nat) (es : List Ecc) : (s.beginSide t w es).Canonical := by simp [State.beginSide, h]
@[simp] theorem ringAppend_canonical (t : Nat) (b : Bytes) : (s.ringAppend t b).Canonical := by simp [State.ringAppend, h]

end

/-! ### Outcomes -/

/-- The next state of an outcome, where it is one, has its memory in the canonical form. -/
def NextCanonical (o : Host.Outcome State Fault Refusal) : Prop := ∀ u, o = .next u → u.Canonical

@[simp] theorem nextCanonical_next (u : State) : NextCanonical (.next u) ↔ u.Canonical := ⟨fun h => h u rfl, fun h _ e => by cases e; exact h⟩

@[simp] theorem nextCanonical_onUnit {s : State} (ok : Bool) {f : State → State} (h : (f s).Canonical) : NextCanonical (onUnit ok s f) := by
  unfold onUnit; split
  · exact (nextCanonical_next _).mpr h
  · intro u e; cases e

@[simp] theorem nextCanonical_onM {s : State} (t : Nat) {f : State → State} (h : (f s).Canonical) : NextCanonical (onM t s f) :=
  nextCanonical_onUnit _ h
@[simp] theorem nextCanonical_onV {s : State} (t : Nat) {f : State → State} (h : (f s).Canonical) : NextCanonical (onV t s f) :=
  nextCanonical_onUnit _ h
@[simp] theorem nextCanonical_onS {s : State} (t : Nat) {f : State → State} (h : (f s).Canonical) : NextCanonical (onS t s f) :=
  nextCanonical_onUnit _ h
@[simp] theorem nextCanonical_onTile {s : State} (t : Nat) {f : State → State} (h : (f s).Canonical) : NextCanonical (onTile t s f) :=
  nextCanonical_onUnit _ h
@[simp] theorem nextCanonical_onRegion {s : State} (g : Nat) {f : State → State} (h : (f s).Canonical) : NextCanonical (onRegion g s f) :=
  nextCanonical_onUnit _ h
@[simp] theorem nextCanonical_onStack {s : State} (k : Nat) {f : State → State} (h : (f s).Canonical) : NextCanonical (onStack k s f) :=
  nextCanonical_onUnit _ h
@[simp] theorem nextCanonical_onEngine {s : State} (e : Nat) {f : State → State} (h : (f s).Canonical) : NextCanonical (onEngine e s f) :=
  nextCanonical_onUnit _ h
@[simp] theorem nextCanonical_onField {s : State} (n : Nat) {f : State → State} (h : (f s).Canonical) : NextCanonical (onField n s f) :=
  nextCanonical_onUnit _ h
@[simp] theorem nextCanonical_onPart {s : State} (p : Nat) {f : State → State} (h : (f s).Canonical) : NextCanonical (onPart p s f) :=
  nextCanonical_onUnit _ h
@[simp] theorem nextCanonical_onLane {s : State} (l : Nat) {f : State → State} (h : (f s).Canonical) : NextCanonical (onLane l s f) :=
  nextCanonical_onUnit _ h

/-- A write's rules that carry it out leave memory in the canonical form. -/
def WRes.Canonical : WRes → Prop
  | .ok u => u.Canonical
  | .fail _ _ => True

@[simp] theorem WRes.canonical_ok (u : State) : (WRes.ok u).Canonical ↔ u.Canonical := Iff.rfl
@[simp] theorem WRes.canonical_fail (st d : Nat) : (WRes.fail st d).Canonical := trivial
@[simp] theorem WRes.canonical_ite (c : Prop) [Decidable c] (a b : WRes) :
    (if c then a else b).Canonical ↔ if c then a.Canonical else b.Canonical := by split <;> rfl
@[simp] theorem refusedBy_canonical (c : Nat) : (refusedBy c).Canonical := trivial

/-- An action's rules that carry it out leave memory in the canonical form. -/
def ARes.Canonical : ARes → Prop
  | .ok _ u => u.Canonical
  | .fail _ => True

@[simp] theorem ARes.canonical_ok (n : Nat) (u : State) : (ARes.ok n u).Canonical ↔ u.Canonical := Iff.rfl
@[simp] theorem ARes.canonical_fail (d : Nat) : (ARes.fail d).Canonical := trivial
@[simp] theorem ARes.canonical_ite (c : Prop) [Decidable c] (a b : ARes) :
    (if c then a else b).Canonical ↔ if c then a.Canonical else b.Canonical := by split <;> rfl

section
variable {s : State} (h : s.Canonical)
include h

/-! ### Callbacks -/

@[simp] theorem issueM_canonical (t cls : Nat) (bad : Nat → Option Nat) {f : Nat → State → State} (hf : ∀ w, (f w s).Canonical) :
    (s.issueM t cls bad f).Canonical := by
  unfold State.issueM; dsimp only; (repeat' split) <;> simp [hf, h]

@[simp] theorem sessWrite_canonical (k x ix sub : Nat) (v : Bytes) {f : State → Bytes → WRes} (hf : (f s v).Canonical) :
    (s.sessWrite k x ix sub v f).Canonical := by
  unfold State.sessWrite; dsimp only
  (repeat' split) <;> simp_all

@[simp] theorem numWrite_canonical (k x ix sub v : Nat) {f : State → Nat → WRes} (hf : ∀ v, (f s v).Canonical) :
    (s.numWrite k x ix sub v f).Canonical := by simp [State.numWrite, hf, h]

@[simp] theorem sessAct_canonical (k x ix sub : Nat) {f : State → ARes} (hf : (f s).Canonical) : (s.sessAct k x ix sub f).Canonical := by
  unfold State.sessAct
  (repeat' split) <;> simp_all

@[simp] theorem vCmd_canonical (t tag : Nat) (bad : Option Nat) (locs : List VLoc) (es : List Ecc) {f : List Bytes → State → State}
    (hf : ∀ l, KeepsCanonical (f l)) : (s.vCmd t tag bad locs es f).Canonical := by
  unfold State.vCmd
  split
  · exact h
  · split
    · simp [h]
    · split
      next e => simp [sameMem_of_eq e (readLocs_sameMem ..), h]
      next e => exact hf _ _ (by simp [sameMem_of_eq e (readLocs_sameMem ..), h])

@[simp] theorem setVreg_canonical (t v : Nat) (b : Bytes) : (s.setVreg t v b).Canonical := by simp [State.setVreg, h]
@[simp] theorem setLane_canonical (t : Nat) (d : VLane) (v : Nat) : (s.setLane t d v).Canonical := by simp [State.setLane, h]
@[simp] theorem setCounter_canonical (t i c : Nat) : (s.setCounter t i c).Canonical := by simp [State.setCounter, h]

@[simp] theorem drawing_canonical (t tag i n : Nat) (es : List Ecc) (nth : Nat) {f : Bytes → Nat → State → State}
    (hf : ∀ k c, KeepsCanonical (f k c)) : (s.drawing t tag i n es nth f).Canonical := by
  unfold State.drawing
  split
  next e => simp [sameMem_of_eq e (stream_sameMem ..), h]
  next e =>
    have h1 := canonical_of_sameMem (sameMem_of_eq e (stream_sameMem ..)) h
    have h2 := fun k c => hf k c _ h1
    split <;> simp [h1, h2]

/-! ### The deep store -/

@[simp] theorem ringFillFrom_canonical (t d : Nat) (es : List Ecc) : (s.ringFillFrom t d es).Canonical := by
  unfold State.ringFillFrom; split <;> (rename_i e; simp [sameMem_of_eq e (readChk_sameMem ..), h])

@[simp] theorem accldRow_canonical (t d a : Nat) (es : List Ecc) : (s.accldRow t d a es).Canonical := by
  have h1 : (s.readChk t true d 1 es 0).1.Canonical := by simp [h]
  unfold State.accldRow
  split
  · exact h
  next e => rw [e] at h1; split <;> simp_all

@[simp] theorem tileWrite_canonical (t d ep : Nat) : (s.tileWrite t d ep).Canonical := by
  unfold State.tileWrite; split <;> simp +contextual [h]

@[simp] theorem vpServe_canonical (t : Nat) (q : VpReq) (es : List Ecc) : (s.vpServe t q es).Canonical := by
  unfold State.vpServe; extract_lets dir
  have hd (v : State) (w : Bool) : (dir v w).mem = v.mem := rfl
  clear_value dir
  cases q with
  | ringFill d => simp [hd, h]
  | load d r => dsimp only; split <;> (rename_i e; simp [hd, sameMem_of_eq e (readChk_sameMem ..), h])
  | save r d => dsimp only; split <;> (rename_i e; simp [hd, sameMem_of_eq e (readChk_sameMem ..), h])
  | result d row => simp [hd, h]
  | accld d a => simp [hd, h]
  | tile d ep => simp [h]
  | relayWrite d row ep => simp [hd, h]
  | relayRead d rr tag engine =>
    dsimp only; split
    next e =>
      have h1 := sameMem_of_eq e (readChk_sameMem ..)
      split <;> simp [hd, h1, h]
    next e => simp [hd, sameMem_of_eq e (readChk_sameMem ..), h]

/-! ### The mesh -/

@[simp] theorem portFreed_canonical (t : Nat) : (s.portFreed t).Canonical := by simp [State.portFreed, h]

@[simp] theorem tilePort_canonical (t : Nat) (ring : Bool) : (s.tilePort t ring).Canonical := by
  unfold State.tilePort; extract_lets x
  split
  · exact h
  · extract_lets w s' key d s2
    have h1 : s'.Canonical := h
    clear_value s' x
    (repeat' split) <;> simp [s2, h1, h]

/-! ### The copy engines -/

@[simp] theorem hbmBad_canonical (e : Nat) (wen : Bool) (r : CopyRun) (k a : Nat) : (s.hbmBad e wen r k a).Canonical := by
  simp [State.hbmBad, h]
@[simp] theorem stepRead_canonical (e : Nat) (wen : Bool) (r : CopyRun) (es : List Ecc) : (s.stepRead e wen r es).Canonical := by
  unfold State.stepRead; dsimp only
  split
  · exact h
  · split
    next e => simp [sameMem_of_eq e (hbmRead_sameMem ..), h]
    next e =>
      split
      · exact h
      next e' => simp [ringInject_sameMem _ _ _ _ _ e', sameMem_of_eq e (hbmRead_sameMem ..), h]

@[simp] theorem stepWrite_canonical (e : Nat) (wen : Bool) (r : CopyRun) : (s.stepWrite e wen r).Canonical := by
  unfold State.stepWrite; dsimp only
  split
  · exact h
  · split
    next e => simp [ringTake_sameMem e, h]
    next => split <;> simp [h]

@[simp] theorem stepMove_canonical (e : Nat) (wen : Bool) (r : CopyRun) (es : List Ecc) : (s.stepMove e wen r es).Canonical := by
  unfold State.stepMove; dsimp only
  split
  · exact h
  · split <;> (rename_i e; simp [sameMem_of_eq e (hbmRead_sameMem ..), h])

@[simp] theorem stepPread_canonical (e : Nat) (wen : Bool) (r : CopyRun) (es : List Ecc) : (s.stepPread e wen r es).Canonical := by
  unfold State.stepPread; dsimp only
  split
  · simp [h]
  · split
    · simp [h]
    · split
      · exact h
      · split
        next e => simp [sameMem_of_eq e (pTake_sameMem ..), h]
        next e => simp [sameMem_of_eq e (pTake_sameMem ..), h]
        next e =>
          split
          · exact h
          next e' => split <;> simp [ringInject_sameMem _ _ _ _ _ e', sameMem_of_eq e (pTake_sameMem ..), h]

@[simp] theorem putSegment_canonical (rows : List (Nat × Nat)) (old : List Bytes) (off : Nat) (seg : Bytes) :
    (s.putSegment rows old off seg).Canonical := by simp [State.putSegment, h]

@[simp] theorem putToken_canonical (e : Nat) (wen : Bool) (r : CopyRun) (p : Pool) (m : Bytes) (slot len : Nat) (buf : Bytes) (es : List Ecc)
    (nth : Nat) (l : List (Nat × Bool)) : (s.putToken e wen r p m slot len buf es nth l).1.Canonical := by
  induction l generalizing s nth with
  | nil => exact h
  | cons c l ih =>
    unfold State.putToken; dsimp only
    split
    · simp [h]
    · split
      next e => simp [sameMem_of_eq e (hbmReads_sameMem ..), h]
      next e => exact ih (by simp [sameMem_of_eq e (hbmReads_sameMem ..), h]) _

@[simp] theorem stepPappend_canonical (e : Nat) (wen : Bool) (r : CopyRun) (es : List Ecc) : (s.stepPappend e wen r es).Canonical := by
  unfold State.stepPappend; dsimp only
  split
  · simp [h]
  · split
    · simp [h]
    · split
      · exact h
      · split
        · split <;> simp [h]
        next e =>
          split
          · simp [ringTake_sameMem e, h]
          · have h1 := canonical_of_sameMem (ringTake_sameMem e) h
            split
            next e' => exact canonical_of_eq e' (putToken_canonical h1 ..)
            next e' =>
              have h2 := canonical_of_eq e' (putToken_canonical h1 ..)
              split <;> simp [h2]

@[simp] theorem copyStep_canonical (e : Nat) (wen : Bool) (r : CopyRun) (es : List Ecc) : (s.copyStep e wen r es).Canonical := by
  unfold State.copyStep; split <;> simp [h]
@[simp] theorem planStep_canonical (e opc : Nat) (es : List Ecc) : (s.planStep e opc es).Canonical := by
  unfold State.planStep; split <;> simp [h]
@[simp] theorem retireChannel_canonical (k ch : Nat) : (s.retireChannel k ch).Canonical := by simp [State.retireChannel, h]

/-! ### The token service -/

@[simp] theorem admitOn_canonical (r : Nat) (q : Req) (c : SlotCand) (frames : List Nat) : (s.admitOn r q c frames).Canonical := by
  simp [State.admitOn, h]
@[simp] theorem accept_canonical (r : Nat) : (s.accept r).Canonical := by
  unfold State.accept; dsimp only; (repeat' split) <;> simp [h]
@[simp] theorem settle_canonical (r : Nat) : (s.settle r).Canonical := by unfold State.settle; split <;> simp [h]
@[simp] theorem takeSubmit_canonical (p : Nat) (x : RingRec) : (s.takeSubmit p x).Canonical := by
  unfold State.takeSubmit; (repeat' split) <;> simp [h]
@[simp] theorem takePrompt_canonical (p : Nat) (x : RingRec) : (s.takePrompt p x).Canonical := by
  unfold State.takePrompt; split <;> simp [h]
@[simp] theorem findSlot_canonical (r : Nat) : (s.findSlot r).Canonical := by
  unfold State.findSlot; dsimp only; (repeat' split) <;> simp [h]
@[simp] theorem beginBeatReqs_canonical : s.beginBeatReqs.Canonical := by simp +contextual [State.beginBeatReqs, h]

/-! ### Power, heat and resets -/

@[simp] theorem unusable_canonical (g code d0 d1 : Nat) (deep : Bool) : (s.unusable g code d0 d1 deep).Canonical := by simp [State.unusable, h]
@[simp] theorem trip_canonical : s.trip.Canonical := by simp [State.trip, h]
@[simp] theorem halt_canonical (hbm : Bool) : (s.halt hbm).Canonical := by simp [State.halt, h]
@[simp] theorem originLost_canonical (g : Nat) : (s.originLost g).Canonical := by simp [State.originLost, h]
@[simp] theorem inReset_canonical (b : Boot) (keep : Nat → Bool) : (s.inReset b keep).Canonical := by
  have hf := wfFrom_filter (fun c => keep (c.1 / 512)) h
  simpa [State.inReset] using hf
@[simp] theorem warmReset_canonical (cause : Nat) : (s.warmReset cause).Canonical := by simp [State.warmReset, h]
@[simp] theorem startPowerDown_canonical : s.startPowerDown.Canonical := by simp [State.startPowerDown, h]
@[simp] theorem internalReset_canonical (cause : Nat) : (s.internalReset cause).Canonical := by simp [State.internalReset, h]
@[simp] theorem wrResetReq_canonical (v : Nat) : (s.wrResetReq v).Canonical := by simp [State.wrResetReq, h]

/-! ### Bring-up -/

@[simp] theorem stepSupervisor_canonical (started : Bool) : (s.stepSupervisor started).Canonical := by simp [State.stepSupervisor, h]
@[simp] theorem stepFloor_canonical : s.stepFloor.Canonical := by simp [State.stepFloor, h]
@[simp] theorem stepEnd_canonical (res : StepRes) : (s.stepEnd res).Canonical := by unfold State.stepEnd; split <;> simp [h]

/-! ### Images -/

@[simp] theorem beginRestore_canonical (k i : Nat) : (s.beginRestore k i).Canonical := by simp [State.beginRestore, h]
@[simp] theorem actRestore_canonical (k : Nat) : (s.actRestore k).Canonical := by
  unfold State.actRestore; dsimp only; (repeat' split) <;> simp [h]
@[simp] theorem actLoad_canonical (k : Nat) : (s.actLoad k).Canonical := by simp [State.actLoad]; split <;> simp [h]
@[simp] theorem actUnload_canonical (k : Nat) : (s.actUnload k).Canonical := by simp [State.actUnload, h]
@[simp] theorem buildImage_canonical (l : Load) : (s.buildImage l).Canonical := by
  have hi (i : Image) : ((((s.loadStep 4).stageWeights i).loadStep 5).installTables i).Canonical := by simp [h]
  unfold State.buildImage; dsimp only; (repeat' split) <;> simp [h, hi]
@[simp] theorem repairStop_canonical : s.repairStop.Canonical := by simp [State.repairStop, h]
@[simp] theorem fromMirrors_canonical (i : Image) (t : Nat) : (s.fromMirrors i t).Canonical := by simp +contextual [State.fromMirrors, h]
@[simp] theorem rebuildBeyond_canonical : s.rebuildBeyond.Canonical := by simp +contextual [State.rebuildBeyond, h]

/-! ### Disputes and moults -/

@[simp] theorem ruleNext_canonical (f : Dispute → Ruling) : (s.ruleNext f).Canonical := by unfold State.ruleNext; split <;> simp [h]
@[simp] theorem startMoult_canonical (g n : Nat) : (s.startMoult g n).Canonical := by simp [State.startMoult, h]
@[simp] theorem putMoult_canonical (g n : Nat) : (s.putMoult g n).Canonical := by simp [State.putMoult, h]
@[simp] theorem actMoult_canonical (k : Nat) : (s.actMoult k).Canonical := by simp [State.actMoult, h]
@[simp] theorem wenwynMoult_canonical (g : Nat) : (s.wenwynMoult g).Canonical := by
  unfold State.wenwynMoult; (repeat' split) <;> simp [h]

/-! ### The row buffer and the vector core -/

@[simp] theorem rbWriteBack_canonical (t slot : Nat) : (s.rbWriteBack t slot).Canonical := by unfold State.rbWriteBack; split <;> simp [h]
@[simp] theorem writeLoc_canonical (t : Nat) (l : VLoc) (b : Bytes) : (s.writeLoc t l b).Canonical := by
  unfold State.writeLoc; split <;> simp +contextual [h]
@[simp] theorem vStore_canonical (t : Nat) (dst : VDst) (rows : List Bytes) : (s.vStore t dst rows).Canonical := by
  unfold State.vStore; split <;> simp +contextual [h]
@[simp] theorem writeOuts_canonical (t : Nat) (l : List VLoc) (b : List Bytes) (r : List (List Nat)) : (s.writeOuts t l b r).Canonical := by
  induction l generalizing s b r with
  | nil => exact h
  | cons d ds ih =>
    unfold State.writeOuts
    split
    next => simp_all
    next => exact h

end

section
variable {s : State} (h : s.Canonical)
include h

/-! ### Writes, actions and commands -/

@[simp] theorem wrTimeStep_canonical (v : Nat) : (s.wrTimeStep v).Canonical := by simp [State.wrTimeStep, h]
@[simp] theorem wrFreerun_canonical (v : Nat) : (s.wrFreerun v).Canonical := by simp [State.wrFreerun, h]
@[simp] theorem wrPpsNext_canonical (v : Nat) : (s.wrPpsNext v).Canonical := by simp [State.wrPpsNext, h]
@[simp] theorem actExport_canonical (k : Nat) : (s.actExport k).Canonical := by
  unfold State.actExport; split <;> simp [h]
@[simp] theorem wrAckSeq_canonical (k : Nat) (v : Nat) : (s.wrAckSeq k v).Canonical := by
  unfold State.wrAckSeq; split <;> simp [h]
@[simp] theorem wrPartState_canonical (p : Nat) (v : Nat) : (s.wrPartState p v).Canonical := by simp [State.wrPartState, h]
@[simp] theorem wrBinding_canonical (p sub : Nat) (v : Nat) : (s.wrBinding p sub v).Canonical := by simp [State.wrBinding, h]
@[simp] theorem wrQuota_canonical (p sub : Nat) (v : Nat) : (s.wrQuota p sub v).Canonical := by simp [State.wrQuota, h]
@[simp] theorem wrModuleInMax_canonical (v : Nat) : (s.wrModuleInMax v).Canonical := by simp [State.wrModuleInMax, h]
@[simp] theorem wrPcapLimit_canonical (v : Nat) : (s.wrPcapLimit v).Canonical := by simp [State.wrPcapLimit, h]
@[simp] theorem wrMarginMode_canonical (v : Nat) : (s.wrMarginMode v).Canonical := by simp [State.wrMarginMode, h]
@[simp] theorem wrOpCeil_canonical (g : Nat) (v : Nat) : (s.wrOpCeil g v).Canonical := by simp [State.wrOpCeil, h]
@[simp] theorem actCheckpoint_canonical (k : Nat) : (s.actCheckpoint k).Canonical := by simp [State.actCheckpoint, h]
@[simp] theorem actChryExport_canonical (k : Nat) : (s.actChryExport k).Canonical := by
  unfold State.actChryExport; dsimp only; (repeat' split) <;> simp [h]
@[simp] theorem actFwUpdate_canonical (k : Nat) : (s.actFwUpdate k).Canonical := by simp [State.actFwUpdate, h]
@[simp] theorem wrMinSvn_canonical (v : Nat) : (s.wrMinSvn v).Canonical := by simp [State.wrMinSvn, h]
@[simp] theorem actLicInstall_canonical (k : Nat) : (s.actLicInstall k).Canonical := by
  unfold State.actLicInstall; dsimp only; (repeat' split) <;> simp [h]
@[simp] theorem wrLicRemove_canonical (v : Nat) : (s.wrLicRemove v).Canonical := by
  unfold State.wrLicRemove; split <;> simp [h]
@[simp] theorem actAtt_canonical (k : Nat) : (s.actAtt k).Canonical := by
  unfold State.actAtt; split <;> simp [h]
@[simp] theorem actPortRetrain_canonical (k l : Nat) : (s.actPortRetrain k l).Canonical := by simp [State.actPortRetrain, h]
@[simp] theorem actHbmRetrain_canonical (k : Nat) : (s.actHbmRetrain k).Canonical := by simp [State.actHbmRetrain, h]
@[simp] theorem inRange_canonical (ix sub : Nat) (ok : Bool) (v : Nat) : (s.inRange ix sub ok v).Canonical := by simp [State.inRange, h]
@[simp] theorem wrCfgWidth_canonical (l : Nat) (v : Nat) : (s.wrCfgWidth l v).Canonical := by simp [State.wrCfgWidth, h]
@[simp] theorem wrChain_canonical (k : Nat) (v : Nat) : (s.wrChain k v).Canonical := by
  unfold State.wrChain; split <;> simp [h]
@[simp] theorem wrAlertMask_canonical (v : Nat) : (s.wrAlertMask v).Canonical := by simp [State.wrAlertMask, h]
@[simp] theorem wrHandleQuery_canonical (k v : Nat) : (s.wrHandleQuery k v).Canonical := by simp [State.wrHandleQuery, h]
@[simp] theorem wr1000_canonical (k ix sub : Nat) (v : Nat) : (s.wr1000 k ix sub v).Canonical := by
  unfold State.wr1000; (repeat' split) <;> simp [h]
@[simp] theorem wr2000_canonical (ix sub : Nat) (v : Nat) : (s.wr2000 ix sub v).Canonical := by
  unfold State.wr2000; (repeat' split) <;> simp [h]
@[simp] theorem wr4000_canonical (ix sub : Nat) (v : Nat) : (s.wr4000 ix sub v).Canonical := by
  unfold State.wr4000; (repeat' split) <;> simp [h]
@[simp] theorem wr5000_canonical (k ix sub : Nat) (v : Nat) : (s.wr5000 k ix sub v).Canonical := by
  unfold State.wr5000; (repeat' split) <;> simp [h]
@[simp] theorem wrNum_canonical (k ix sub : Nat) (v : Nat) : (s.wrNum k ix sub v).Canonical := by simp [State.wrNum, h]
@[simp] theorem wrStr_canonical (ix sub : Nat) (v : Bytes) : (s.wrStr ix sub v).Canonical := by simp [State.wrStr, h]
@[simp] theorem wrAny_canonical (k ix sub : Nat) (v : Bytes) : (s.wrAny k ix sub v).Canonical := by
  unfold State.wrAny; split <;> simp [h]
@[simp] theorem actAny_canonical (k ix sub : Nat) : (s.actAny k ix sub).Canonical := by simp [State.actAny, h]
@[simp] theorem wrAnchor_canonical (ix sub : Nat) (v : Bytes) : (s.wrAnchor ix sub v).Canonical := by simp [State.wrAnchor, h]
@[simp] theorem takeImgData_canonical (base : Nat) (v : Bytes) : (s.takeImgData base v).Canonical := by
  unfold State.takeImgData; split <;> simp [h]
@[simp] theorem wrBlob_canonical (k ix sub base : Nat) (v : Bytes) : (s.wrBlob k ix sub base v).Canonical := by simp [State.wrBlob, h]
@[simp] theorem execMma_canonical (t : Nat) (es : List Ecc) : NextCanonical (execMma t es s) := by
  refine nextCanonical_onM _ (issueM_canonical h _ _ _ fun w => ?_); dsimp only; (repeat' split) <;> simp [h]
@[simp] theorem execMode_canonical (t : Nat) : NextCanonical (execMode t s) := by
  refine nextCanonical_onM _ ?_; dsimp only; simp [h]
@[simp] theorem execModeTakesEffect_canonical (t : Nat) : NextCanonical (execModeTakesEffect t s) := by
  refine nextCanonical_onM _ ?_; dsimp only; (repeat' split) <;> simp [h]
@[simp] theorem execPost_canonical (t : Nat) : NextCanonical (execPost t s) := by
  refine nextCanonical_onM _ ?_; dsimp only; simp [h]
@[simp] theorem execArrayStall_canonical (t : Nat) : NextCanonical (execArrayStall t s) := by
  refine nextCanonical_onM _ (whenB_canonical h ?_); dsimp only; (repeat' split) <;> simp [h]
@[simp] theorem execTileSetEnter_canonical (t : Nat) (es : List Ecc) : NextCanonical (execTileSetEnter t es s) := by
  refine nextCanonical_onM _ (whenB_canonical h ?_); dsimp only; (repeat' split) <;> simp [h]
@[simp] theorem execPlanQueueStart_canonical (e : Nat) : NextCanonical (execPlanQueueStart e s) := by simp [execPlanQueueStart, h]
@[simp] theorem execWenwynDescriptor_canonical (e d : Nat) (es : List Ecc) : NextCanonical (execWenwynDescriptor e d es s) := by
  refine nextCanonical_onEngine _ ?_; dsimp only; (repeat' split) <;> simp [h]
@[simp] theorem execRelayCommand_canonical (t : Nat) : NextCanonical (execRelayCommand t s) := by
  refine nextCanonical_onTile _ ?_; simp only [State.whenB]; (repeat' split) <;> simp [h]
@[simp] theorem execHbmPatrol_canonical (k : Nat) (es : List Ecc) : NextCanonical (execHbmPatrol k es s) := by
  refine nextCanonical_onStack _ (whenB_canonical h ?_); dsimp only; (repeat' split) <;> simp [h]
@[simp] theorem execChannelRetrain_canonical (k ch : Nat) (cause : RetrainCause) : NextCanonical (execChannelRetrain k ch cause s) := by
  refine nextCanonical_onStack _ ?_; dsimp only; (repeat' split) <;> simp [h]
@[simp] theorem execChannelRetrainDone_canonical (k : Nat) (ok : Bool) : NextCanonical (execChannelRetrainDone k ok s) := by
  refine nextCanonical_onStack _ ?_; dsimp only; (repeat' split) <;> simp [h]
@[simp] theorem execPtpMessage_canonical (m : PtpMsg) : NextCanonical (execPtpMessage m s) := by
  simp only [execPtpMessage, nextCanonical_next]; (repeat' split) <;> simp [h]
@[simp] theorem execGapRecord_canonical : NextCanonical (execGapRecord s) := by
  unfold execGapRecord; split <;> simp [h]
@[simp] theorem execReceiveRingTake_canonical : NextCanonical (execReceiveRingTake s) := by
  simp only [execReceiveRingTake, nextCanonical_next]; (repeat' split) <;> simp [h]
@[simp] theorem execPromptIncomplete_canonical (r : Nat) : NextCanonical (execPromptIncomplete r s) := by
  unfold execPromptIncomplete; split <;> simp [h]
@[simp] theorem execTokenSend_canonical (r tok lp : Nat) : NextCanonical (execTokenSend r tok lp s) := by
  unfold execTokenSend; split <;> simp [h]
@[simp] theorem execRateBucketRefill_canonical (p : Nat) : NextCanonical (execRateBucketRefill p s) := by simp [execRateBucketRefill, h]
@[simp] theorem execRetentionExpiry_canonical (r : Nat) : NextCanonical (execRetentionExpiry r s) := by
  unfold execRetentionExpiry; split <;> simp [h]
@[simp] theorem execKeySlotWrite_canonical (k x p slot : Nat) (key : Bytes) : NextCanonical (execKeySlotWrite k x p slot key s) := by
  refine nextCanonical_onPart _ ?_; dsimp only; (repeat' split) <;> simp [h]
@[simp] theorem execStoreShortCircuit_canonical (w : StoreShort) : NextCanonical (execStoreShortCircuit w s) := by
  refine nextCanonical_onUnit _ ?_; dsimp only; (repeat' split) <;> simp [h]
@[simp] theorem execHaltEnd_canonical : NextCanonical (execHaltEnd s) := by simp [execHaltEnd, h]
@[simp] theorem execHeatRewake_canonical (g : Nat) : NextCanonical (execHeatRewake g s) := by
  refine nextCanonical_onRegion _ ?_; dsimp only; simp [h]
@[simp] theorem execLeave_canonical (t : Nat) (arg : LeaveArg) : NextCanonical (execLeave t arg s) := by
  refine nextCanonical_onS _ (whenB_canonical h ?_); dsimp only; (repeat' split) <;> simp [h]
@[simp] theorem execRecvBoundExpiry_canonical (t : Nat) : NextCanonical (execRecvBoundExpiry t s) := by simp [execRecvBoundExpiry, h]
@[simp] theorem execFaultReport_canonical (g : Nat) (prod : Producer) : NextCanonical (execFaultReport g prod s) := by
  refine nextCanonical_onUnit _ ?_; dsimp only; (repeat' split) <;> simp [h]
@[simp] theorem execCoreRestart_canonical (t ix : Nat) : NextCanonical (execCoreRestart t ix s) := by
  refine nextCanonical_onUnit _ ?_; dsimp only; simp [h]
@[simp] theorem execClockInputLost_canonical (t : Nat) (live : List Nat) : NextCanonical (execClockInputLost t live s) := by
  refine nextCanonical_onTile _ (whenB_canonical h ?_); dsimp only; (repeat' split) <;> simp [h]
@[simp] theorem execFrequencyChange_canonical (g ns : Nat) : NextCanonical (execFrequencyChange g ns s) := by simp [execFrequencyChange, h]
@[simp] theorem execDroopStretch_canonical (g k : Nat) : NextCanonical (execDroopStretch g k s) := by simp [execDroopStretch, h]
@[simp] theorem execChrysalisCommit_canonical (loss : Nat) : NextCanonical (execChrysalisCommit loss s) := by
  simp only [execChrysalisCommit, nextCanonical_next, State.whenB]; (repeat' split) <;> simp [h]
@[simp] theorem execVerificationReplay_canonical (loss : Nat) : NextCanonical (execVerificationReplay loss s) := by
  unfold execVerificationReplay; split <;> simp [h]
@[simp] theorem execBatch_canonical (k x st ix : Nat) (data : Bytes) : NextCanonical (execBatch k x st ix data s) := by
  simp only [execBatch, nextCanonical_next]; (repeat' split) <;> simp [h]
@[simp] theorem execLoadSectionsHeld_canonical : NextCanonical (execLoadSectionsHeld s) := by
  unfold execLoadSectionsHeld; split <;> simp [h]
@[simp] theorem execLoadComplete_canonical : NextCanonical (execLoadComplete s) := by
  unfold execLoadComplete; split <;> simp [h]
@[simp] theorem execFwUpdateComplete_canonical (ok : Bool) : NextCanonical (execFwUpdateComplete ok s) := by
  unfold execFwUpdateComplete; split <;> simp [h]
@[simp] theorem execPortRetrainComplete_canonical (l lanes rate : Nat) : NextCanonical (execPortRetrainComplete l lanes rate s) := by
  refine nextCanonical_onLane _ ?_; dsimp only; (repeat' split) <;> simp [h]
@[simp] theorem execFrontPortDown_canonical (l : Nat) : NextCanonical (execFrontPortDown l s) := by simp [execFrontPortDown, h]
@[simp] theorem execFaultStop_canonical : NextCanonical (execFaultStop s) := by
  unfold execFaultStop; split <;> simp [h]
@[simp] theorem execCheckerRecompute_canonical (g : Nat) (dig : W64) : NextCanonical (execCheckerRecompute g dig s) := by
  refine nextCanonical_onRegion _ ?_; dsimp only; (repeat' split) <;> simp [h]
@[simp] theorem execRecomputeDrop_canonical (g : Nat) : NextCanonical (execRecomputeDrop g s) := by
  refine nextCanonical_onRegion _ ?_; dsimp only; (repeat' split) <;> simp [h]
@[simp] theorem execDisputeTimeout_canonical : NextCanonical (execDisputeTimeout s) := by
  unfold execDisputeTimeout; split <;> simp [h]
@[simp] theorem execMoultPhaseDone_canonical (g : Nat) (res : PhaseRes) : NextCanonical (execMoultPhaseDone g res s) := by
  refine nextCanonical_onRegion _ ?_; dsimp only; (repeat' split) <;> simp [h]
@[simp] theorem execMoultComplete_canonical (g : Nat) : NextCanonical (execMoultComplete g s) := by
  refine nextCanonical_onRegion _ ?_; dsimp only; (repeat' split) <;> simp [h]
@[simp] theorem execFordanRead_canonical (k x ix sub : Nat) : NextCanonical (execFordanRead k x ix sub s) := by
  simp only [execFordanRead, nextCanonical_next]; (repeat' split) <;> simp [h]
@[simp] theorem execSegAck_canonical (k x nxt : Nat) : NextCanonical (execSegAck k x nxt s) := by
  unfold execSegAck; split <;> simp [h]
@[simp] theorem execSegmentResendTimeout_canonical (k x : Nat) : NextCanonical (execSegmentResendTimeout k x s) := by
  unfold execSegmentResendTimeout; split <;> simp [h]
@[simp] theorem execTransferAbandon_canonical (k x : Nat) : NextCanonical (execTransferAbandon k x s) := by
  unfold execTransferAbandon; split <;> simp [h]
@[simp] theorem execSubscribe_canonical (k x ix sub minMs : Nat) : NextCanonical (execSubscribe k x ix sub minMs s) := by
  simp only [execSubscribe, nextCanonical_next]; (repeat' split) <;> simp [h]
@[simp] theorem execUnsubscribe_canonical (k x ix sub : Nat) : NextCanonical (execUnsubscribe k x ix sub s) := by
  simp only [execUnsubscribe, nextCanonical_next]; (repeat' split) <;> simp [h]
@[simp] theorem execNotify_canonical (k ix sub : Nat) : NextCanonical (execNotify k ix sub s) := by
  simp only [execNotify, nextCanonical_next]; (repeat' split) <;> simp [h]
@[simp] theorem execPwrAlertSrcClear_canonical (who : AlertClear) (v : W32) : NextCanonical (execPwrAlertSrcClear who v s) := by
  unfold execPwrAlertSrcClear; split <;> simp [h]
@[simp] theorem execMbxTake_canonical (who : Agent) (c : Nat) : NextCanonical (execMbxTake who c s) := by
  refine nextCanonical_onUnit _ ?_; dsimp only; (repeat' split) <;> simp [h]
@[simp] theorem execVerticalPortGrant_canonical (t : Nat) (reqs : List VpReq) (es : List Ecc) :
    NextCanonical (execVerticalPortGrant t reqs es s) := by
  refine nextCanonical_onTile _ (whenB_canonical h ?_); dsimp only; (repeat' split) <;> simp [h]
@[simp] theorem execStreamRingFill_canonical (t : Nat) (src : RingSrc) (es : List Ecc) : NextCanonical (execStreamRingFill t src es s) := by
  refine nextCanonical_onM _ ?_; simp only [State.whenB]; (repeat' split) <;> simp [h]
@[simp] theorem execTransposedWrite_canonical (t : Nat) : NextCanonical (execTransposedWrite t s) := by
  refine nextCanonical_onTile _ ?_; simp only [State.whenB]; (repeat' split) <;> simp [h]
@[simp] theorem execScrubRead_canonical (t : Nat) (es : List Ecc) : NextCanonical (execScrubRead t es s) := by
  refine nextCanonical_onTile _ (whenB_canonical h ?_); dsimp only; (repeat' split) <;> simp [h]
@[simp] theorem execMessageDeliver_canonical (k : Nat) : NextCanonical (execMessageDeliver k s) := by
  simp only [execMessageDeliver, nextCanonical_next]; (repeat' split) <;> simp [h]
@[simp] theorem execRetryWaitExpiry_canonical (t rr : Nat) : NextCanonical (execRetryWaitExpiry t rr s) := by
  refine nextCanonical_onTile _ ?_; simp only [State.whenB]; (repeat' split) <;> simp [h]
end

section
variable {s : State} (h : s.Canonical)
include h

/-! ### Routers, power and training: the commands that read before they act -/

@[simp] theorem execPacketForward_canonical (t port : Nat) : NextCanonical (execPacketForward t port s) := by
  refine nextCanonical_onTile _ (whenB_canonical h ?_)
  split
  · exact h
  · split
    · exact h
    next e =>
      have hu := canonical_of_sameMem (forward_sameMem _ _ _ _ _ e) h
      split <;> simp [hu]

@[simp] theorem execForkBranchSend_canonical (t k port : Nat) : NextCanonical (execForkBranchSend t k port s) := by
  refine nextCanonical_onTile _ (whenB_canonical h ?_)
  (repeat' split) <;> try exact h
  next e => simp [outPort_sameMem _ _ _ _ _ _ _ _ _ e, h]

@[simp] theorem execReductionAdd_canonical (t u : Nat) : NextCanonical (execReductionAdd t u s) := by
  refine nextCanonical_onTile _ (whenB_canonical h ?_)
  extract_lets x c la lb take
  have ht : (take s).mem = s.mem := rfl
  clear_value take la lb
  dsimp only
  split
  · simp [h]
  · split
    · (repeat' split) <;> try simp [ht, h]
      exact canonical_of_sameMem (getD_sameMem (route_sameMem _ _ _ _ _ _ _ _ _) ht) h
    · exact h

@[simp] theorem execHeldMessageSend_canonical (r : Nat) : NextCanonical (execHeldMessageSend r s) := by
  refine (nextCanonical_next _).mpr ?_
  split
  · exact h
  · refine canonical_of_sameMem (sendComplete_sameMem ..) (foldl_canonical h (fun i v hv => ?_) _)
    dsimp only
    (repeat' split) <;> simp [hv]

@[simp] theorem execPcapAssert_canonical : NextCanonical (execPcapAssert s) := by
  refine (nextCanonical_next _).mpr (whenB_canonical (by exact h) (canonical_of_sameMem ?_ h))
  exact (alert_mem ..).trans ((suspendAll_sameMem ..).trans ((budgets_sameMem ..).trans (powerEvent_sameMem ..)))

@[simp] theorem execLeaveTimeout_canonical (f n : Nat) : NextCanonical (execLeaveTimeout f n s) := by
  refine nextCanonical_onField _ ?_
  split <;> simp [h]

@[simp] theorem execMirrorCopy_canonical (tid : Nat) : NextCanonical (execMirrorCopy tid s) := by
  refine (nextCanonical_next _).mpr (whenB_canonical h ?_)
  split <;> (rename_i e; simp [sameMem_of_eq e (rowsOut_sameMem ..), h])

@[simp] theorem execUnitFenceRepair_canonical (t : Nat) : NextCanonical (execUnitFenceRepair t s) := by
  refine nextCanonical_onTile _ ?_
  split
  · exact h
  · extract_lets _ s1 f s2
    have h1 : s1.Canonical := h
    clear_value s1
    have h2 : s2.Canonical := by simp [s2, h1]
    clear_value s2
    split
    · simp [h1]
    · split
      · simp [h1]
      · extract_lets s3
        have h3 : s3.Canonical := by unfold s3; split <;> simp [h2]
        clear_value s3
        split
        · exact canonical_of_sameMem (applyPatch_sameMem ..) h3
        · simp [h3]

@[simp] theorem execDetourInstall_canonical : NextCanonical (execDetourInstall s) := by
  unfold execDetourInstall; extract_lets due _ s1 s2 m _ s3
  split
  · have h2 : s2.Canonical := by simp [s2, s1, h]
    have h3 : s3.Canonical := by simpa [s3] using h2
    clear_value s3
    (repeat' split) <;> simp [h3]
  · simpa using h

/-! ### The management port -/

@[simp] theorem execFordanHandshake_canonical (m : Handshake) : NextCanonical (execFordanHandshake m s) := by
  simp only [execFordanHandshake, nextCanonical_next, State.whenB]; (repeat' split) <;> simp [h]

@[simp] theorem xferDone_canonical (t : Xfer) (svc : Nat) : (s.xferDone t svc).Canonical := by
  have hd : (s.dropXfer t).Canonical := by simp [h]
  have hw := wrBlob_canonical hd t.sess t.ix t.sub t.base (memRead t.bytes 0 t.len)
  unfold State.xferDone; dsimp only
  split <;> simp_all

theorem imgRefused_canonical {u : State} {m : SegStart} {d : Nat} (e : s.imgRefused m = some (d, u)) : u.Canonical := by
  unfold State.imgRefused at e
  (repeat' split at e) <;> cases e <;> simp [h]

@[simp] theorem startWrite_canonical (k x : Nat) (q : Sess) (m : SegStart) : (s.startWrite k x q m).Canonical := by
  unfold State.startWrite; dsimp only
  split
  · simp [h]
  · split
    · simp [h]
    · split
      · simp [h]
      · split
        next e =>
          split at e
          · simp [imgRefused_canonical h e]
          · cases e
        next => split <;> simp [h]

@[simp] theorem execSegStart_canonical (k x : Nat) (m : SegStart) : NextCanonical (execSegStart k x m s) := by
  unfold execSegStart; split <;> simp [h]

@[simp] theorem execSegData_canonical (k x off : Nat) (data : Bytes) : NextCanonical (execSegData k x off data s) := by
  simp only [execSegData, nextCanonical_next]
  (repeat' split) <;> simp [h]

@[simp] theorem execWrmCopyDone_canonical (m : Nat) : NextCanonical (execWrmCopyDone m s) := by
  simp only [execWrmCopyDone, nextCanonical_next, State.whenB]; (repeat' split) <;> simp [h]

@[simp] theorem execMbxCtlPost_canonical (who : Agent) (c : Nat) (v : W32) (data : Bytes) : NextCanonical (execMbxCtlPost who c v data s) := by
  refine nextCanonical_onUnit _ (canonical_of_sameMem (byAgent_sameMem _ _ _ _ fun v => ?_) h)
  simp only [sameMem_iff]
  (repeat' split) <;> simp

/-! ### The row buffer -/

theorem nextCanonical_onRb (t slot : Nat) {f : State → State} (hf : (f s).Canonical) : NextCanonical (onRb t slot s f) :=
  nextCanonical_onUnit _ (whenB_canonical h hf)

@[simp] theorem execRbOpen_canonical (t slot row : Nat) (es : List Ecc) : NextCanonical (execRbOpen t slot row es s) := by
  refine nextCanonical_onRb h _ _ ?_
  dsimp only; split
  · simp [State.rbMisuse, h]
  · split <;> (rename_i e; simp [sameMem_of_eq e (readChk_sameMem ..), h])

@[simp] theorem execRbLoad_canonical (t size slot off : Nat) : NextCanonical (execRbLoad t size slot off s) := by
  refine nextCanonical_onRb h _ _ ?_
  (repeat' split) <;> simp [h]

@[simp] theorem execRbStore_canonical (t size slot off : Nat) (v : W64) : NextCanonical (execRbStore t size slot off v s) := by
  refine nextCanonical_onRb h _ _ ?_
  (repeat' split) <;> simp [h]

@[simp] theorem execRbFlush_canonical (t slot : Nat) : NextCanonical (execRbFlush t slot s) :=
  nextCanonical_onRb h _ _ (rbWriteBack_canonical h ..)

@[simp] theorem execRbClose_canonical (t slot : Nat) : NextCanonical (execRbClose t slot s) :=
  nextCanonical_onRb h _ _ (rbWriteBack_canonical h t slot)

@[simp] theorem execRbDrop_canonical (t slot : Nat) : NextCanonical (execRbDrop t slot s) := nextCanonical_onRb h _ _ h

/-! ### The vector core -/

@[simp] theorem execConversionAndStore_canonical (t tag : Nat) (src : List VLoc) (fmt : VFmt) (rm : VRound) (nsat : Bool) (dst : VDst) (scales : Nat)
    (es : List Ecc) : NextCanonical (execConversionAndStore t tag src fmt rm nsat dst scales es s) := by
  refine nextCanonical_onV _ (whenB_canonical h (vCmd_canonical h _ _ _ _ _ fun l v hv => ?_))
  have hs (w : State) (hw : w.Canonical) (b : List Bytes) (c : Bool) (r : List Bytes) (g : Tile → Tile) :
      (((if c = true then w.vStore t dst b else (w.vStore t dst b).vStore t (.rows scales) r).updTile t g).vDone t).Canonical := by
    split <;> simp [hw]
  dsimp only; split
  · exact hs v hv ..
  · exact drawing_canonical hv _ _ _ _ _ _ fun k c w hw => hs w hw ..

@[simp] theorem execSoftmax_canonical (t tag : Nat) (form : Part) (src : List VLoc) (n : Nat) (ms ms2 : VLane) (dst : List VLoc) (es : List Ecc) :
    NextCanonical (execSoftmax t tag form src n ms ms2 dst es s) := by
  refine nextCanonical_onV _ (vCmd_canonical h _ _ _ _ _ fun l v hv => ?_)
  cases form <;> simp [hv]

@[simp] theorem execNormalisation_canonical (t tag : Nat) (layer : Bool) (form : NormPart) (src : List VLoc) (n : Nat) (par : NormPar)
    (sums sums2 : VLane) (dst : List VLoc) (es : List Ecc) : NextCanonical (execNormalisation t tag layer form src n par sums sums2 dst es s) := by
  refine nextCanonical_onV _ (vCmd_canonical h _ _ _ _ _ fun l v hv => ?_)
  cases form <;> simp [hv]

@[simp] theorem execRouting_canonical (t tag : Nat) (par : RoutePar) (seqs : List RouteSeq) (es : List Ecc) :
    NextCanonical (execRouting t tag par seqs es s) := by
  refine nextCanonical_onV _ (whenB_canonical h (vCmd_canonical h _ _ _ _ _ fun l v hv => ?_))
  split
  next e => simp [sameMem_of_eq e (readRows_sameMem ..), hv]
  next s1 _ e =>
    have h1 : s1.Canonical := canonical_of_sameMem (sameMem_of_eq e (readRows_sameMem ..)) hv
    refine canonical_of_sameMem (vDone_sameMem ..) (each_canonical (each_canonical h1 (fun i w hw => ?_) _) (fun i w hw => ?_) _)
    · split
      · exact hw
      · exact each_canonical hw (fun j x hx => by simp [hx]) _
    · exact canonical_of_sameMem (injectAll_sameMem ..) hw

@[simp] theorem execSampling_canonical (t tag : Nat) (slices : List LogitSlice) (stream : Nat) (par : SamplePar) (d : VLane) (es : List Ecc) :
    NextCanonical (execSampling t tag slices stream par d es s) := by
  refine nextCanonical_onV _ (vCmd_canonical h _ _ _ _ _ fun l v hv => ?_)
  split
  next e => simp [sameMem_of_eq e (readSlices_sameMem ..), hv]
  next e =>
    have h1 := canonical_of_sameMem (sameMem_of_eq e (readSlices_sameMem ..)) hv
    refine drawing_canonical h1 _ _ _ _ _ _ fun k c w hw => ?_
    dsimp only; split <;> simp [hw]

@[simp] theorem execOptimiser_canonical (t tag : Nat) (rule : OptRule) (par : OptPar) (es : List Ecc) :
    NextCanonical (execOptimiser t tag rule par es s) := by
  refine nextCanonical_onV _ (vCmd_canonical h _ _ _ _ _ fun l v hv => ?_)
  dsimp only
  split
  · simp +contextual [hv]
  · refine drawing_canonical hv _ _ _ _ _ _ fun k c w hw => ?_
    simp +contextual [hw]

/-! ### Commands whose operations nest too deeply for one simp call -/

@[simp] theorem execDrain_canonical (t : Nat) (es : List Ecc) : NextCanonical (execDrain t es s) :=
  nextCanonical_onM _ (issueM_canonical h _ _ _ fun w => beginSide_canonical h t w es)
@[simp] theorem execAccld_canonical (t : Nat) (es : List Ecc) : NextCanonical (execAccld t es s) :=
  nextCanonical_onM _ (issueM_canonical h _ _ _ fun w => beginSide_canonical h t w es)
@[simp] theorem execVecElementwise_canonical (t tag : Nat) (op : VOp) (bf : Bool) (a b c d : VLoc) (es : List Ecc) :
    NextCanonical (execVecElementwise t tag op bf a b c d es s) :=
  nextCanonical_onV _ (vCmd_canonical h _ _ _ _ _ fun _ _ hv => writeLoc_canonical hv t d _)
@[simp] theorem execTranscendental_canonical (t tag : Nat) (fn : TFn) (a d d2 : VLoc) (es : List Ecc) :
    NextCanonical (execTranscendental t tag fn a d d2 es s) := by
  refine nextCanonical_onV _ (vCmd_canonical h _ _ _ _ _ fun l v hv => ?_)
  dsimp only; split <;> simp [hv]
@[simp] theorem execLaneReduction_canonical (t tag : Nat) (fn : RFn) (src : List VLoc) (d : VLane) (es : List Ecc) :
    NextCanonical (execLaneReduction t tag fn src d es s) := by
  refine nextCanonical_onV _ (vCmd_canonical h _ _ _ _ _ fun l v hv => ?_)
  simp [hv]
@[simp] theorem execRotary_canonical (t tag : Nat) (src : List VLoc) (heads : HeadShape) (pos : Nat) (thetas : List Nat) (halves : Bool)
    (dst : List VLoc) (es : List Ecc) : NextCanonical (execRotary t tag src heads pos thetas halves dst es s) :=
  nextCanonical_onV _ (vCmd_canonical h _ _ _ _ _ fun _ _ hv => writeOuts_canonical hv t dst _ _)
@[simp] theorem execSupervisorSilence_canonical (g : Nat) : NextCanonical (execSupervisorSilence g s) :=
  nextCanonical_onRegion _ (whenB_canonical h (commitIfDue_canonical (by simp [h])))
@[simp] theorem execTilePortDeliver_canonical (t : Nat) : NextCanonical (execTilePortDeliver t s) :=
  nextCanonical_onTile _ (whenB_canonical h (tilePort_canonical h t false))
@[simp] theorem execTimeWordLoss_canonical (f : Nat) (noClk : Bool) : NextCanonical (execTimeWordLoss f noClk s) := by
  refine nextCanonical_onField _ ?_
  dsimp only; split <;> simp [h]
@[simp] theorem execPartitionStateWrite_canonical (k x p v : Nat) : NextCanonical (execPartitionStateWrite k x p v s) :=
  nextCanonical_onPart _ (numWrite_canonical h _ _ _ _ _ fun v => wrPartState_canonical h p v)
@[simp] theorem execBindingWrite_canonical (k x p sub v : Nat) : NextCanonical (execBindingWrite k x p sub v s) :=
  nextCanonical_onPart _ (numWrite_canonical h _ _ _ _ _ fun v => wrBinding_canonical h p sub v)
@[simp] theorem execQuotaWrite_canonical (k x p sub v : Nat) : NextCanonical (execQuotaWrite k x p sub v s) :=
  nextCanonical_onPart _ (numWrite_canonical h _ _ _ _ _ fun v => wrQuota_canonical h p sub v)
@[simp] theorem execPhaseFailure_canonical (g i cause cur : Nat) : NextCanonical (execPhaseFailure g i cause cur s) := by
  refine nextCanonical_onRegion _ (whenB_canonical h ?_)
  extract_lets s1 n s2 s3
  have h3 : s3.Canonical := by simp [s3, s2, s1, h]
  clear_value s3
  (repeat' split) <;> simp [h3]
@[simp] theorem execLogicShortCircuit_canonical (g cur : Nat) : NextCanonical (execLogicShortCircuit g cur s) :=
  nextCanonical_onRegion _ (whenB_canonical h (unusable_canonical h g _ _ _ _))
@[simp] theorem execHeatSwitchOff_canonical (g : Nat) : NextCanonical (execHeatSwitchOff g s) :=
  nextCanonical_onRegion _ (whenB_canonical h (by simp [h]))
@[simp] theorem execMoult_canonical (k x g : Nat) : NextCanonical (execMoult k x g s) := by
  refine nextCanonical_onRegion _ ?_
  split <;> simp [h]
@[simp] theorem execPowerDownEnd_canonical : NextCanonical (execPowerDownEnd s) := by
  refine (nextCanonical_next _).mpr (whenB_canonical h ?_)
  dsimp only; exact whenB_canonical rfl rfl
@[simp] theorem execFrontPortRetrain_canonical (k x l : Nat) : NextCanonical (execFrontPortRetrain k x l s) :=
  nextCanonical_onLane _ (sessAct_canonical h _ _ _ _ (actPortRetrain_canonical h k l))
@[simp] theorem execWakeComplete_canonical (g : Nat) : NextCanonical (execWakeComplete g s) := by
  refine nextCanonical_onRegion _ (whenB_canonical h ?_)
  dsimp only; split <;> simp [h]
@[simp] theorem execCleanRestart_canonical : NextCanonical (execCleanRestart s) := by
  refine (nextCanonical_next _).mpr (whenB_canonical h ?_)
  extract_lets _ _ s1 s2 s3 _ s4
  have h3 : s3.Canonical := by simp [s3, s2, s1, h]
  clear_value s3
  have h4 : s4.Canonical := by unfold s4; split <;> exact h3
  clear_value s4
  simp [h4]
@[simp] theorem execNominalMark_canonical : NextCanonical (execNominalMark s) := by
  refine (nextCanonical_next _).mpr (whenB_canonical (by exact h) ?_)
  extract_lets n lost s1 s2 s3 ok s4 s5 s6 s7 s8
  have h2 : s2.Canonical := by simp [s2, s1, h]
  clear_value s2
  have h4 : s4.Canonical := by simp [s4, s3, h2]
  clear_value s4
  have h6 : s6.Canonical := by simp [s6, s5, h4]
  clear_value s6
  simp [s8, s7, h6]

end

/-! ### Every command -/

theorem exec_canonical {s : State} (h : s.Canonical) (c : Instr) : NextCanonical (exec c s) := by
  cases c
  all_goals
    unfold exec
    simp [h, execNop, execWait, execJump, execFabricStall, execDescriptorStart, execCopyRead, execCopyWrite, execCopyMove, execCopyPread,
      execCopyPappend, execCopyRelay, execTimePpsEdge, execPpsTimeout, execAnnounceTimeout, execRef25Qualify, execHoldoverLimit, execTimeStepTo,
      execFreerunSet, execPpsNextSecond, execSigningRoundClose, execEpochRecord, execMeterExport, execAckSeq, execSubmit, execPrompt, execCancel,
      execQuery, execCompleteSend, execSequenceRebuild, execFrequencyChangeRequest, execSixteenthBoundary, execPcapRelease, execModuleInMaxWrite,
      execPcapLimitWrite, execMarginModeWrite, execLeaveGrantEnd, execLeaveQueueServe, execMonitorSample, execRegionWake, execWakeStage,
      execCoolantLoss, execSensorRead, execLeaveEnd, execSend, execRecv, execFence, execBeatReport, execRegionMark, execBwait, execMirrorLate,
      execCheckpoint, execRestore, execChrysalisExport, execImageLoad, execUnload, execPwrEnHigh, execPowerGood, execPwrEnLow, execInputStop,
      execPackageBusFault, execStartThresholdMet, execMrstN, execVsb3v3Loss, execVsb3v3Return, execWatchdogExpiry, execResetReq, execFwUpdate,
      execFwMinSvnWrite, execLicInstall, execLicRemove, execAttReport, execMgmtLaneLoss, execHbmRetrain, execReleaseEdge, execBringupStepEnd,
      execBringupStepTimeout, execDisputeVerdict, execInstarCommit, execWholeDeviceFault, execSessionIdleTimeout, execMgmtAddressChange,
      execFordanWrite, execAction, execCsrWrite, execAliasSet, execAliasClear, execAliasFlip, execAliasView, execWrmSel, execSign, execHeartbeat,
      execSeal, execUnseal, execCocoonReset, execMbxTimeout, execSendReplyTimeout, execI2cPointerWrite, execI2cRead, execBypass, execSamplePreload,
      execExtest, execIdcode, execJtagReset, execVcoreStatusReport]

theorem step_canonical {s : State} (h : s.Canonical) : NextCanonical (step s) := by
  cases e : s.pending with
  | nil => rw [step_nil e]; exact (nextCanonical_next s).mpr h
  | cons c r => rw [step_cons e]; exact exec_canonical (by exact h) c

/-! ### Memories that read alike -/

theorem wfFrom_cons {n k : Nat} {v : Byte} {l : List (Nat × Byte)} :
    Memory.wfFrom n ((k, v) :: l) = true ↔ n ≤ k ∧ v ≠ 0 ∧ Memory.wfFrom (k + 1) l = true := by
  simp only [Memory.wfFrom, Bool.and_eq_true, decide_eq_true_eq, and_assoc]

/-- A canonical list reads a byte that is not zero at its first address, and zero below it. -/
theorem wfFrom_cons_le {n k j : Nat} {v : Byte} {l m : List (Nat × Byte)} (hl : Memory.wfFrom n ((k, v) :: l) = true)
    (hm : Memory.wfFrom j m = true) (e : ∀ a, Tab.get (0 : Byte) ((k, v) :: l) a = Tab.get 0 m a) : j ≤ k := by
  by_contra hj
  have hk := e k
  rw [get_above hm (Nat.lt_of_not_le hj), Tab.get, if_pos rfl] at hk
  exact (wfFrom_cons.mp hl).2.1 hk

theorem wfFrom_ext {n : Nat} {l m : List (Nat × Byte)} (hl : Memory.wfFrom n l = true) (hm : Memory.wfFrom n m = true)
    (e : ∀ a, Tab.get (0 : Byte) l a = Tab.get 0 m a) : l = m := by
  induction l generalizing n m with
  | nil =>
    cases m with
    | nil => rfl
    | cons d m => exact absurd (wfFrom_cons_le (j := d.1 + 1) hm rfl fun a => (e a).symm) (by omega)
  | cons c l ih =>
    obtain ⟨k, v⟩ := c
    cases m with
    | nil => exact absurd (wfFrom_cons_le (j := k + 1) hl rfl e) (by omega)
    | cons d m =>
      obtain ⟨k', v'⟩ := d
      obtain ⟨-, hv, hlt⟩ := wfFrom_cons.mp hl
      obtain ⟨-, hv', hmt⟩ := wfFrom_cons.mp hm
      obtain rfl : k = k' := Nat.le_antisymm (wfFrom_cons_le hm (wfFrom_cons.mpr ⟨le_rfl, hv, hlt⟩) fun a => (e a).symm)
        (wfFrom_cons_le hl (wfFrom_cons.mpr ⟨le_rfl, hv', hmt⟩) e)
      obtain rfl : v = v' := by simpa [Tab.get] using e k
      refine congrArg _ (ih hlt hmt fun a => ?_)
      rcases Nat.lt_or_ge a (k + 1) with ha | ha
      · rw [get_above hlt ha, get_above hmt ha]
      · simpa [Tab.get, show a ≠ k by omega] using e a

end Sys2Proof.Machine
end

section
/-!
Every command keeps memory in its canonical form: the settling of O58.
-/

open Sys2Proof Sys2Proof.Machine

/-- Settles O58: every operation of the model keeps the canonical form, and a canonical list is determined by what it reads as. -/
theorem memoryStaysCanonical : Obligations.MemoryStaysCanonical := by
  refine ⟨fun c s u h e => exec_canonical h c u e, fun s u h e => step_canonical h u e, fun s u hs hu e => ?_⟩
  exact wfFrom_ext hu hs fun a => by rw [← byteAt_eq hu, ← byteAt_eq hs, e a]
end
end

section
set_option Elab.async false

section
/-!
The sequencer of an M-core: every command of it issues one word, and a refused word faults (R84, R85, R90, R92).
-/

namespace Sys2Proof.Machine

variable {s : State} {t : Nat}

section
variable (ht : isTile .m t = true) (es : List Ecc)
include ht

theorem exec_nop : exec (.nop t) s = .next (s.issueM t 0 nopBad fun _ s => s.updTile t fun x => x.advance.oneDone) := by
  show execNop t s = _
  rw [execNop, onM_ok ht]

theorem exec_drain : exec (.drain t es) s = .next (s.issueM t 2 drainBad fun w s => s.beginSide t w es) := by
  show execDrain t es s = _
  rw [execDrain, onM_ok ht]

theorem exec_accld : exec (.accld t es) s = .next (s.issueM t 3 accldBad fun w s => s.beginSide t w es) := by
  show execAccld t es s = _
  rw [execAccld, onM_ok ht]

theorem exec_mode : exec (.mode t) s = .next (s.issueM t 4 modeBad fun w s =>
    s.whenB (s.tile t).arrayEmpty fun s => s.updTile t fun x => { x.advance with modeReq := some (bitOf w 123), chain := false }) := by
  show execMode t s = _
  rw [execMode, onM_ok ht]

theorem exec_jump : exec (.jump t) s = .next (s.issueM t 7 jumpBad fun w s => s.updTile t fun x =>
    if x.loop < bits w 25 16 then { x.oneDone with seqIx := bits w 9 0, loop := x.loop + 1 } else { x.advance.oneDone with loop := 0 }) := by
  show execJump t s = _
  rw [execJump, onM_ok ht]

theorem isTile_v_of_m : isTile .v t = false := by
  simp only [isTile, Bool.and_eq_true, decide_eq_true_eq, beq_iff_eq] at ht ⊢
  simp [ht.2]

/-- An M-core issues a WAIT word; a V-core takes its start words without one (log entry 103). -/
theorem exec_wait : exec (.wait t) s = .next (s.issueM t 5 tagOnlyBad fun _ s => s.takeStart t) := by
  show execWait t s = _
  simp [execWait, ht, isTile_v_of_m ht]

end

/-- R84: the command issues a word of class `cls`, which `bad` may refuse. -/
def IssuesClass (s : State) (t : Nat) (c : Instr) (cls : Nat) (bad : Nat → Option Nat) : Prop :=
  ∃ f, exec c s = .next (s.issueM t cls bad f)

section
variable (ht : isTile .m t = true) (es : List Ecc)
include ht

theorem nop_issues : IssuesClass s t (.nop t) 0 nopBad := ⟨_, exec_nop ht⟩
theorem mma_issues : IssuesClass s t (.mma t es) 1 (mmaBad (s.tile t).wide s.training (s.licensed 3)) :=
  ⟨_, by rw [show exec (.mma t es) s = execMma t es s from rfl, execMma, onM_ok ht]⟩
theorem drain_issues : IssuesClass s t (.drain t es) 2 drainBad := ⟨_, exec_drain ht es⟩
theorem accld_issues : IssuesClass s t (.accld t es) 3 accldBad := ⟨_, exec_accld ht es⟩
theorem mode_issues : IssuesClass s t (.mode t) 4 modeBad := ⟨_, exec_mode ht⟩
theorem wait_issues : IssuesClass s t (.wait t) 5 tagOnlyBad := ⟨_, exec_wait ht⟩
theorem post_issues : IssuesClass s t (.post t) 6 tagOnlyBad :=
  ⟨_, by rw [show exec (.post t) s = execPost t s from rfl, execPost, onM_ok ht]⟩
theorem jump_issues : IssuesClass s t (.jump t) 7 jumpBad := ⟨_, exec_jump ht⟩

end

/-- Code 0x01: a word of a reserved class faults, whatever command issues it. -/
theorem issuesClass_reserved {c : Instr} {cls : Nat} {bad : Nat → Option Nat} (hc : IssuesClass s t c cls bad) (hi : MIssues s t)
    (hw : 8 ≤ fOpc (s.tile t).word) : exec c s = .next (s.issueFault t 1 (fTag (s.tile t).word)) := by
  obtain ⟨f, hexec⟩ := hc
  obtain ⟨-, hr, hp, hq⟩ := hi
  rw [hexec, State.issueM]
  simp [hr, hp, hq, hw]

theorem issuesClass_refused {c : Instr} {cls code : Nat} {bad : Nat → Option Nat} (hc : IssuesClass s t c cls bad) (hi : MIssues s t)
    (hw : fOpc (s.tile t).word = cls) (hb : bad (s.tile t).word = some code) (h8 : cls < 8) :
    exec c s = .next (s.issueFault t code (fTag (s.tile t).word)) := by
  obtain ⟨f, hexec⟩ := hc
  obtain ⟨-, hr, hp, hq⟩ := hi
  rw [hexec, issueM_bad f hr hp hq rfl hw h8 hb]

/-- R92: a fault of the next command keeps the MMA and the DRAINs and ACCLDs issued before it. -/
theorem coreFaulted_keeps {u : State} {w0 w1 w2 : Nat} (h : CoreFaulted s u t true (s.tile t).side.length w0 w1 w2) :
    (u.tile t).stopped = true ∧ (u.tile t).seqIx = (s.tile t).seqIx ∧ (u.tile t).mma = (s.tile t).mma ∧ (u.tile t).side = (s.tile t).side := by
  obtain ⟨⟨-, htile, -⟩, -⟩ := h
  exact ⟨congrArg Tile.stopped htile, (congrArg Tile.seqIx htile :), (congrArg Tile.mma htile :),
    (congrArg Tile.side htile).trans (List.take_length ..)⟩

end Sys2Proof.Machine
end

section
/-!
A refused word stops its core and is reported: the settling of O2.
-/

open Sys2Proof Sys2Proof.Machine

/-- Settles O2: each of the eight commands issues a word of its class, and a word that is refused ends in the one fault of R92. -/
theorem refusedWordStopsTheCoreAndIsReported : Obligations.RefusedWordStopsTheCoreAndIsReported := by
  unfold Obligations.RefusedWordStopsTheCoreAndIsReported
  intro s t es c code hi hself h
  have ht := hi.1
  have hfault : exec c s = .next (s.issueFault t code (fTag (s.tile t).word)) := by
    rcases h with ⟨hw, rfl, hc⟩ | ⟨hw, hb, rfl⟩ | ⟨hw, hb, rfl⟩ | ⟨hw, hb, rfl⟩ | ⟨hw, hb, rfl⟩ | ⟨hw, hb, rfl⟩ | ⟨hw, hb, rfl⟩ |
      ⟨hw, hb, rfl⟩ | ⟨hw, hb, rfl⟩
    · simp only [List.mem_cons, List.not_mem_nil, or_false] at hc
      rcases hc with rfl | rfl | rfl | rfl | rfl | rfl | rfl | rfl
      · exact issuesClass_reserved (nop_issues ht) hi hw
      · exact issuesClass_reserved (mma_issues ht es) hi hw
      · exact issuesClass_reserved (drain_issues ht es) hi hw
      · exact issuesClass_reserved (accld_issues ht es) hi hw
      · exact issuesClass_reserved (mode_issues ht) hi hw
      · exact issuesClass_reserved (wait_issues ht) hi hw
      · exact issuesClass_reserved (post_issues ht) hi hw
      · exact issuesClass_reserved (jump_issues ht) hi hw
    · exact issuesClass_refused (nop_issues ht) hi hw hb (by decide)
    · exact issuesClass_refused (mma_issues ht es) hi hw hb (by decide)
    · exact issuesClass_refused (drain_issues ht es) hi hw hb (by decide)
    · exact issuesClass_refused (accld_issues ht es) hi hw hb (by decide)
    · exact issuesClass_refused (mode_issues ht) hi hw hb (by decide)
    · exact issuesClass_refused (wait_issues ht) hi hw hb (by decide)
    · exact issuesClass_refused (post_issues ht) hi hw hb (by decide)
    · exact issuesClass_refused (jump_issues ht) hi hw hb (by decide)
  have hf := coreFault_spec hself code (fTag (s.tile t).word) (s.tile t).seqIx 0 0 true (s.tile t).side.length
  obtain ⟨hstop, hix, hmma, hside⟩ := coreFaulted_keeps hf
  exact ⟨_, hfault, hstop, hix, hmma, hside, coreFault_mem .., hf⟩
end
end

section
set_option Elab.async false

section
/-!
The words of the sequencer's own commands, by the positions of R90's table, and what each command does with its word (R66, R84, R90, R91).
-/

namespace Sys2Proof.Machine

theorem bits_eq (w hi lo : Nat) : bits w hi lo = w / 2 ^ lo % 2 ^ (hi + 1 - lo) := by rw [bits, Nat.shiftRight_eq_div_pow]

/-! ### The fields of a word written out -/

theorem waitWord_fields {tag : Nat} (h : tag < 256) :
    fOpc (5 * 2 ^ 124 + tag * 2 ^ 40) = 5 ∧ tagOnlyBad (5 * 2 ^ 124 + tag * 2 ^ 40) = none := by
  refine ⟨?_, tagOnlyBad_none ?_⟩
  · rw [fOpc, bits_eq]; omega
  · rw [without, bits_eq, bits_eq]; omega

theorem modeWord_fields {m tag : Nat} (hm : m < 2) (h : tag < 256) :
    fOpc (4 * 2 ^ 124 + m * 2 ^ 123 + tag * 2 ^ 40) = 4 ∧ modeBad (4 * 2 ^ 124 + m * 2 ^ 123 + tag * 2 ^ 40) = none ∧
      bitOf (4 * 2 ^ 124 + m * 2 ^ 123 + tag * 2 ^ 40) 123 = (m == 1) := by
  refine ⟨?_, modeBad_none ?_, ?_⟩
  · rw [fOpc, bits_eq]; omega
  · rw [without, bits_eq, bits_eq]; omega
  · rw [bitOf, Nat.shiftRight_eq_div_pow, show (4 * 2 ^ 124 + m * 2 ^ 123 + tag * 2 ^ 40) / 2 ^ 123 % 2 = m by omega]

theorem jumpWord_fields {target n : Nat} (ht : target < 1024) (h1 : 1 ≤ n) (hn : n < 1024) :
    fOpc (7 * 2 ^ 124 + n * 2 ^ 16 + target) = 7 ∧ jumpBad (7 * 2 ^ 124 + n * 2 ^ 16 + target) = none ∧
      bits (7 * 2 ^ 124 + n * 2 ^ 16 + target) 25 16 = n ∧ bits (7 * 2 ^ 124 + n * 2 ^ 16 + target) 9 0 = target := by
  have hcount : bits (7 * 2 ^ 124 + n * 2 ^ 16 + target) 25 16 = n := by rw [bits_eq]; omega
  have htarget : bits (7 * 2 ^ 124 + n * 2 ^ 16 + target) 9 0 = target := by rw [bits_eq]; omega
  refine ⟨?_, jumpBad_none ?_ (by omega), hcount, htarget⟩
  · rw [fOpc, bits_eq]; omega
  · rw [hcount, htarget, without, bits_eq]; omega

/-! ### What the commands do -/

variable {s : State} {t : Nat}

theorem nop_advances (hi : MIssues s t) (hw : (s.tile t).word = 0) :
    exec (.nop t) s = .next (s.updTile t fun x => x.advance.oneDone) := by
  obtain ⟨ht, hr, hp, hq⟩ := hi
  rw [exec_nop ht, issueM_ok _ hr hp hq hw (by decide) (by decide) (by decide)]

theorem takeStart_cons {w : W64} {r : List W64} (h : (s.tile t).starts = w :: r) :
    s.takeStart t = s.updTile t fun x => { x.advance.oneDone with starts := r, chain := false } := by
  rw [State.takeStart, h]

theorem wait_takesStart {tag : Nat} {w : W64} {r : List W64} (hi : MIssues s t) (htag : tag < 256)
    (hw : (s.tile t).word = 5 * 2 ^ 124 + tag * 2 ^ 40) (hs : (s.tile t).starts = w :: r) :
    exec (.wait t) s = .next (s.updTile t fun x => { x.advance.oneDone with starts := r, chain := false }) := by
  obtain ⟨ht, hr, hp, hq⟩ := hi
  obtain ⟨hop, hbad⟩ := waitWord_fields htag
  rw [exec_wait ht, issueM_ok _ hr hp hq hw hop (by decide) hbad, takeStart_cons hs]

theorem wait_takesStart_vcore {w : W64} {r : List W64} (ht : isTile .v t = true) (hr : s.runs t = true) (hs : (s.tile t).starts = w :: r) :
    exec (.wait t) s = .next (s.updTile t fun x => { x.advance.oneDone with starts := r, chain := false }) := by
  show execWait t s = _
  simp [execWait, State.whenB, ht, hr, takeStart_cons hs]

theorem mode_asks {m tag : Nat} (hi : MIssues s t) (hm : m < 2) (htag : tag < 256) (he : (s.tile t).arrayEmpty = true)
    (hw : (s.tile t).word = 4 * 2 ^ 124 + m * 2 ^ 123 + tag * 2 ^ 40) :
    exec (.mode t) s = .next (s.updTile t fun x => { x.advance with modeReq := some (m == 1), chain := false }) := by
  obtain ⟨ht, hr, hp, hq⟩ := hi
  obtain ⟨hop, hbad, hbit⟩ := modeWord_fields hm htag
  rw [exec_mode ht, issueM_ok _ hr hp hq hw hop (by decide) hbad, State.whenB, if_pos he, hbit]

theorem modeTakesEffect_sets {m : Bool} (ht : isTile .m t = true) (hr : s.runs t = true) (hq : (s.tile t).modeReq = some m) :
    exec (.modeTakesEffect t) s = .next (s.updTile t fun x => { x.oneDone with wide := m, modeReq := none }) := by
  show execModeTakesEffect t s = _
  rw [execModeTakesEffect, onM_ok ht, hq]
  simp [State.whenB, hr]

theorem jump_branches {target n : Nat} (hi : MIssues s t) (htg : target < 1024) (h1 : 1 ≤ n) (hn : n < 1024)
    (hw : (s.tile t).word = 7 * 2 ^ 124 + n * 2 ^ 16 + target) :
    exec (.jump t) s = .next (s.updTile t fun x =>
      if x.loop < n then { x.oneDone with seqIx := target, loop := x.loop + 1 } else { x.advance.oneDone with loop := 0 }) := by
  obtain ⟨ht, hr, hp, hq⟩ := hi
  obtain ⟨hop, hbad, hcount, htarget⟩ := jumpWord_fields htg h1 hn
  rw [exec_jump ht, issueM_ok _ hr hp hq hw hop (by decide) hbad, hcount, htarget]

end Sys2Proof.Machine
end

section
/-!
The sequencer's own commands move only the sequencer: the settling of O1.
-/

open Sys2Proof Sys2Proof.Machine

/-- Settles O1: each command is one change of its tile. -/
theorem sequencerWordsMoveOnlyTheSequencer : Obligations.SequencerWordsMoveOnlyTheSequencer := by
  unfold Obligations.SequencerWordsMoveOnlyTheSequencer
  intro s t ht hr hp
  refine ⟨fun hq hw => ?_, fun tag w r htag hq hw hs => ?_, fun v w r hv hrv hs => ?_, fun m tag hm htag hq he hw => ?_, fun m hq => ?_,
    fun target n htg h1 hn hq hw => ?_⟩
  · exact ⟨_, nop_advances ⟨ht, hr, hp, hq⟩ hw, updTile_only .., updTile_tile_self ..⟩
  · exact ⟨_, wait_takesStart ⟨ht, hr, hp, hq⟩ htag hw hs, updTile_only .., updTile_tile_self ..⟩
  · exact ⟨_, wait_takesStart_vcore hv hrv hs, updTile_only .., updTile_tile_self ..⟩
  · exact ⟨_, mode_asks ⟨ht, hr, hp, hq⟩ hm htag he hw, updTile_only .., updTile_tile_self ..⟩
  · exact ⟨_, modeTakesEffect_sets ht hr hq, updTile_only .., updTile_tile_self ..⟩
  · exact ⟨_, jump_branches ⟨ht, hr, hp, hq⟩ htg h1 hn hw, updTile_only .., updTile_tile_self ..⟩
end
end

section
set_option Elab.async false

section
/-!
The stream ring's two ends: a row from the deep store enters it, and the tiles of a set leave it (R63, R64, R70, R102).
-/

namespace Sys2Proof.Machine

variable {s : State} {t : Nat}

/-- R63, R152: a fill from the vertical port that nothing holds up appends its row. -/
theorem streamRingFill_appends {d : Nat} {es : List Ecc} (ht : isTile .m t = true) (hon : s.tileOn t = true) (hcnt : (s.tile t).ringCnt < 128)
    (hd : d < 16384) (hheld : (s.tile t).rowHeld d = false) (hq : ∀ q ∈ (s.tile t).vpQ, vpCls q ≠ 1)
    (hclean : checkOf s (deepRow t d) es 0 = .clean) :
    exec (.streamRingFill t (.vertical d) es) s = .next (s.ringAppend t (s.row (deepRow t d))) := by
  have hall : ((s.tile t).vpQ.all fun q => vpCls q != 1) = true := List.all_eq_true.mpr fun q h => by simpa using hq q h
  have hfill : s.ringFillFrom t d es = s.ringAppend t (s.row (deepRow t d)) := by
    rw [State.ringFillFrom, readChk_clean (by simpa using hclean)]; rfl
  show execStreamRingFill t (.vertical d) es s = _
  rw [execStreamRingFill, onM_ok ht]
  simp [State.whenB, hon, hcnt, hd, hheld, hall, hfill]

theorem ringAppend_tile (b : Bytes) : (s.ringAppend t b).tile t =
    { s.tile t with ringFill := ((s.tile t).ringFill + 1) % 128, ringCnt := (s.tile t).ringCnt + 1 } := by
  rw [State.ringAppend, updTile_tile_self, setRow_tile]

theorem ringAppend_otherTiles (b : Bytes) : OtherTiles s (s.ringAppend t b) t := fun i hi => by
  rw [State.ringAppend, updTile_tile_ne _ _ _ hi, setRow_tile]

/-! ### The feeder -/

/-- R70: the set that the feeder fills, and the sets before it: the one still open, or a new one behind those at hand. -/
def FeedsSet (x : Tile) (w : Nat) (set : TileSet) (before : List TileSet) : Prop :=
  x.openSet = some set ∧ before = x.turn.dropLast ∨
  x.openSet = none ∧ before = x.turn ∧ set = { tiles := [], need := setTiles x.wide (fPt w), rows := turnRows x.wide w, half := false }

theorem FeedsSet.eqs {x : Tile} {w : Nat} {set : TileSet} {before : List TileSet} (h : FeedsSet x w set before) :
    x.openSet.getD { tiles := [], need := setTiles x.wide (fPt w), rows := turnRows x.wide w, half := false } = set ∧
    (if x.openSet.isSome then x.turn.dropLast else x.turn) = before := by
  rcases h with ⟨ho, rfl⟩ | ⟨ho, rfl, rfl⟩ <;> simp [ho]

/-- R64: the state after tiles of a set have left the ring: they stand at the end of the turn buffer. -/
def State.setEntered (s : State) (t : Nat) (before : List TileSet) (set : TileSet) (tiles : List Dense) (used : Nat) : State :=
  s.updTile t fun x => { x with
    ringUse := (x.ringUse + used) % 128, ringCnt := x.ringCnt - used,
    turn := before ++ [{ set with tiles := set.tiles ++ tiles, need := set.need - tiles.length }] }

/-- R64, R70: the tiles of a set that the ring holds enter the turn buffer, and the array goes on. -/
theorem tileSetEnter_enters {es : List Ecc} {w ix : Nat} {now : Bool} {set : TileSet} {before : List TileSet} {s' : State} {tiles : List Dense}
    {used : Nat} (ht : isTile .m t = true) (ha : s.arrayRuns t = true) (hf : s.feedFor t = some (w, ix, now))
    (hset : FeedsSet (s.tile t) w set before) (h2 : before.length < 2) (hroom : before.foldl (fun m d => m + d.rows) 0 + set.rows ≤ 264)
    (hread : s.readSet t w es set.need 0 [] = (s', tiles, used, .waits)) (hu : 0 < used) :
    exec (.tileSetEnter t es) s = .next ((s'.setEntered t before set tiles used).runArray t es used 4) := by
  obtain ⟨hopen, hbefore⟩ := hset.eqs
  have hfits : ¬ (before.length ≥ 2 ∨ before.foldl (fun m d => m + d.rows) 0 + set.rows > 264) := by omega
  show execTileSetEnter t es s = _
  rw [execTileSetEnter, onM_ok ht, State.whenB, if_pos ha]
  simp only [hf, hopen, hbefore, if_neg hfits, hread, if_neg hu.ne', State.setEntered]

end Sys2Proof.Machine
end

section
/-!
Weight rows enter the stream ring and tile sets leave it: the settling of O5.
-/

open Sys2Proof Sys2Proof.Machine

/-- Settles O5: the fill is one row write with its pointer; the feeder is one change of the turn buffer, after which the array runs. -/
theorem streamRingFillsAndFeedsTheTurnBuffer : Obligations.StreamRingFillsAndFeedsTheTurnBuffer := by
  unfold Obligations.StreamRingFillsAndFeedsTheTurnBuffer
  intro s t es ht
  refine ⟨fun d hon hcnt hd hheld hq hclean hwf => ?_, fun w ix now set before s' tiles used ha hf hset h2 hroom hread hu => ?_⟩
  · refine ⟨_, streamRingFill_appends ht hon hcnt hd hheld hq hclean, ?_, fun a ha => ?_, ringAppend_tile _, ringAppend_otherTiles _, rfl⟩
    · exact row_setRow_self hwf _ (row_length ..)
    · exact byteAt_setRow hwf _ _ _ (by simpa using ha)
  · have hexec := tileSetEnter_enters ht ha hf hset h2 hroom hread hu
    refine ⟨s'.setEntered t before set tiles used, hexec, fun hm hs => ?_, updTile_tile_self .., (updTile_only ..).2, (updTile_only ..).1⟩
    rw [hexec, runArray_idle]
    · rw [State.setEntered, updTile_tile_self]; exact hs
    · rw [State.setEntered, updTile_tile_self]; exact hm
end
end

section
set_option Elab.async false

section
/-!
An ACCLD whose source row is corrected: the error is reported to the region supervisor (R161, R181).
-/

namespace Sys2Proof.Machine

/-- The messages on the network after a command. -/
def netAfter : Host.Outcome State Fault Refusal → List Msg
  | .next u => u.net
  | _ => []

/-- An ACCLD of one row, from scratchpad row 0 to accumulator row 0. -/
def accldWord : Nat := 3 * 2 ^ 124 + 1 * 2 ^ 83 + 1 * 2 ^ 73

/-- A state in which M-core 0 runs, its region having a supervisor, and its sequencer is at that word. -/
def accldAtTurn : State :=
  { State.reset with
    regions := [(tileRegion 0, { Region.init with st := .active, sup := 3 })],
    tiles := [(0, { Tile.init with store := [(0, accldWord)] })] }

/-- The check of the first row that the command reads corrects one bit. -/
def correctedFirst : List Ecc := [{ nth := 0, uncorr := false, mask := 1 }]

/-- R161: the correction is reported, and the report is on the network. -/
theorem accldAtTurn_reports : (netAfter (exec (.accld 0 correctedFirst) accldAtTurn)).length = 1 := by decide

end Sys2Proof.Machine
end

section
/-!
The commands that move accumulator rows: the settling of O3.
-/

open Sys2Proof Sys2Proof.Machine

/-- Refutes O3: its clause on ACCLD asks that nothing but memory and the tile change without asking that the source rows read clean, and a
row that is corrected is reported (R161): the report is on the network. -/
theorem not_drainAndAccldMoveAccumulatorRows : ¬ Obligations.DrainAndAccldMoveAccumulatorRows := by
  unfold Obligations.DrainAndAccldMoveAccumulatorRows
  intro h
  have hissues : MIssues accldAtTurn 0 := ⟨by decide, by decide, by decide, by decide⟩
  obtain ⟨-, haccld⟩ := h accldAtTurn 0 correctedFirst accldWord 1 0 hissues (by decide) (by decide) (by decide) (by decide) (by decide)
    (fun _ _ => rfl) (by decide)
  obtain ⟨u, hexec, -, hframe, -⟩ := haccld (by decide) (by decide)
  have hsame : u.net = [] := congrArg State.net hframe
  have hreport := accldAtTurn_reports
  rw [hexec] at hreport
  exact absurd hreport (by rw [netAfter, hsame]; decide)
end
end
